-- ==== Sys2Proof/Word.lean ====
section
/-! DEFINITION. The plain value types of the CH-1024: bytes, texts, handles, and the fixed-size table that
holds a collection with a fixed number of entries. -/

namespace Sys2Proof

/-- One byte of a frame. -/
abbrev Byte := BitVec 8

/-- A text of the link alphabet, one ASCII byte a character (00_scope, "Fields on the link"). -/
abbrev Text := List Byte

/-- The name of a record: its table index and its entry's generation (00_scope, "Handles"). -/
structure Handle where
  idx : Nat
  gen : Nat
  deriving DecidableEq, Repr

/-- A collection of exactly `n` entries, numbered from 0. -/
structure Table (α : Type) (n : Nat) where
  entries : List α
  size_eq : entries.length = n
  deriving DecidableEq, Repr

end Sys2Proof
end

