-- ==== Sys2Proof/Config.lean ====
section
/-! DEFINITION. The figures the spec fixes for the part. The spec leaves no result value open, so there is no
free value here (INVENTORY.md, "What the manual leaves open"). -/

namespace Sys2Proof.Config

/-- An exhausted creation sequence counter (R4). -/
def counterEnd : Nat := 4294967296
/-- Where the commit sequence counter stays (R125). -/
def commitEnd : Nat := 4294967295
/-- Generations run from 0 to 63 (R2). -/
def generations : Nat := 64
/-- Deepest derivation (R5). -/
def maxDepth : Nat := 4
/-- Most panels of a plate (R30). -/
def maxPanels : Nat := 4
/-- Most searches waiting (R56). -/
def searchQueueMax : Nat := 4
/-- Entries a scan reaches (R65). -/
def plateEntries : Nat := 1024
/-- Most part entries of an admission draft (R76). -/
def draftMax : Nat := 64
/-- Most parts in a marker window (R104). -/
def windowMax : Nat := 4
/-- Most parts on a pallet (R115). -/
def palletMax : Nat := 200
/-- Most legs of a batch (R129, R133). -/
def batchMax : Nat := 14
/-- Most legs of a supervisor's OPEN batch (R128). -/
def openBatchMax : Nat := 8
/-- Most plates above a plate that can still be dug out (R77, R133). -/
def maxDig : Nat := 6
/-- Skip count at which a leg becomes STARVING (R136). -/
def starvingAt : Nat := 8
/-- Miss count at which a station becomes SILENT (R166). -/
def silentAt : Nat := 8
/-- Attempts of a poll (R165). -/
def pollAttempts : Nat := 3
/-- Largest load a measured load is clamped to, and largest SWL and mass limit (R39, R41). -/
def maxLoad : Nat := 4000000
/-- Largest configured runway position and runway length (R179). -/
def maxPosition : Nat := 4000
/-- Longest payload of a frame (R162). -/
def payloadMax : Nat := 120

end Sys2Proof.Config
end

