-- ==== Sys2Proof/Syntax.lean ====
section
/-! DEFINITION. The commands of the CH-1024: one constructor of `Instr` for each row of
spec/opcode_table.json, with the operands its rule names.

A request carries its tag and its payload. The fields of a payload stand here as the line carries them
(R174): a choice from a named set is still its number, so that a value out of its range reaches the block
that refuses it. A command that is not a request carries what the world decides inside that step
(notes/assumptions/4.md). -/

namespace Sys2Proof.Machine

open Sys2Proof

/-- The payload of a REQUEST: exactly filled by the request's fields, or not (R167 step 2). -/
inductive Payload (α : Type) where
  | malformed
  | fields (v : α)
  deriving DecidableEq, Repr

/-- A place on the line (R174): SLOT, BED, CART, HOOK, NONE, scrap bin, CHOOSE, numbered from 0 in that order. -/
inductive Place where
  | slot (s : Nat)
  | bed (t b : Nat)
  | cart
  | hook (c : Nat)
  | nowhere
  | scrapBin
  | choose
  deriving DecidableEq, Repr

/-- A rectangle of usable plate material in usable coordinates (R30). -/
structure Panel where
  x : Nat
  y : Nat
  length : Nat
  width : Nat
  deriving DecidableEq, Repr

/-- One entry of an admission draft (R76). -/
structure DraftEntry where
  hull : Text
  block : Text
  number : Nat
  area : Nat
  deriving DecidableEq, Repr

/-- The nine configuration groups of the Hall Map, in the order of the table of section 10.3. -/
inductive Group where
  | grades | slots | tables | cranes | cart | bins | runways | stations | alarms
  deriving DecidableEq, Repr

/-- The images of the Record Store (section 10.1). -/
inductive ImageId where
  | genWord (i : Nat)
  | identity (i : Nat)
  | state (i : Nat)
  | header
  | group (g : Group)
  deriving DecidableEq, Repr

/-- What the array makes of a write (R175, R176, R178): the words of the image that it leaves as they were, and the
bits, by word and bit, that have flipped when it is over. A word half written is a new word with flipped bits.
DESIGN CHOICE: notes/assumptions/4.md. -/
structure WriteFate where
  left : List Nat
  flips : List (Nat × Nat)
  deriving DecidableEq, Repr

/-- A bit of the array that flips: image, word of the image, bit of the word's 64 data and 8 code bits (R175). -/
structure Flip where
  image : ImageId
  word : Nat
  bit : Nat
  deriving DecidableEq, Repr

/-- The bits that flipped before a start-up. -/
abbrev Decay := List Flip

/-! The fields of the requests, in the order their rules name them. -/

structure EnrolF where
  address : Nat
  kind : Nat
  unit : Option Nat
  weight : Nat
  deriving DecidableEq, Repr

structure RegisterF where
  heat : Text
  grade : Nat
  thickness : Nat
  length : Nat
  width : Nat
  headTrim : Nat
  tailTrim : Nat
  sideATrim : Nat
  sideBTrim : Nat
  slot : Nat
  deriving DecidableEq, Repr

structure AmendF where
  plate : Handle
  panels : List Panel
  area : Option Nat
  location : Option Place
  deriving DecidableEq, Repr

structure RetireF where
  plate : Handle
  reason : Nat
  deriving DecidableEq, Repr

/-- A read of one numbered thing, with the optional start index of R174. -/
structure ReadNumF where
  index : Nat
  start : Option Nat
  deriving DecidableEq, Repr

/-- A read of one record, with the optional start index of R174. -/
structure ReadHandleF where
  handle : Handle
  start : Option Nat
  deriving DecidableEq, Repr

structure FindF where
  specFamily : Nat
  specMask : Nat
  thickness : Nat
  tolerance : Nat
  length : Nat
  width : Nat
  rotation : Nat
  wanted : Nat
  deriving DecidableEq, Repr

structure StageF where
  afresh : Nat
  parts : List DraftEntry
  deriving DecidableEq, Repr

structure AdmitF where
  table : Nat
  bed : Nat
  nest : Nat
  plate : Handle
  panel : Nat
  orientation : Nat
  envLength : Nat
  envWidth : Nat
  specFamily : Nat
  specMask : Nat
  thickness : Nat
  tolerance : Nat
  deriving DecidableEq, Repr

structure PartCutF where
  job : Handle
  index : Nat
  deriving DecidableEq, Repr

structure PauseF where
  job : Handle
  cause : Nat
  deriving DecidableEq, Repr

structure EndF where
  job : Handle
  outcome : Nat
  deriving DecidableEq, Repr

structure BedF where
  table : Nat
  bed : Nat
  deriving DecidableEq, Repr

structure SortF where
  part : Handle
  pallet : Nat
  deriving DecidableEq, Repr

structure AddLegF where
  plate : Handle
  bay : Nat
  destination : Place
  priority : Nat
  deriving DecidableEq, Repr

structure LiftedF where
  leg : Handle
  load : Int
  deriving DecidableEq, Repr

structure SetDownF where
  leg : Handle
  place : Place
  deriving DecidableEq, Repr

structure BreakHookF where
  crane : Nat
  place : Place
  plate : Option Handle
  deriving DecidableEq, Repr

structure SetGradeF where
  grade : Nat
  label : Text
  family : Nat
  density : Nat
  minLength : Nat
  minWidth : Nat
  clearance : Nat
  deriving DecidableEq, Repr

structure SetSlotF where
  slot : Nat
  bay : Nat
  position : Nat
  purpose : Nat
  capacity : Nat
  limit : Nat
  deriving DecidableEq, Repr

structure SetTableF where
  table : Nat
  bed0 : Nat
  bed1 : Nat
  deriving DecidableEq, Repr

structure SetCraneF where
  crane : Nat
  runway : Nat
  order : Nat
  swl : Nat
  tare : Nat
  hw : Nat
  minThickness : Nat
  deriving DecidableEq, Repr

structure SetBayF where
  bay : Nat
  value : Nat
  deriving DecidableEq, Repr

structure AlertF where
  mask : Nat
  enable : Nat
  deriving DecidableEq, Repr

end Sys2Proof.Machine

namespace Sys2Proof

open Sys2Proof.Machine

/-- The commands of spec/opcode_table.json, in the table's order. -/
inductive Instr where
  | poll
  | replyTimeout
  | badFrame
  | wrongAddressFrame
  | idleFrame
  | unknownRequestCode (tag : Byte) (code : Nat)
  | fetchResult (tag : Byte) (p : Payload Unit)
  | readStation (tag : Byte) (p : Payload Nat)
  | enrolStation (tag : Byte) (p : Payload EnrolF)
  | removeStation (tag : Byte) (p : Payload Nat)
  | registerPlate (tag : Byte) (p : Payload RegisterF)
  | readPlate (tag : Byte) (p : Payload Handle)
  | amendPlate (tag : Byte) (p : Payload AmendF)
  | holdPlate (tag : Byte) (p : Payload Handle)
  | releasePlate (tag : Byte) (p : Payload Handle)
  | retirePlate (tag : Byte) (p : Payload RetireF)
  | readSlot (tag : Byte) (p : Payload ReadNumF)
  | findRemnant (tag : Byte) (p : Payload FindF)
  | scanReachEntry
  | readSearchQueue (tag : Byte) (p : Payload Unit)
  | stageParts (tag : Byte) (p : Payload StageF)
  | admitJob (tag : Byte) (p : Payload AdmitF)
  | startJob (tag : Byte) (p : Payload Handle)
  | partCut (tag : Byte) (p : Payload PartCutF)
  | pauseJob (tag : Byte) (p : Payload PauseF)
  | resumeJob (tag : Byte) (p : Payload Handle)
  | endJob (tag : Byte) (p : Payload EndF)
  | abortJob (tag : Byte) (p : Payload Handle)
  | clearBed (tag : Byte) (p : Payload BedF)
  | readTable (tag : Byte) (p : Payload ReadNumF)
  | nextMark (tag : Byte) (p : Payload Unit)
  | markMade (tag : Byte) (p : Payload Handle)
  | markFailed (tag : Byte) (p : Payload Handle)
  | confirmManualMark (tag : Byte) (p : Payload Handle)
  | scrapPart (tag : Byte) (p : Payload Handle)
  | sortPart (tag : Byte) (p : Payload SortF)
  | dispatchPallet (tag : Byte) (p : Payload Nat)
  | readPart (tag : Byte) (p : Payload Handle)
  | readMarkerWindow (tag : Byte) (p : Payload Nat)
  | readPallet (tag : Byte) (p : Payload ReadNumF)
  | readJobParts (tag : Byte) (p : Payload ReadHandleF)
  | openBatch (tag : Byte) (p : Payload Unit)
  | addLeg (tag : Byte) (p : Payload AddLegF)
  | commitBatch (tag : Byte) (p : Payload Unit)
  | nextLeg (tag : Byte) (p : Payload Unit)
  | lifted (tag : Byte) (p : Payload LiftedF)
  | setDown (tag : Byte) (p : Payload SetDownF)
  | acceptLoad (tag : Byte) (p : Payload Handle)
  | legFault (tag : Byte) (p : Payload Handle)
  | cancelLeg (tag : Byte) (p : Payload Handle)
  | breakHook (tag : Byte) (p : Payload BreakHookF)
  | nextTrip (tag : Byte) (p : Payload Unit)
  | cartArrived (tag : Byte) (p : Payload Nat)
  | readLeg (tag : Byte) (p : Payload Handle)
  | readBatch (tag : Byte) (p : Payload ReadHandleF)
  | readCrane (tag : Byte) (p : Payload Nat)
  | craneReport (tag : Byte) (p : Payload Int)
  | readRunway (tag : Byte) (p : Payload ReadNumF)
  | setGrade (tag : Byte) (p : Payload SetGradeF)
  | setSlot (tag : Byte) (p : Payload SetSlotF)
  | setTable (tag : Byte) (p : Payload SetTableF)
  | setCrane (tag : Byte) (p : Payload SetCraneF)
  | setCart (tag : Byte) (p : Payload SetBayF)
  | setScrapBin (tag : Byte) (p : Payload SetBayF)
  | setRunway (tag : Byte) (p : Payload SetBayF)
  | readHallMap (tag : Byte) (p : Payload ReadNumF)
  | restart (tag : Byte) (p : Payload Unit)
  | restartReset (decay : Decay)
  | readAlarms (tag : Byte) (p : Payload Unit)
  | clearAlarms (tag : Byte) (p : Payload Nat)
  | setAlertMask (tag : Byte) (p : Payload AlertF)
  | writeStart
  | writeEnd (fate : WriteFate)
  | deferredComplete (index : Nat)
  | pfwAssert
  | pfwRelease
  | powerOn (decay : Decay)
  | rstAssert (fate : WriteFate)
  | rstRelease (decay : Decay)
  | startupEnd
  | powerLoss (fate : WriteFate)
  deriving DecidableEq, Repr

end Sys2Proof
end

