-- ==== Sys2Proof/WellFormed.lean ====
section
/-! DEFINITION. The well-formed commands: each field of a request fits the bytes the line gives it (R174), each
list and text the bounds of R174, a request code outside the table is outside it, and each image an event names
is one the array has. A value out of its own range is well-formed: the block refuses it (R174). -/

namespace Sys2Proof.Machine

open Sys2Proof

/-- Fits one byte. -/
def fits1 (n : Nat) : Bool := n < 256

/-- Fits two bytes. -/
def fits2 (n : Nat) : Bool := n < 65536

/-- Fits four bytes. -/
def fits4 (n : Nat) : Bool := n < 4294967296

/-- Fits four bytes in two's complement. -/
def fitsSigned (v : Int) : Bool := -2147483648 ≤ v && v < 2147483648

/-- An entry index in two bytes and a generation in one. -/
def handleFits (h : Handle) : Bool := fits2 h.idx && fits1 h.gen

/-- A text of at most 12 characters (R174). -/
def textFits (t : Text) : Bool := t.length ≤ 12

/-- The numbers of a place fit one byte each. -/
def Place.fits (p : Place) : Bool :=
  match p with
  | .slot k => fits1 k
  | .bed t b => fits1 t && fits1 b
  | .hook c => fits1 c
  | _ => true

/-- An optional field fits when it is absent or its value fits. -/
def optFits {α : Type} (f : α → Bool) (o : Option α) : Bool :=
  match o with
  | none => true
  | some a => f a

/-- A list of at most 64 entries that all fit (R174). -/
def listFits {α : Type} (f : α → Bool) (l : List α) : Bool := l.length ≤ 64 && l.all f

def Panel.fits (p : Panel) : Bool := fits2 p.x && fits2 p.y && fits2 p.length && fits2 p.width

def DraftEntry.fits (d : DraftEntry) : Bool :=
  textFits d.hull && textFits d.block && fits4 d.number && fits4 d.area

def EnrolF.fits (f : EnrolF) : Bool :=
  fits1 f.address && fits1 f.kind && optFits fits1 f.unit && fits1 f.weight

def RegisterF.fits (f : RegisterF) : Bool :=
  textFits f.heat && fits1 f.grade && fits2 f.thickness && fits2 f.length && fits2 f.width
    && fits1 f.headTrim && fits1 f.tailTrim && fits1 f.sideATrim && fits1 f.sideBTrim && fits1 f.slot

def AmendF.fits (f : AmendF) : Bool :=
  handleFits f.plate && listFits Panel.fits f.panels && optFits fits4 f.area && optFits Place.fits f.location

def RetireF.fits (f : RetireF) : Bool := handleFits f.plate && fits1 f.reason

def ReadNumF.fits (f : ReadNumF) : Bool := fits1 f.index && optFits fits1 f.start

def ReadHandleF.fits (f : ReadHandleF) : Bool := handleFits f.handle && optFits fits1 f.start

def FindF.fits (f : FindF) : Bool :=
  fits1 f.specFamily && fits1 f.specMask && fits2 f.thickness && fits1 f.tolerance && fits2 f.length
    && fits2 f.width && fits1 f.rotation && fits1 f.wanted

def StageF.fits (f : StageF) : Bool := fits1 f.afresh && listFits DraftEntry.fits f.parts

def AdmitF.fits (f : AdmitF) : Bool :=
  fits1 f.table && fits1 f.bed && fits4 f.nest && handleFits f.plate && fits1 f.panel && fits1 f.orientation
    && fits2 f.envLength && fits2 f.envWidth && fits1 f.specFamily && fits1 f.specMask && fits2 f.thickness
    && fits1 f.tolerance

def PartCutF.fits (f : PartCutF) : Bool := handleFits f.job && fits1 f.index

def PauseF.fits (f : PauseF) : Bool := handleFits f.job && fits1 f.cause

def EndF.fits (f : EndF) : Bool := handleFits f.job && fits1 f.outcome

def BedF.fits (f : BedF) : Bool := fits1 f.table && fits1 f.bed

def SortF.fits (f : SortF) : Bool := handleFits f.part && fits1 f.pallet

def AddLegF.fits (f : AddLegF) : Bool :=
  handleFits f.plate && fits1 f.bay && f.destination.fits && fits1 f.priority

def LiftedF.fits (f : LiftedF) : Bool := handleFits f.leg && fitsSigned f.load

def SetDownF.fits (f : SetDownF) : Bool := handleFits f.leg && f.place.fits

def BreakHookF.fits (f : BreakHookF) : Bool := fits1 f.crane && f.place.fits && optFits handleFits f.plate

def SetGradeF.fits (f : SetGradeF) : Bool :=
  fits1 f.grade && textFits f.label && fits1 f.family && fits2 f.density && fits2 f.minLength
    && fits2 f.minWidth && fits1 f.clearance

def SetSlotF.fits (f : SetSlotF) : Bool :=
  fits1 f.slot && fits1 f.bay && fits2 f.position && fits1 f.purpose && fits1 f.capacity && fits4 f.limit

def SetTableF.fits (f : SetTableF) : Bool := fits1 f.table && fits2 f.bed0 && fits2 f.bed1

def SetCraneF.fits (f : SetCraneF) : Bool :=
  fits1 f.crane && fits1 f.runway && fits1 f.order && fits4 f.swl && fits4 f.tare && fits2 f.hw
    && fits2 f.minThickness

def SetBayF.fits (f : SetBayF) : Bool := fits1 f.bay && fits2 f.value

def AlertF.fits (f : AlertF) : Bool := fits2 f.mask && fits1 f.enable

/-- A payload whose fields, when it has them, fit. -/
def Payload.fits {α : Type} (f : α → Bool) (p : Payload α) : Bool :=
  match p with
  | .malformed => true
  | .fields v => f v

/-- An image that the array has: a plate entry's index is below 1024 (section 10.1). -/
def ImageId.ok (i : ImageId) : Bool :=
  match i with
  | .genWord n => n < Config.plateEntries
  | .identity n => n < Config.plateEntries
  | .state n => n < Config.plateEntries
  | .header => true
  | .group _ => true

/-- The words that the contents of an image fill, its CRC word apart: enough for the longest contents.
DESIGN CHOICE: notes/assumptions/7.md. -/
def ImageId.size (i : ImageId) : Nat :=
  match i with
  | .genWord _ => 1
  | .identity _ => 5
  | .state _ => 6
  | .header => 1
  | .group .grades => 136
  | .group .slots => 108
  | .group .tables => 4
  | .group .cranes => 11
  | .group .cart => 1
  | .group .bins => 1
  | .group .runways => 1
  | .group .stations => 21
  | .group .alarms => 1

/-- The longest image, in words, its CRC word counted. -/
def longestImage : Nat := 137

/-- A bit of a word: 64 of data and 8 of code. -/
def bitOk (bit : Nat) : Bool := bit < 72

/-- A bit that flips is one the array has. -/
def Flip.ok (f : Flip) : Bool := f.image.ok && f.word ≤ f.image.size && bitOk f.bit

/-- Bits that flipped are bits the array has. -/
def decayOk (l : Decay) : Bool := l.all Flip.ok

/-- The words and bits that a write names are those of an image. -/
def WriteFate.ok (f : WriteFate) : Bool :=
  f.left.all (· < longestImage) && f.flips.all fun e => e.1 < longestImage && bitOk e.2

/-- The request codes of section 9.6. -/
def requestCodes : List Nat :=
  [0x01, 0x02, 0x03, 0x04, 0x10, 0x11, 0x12, 0x13, 0x14, 0x15, 0x20, 0x28, 0x29]
    ++ [0x30, 0x31, 0x32, 0x33, 0x34, 0x35, 0x36, 0x37, 0x38, 0x39]
    ++ [0x40, 0x41, 0x42, 0x43, 0x44, 0x45, 0x46, 0x47, 0x48, 0x49, 0x4A]
    ++ [0x50, 0x51, 0x52, 0x53, 0x54, 0x55, 0x56, 0x57, 0x58, 0x59, 0x5A, 0x5B, 0x5C, 0x5D, 0x5E, 0x60, 0x61]
    ++ [0x70, 0x71, 0x72, 0x73, 0x74, 0x75, 0x76, 0x77, 0x78, 0x80, 0x81, 0x82]

/-- No field to fit. -/
def unitFits (_ : Unit) : Bool := true

end Sys2Proof.Machine

namespace Sys2Proof

open Sys2Proof.Machine

/-- A well-formed command. -/
def Instr.wf (i : Instr) : Bool :=
  match i with
  | .poll => true
  | .replyTimeout => true
  | .badFrame => true
  | .wrongAddressFrame => true
  | .idleFrame => true
  | .unknownRequestCode _ code => fits1 code && !requestCodes.contains code
  | .fetchResult _ p => p.fits unitFits
  | .readStation _ p => p.fits fits1
  | .enrolStation _ p => p.fits EnrolF.fits
  | .removeStation _ p => p.fits fits1
  | .registerPlate _ p => p.fits RegisterF.fits
  | .readPlate _ p => p.fits handleFits
  | .amendPlate _ p => p.fits AmendF.fits
  | .holdPlate _ p => p.fits handleFits
  | .releasePlate _ p => p.fits handleFits
  | .retirePlate _ p => p.fits RetireF.fits
  | .readSlot _ p => p.fits ReadNumF.fits
  | .findRemnant _ p => p.fits FindF.fits
  | .scanReachEntry => true
  | .readSearchQueue _ p => p.fits unitFits
  | .stageParts _ p => p.fits StageF.fits
  | .admitJob _ p => p.fits AdmitF.fits
  | .startJob _ p => p.fits handleFits
  | .partCut _ p => p.fits PartCutF.fits
  | .pauseJob _ p => p.fits PauseF.fits
  | .resumeJob _ p => p.fits handleFits
  | .endJob _ p => p.fits EndF.fits
  | .abortJob _ p => p.fits handleFits
  | .clearBed _ p => p.fits BedF.fits
  | .readTable _ p => p.fits ReadNumF.fits
  | .nextMark _ p => p.fits unitFits
  | .markMade _ p => p.fits handleFits
  | .markFailed _ p => p.fits handleFits
  | .confirmManualMark _ p => p.fits handleFits
  | .scrapPart _ p => p.fits handleFits
  | .sortPart _ p => p.fits SortF.fits
  | .dispatchPallet _ p => p.fits fits1
  | .readPart _ p => p.fits handleFits
  | .readMarkerWindow _ p => p.fits fits1
  | .readPallet _ p => p.fits ReadNumF.fits
  | .readJobParts _ p => p.fits ReadHandleF.fits
  | .openBatch _ p => p.fits unitFits
  | .addLeg _ p => p.fits AddLegF.fits
  | .commitBatch _ p => p.fits unitFits
  | .nextLeg _ p => p.fits unitFits
  | .lifted _ p => p.fits LiftedF.fits
  | .setDown _ p => p.fits SetDownF.fits
  | .acceptLoad _ p => p.fits handleFits
  | .legFault _ p => p.fits handleFits
  | .cancelLeg _ p => p.fits handleFits
  | .breakHook _ p => p.fits BreakHookF.fits
  | .nextTrip _ p => p.fits unitFits
  | .cartArrived _ p => p.fits fits1
  | .readLeg _ p => p.fits handleFits
  | .readBatch _ p => p.fits ReadHandleF.fits
  | .readCrane _ p => p.fits fits1
  | .craneReport _ p => p.fits fitsSigned
  | .readRunway _ p => p.fits ReadNumF.fits
  | .setGrade _ p => p.fits SetGradeF.fits
  | .setSlot _ p => p.fits SetSlotF.fits
  | .setTable _ p => p.fits SetTableF.fits
  | .setCrane _ p => p.fits SetCraneF.fits
  | .setCart _ p => p.fits SetBayF.fits
  | .setScrapBin _ p => p.fits SetBayF.fits
  | .setRunway _ p => p.fits SetBayF.fits
  | .readHallMap _ p => p.fits ReadNumF.fits
  | .restart _ p => p.fits unitFits
  | .restartReset decay => decayOk decay
  | .readAlarms _ p => p.fits unitFits
  | .clearAlarms _ p => p.fits fits2
  | .setAlertMask _ p => p.fits AlertF.fits
  | .writeStart => true
  | .writeEnd fate => fate.ok
  | .deferredComplete _ => true
  | .pfwAssert => true
  | .pfwRelease => true
  | .powerOn decay => decayOk decay
  | .rstAssert fate => fate.ok
  | .rstRelease decay => decayOk decay
  | .startupEnd => true
  | .powerLoss fate => fate.ok

end Sys2Proof
end

