-- ==== Sys2Proof/Decode.lean ====
section
/-! DEFINITION. The decoder. `decodeTableWord` reads the commands that the opcode table gives bits to: it gives
none, so every word is refused. The rest reads the bytes of a received frame (R162, R167) into a command, with
the field encoding of R174, and writes a request's frame. -/

namespace Sys2Proof.Machine

open Sys2Proof

/-! ## Field encoding (R174) -/

def put1 (n : Nat) : List Byte := [BitVec.ofNat 8 n]

def take1 (l : List Byte) : Option (Nat × List Byte) :=
  match l with
  | a :: l => some (a.toNat, l)
  | _ => none

/-- Little-endian. -/
def put2 (n : Nat) : List Byte := [BitVec.ofNat 8 n, BitVec.ofNat 8 (n / 256)]

def take2 (l : List Byte) : Option (Nat × List Byte) :=
  match l with
  | a :: b :: l => some (a.toNat + 256 * b.toNat, l)
  | _ => none

/-- Little-endian. -/
def put4 (n : Nat) : List Byte := put2 n ++ put2 (n / 65536)

def take4 (l : List Byte) : Option (Nat × List Byte) :=
  match l with
  | a :: b :: c :: d :: l =>
    some (a.toNat + 256 * b.toNat + 65536 * (c.toNat + 256 * d.toNat), l)
  | _ => none

/-- Four bytes in two's complement. -/
def putSigned (v : Int) : List Byte := put4 (v % 4294967296).toNat

def takeSigned (l : List Byte) : Option (Int × List Byte) :=
  match take4 l with
  | some (n, l) => some (if n < 2147483648 then (n : Int) else (n : Int) - 4294967296, l)
  | none => none

/-- The entry index in two bytes, then the generation in one. -/
def putHandle (h : Handle) : List Byte := put2 h.idx ++ put1 h.gen

def takeHandle (l : List Byte) : Option (Handle × List Byte) := do
  let (i, l) ← take2 l
  let (g, l) ← take1 l
  return (⟨i, g⟩, l)

/-- One length byte, then the characters; a length above 12 is refused. -/
def putText (t : Text) : List Byte := put1 t.length ++ t

def takeText (l : List Byte) : Option (Text × List Byte) := do
  let (n, l) ← take1 l
  if n ≤ 12 ∧ n ≤ l.length then some (l.take n, l.drop n) else none

/-- One byte for the form, then its numbers. -/
def putPlace (p : Place) : List Byte :=
  match p with
  | .slot k => put1 0 ++ put1 k
  | .bed t b => put1 1 ++ (put1 t ++ put1 b)
  | .cart => put1 2
  | .hook c => put1 3 ++ put1 c
  | .nowhere => put1 4
  | .scrapBin => put1 5
  | .choose => put1 6

/-- A place from its bytes. A form above 6 spells none: the payload is malformed.
DESIGN CHOICE: notes/assumptions/46.md. -/
def takePlace (l : List Byte) : Option (Place × List Byte) := do
  let (form, l) ← take1 l
  match form with
  | 0 =>
    let (k, l) ← take1 l
    return (.slot k, l)
  | 1 =>
    let (t, l) ← take1 l
    let (b, l) ← take1 l
    return (.bed t b, l)
  | 2 => return (.cart, l)
  | 3 =>
    let (c, l) ← take1 l
    return (.hook c, l)
  | 4 => return (.nowhere, l)
  | 5 => return (.scrapBin, l)
  | 6 => return (.choose, l)
  | _ => none

/-- A presence byte, 0 or 1, then the field when present. -/
def putOpt {α : Type} (put : α → List Byte) (o : Option α) : List Byte :=
  match o with
  | none => put1 0
  | some a => put1 1 ++ put a

def takeOpt {α : Type} (take : List Byte → Option (α × List Byte)) (l : List Byte) :
    Option (Option α × List Byte) := do
  let (presence, l) ← take1 l
  match presence with
  | 0 => return (none, l)
  | 1 =>
    let (a, l) ← take l
    return (some a, l)
  | _ => none

/-- The entries of a list, one after the other. -/
def putEntries {α : Type} (put : α → List Byte) : List α → List Byte
  | [] => []
  | a :: as => put a ++ putEntries put as

def takeEntries {α : Type} (take : List Byte → Option (α × List Byte)) :
    Nat → List Byte → Option (List α × List Byte)
  | 0, l => some ([], l)
  | n + 1, l => do
    let (a, l) ← take l
    let (as, l) ← takeEntries take n l
    return (a :: as, l)

/-- A count byte, then the entries; a count above 64 is refused. -/
def putList {α : Type} (put : α → List Byte) (as : List α) : List Byte :=
  put1 as.length ++ putEntries put as

def takeList {α : Type} (take : List Byte → Option (α × List Byte)) (l : List Byte) :
    Option (List α × List Byte) := do
  let (n, l) ← take1 l
  if n ≤ 64 then takeEntries take n l else none

def putUnit (_ : Unit) : List Byte := []

def takeUnit (l : List Byte) : Option (Unit × List Byte) := some ((), l)

/-! ## The fields of the requests, in the order their rules name them -/

def putPanel (f : Panel) : List Byte :=
  put2 f.x ++ put2 f.y ++ put2 f.length ++ put2 f.width

def takePanel (l : List Byte) : Option (Panel × List Byte) := do
  let (x0, l) ← take2 l
  let (x1, l) ← take2 l
  let (x2, l) ← take2 l
  let (x3, l) ← take2 l
  return (⟨x0, x1, x2, x3⟩, l)

def putDraftEntry (f : DraftEntry) : List Byte :=
  putText f.hull ++ putText f.block ++ put4 f.number ++ put4 f.area

def takeDraftEntry (l : List Byte) : Option (DraftEntry × List Byte) := do
  let (x0, l) ← takeText l
  let (x1, l) ← takeText l
  let (x2, l) ← take4 l
  let (x3, l) ← take4 l
  return (⟨x0, x1, x2, x3⟩, l)

def putEnrolF (f : EnrolF) : List Byte :=
  put1 f.address ++ put1 f.kind ++ putOpt put1 f.unit ++ put1 f.weight

def takeEnrolF (l : List Byte) : Option (EnrolF × List Byte) := do
  let (x0, l) ← take1 l
  let (x1, l) ← take1 l
  let (x2, l) ← takeOpt take1 l
  let (x3, l) ← take1 l
  return (⟨x0, x1, x2, x3⟩, l)

def putRegisterF (f : RegisterF) : List Byte :=
  putText f.heat ++ put1 f.grade ++ put2 f.thickness ++ put2 f.length ++ put2 f.width ++ put1 f.headTrim
    ++ put1 f.tailTrim ++ put1 f.sideATrim ++ put1 f.sideBTrim ++ put1 f.slot

def takeRegisterF (l : List Byte) : Option (RegisterF × List Byte) := do
  let (x0, l) ← takeText l
  let (x1, l) ← take1 l
  let (x2, l) ← take2 l
  let (x3, l) ← take2 l
  let (x4, l) ← take2 l
  let (x5, l) ← take1 l
  let (x6, l) ← take1 l
  let (x7, l) ← take1 l
  let (x8, l) ← take1 l
  let (x9, l) ← take1 l
  return (⟨x0, x1, x2, x3, x4, x5, x6, x7, x8, x9⟩, l)

def putAmendF (f : AmendF) : List Byte :=
  putHandle f.plate ++ putList putPanel f.panels ++ putOpt put4 f.area ++ putOpt putPlace f.location

def takeAmendF (l : List Byte) : Option (AmendF × List Byte) := do
  let (x0, l) ← takeHandle l
  let (x1, l) ← takeList takePanel l
  let (x2, l) ← takeOpt take4 l
  let (x3, l) ← takeOpt takePlace l
  return (⟨x0, x1, x2, x3⟩, l)

def putRetireF (f : RetireF) : List Byte :=
  putHandle f.plate ++ put1 f.reason

def takeRetireF (l : List Byte) : Option (RetireF × List Byte) := do
  let (x0, l) ← takeHandle l
  let (x1, l) ← take1 l
  return (⟨x0, x1⟩, l)

def putReadNumF (f : ReadNumF) : List Byte :=
  put1 f.index ++ putOpt put1 f.start

def takeReadNumF (l : List Byte) : Option (ReadNumF × List Byte) := do
  let (x0, l) ← take1 l
  let (x1, l) ← takeOpt take1 l
  return (⟨x0, x1⟩, l)

def putReadHandleF (f : ReadHandleF) : List Byte :=
  putHandle f.handle ++ putOpt put1 f.start

def takeReadHandleF (l : List Byte) : Option (ReadHandleF × List Byte) := do
  let (x0, l) ← takeHandle l
  let (x1, l) ← takeOpt take1 l
  return (⟨x0, x1⟩, l)

def putFindF (f : FindF) : List Byte :=
  put1 f.specFamily ++ put1 f.specMask ++ put2 f.thickness ++ put1 f.tolerance ++ put2 f.length
    ++ put2 f.width ++ put1 f.rotation ++ put1 f.wanted

def takeFindF (l : List Byte) : Option (FindF × List Byte) := do
  let (x0, l) ← take1 l
  let (x1, l) ← take1 l
  let (x2, l) ← take2 l
  let (x3, l) ← take1 l
  let (x4, l) ← take2 l
  let (x5, l) ← take2 l
  let (x6, l) ← take1 l
  let (x7, l) ← take1 l
  return (⟨x0, x1, x2, x3, x4, x5, x6, x7⟩, l)

def putStageF (f : StageF) : List Byte :=
  put1 f.afresh ++ putList putDraftEntry f.parts

def takeStageF (l : List Byte) : Option (StageF × List Byte) := do
  let (x0, l) ← take1 l
  let (x1, l) ← takeList takeDraftEntry l
  return (⟨x0, x1⟩, l)

def putAdmitF (f : AdmitF) : List Byte :=
  put1 f.table ++ put1 f.bed ++ put4 f.nest ++ putHandle f.plate ++ put1 f.panel ++ put1 f.orientation
    ++ put2 f.envLength ++ put2 f.envWidth ++ put1 f.specFamily ++ put1 f.specMask ++ put2 f.thickness
    ++ put1 f.tolerance

def takeAdmitF (l : List Byte) : Option (AdmitF × List Byte) := do
  let (x0, l) ← take1 l
  let (x1, l) ← take1 l
  let (x2, l) ← take4 l
  let (x3, l) ← takeHandle l
  let (x4, l) ← take1 l
  let (x5, l) ← take1 l
  let (x6, l) ← take2 l
  let (x7, l) ← take2 l
  let (x8, l) ← take1 l
  let (x9, l) ← take1 l
  let (x10, l) ← take2 l
  let (x11, l) ← take1 l
  return (⟨x0, x1, x2, x3, x4, x5, x6, x7, x8, x9, x10, x11⟩, l)

def putPartCutF (f : PartCutF) : List Byte :=
  putHandle f.job ++ put1 f.index

def takePartCutF (l : List Byte) : Option (PartCutF × List Byte) := do
  let (x0, l) ← takeHandle l
  let (x1, l) ← take1 l
  return (⟨x0, x1⟩, l)

def putPauseF (f : PauseF) : List Byte :=
  putHandle f.job ++ put1 f.cause

def takePauseF (l : List Byte) : Option (PauseF × List Byte) := do
  let (x0, l) ← takeHandle l
  let (x1, l) ← take1 l
  return (⟨x0, x1⟩, l)

def putEndF (f : EndF) : List Byte :=
  putHandle f.job ++ put1 f.outcome

def takeEndF (l : List Byte) : Option (EndF × List Byte) := do
  let (x0, l) ← takeHandle l
  let (x1, l) ← take1 l
  return (⟨x0, x1⟩, l)

def putBedF (f : BedF) : List Byte :=
  put1 f.table ++ put1 f.bed

def takeBedF (l : List Byte) : Option (BedF × List Byte) := do
  let (x0, l) ← take1 l
  let (x1, l) ← take1 l
  return (⟨x0, x1⟩, l)

def putSortF (f : SortF) : List Byte :=
  putHandle f.part ++ put1 f.pallet

def takeSortF (l : List Byte) : Option (SortF × List Byte) := do
  let (x0, l) ← takeHandle l
  let (x1, l) ← take1 l
  return (⟨x0, x1⟩, l)

def putAddLegF (f : AddLegF) : List Byte :=
  putHandle f.plate ++ put1 f.bay ++ putPlace f.destination ++ put1 f.priority

def takeAddLegF (l : List Byte) : Option (AddLegF × List Byte) := do
  let (x0, l) ← takeHandle l
  let (x1, l) ← take1 l
  let (x2, l) ← takePlace l
  let (x3, l) ← take1 l
  return (⟨x0, x1, x2, x3⟩, l)

def putLiftedF (f : LiftedF) : List Byte :=
  putHandle f.leg ++ putSigned f.load

def takeLiftedF (l : List Byte) : Option (LiftedF × List Byte) := do
  let (x0, l) ← takeHandle l
  let (x1, l) ← takeSigned l
  return (⟨x0, x1⟩, l)

def putSetDownF (f : SetDownF) : List Byte :=
  putHandle f.leg ++ putPlace f.place

def takeSetDownF (l : List Byte) : Option (SetDownF × List Byte) := do
  let (x0, l) ← takeHandle l
  let (x1, l) ← takePlace l
  return (⟨x0, x1⟩, l)

def putBreakHookF (f : BreakHookF) : List Byte :=
  put1 f.crane ++ putPlace f.place ++ putOpt putHandle f.plate

def takeBreakHookF (l : List Byte) : Option (BreakHookF × List Byte) := do
  let (x0, l) ← take1 l
  let (x1, l) ← takePlace l
  let (x2, l) ← takeOpt takeHandle l
  return (⟨x0, x1, x2⟩, l)

def putSetGradeF (f : SetGradeF) : List Byte :=
  put1 f.grade ++ putText f.label ++ put1 f.family ++ put2 f.density ++ put2 f.minLength ++ put2 f.minWidth
    ++ put1 f.clearance

def takeSetGradeF (l : List Byte) : Option (SetGradeF × List Byte) := do
  let (x0, l) ← take1 l
  let (x1, l) ← takeText l
  let (x2, l) ← take1 l
  let (x3, l) ← take2 l
  let (x4, l) ← take2 l
  let (x5, l) ← take2 l
  let (x6, l) ← take1 l
  return (⟨x0, x1, x2, x3, x4, x5, x6⟩, l)

def putSetSlotF (f : SetSlotF) : List Byte :=
  put1 f.slot ++ put1 f.bay ++ put2 f.position ++ put1 f.purpose ++ put1 f.capacity ++ put4 f.limit

def takeSetSlotF (l : List Byte) : Option (SetSlotF × List Byte) := do
  let (x0, l) ← take1 l
  let (x1, l) ← take1 l
  let (x2, l) ← take2 l
  let (x3, l) ← take1 l
  let (x4, l) ← take1 l
  let (x5, l) ← take4 l
  return (⟨x0, x1, x2, x3, x4, x5⟩, l)

def putSetTableF (f : SetTableF) : List Byte :=
  put1 f.table ++ put2 f.bed0 ++ put2 f.bed1

def takeSetTableF (l : List Byte) : Option (SetTableF × List Byte) := do
  let (x0, l) ← take1 l
  let (x1, l) ← take2 l
  let (x2, l) ← take2 l
  return (⟨x0, x1, x2⟩, l)

def putSetCraneF (f : SetCraneF) : List Byte :=
  put1 f.crane ++ put1 f.runway ++ put1 f.order ++ put4 f.swl ++ put4 f.tare ++ put2 f.hw
    ++ put2 f.minThickness

def takeSetCraneF (l : List Byte) : Option (SetCraneF × List Byte) := do
  let (x0, l) ← take1 l
  let (x1, l) ← take1 l
  let (x2, l) ← take1 l
  let (x3, l) ← take4 l
  let (x4, l) ← take4 l
  let (x5, l) ← take2 l
  let (x6, l) ← take2 l
  return (⟨x0, x1, x2, x3, x4, x5, x6⟩, l)

def putSetBayF (f : SetBayF) : List Byte :=
  put1 f.bay ++ put2 f.value

def takeSetBayF (l : List Byte) : Option (SetBayF × List Byte) := do
  let (x0, l) ← take1 l
  let (x1, l) ← take2 l
  return (⟨x0, x1⟩, l)

def putAlertF (f : AlertF) : List Byte :=
  put2 f.mask ++ put1 f.enable

def takeAlertF (l : List Byte) : Option (AlertF × List Byte) := do
  let (x0, l) ← take2 l
  let (x1, l) ← take1 l
  return (⟨x0, x1⟩, l)

/-! ## Requests (R167, section 9.6) -/

/-- A payload that must be exactly filled by the request's fields (R167, step 2; R174). -/
def payloadBy {α : Type} (take : List Byte → Option (α × List Byte)) (l : List Byte) : Payload α :=
  match take l with
  | some (v, []) => .fields v
  | _ => .malformed

/-- The command of a good REQUEST frame, by its request code (R167, step 1). -/
def decodeRequest (tag : Byte) (code : Nat) (payload : List Byte) : Instr :=
  match code with
  | 0x01 => .fetchResult tag (payloadBy takeUnit payload)
  | 0x02 => .readStation tag (payloadBy take1 payload)
  | 0x03 => .enrolStation tag (payloadBy takeEnrolF payload)
  | 0x04 => .removeStation tag (payloadBy take1 payload)
  | 0x10 => .registerPlate tag (payloadBy takeRegisterF payload)
  | 0x11 => .readPlate tag (payloadBy takeHandle payload)
  | 0x12 => .amendPlate tag (payloadBy takeAmendF payload)
  | 0x13 => .holdPlate tag (payloadBy takeHandle payload)
  | 0x14 => .releasePlate tag (payloadBy takeHandle payload)
  | 0x15 => .retirePlate tag (payloadBy takeRetireF payload)
  | 0x20 => .readSlot tag (payloadBy takeReadNumF payload)
  | 0x28 => .findRemnant tag (payloadBy takeFindF payload)
  | 0x29 => .readSearchQueue tag (payloadBy takeUnit payload)
  | 0x30 => .stageParts tag (payloadBy takeStageF payload)
  | 0x31 => .admitJob tag (payloadBy takeAdmitF payload)
  | 0x32 => .startJob tag (payloadBy takeHandle payload)
  | 0x33 => .partCut tag (payloadBy takePartCutF payload)
  | 0x34 => .pauseJob tag (payloadBy takePauseF payload)
  | 0x35 => .resumeJob tag (payloadBy takeHandle payload)
  | 0x36 => .endJob tag (payloadBy takeEndF payload)
  | 0x37 => .abortJob tag (payloadBy takeHandle payload)
  | 0x38 => .clearBed tag (payloadBy takeBedF payload)
  | 0x39 => .readTable tag (payloadBy takeReadNumF payload)
  | 0x40 => .nextMark tag (payloadBy takeUnit payload)
  | 0x41 => .markMade tag (payloadBy takeHandle payload)
  | 0x42 => .markFailed tag (payloadBy takeHandle payload)
  | 0x43 => .confirmManualMark tag (payloadBy takeHandle payload)
  | 0x44 => .scrapPart tag (payloadBy takeHandle payload)
  | 0x45 => .sortPart tag (payloadBy takeSortF payload)
  | 0x46 => .dispatchPallet tag (payloadBy take1 payload)
  | 0x47 => .readPart tag (payloadBy takeHandle payload)
  | 0x48 => .readMarkerWindow tag (payloadBy take1 payload)
  | 0x49 => .readPallet tag (payloadBy takeReadNumF payload)
  | 0x4A => .readJobParts tag (payloadBy takeReadHandleF payload)
  | 0x50 => .openBatch tag (payloadBy takeUnit payload)
  | 0x51 => .addLeg tag (payloadBy takeAddLegF payload)
  | 0x52 => .commitBatch tag (payloadBy takeUnit payload)
  | 0x53 => .nextLeg tag (payloadBy takeUnit payload)
  | 0x54 => .lifted tag (payloadBy takeLiftedF payload)
  | 0x55 => .setDown tag (payloadBy takeSetDownF payload)
  | 0x56 => .acceptLoad tag (payloadBy takeHandle payload)
  | 0x57 => .legFault tag (payloadBy takeHandle payload)
  | 0x58 => .cancelLeg tag (payloadBy takeHandle payload)
  | 0x59 => .breakHook tag (payloadBy takeBreakHookF payload)
  | 0x5A => .nextTrip tag (payloadBy takeUnit payload)
  | 0x5B => .cartArrived tag (payloadBy take1 payload)
  | 0x5C => .readLeg tag (payloadBy takeHandle payload)
  | 0x5D => .readBatch tag (payloadBy takeReadHandleF payload)
  | 0x5E => .readCrane tag (payloadBy take1 payload)
  | 0x60 => .craneReport tag (payloadBy takeSigned payload)
  | 0x61 => .readRunway tag (payloadBy takeReadNumF payload)
  | 0x70 => .setGrade tag (payloadBy takeSetGradeF payload)
  | 0x71 => .setSlot tag (payloadBy takeSetSlotF payload)
  | 0x72 => .setTable tag (payloadBy takeSetTableF payload)
  | 0x73 => .setCrane tag (payloadBy takeSetCraneF payload)
  | 0x74 => .setCart tag (payloadBy takeSetBayF payload)
  | 0x75 => .setScrapBin tag (payloadBy takeSetBayF payload)
  | 0x76 => .setRunway tag (payloadBy takeSetBayF payload)
  | 0x77 => .readHallMap tag (payloadBy takeReadNumF payload)
  | 0x78 => .restart tag (payloadBy takeUnit payload)
  | 0x80 => .readAlarms tag (payloadBy takeUnit payload)
  | 0x81 => .clearAlarms tag (payloadBy take2 payload)
  | 0x82 => .setAlertMask tag (payloadBy takeAlertF payload)
  | _ => .unknownRequestCode tag code

/-- The tag, request code and payload bytes of a request whose payload is well formed; none for a command that
is not such a request. -/
def encodeRequest (i : Instr) : Option (Byte × Nat × List Byte) :=
  match i with
  | .fetchResult tag (.fields v) => some (tag, 0x01, putUnit v)
  | .readStation tag (.fields v) => some (tag, 0x02, put1 v)
  | .enrolStation tag (.fields v) => some (tag, 0x03, putEnrolF v)
  | .removeStation tag (.fields v) => some (tag, 0x04, put1 v)
  | .registerPlate tag (.fields v) => some (tag, 0x10, putRegisterF v)
  | .readPlate tag (.fields v) => some (tag, 0x11, putHandle v)
  | .amendPlate tag (.fields v) => some (tag, 0x12, putAmendF v)
  | .holdPlate tag (.fields v) => some (tag, 0x13, putHandle v)
  | .releasePlate tag (.fields v) => some (tag, 0x14, putHandle v)
  | .retirePlate tag (.fields v) => some (tag, 0x15, putRetireF v)
  | .readSlot tag (.fields v) => some (tag, 0x20, putReadNumF v)
  | .findRemnant tag (.fields v) => some (tag, 0x28, putFindF v)
  | .readSearchQueue tag (.fields v) => some (tag, 0x29, putUnit v)
  | .stageParts tag (.fields v) => some (tag, 0x30, putStageF v)
  | .admitJob tag (.fields v) => some (tag, 0x31, putAdmitF v)
  | .startJob tag (.fields v) => some (tag, 0x32, putHandle v)
  | .partCut tag (.fields v) => some (tag, 0x33, putPartCutF v)
  | .pauseJob tag (.fields v) => some (tag, 0x34, putPauseF v)
  | .resumeJob tag (.fields v) => some (tag, 0x35, putHandle v)
  | .endJob tag (.fields v) => some (tag, 0x36, putEndF v)
  | .abortJob tag (.fields v) => some (tag, 0x37, putHandle v)
  | .clearBed tag (.fields v) => some (tag, 0x38, putBedF v)
  | .readTable tag (.fields v) => some (tag, 0x39, putReadNumF v)
  | .nextMark tag (.fields v) => some (tag, 0x40, putUnit v)
  | .markMade tag (.fields v) => some (tag, 0x41, putHandle v)
  | .markFailed tag (.fields v) => some (tag, 0x42, putHandle v)
  | .confirmManualMark tag (.fields v) => some (tag, 0x43, putHandle v)
  | .scrapPart tag (.fields v) => some (tag, 0x44, putHandle v)
  | .sortPart tag (.fields v) => some (tag, 0x45, putSortF v)
  | .dispatchPallet tag (.fields v) => some (tag, 0x46, put1 v)
  | .readPart tag (.fields v) => some (tag, 0x47, putHandle v)
  | .readMarkerWindow tag (.fields v) => some (tag, 0x48, put1 v)
  | .readPallet tag (.fields v) => some (tag, 0x49, putReadNumF v)
  | .readJobParts tag (.fields v) => some (tag, 0x4A, putReadHandleF v)
  | .openBatch tag (.fields v) => some (tag, 0x50, putUnit v)
  | .addLeg tag (.fields v) => some (tag, 0x51, putAddLegF v)
  | .commitBatch tag (.fields v) => some (tag, 0x52, putUnit v)
  | .nextLeg tag (.fields v) => some (tag, 0x53, putUnit v)
  | .lifted tag (.fields v) => some (tag, 0x54, putLiftedF v)
  | .setDown tag (.fields v) => some (tag, 0x55, putSetDownF v)
  | .acceptLoad tag (.fields v) => some (tag, 0x56, putHandle v)
  | .legFault tag (.fields v) => some (tag, 0x57, putHandle v)
  | .cancelLeg tag (.fields v) => some (tag, 0x58, putHandle v)
  | .breakHook tag (.fields v) => some (tag, 0x59, putBreakHookF v)
  | .nextTrip tag (.fields v) => some (tag, 0x5A, putUnit v)
  | .cartArrived tag (.fields v) => some (tag, 0x5B, put1 v)
  | .readLeg tag (.fields v) => some (tag, 0x5C, putHandle v)
  | .readBatch tag (.fields v) => some (tag, 0x5D, putReadHandleF v)
  | .readCrane tag (.fields v) => some (tag, 0x5E, put1 v)
  | .craneReport tag (.fields v) => some (tag, 0x60, putSigned v)
  | .readRunway tag (.fields v) => some (tag, 0x61, putReadNumF v)
  | .setGrade tag (.fields v) => some (tag, 0x70, putSetGradeF v)
  | .setSlot tag (.fields v) => some (tag, 0x71, putSetSlotF v)
  | .setTable tag (.fields v) => some (tag, 0x72, putSetTableF v)
  | .setCrane tag (.fields v) => some (tag, 0x73, putSetCraneF v)
  | .setCart tag (.fields v) => some (tag, 0x74, putSetBayF v)
  | .setScrapBin tag (.fields v) => some (tag, 0x75, putSetBayF v)
  | .setRunway tag (.fields v) => some (tag, 0x76, putSetBayF v)
  | .readHallMap tag (.fields v) => some (tag, 0x77, putReadNumF v)
  | .restart tag (.fields v) => some (tag, 0x78, putUnit v)
  | .readAlarms tag (.fields v) => some (tag, 0x80, putUnit v)
  | .clearAlarms tag (.fields v) => some (tag, 0x81, put2 v)
  | .setAlertMask tag (.fields v) => some (tag, 0x82, putAlertF v)
  | _ => none

/-! ## Frames (R162, section 9.6) -/

/-- One bit of the CRC-16 with polynomial x¹⁶ + x¹² + x⁵ + 1 (R162). -/
def crcBit (c : BitVec 16) : BitVec 16 := if c.msb then (c <<< 1) ^^^ 0x1021#16 else c <<< 1

/-- One byte of the CRC, fed most significant bit first. -/
def crcByte (c : BitVec 16) (b : Byte) : BitVec 16 :=
  (List.range 8).foldl (fun c _ => crcBit c) (c ^^^ (b.setWidth 16 <<< 8))

/-- The value of the register is worked out before it is used, so that an evaluation carries a numeral from byte to
byte: `crcValued_eq` says that this is no more than `f c`. -/
def crcValued (c : BitVec 16) (f : BitVec 16 → BitVec 16) : BitVec 16 :=
  match c.toNat with
  | 0 => f 0#16
  | n + 1 => f (BitVec.ofNat 16 (n + 1))

/-- The register after a run of bytes. -/
def crcRun : List Byte → BitVec 16 → BitVec 16
  | [], c => c
  | b :: l, c => crcValued (crcByte c b) (crcRun l)

/-- The CRC of a run of bytes: the register starts at all ones, and there is no final inversion. -/
def crc16 (l : List Byte) : BitVec 16 := crcRun l 0xFFFF#16

/-- The two CRC bytes, low byte first. -/
def crcBytes (c : BitVec 16) : List Byte := [c.setWidth 8, (c >>> 8).setWidth 8]

/-- A frame: the start marker, the bytes from the address through the payload, their CRC. -/
def sealed (body : List Byte) : List Byte := 0xA5#8 :: body ++ crcBytes (crc16 body)

/-- The bytes of a REQUEST frame. -/
def requestFrame (address : Nat) (tag : Byte) (code : Nat) (payload : List Byte) : List Byte :=
  sealed (put1 address ++ 0x02#8 :: tag :: put1 code ++ put1 payload.length ++ payload)

/-- The bytes of an IDLE frame. -/
def idleFrameBytes (address : Nat) : List Byte := sealed (put1 address ++ [0x03#8, 0x00#8, 0x00#8])

/-- A good frame of a station (R162). -/
inductive Good where
  | request (address : Nat) (tag : Byte) (code : Nat) (payload : List Byte)
  | idle (address : Nat)
  deriving DecidableEq, Repr

/-- The fields of a frame's body, from the address through the payload, when its kind and length are right. -/
def readBody (body : List Byte) : Option Good :=
  match body with
  | address :: kind :: tag :: rest =>
    if kind = 0x02#8 then
      match rest with
      | code :: n :: payload =>
        if n.toNat ≤ Config.payloadMax ∧ payload.length = n.toNat then
          some (.request address.toNat tag code.toNat payload)
        else none
      | _ => none
    else if kind = 0x03#8 ∧ rest = [0x00#8] then some (.idle address.toNat)
    else none
  | _ => none

/-- A received run of bytes judged by R162: a good frame, or none for a bad one. -/
def judge (bytes : List Byte) : Option Good :=
  match bytes with
  | marker :: rest =>
    let body := rest.take (rest.length - 2)
    if marker = 0xA5#8 ∧ rest.drop (rest.length - 2) = crcBytes (crc16 body) then readBody body else none
  | [] => none

/-- The command that a received frame is, while station `polled` is polled (R162, R165, R167). -/
def frameCommand (polled : Nat) (bytes : List Byte) : Instr :=
  match judge bytes with
  | none => .badFrame
  | some (.idle address) => if address = polled then .idleFrame else .wrongAddressFrame
  | some (.request address tag code payload) =>
    if address = polled then decodeRequest tag code payload else .wrongAddressFrame

end Sys2Proof.Machine

namespace Sys2Proof

/-- The command that a word spells by the opcode table's bits. The table gives no row any bits: none. -/
def decodeTableWord (_nbits _w : Nat) : Option Instr := none

end Sys2Proof
end

