-- ==== Sys2Proof/Machine/Table.lean ====
section
/-! DEFINITION. Reading and writing a fixed-size table, and the index/generation tables (pools) that hold
plates, jobs, parts, legs and batches (R1, R2, R74, R99, R125): a handle names a record when the entry at its
index holds a record and the generations agree. -/

namespace Sys2Proof

/-- Entry `i`, if there is one. -/
def Table.get? {α : Type} {n : Nat} (t : Table α n) (i : Nat) : Option α :=
  t.entries[i]?

/-- Entry `i`, or `d` beyond the table's end. -/
def Table.getD {α : Type} {n : Nat} (t : Table α n) (i : Nat) (d : α) : α :=
  (t.get? i).getD d

/-- The table with entry `i` replaced; unchanged beyond its end. -/
def Table.set {α : Type} {n : Nat} (t : Table α n) (i : Nat) (a : α) : Table α n :=
  ⟨t.entries.set i a, by rw [List.length_set]; exact t.size_eq⟩

/-- The table with entry `i` passed through `f`. -/
def Table.modify {α : Type} {n : Nat} (t : Table α n) (i : Nat) (f : α → α) : Table α n :=
  match t.get? i with
  | some a => t.set i (f a)
  | none => t

/-- The table that holds `a` in every entry. -/
def Table.replicate {α : Type} (n : Nat) (a : α) : Table α n :=
  ⟨List.replicate n a, List.length_replicate⟩

/-- The table whose entry `i` is `f i`. -/
def Table.ofFn {α : Type} (n : Nat) (f : Nat → α) : Table α n :=
  ⟨(List.range n).map f, by rw [List.length_map, List.length_range]⟩

/-- Every entry passed through `f`. -/
def Table.map {α β : Type} {n : Nat} (t : Table α n) (f : α → β) : Table β n :=
  ⟨t.entries.map f, by rw [List.length_map]; exact t.size_eq⟩

/-- Every entry passed through `f` with its index. -/
def Table.mapIdx {α β : Type} {n : Nat} (t : Table α n) (f : Nat → α → β) : Table β n :=
  ⟨t.entries.zipIdx.map fun p => f p.2 p.1,
    by rw [List.length_map, List.length_zipIdx]; exact t.size_eq⟩

/-- The indices of the entries that pass `p`, ascending. -/
def Table.indicesWhere {α : Type} {n : Nat} (t : Table α n) (p : α → Bool) : List Nat :=
  (t.entries.zipIdx.filter fun e => p e.1).map (·.2)

/-- The lowest index whose entry passes `p`. -/
def Table.firstIdx? {α : Type} {n : Nat} (t : Table α n) (p : α → Bool) : Option Nat :=
  t.entries.findIdx? p

/-- How many entries pass `p`. -/
def Table.count {α : Type} {n : Nat} (t : Table α n) (p : α → Bool) : Nat :=
  t.entries.countP p

/-- One entry of a pool: its generation, and its record unless it is FREE. -/
structure Entry (α : Type) where
  gen : Nat
  record : Option α
  deriving DecidableEq, Repr

/-- A table of records named by handles. -/
abbrev Pool (α : Type) (n : Nat) := Table (Entry α) n

/-- The next generation: one more, and 63 is followed by 0 (R2). -/
def nextGen (g : Nat) : Nat := (g + 1) % Config.generations

/-- Every entry FREE with generation 0. -/
def Pool.free (α : Type) (n : Nat) : Pool α n := Table.replicate n ⟨0, none⟩

/-- The record a handle names, if it names one (R1, R74, R99, R125). -/
def Pool.find {α : Type} {n : Nat} (t : Pool α n) (h : Handle) : Option α :=
  match t.get? h.idx with
  | some e => if e.gen = h.gen then e.record else none
  | none => none

/-- The pool with the record `h` names passed through `f`; unchanged when `h` names none. -/
def Pool.modify {α : Type} {n : Nat} (t : Pool α n) (h : Handle) (f : α → α) : Pool α n :=
  match t.find h with
  | some r => t.set h.idx ⟨h.gen, some (f r)⟩
  | none => t

/-- The generation a new record takes in an entry: the entry's own when it is FREE, else the next one after
the record that stood there (R2, R125). -/
def Entry.newGen {α : Type} (e : Entry α) : Nat :=
  match e.record with
  | none => e.gen
  | some _ => nextGen e.gen

/-- Places a new record in the lowest entry that passes `ok`, and answers its handle. -/
def Pool.create {α : Type} {n : Nat} (t : Pool α n) (ok : Entry α → Bool) (r : α) :
    Option (Pool α n × Handle) :=
  match t.firstIdx? ok with
  | none => none
  | some i =>
    match t.get? i with
    | none => none
    | some e => some (t.set i ⟨e.newGen, some r⟩, ⟨i, e.newGen⟩)

/-- Makes the entry of the record `h` names FREE, with its generation advanced by one (R99, R127). -/
def Pool.release {α : Type} {n : Nat} (t : Pool α n) (h : Handle) : Pool α n :=
  match t.find h with
  | some _ => t.set h.idx ⟨nextGen h.gen, none⟩
  | none => t

/-- The handles of the records that pass `p`, by ascending index. -/
def Pool.handles {α : Type} {n : Nat} (t : Pool α n) (p : α → Bool) : List Handle :=
  t.entries.zipIdx.filterMap fun e =>
    match e.1.record with
    | some r => if p r then some ⟨e.2, e.1.gen⟩ else none
    | none => none

/-- Whether some record passes `p`. -/
def Pool.any {α : Type} {n : Nat} (t : Pool α n) (p : α → Bool) : Bool :=
  t.entries.any fun e =>
    match e.record with
    | some r => p r
    | none => false

/-- Inserts by `before` into a list sorted by it. -/
def insertBy {α : Type} (before : α → α → Bool) (a : α) : List α → List α
  | [] => [a]
  | b :: bs => if before a b then a :: b :: bs else b :: insertBy before a bs

/-- The list sorted by `before`. -/
def sortBy {α : Type} (before : α → α → Bool) : List α → List α
  | [] => []
  | a :: as => insertBy before a (sortBy before as)

/-- Whether the first list of keys comes before the second, the first difference deciding. -/
def keysBefore : List Nat → List Nat → Bool
  | a :: as, b :: bs => if a < b then true else if b < a then false else keysBefore as bs
  | _, _ => false

end Sys2Proof
end

