-- ==== Sys2Proof/Machine/Words.lean ====
section
/-! DEFINITION. The words of the Record Store's array (R175): 8-byte words with their correcting code, images as
runs of words closed by a CRC-16, the judgement of a read, what a write and a flipped bit make of an image. -/

namespace Sys2Proof.Machine

open Sys2Proof

/-! ## Words and images -/

/-- A word of the array: what was last written to it, and which of its 64 data and 8 code bits have flipped
since. DESIGN CHOICE: notes/assumptions/7.md. -/
structure Cell where
  data : BitVec 64
  flipped : BitVec 72
  deriving DecidableEq, Repr

/-- A word just written. -/
def Cell.fresh (w : BitVec 64) : Cell := ⟨w, 0#72⟩

/-- A bit of a word changes over. -/
def Cell.flip (bit : Nat) (c : Cell) : Cell := { c with flipped := c.flipped ^^^ (1#72 <<< bit) }

/-- No bit of a word has flipped. -/
def Cell.whole (c : Cell) : Bool := c.flipped == 0#72

/-- How many bits of a word have flipped. -/
def Cell.flips (c : Cell) : Nat := (List.range 72).countP fun bit => c.flipped.getLsbD bit

/-- At most one bit of a word has flipped: the code gives back what was written (R175, judgements 1 and 2). -/
def Cell.readable (c : Cell) : Bool := c.whole || c.flips == 1

/-- An image in the array: its words in order, the one with the CRC last. A word that no write has reached is
absent, and an image never written has no words. -/
abbrev Image := List (Option Cell)

/-- What a read of an image finds (R175): never written, sound, corrected, or bad. -/
inductive Stored (α : Type) where
  | absent
  | sound (v : α)
  | corrected (v : α)
  | bad
  deriving DecidableEq, Repr

/-! ## The words of given contents. DESIGN CHOICE: notes/assumptions/7.md. -/

/-- The bytes of a word, the low byte first. -/
def wordBytes (w : BitVec 64) : List Byte := (List.range 8).map fun i => (w >>> (8 * i)).setWidth 8

/-- The word that a run of bytes fills from the low byte up. -/
def packWord (l : List Byte) : BitVec 64 := l.foldr (fun b w => (w <<< 8) ||| b.setWidth 64) 0#64

/-- A run of bytes in `n` words, zeros after its end. -/
def packWords : Nat → List Byte → List (BitVec 64)
  | 0, _ => []
  | n + 1, l => packWord (l.take 8) :: packWords n (l.drop 8)

/-- The word with the CRC-16 over a run of words (R162, R175). -/
def crcWord (ws : List (BitVec 64)) : BitVec 64 := (crc16 (ws.flatMap wordBytes)).setWidth 64

/-- The words of an image: its contents in `n` words, and the word with their CRC. -/
def imageWords (n : Nat) (contents : List Byte) : List (BitVec 64) :=
  packWords n contents ++ [crcWord (packWords n contents)]

/-- An image written in full. -/
def Image.fresh (ws : List (BitVec 64)) : Image := ws.map fun w => some (Cell.fresh w)

/-! ## Reading (R175) -/

/-- What the words of an image hold, each as its code gives it back. -/
def Image.words (m : Image) : List (BitVec 64) := m.filterMap fun c => c.map Cell.data

/-- The last word is the CRC word of the words before it. -/
def crcMatches (ws : List (BitVec 64)) : Bool := ws.getLast? == some (crcWord ws.dropLast)

/-- An image judged as R175 orders it, with the words of its contents: a word with one flipped bit is repaired; a
word with more, or one never written, makes the image bad; so does a CRC that does not match. -/
def Image.judge (m : Image) : Stored (List (BitVec 64)) :=
  if m.all Option.isNone then .absent
  else if !m.all (fun c => c.any Cell.readable) then .bad
  else if !crcMatches m.words then .bad
  else if m.all (fun c => c.any Cell.whole) then .sound m.words.dropLast
  else .corrected m.words.dropLast

/-- The words of an image that is good, corrected or not. -/
def Stored.value {α : Type} : Stored α → Option α
  | .sound v => some v
  | .corrected v => some v
  | _ => none

/-- What a read finds, told by what its words spell. Words that spell nothing make the image bad.
DESIGN CHOICE: notes/assumptions/7.md. -/
def Stored.parse {α β : Type} (f : α → Option β) : Stored α → Stored β
  | .absent => .absent
  | .bad => .bad
  | .sound v =>
    match f v with
    | some b => .sound b
    | none => .bad
  | .corrected v =>
    match f v with
    | some b => .corrected b
    | none => .bad

/-- What words spell by a reader of fields: the fields, with zeros after their end. -/
def spelled {α : Type} (take : List Byte → Option (α × List Byte)) (ws : List (BitVec 64)) : Option α :=
  match take (ws.flatMap wordBytes) with
  | some (v, rest) => if rest.all (· == 0#8) then some v else none
  | none => none

/-- What a read of an image finds. -/
def Image.read {α : Type} (take : List Byte → Option (α × List Byte)) (m : Image) : Stored α :=
  m.judge.parse (spelled take)

/-! ## Writing and decay (R175, R178) -/

/-- A bit of word `k` flips; a word never written has nothing to lose. -/
def Image.flip (k bit : Nat) (m : Image) : Image := m.modify k fun c => c.map (Cell.flip bit)

/-- The words of an image after a write of `ws` reached those it did not leave. -/
def Image.reached (left : List Nat) (ws : List (BitVec 64)) (old : Image) : Image :=
  ws.zipIdx.map fun e => if left.contains e.2 then (old[e.2]?).getD none else some (Cell.fresh e.1)

/-- What the array makes of a write of the words `ws` over an image: the words it left keep what they held, the
others are new, and the bits it names flip (R175, R178). DESIGN CHOICE: notes/assumptions/5.md. -/
def Image.write (fate : WriteFate) (ws : List (BitVec 64)) (old : Image) : Image :=
  fate.flips.foldl (fun m e => m.flip e.1 e.2)
    (if (List.range ws.length).all fate.left.contains then old else old.reached fate.left ws)

/-- An image read back agrees with the words that were written: it is good, and they are its words (R175, R176). -/
def Image.agrees (m : Image) (ws : List (BitVec 64)) : Bool := m.judge.value == some ws.dropLast

end Sys2Proof.Machine
end

