-- ==== Sys2Proof/Machine/State.lean ====
section
/-! DEFINITION. The state of the CH-1024 as plain data: every record, collection, queue, flag and pin the spec
names (INVENTORY.md, "State"), the reasons a command can stop, and the state after reset. -/

namespace Sys2Proof.Machine

open Sys2Proof

/-! ## Named sets of values -/

/-- A half of the hall, and its runway. -/
inductive Bay where
  | a | b
  deriving DecidableEq, Repr

/-- The bay across the hall. -/
def Bay.other : Bay → Bay
  | .a => .b
  | .b => .a

/-- The kinds of station (00_scope, "Station kinds"). -/
inductive StationKind where
  | supervisor | table | marker | crane | cart | terminal
  deriving DecidableEq, Repr

/-- The answer codes (00_scope, "Answer codes"; values in section 9.6). -/
inductive AnsCode where
  | done | doneUnsaved | working | noResult | busy | notPermitted | badRequest | noSuch | wrongState | full
  | duplicate | gone | tooDeep | blocked | overload | mismatch | wrongPlace | inUse | powerDown | noWork | park
  deriving DecidableEq, Repr

/-- The permit of an answer to a crane (R157). -/
inductive Permit where
  | stop | go
  deriving DecidableEq, Repr

inductive Origin where
  | mill | derived
  deriving DecidableEq, Repr

inductive RetireReason where
  | consumed | scrapped | shipped
  deriving DecidableEq, Repr

inductive Disposition where
  | stock
  | retired (reason : RetireReason)
  deriving DecidableEq, Repr

/-- Where a plate lies (R7). -/
inductive Location where
  | slot (s level : Nat)
  | bed (t b : Nat)
  | hook (c : Nat)
  | cart
  | nowhere
  deriving DecidableEq, Repr

/-- The use of a plate (R10). -/
inductive Use where
  | free
  | reserved (job : Handle)
  | moving (leg : Handle)
  deriving DecidableEq, Repr

inductive Purpose where
  | stock | remnant | intake
  deriving DecidableEq, Repr

inductive JobState where
  | admitted | loaded | burning | paused | ended | cleared
  deriving DecidableEq, Repr

inductive Role where
  | active | staged
  deriving DecidableEq, Repr

inductive Orientation where
  | along | rotated
  deriving DecidableEq, Repr

inductive PauseCause where
  | arcLoss | collision | operator
  deriving DecidableEq, Repr

inductive Verdict where
  | pass | fail | aborted
  deriving DecidableEq, Repr

inductive MarkState where
  | planned | issued | marked | failed
  deriving DecidableEq, Repr

inductive CutState where
  | uncut | cut | scrapped
  deriving DecidableEq, Repr

inductive Placement where
  | onBed
  | pallet (p : Nat)
  | nowhere
  deriving DecidableEq, Repr

inductive MarkOutcome where
  | made | failed
  deriving DecidableEq, Repr

inductive LegKind where
  | fetch | ret | clearRemnant | clearSkeleton | dig | transferOut | transferIn | manual
  deriving DecidableEq, Repr

inductive LegState where
  | queued | assigned | lifted | check | done | cancelled | failed
  deriving DecidableEq, Repr

inductive HoldUp where
  | blocked | full | overload | noWork | tooDeep
  deriving DecidableEq, Repr

inductive BatchState where
  | opened | committed | done | cancelled
  deriving DecidableEq, Repr

inductive CraneState where
  | offline | idle | assigned | loaded | check
  deriving DecidableEq, Repr

/-- The twelve alarm flags, numbered 0 to 11 in this order (section 11.1). -/
inductive Alarm where
  | restarted | storeCorrected | storeWriteFault | recordDoubtful | stationSilent | linkError
  | zoneBreach | loadMismatch | unmarkedCut | legStarving | powerWarning | overCapacity
  deriving DecidableEq, Repr

/-- Supply and reset: no supply, held in reset, start-up running, start-up ended (R178, R182). -/
inductive Phase where
  | off | inReset | startup | running
  deriving DecidableEq, Repr

/-! ## The line -/

/-- One field of an answer in wire order (R174): a number of `w` bytes, a handle, a choice, a text, a place. -/
inductive Token where
  | num (w : Nat) (v : Int)
  | handle (h : Handle)
  | choice (v : Nat)
  | text (t : Text)
  | place (p : Place)
  deriving DecidableEq, Repr

/-- An ANSWER frame (R168): whom it addresses, the echoed tag, the code, the permit for a CRANE station, the
answer fields. -/
structure Answer where
  address : Nat
  tag : Byte
  code : AnsCode
  permit : Option Permit
  fields : List Token
  deriving DecidableEq, Repr

/-- A frame the part sends: a POLL to a station, or an ANSWER. -/
inductive TxFrame where
  | poll (address : Nat)
  | answer (a : Answer)
  deriving DecidableEq, Repr

/-- A station's answer slot (R169). A held answer keeps its request's tag and code. -/
inductive AnsSlot where
  | empty
  | inFlight (tag : Byte)
  | held (tag : Byte) (request : Nat) (code : AnsCode) (fields : List Token)
  deriving DecidableEq, Repr

/-- An entry of the station table (section 9.2); its address is its index plus one. -/
structure Station where
  kind : StationKind
  unit : Option Nat
  weight : Nat
  misses : Nat
  silent : Bool
  slot : AnsSlot
  deriving DecidableEq, Repr

/-- What the stations group of the Hall Map keeps of a station (section 10.3). -/
structure StationCfg where
  address : Nat
  kind : StationKind
  unit : Option Nat
  weight : Nat
  deriving DecidableEq, Repr

/-- The poll in progress: the station polled and which attempt this is (R165). -/
structure PollState where
  address : Nat
  attempt : Nat
  deriving DecidableEq, Repr

/-! ## Plates -/

/-- The identity part of a plate record (section 1.1). -/
structure PlateId where
  origin : Origin
  parent : Option Handle
  depth : Nat
  heat : Text
  grade : Nat
  thickness : Nat
  length : Nat
  width : Nat
  headTrim : Nat
  tailTrim : Nat
  sideATrim : Nat
  sideBTrim : Nat
  seq : Nat
  deriving DecidableEq, Repr

/-- The state part of a plate record (section 1.1). -/
structure PlateSt where
  disposition : Disposition
  location : Location
  panels : Option (List Panel)
  area : Option Nat
  held : Bool
  massDoubt : Bool
  doubtful : Bool
  deriving DecidableEq, Repr

/-- A plate record: identity part, state part, volatile overlay (section 1.1). -/
structure PlateRec where
  ident : PlateId
  st : PlateSt
  job : Option Handle
  leg : Option Handle
  mass : Option Nat
  deriving DecidableEq, Repr

/-- The use, derived from the two optional fields (R10). -/
def PlateRec.use (r : PlateRec) : Use :=
  match r.leg with
  | some l => .moving l
  | none =>
    match r.job with
    | some j => .reserved j
    | none => .free

/-! ## Places -/

/-- A slot's stack from the bottom up, its incoming legs and its over-capacity mark (R42, R44, R54). -/
structure Slot where
  stack : List Handle
  incoming : List Handle
  overCap : Bool
  deriving DecidableEq, Repr

/-- A bed as a place (R50). -/
structure Bed where
  plates : List Handle
  skeleton : Bool
  deriving DecidableEq, Repr

/-- The transfer cart (R51). -/
structure Cart where
  plates : List Handle
  side : Option Bay
  incoming : List Handle
  deriving DecidableEq, Repr

/-! ## The Hall Map -/

/-- A grade table entry (section 2.1). -/
structure Grade where
  label : Text
  family : Nat
  density : Nat
  minLength : Nat
  minWidth : Nat
  clearance : Nat
  deriving DecidableEq, Repr

/-- A slot's configuration (R41). -/
structure SlotCfg where
  bay : Bay
  position : Nat
  purpose : Purpose
  capacity : Nat
  limit : Nat
  deriving DecidableEq, Repr

/-- A table's bed positions (R72). -/
structure TableCfg where
  bed0 : Nat
  bed1 : Nat
  deriving DecidableEq, Repr

/-- A crane's configuration (section 7.3). -/
structure CraneCfg where
  runway : Bay
  order : Nat
  swl : Nat
  tare : Nat
  hw : Nat
  minThickness : Nat
  deriving DecidableEq, Repr

/-- One number for each bay: cart positions, scrap bin positions, runway lengths. -/
structure PerBay where
  onA : Nat
  onB : Nat
  deriving DecidableEq, Repr

/-- The number of a bay. -/
def PerBay.get (p : PerBay) : Bay → Nat
  | .a => p.onA
  | .b => p.onB

/-- The numbers with that of one bay replaced. -/
def PerBay.set (p : PerBay) (bay : Bay) (v : Nat) : PerBay :=
  match bay with
  | .a => { p with onA := v }
  | .b => { p with onB := v }

/-- The alarm settings (R185). -/
structure AlarmCfg where
  mask : BitVec 12
  enable : Bool
  deriving DecidableEq, Repr

/-- The Hall Map but for the stations group, which stands in the station table (section 10.3). -/
structure HallMap where
  grades : Table Grade 64
  slots : Table SlotCfg 96
  tables : Table TableCfg 8
  cranes : Table CraneCfg 6
  cart : PerBay
  bins : PerBay
  runways : PerBay
  alarms : AlarmCfg
  deriving DecidableEq, Repr

/-! ## Searches -/

/-- A search record (section 4.1). -/
structure SearchRec where
  station : Nat
  tag : Byte
  specFamily : Nat
  specMask : Nat
  thickness : Nat
  tolerance : Nat
  length : Nat
  width : Nat
  rotation : Bool
  wanted : Nat
  deriving DecidableEq, Repr

/-- A candidate of a working list (R62). -/
structure Candidate where
  plate : Handle
  panel : Nat
  rotated : Bool
  depth : Nat
  waste : Nat
  band : Nat
  origin : Origin
  seq : Nat
  deriving DecidableEq, Repr

/-- The scan in flight (section 4.1). -/
structure Scan where
  search : SearchRec
  position : Nat
  working : List Candidate
  deriving DecidableEq, Repr

/-! ## Jobs and parts -/

/-- A verdict with the nest of the job that earned it (R72). -/
structure VerdictRec where
  verdict : Verdict
  nest : Nat
  deriving DecidableEq, Repr

/-- What a Table Sequencer holds for its table beside its jobs (R72). -/
structure TableSeq where
  gantry : Nat
  verdictN : Option VerdictRec
  verdictN1 : Option VerdictRec
  deriving DecidableEq, Repr

/-- A job record (section 5.2). -/
structure Job where
  nest : Nat
  plate : Handle
  panel : Nat
  orientation : Orientation
  envLength : Nat
  envWidth : Nat
  specFamily : Nat
  specMask : Nat
  thickness : Nat
  tolerance : Nat
  parts : List Handle
  resume : Nat
  pierced : Bool
  state : JobState
  role : Option Role
  pauseCause : Option PauseCause
  fetchLost : Bool
  fetchBatch : Option Handle
  clearBatch : Option Handle
  verdict : Option Verdict
  deriving DecidableEq, Repr

/-- A part record (section 6.1). -/
structure Part where
  job : Handle
  index : Nat
  hull : Text
  block : Text
  number : Nat
  area : Nat
  heat : Text
  grade : Nat
  thickness : Nat
  mark : MarkState
  cut : CutState
  placement : Placement
  manual : Bool
  deriving DecidableEq, Repr

/-- The last confirmation of a marker window (R104). -/
structure Confirmation where
  part : Handle
  outcome : MarkOutcome
  deriving DecidableEq, Repr

/-- A marker window, oldest part first (R104). -/
structure Window where
  parts : List Handle
  last : Option Confirmation
  deriving DecidableEq, Repr

/-! ## Legs, batches, cranes -/

/-- A leg record (section 7.1). While a supervisor's batch is OPEN, `bay` holds the leg's target bay.
`checkLoad` and `ending` are the model's own (notes/assumptions/11.md and 12.md). -/
structure Leg where
  bay : Bay
  kind : LegKind
  batch : Handle
  position : Nat
  plate : Option Handle
  sourceBed : Option (Nat × Nat)
  skeletonMass : Option Nat
  skeletonThickness : Option Nat
  destination : Place
  priority : Nat
  skips : Nat
  starving : Bool
  state : LegState
  holdUp : Option HoldUp
  crane : Option Nat
  source : Option Place
  target : Option Place
  expected : Option Nat
  checkLoad : Option Nat
  ending : Bool
  deriving DecidableEq, Repr

/-- Who made a batch (section 7.1). -/
inductive BatchOrigin where
  | job (h : Handle)
  | station (address : Nat)
  deriving DecidableEq, Repr

/-- A batch record (section 7.1). -/
structure Batch where
  origin : BatchOrigin
  legs : List Handle
  state : BatchState
  seq : Option Nat
  deriving DecidableEq, Repr

/-- A closed interval of runway in decimetres (R151). -/
structure Claim where
  lo : Int
  hi : Int
  deriving DecidableEq, Repr

/-- What the Bay Dispatcher and the Runway Zone Unit hold of a crane (R131, R151). -/
structure Crane where
  state : CraneState
  leg : Option Handle
  position : Option Nat
  claim : Option Claim
  stopped : Bool
  deriving DecidableEq, Repr

/-! ## The Record Store -/

/-- The three images of a plate entry (section 10.1). -/
structure PlateImages where
  genWord : Image
  identity : Image
  state : Image
  deriving DecidableEq, Repr

/-- The ferroelectric array, image by image (section 10.1). -/
structure Store where
  plates : Table PlateImages 1024
  header : Image
  grades : Image
  slots : Image
  tables : Image
  cranes : Image
  cart : Image
  bins : Image
  runways : Image
  stations : Image
  alarms : Image
  deriving DecidableEq, Repr

/-- The write in flight (R176): the image, the words taken when it began, first or second attempt. -/
structure Write where
  image : ImageId
  words : List (BitVec 64)
  attempt : Nat
  deriving DecidableEq, Repr

/-- An image a deferred request waits on, and whether a write of it has begun since the change (R13). -/
structure Wait where
  image : ImageId
  begun : Bool
  deriving DecidableEq, Repr

/-- A deferred request that waits on writes (R14, R176). `station` is absent once its slot was emptied (R169). -/
structure Deferred where
  station : Option Nat
  tag : Byte
  request : Nat
  waits : List Wait
  failed : Bool
  code : AnsCode
  fields : List Token
  deriving DecidableEq, Repr

/-! ## The machine -/

/-- Everything the CH-1024 holds, and the queue of the commands that wait for it. -/
@[ext]
structure State where
  -- pins, supply and reset (chapter 10)
  phase : Phase
  rst : Bool
  pfw : Bool
  restartPending : Bool
  -- Link Controller (chapter 9)
  stations : Table (Option Station) 32
  round : List (Option Nat)
  roundPos : Nat
  poll : Option PollState
  lastFrame : Option TxFrame
  deferred : List Deferred
  -- Plate Register (chapter 1)
  plates : Pool PlateRec 1024
  seqCounter : Nat
  -- Rack Map (chapter 3)
  slots : Table Slot 96
  beds : Table Bed 16
  cart : Cart
  -- Hall Map (chapter 10)
  hall : HallMap
  -- Fit Search Unit (chapter 4)
  searchQueue : List SearchRec
  scan : Option Scan
  -- Table Sequencers (chapter 5)
  tables : Table TableSeq 8
  jobs : Pool Job 16
  drafts : Table (List DraftEntry) 32
  -- Part Register (chapter 6)
  parts : Pool Part 2048
  pallets : Table (List Handle) 16
  windows : Table Window 8
  -- Bay Dispatchers and Runway Zone Units (chapters 7, 8)
  legs : Pool Leg 48
  batches : Pool Batch 24
  commitCounter : Nat
  cranes : Table Crane 6
  -- Record Store (chapter 10)
  store : Store
  headerFloor : Nat
  queue : List ImageId
  inFlight : Option Write
  -- Alarm Unit (chapter 11)
  flags : BitVec 12
  -- the commands waiting, first in, first out
  pending : List Instr
  deriving DecidableEq, Repr

/-! ## Why a command stops -/

/-- A fault of the machine. DESIGN CHOICE: notes/assumptions/1.md. -/
inductive Fault where
  /-- The poll in progress names a station that the station table does not hold, or the table holds no station
  to poll (address 1 is always enrolled, R163). Raised by POLL and by every event of a poll (replies and failed
  attempts). No run from reset reaches such a state: the spec gives it no effect. Safe: the model stops. -/
  | unknownStation
  deriving DecidableEq, Repr

/-- Why an event cannot happen in a state (notes/assumptions/1.md). -/
inductive NotEnabled where
  | notRunning        -- start-up has not ended, or a Restart has been answered: nothing is polled (R163, R178)
  | noPoll            -- no POLL is outstanding, so no reply is due (R165)
  | pollOutstanding   -- a poll is in progress, so the part sends no new one (R165)
  | noScan            -- no scan is in flight (R60)
  | noWrite           -- no write is in flight (R176)
  | writeNotDue       -- a write is in flight, PFW is asserted, the queue is empty, or the part resets (R176)
  | notComplete       -- no such deferred request, or one whose images are not all written (R176)
  | noRestart         -- no Restart has been answered, or the write in flight has not ended (R178)
  | startupNotDone    -- start-up is not running, its queue is not empty (R182), or its last write still runs (log 54)
  | supplyOn          -- supply is applied already (R178)
  | supplyOff         -- there is no supply (R177)
  deriving DecidableEq, Repr

/-- Why the model gives a command no next state. -/
inductive Refusal where
  /-- A command that has no meaning in this model. Raised by `exec` alone, by name. Safe. -/
  | notModelled (mnemonic : String)
  /-- An event that cannot happen in the present state, by the rules named in `NotEnabled`. Raised by the
  meaning of that event. Safe: the spec has no such step. -/
  | notEnabled (why : NotEnabled)
  deriving DecidableEq, Repr

/-- The outcome of a step of this machine. -/
abbrev Result := Host.Outcome State Fault Refusal

/-! ## Factory defaults and reset -/

/-- The factory label of a grade: the letter G and the entry number in two digits (R27). -/
def Grade.factoryLabel (i : Nat) : Text :=
  [0x47#8, BitVec.ofNat 8 (0x30 + i / 10), BitVec.ofNat 8 (0x30 + i % 10)]

/-- The factory default of grade `i` (R27). -/
def Grade.factory (i : Nat) : Grade :=
  ⟨Grade.factoryLabel i, 0, 7850, 1000, 500, 10⟩

/-- The factory default of slot `i` (R41). -/
def SlotCfg.factory (i : Nat) : SlotCfg :=
  ⟨if i < 48 then .a else .b, 40 + 80 * (i % 48), .stock, 8, 4000000⟩

/-- The bay of a table, fixed by its number (R72). -/
def tableBay (t : Nat) : Bay := if t < 4 then .a else .b

/-- The factory default of table `t` (R72). -/
def TableCfg.factory (t : Nat) : TableCfg :=
  ⟨500 + 900 * (t % 4), 800 + 900 * (t % 4)⟩

/-- The factory default of crane `c` (section 10.3). -/
def CraneCfg.factory (c : Nat) : CraneCfg :=
  ⟨if c < 3 then .a else .b, c % 3, 150000, 12500, 60, 50⟩

/-- The factory default alarm settings: every flag but RESTARTED, master enable on (R185). -/
def AlarmCfg.factory : AlarmCfg := ⟨0xFFE#12, true⟩

/-- The factory default of the Hall Map (section 10.3). DESIGN CHOICE: notes/assumptions/2.md. -/
def HallMap.factory : HallMap where
  grades := Table.ofFn 64 Grade.factory
  slots := Table.ofFn 96 SlotCfg.factory
  tables := Table.ofFn 8 TableCfg.factory
  cranes := Table.ofFn 6 CraneCfg.factory
  cart := ⟨2000, 2000⟩
  bins := ⟨3960, 3960⟩
  runways := ⟨4000, 4000⟩
  alarms := AlarmCfg.factory

/-- The factory default station table: address 1 alone, a SUPERVISOR of weight 1 (R163).
DESIGN CHOICE: notes/assumptions/2.md. -/
def StationCfg.factory : List StationCfg := [⟨1, .supervisor, none, 1⟩]

/-- A station as start-up and enrolment leave it: no miss, not SILENT, slot EMPTY (R163, R171). -/
def StationCfg.fresh (c : StationCfg) : Station :=
  ⟨c.kind, c.unit, c.weight, 0, false, .empty⟩

/-- The station table that holds the enrolled entries of a list. DEDUCED: notes/assumptions/30.md. -/
def stationTable (l : List StationCfg) : Table (Option Station) 32 :=
  Table.ofFn 32 fun i => (l.find? fun c => c.address = i + 1).map StationCfg.fresh

/-- The image of a generation word (section 10.1): the one number. -/
def genImage (g : Nat) : List (BitVec 64) := imageWords 1 (put1 g)

/-- The images of a plate entry as the array leaves the factory: 63 in the generation word, the others absent
(R175, R181). -/
def PlateImages.factory : PlateImages := ⟨Image.fresh (genImage 63), [], []⟩

/-- The factory array: every image absent but the generation words (R175, R181).
DESIGN CHOICE: notes/assumptions/2.md. -/
def Store.factory : Store where
  plates := Table.replicate 1024 PlateImages.factory
  header := []
  grades := []
  slots := []
  tables := []
  cranes := []
  cart := []
  bins := []
  runways := []
  stations := []
  alarms := []

/-- The nine Hall Map images, in the order of the groups. -/
def Group.all : List Group :=
  [.grades, .slots, .tables, .cranes, .cart, .bins, .runways, .stations, .alarms]

/-- The machine right after reset: a factory-fresh part whose power-on start-up has done steps 1 to 6 of R182
and whose writes of step 7 wait (notes/assumptions/2.md). DESIGN CHOICE: notes/assumptions/3.md. -/
def State.reset : State where
  phase := .startup
  rst := false
  pfw := false
  restartPending := false
  stations := stationTable StationCfg.factory
  round := []
  roundPos := 0
  poll := none
  lastFrame := none
  deferred := []
  plates := Pool.free PlateRec 1024
  seqCounter := 1
  slots := Table.replicate 96 ⟨[], [], false⟩
  beds := Table.replicate 16 ⟨[], false⟩
  cart := ⟨[], none, []⟩
  hall := HallMap.factory
  searchQueue := []
  scan := none
  tables := Table.replicate 8 ⟨0, none, none⟩
  jobs := Pool.free Job 16
  drafts := Table.replicate 32 []
  parts := Pool.free Part 2048
  pallets := Table.replicate 16 []
  windows := Table.replicate 8 ⟨[], none⟩
  legs := Pool.free Leg 48
  batches := Pool.free Batch 24
  commitCounter := 0
  cranes := Table.replicate 6 ⟨.offline, none, none, none, false⟩
  store := Store.factory
  headerFloor := 1
  queue := Group.all.map .group ++ [.header]
  inFlight := none
  flags := 1#12
  pending := []

end Sys2Proof.Machine
end

