-- ==== Sys2Proof/Machine/Flags.lean ====
section
/-! DEFINITION. The Alarm Unit's flags (chapter 11): the bit of each flag, raising one, the causes that hold
a flag set, and ALERT. -/

namespace Sys2Proof.Machine

open Sys2Proof

/-- The number of a flag (section 11.1). -/
def Alarm.number : Alarm → Nat
  | .restarted => 0
  | .storeCorrected => 1
  | .storeWriteFault => 2
  | .recordDoubtful => 3
  | .stationSilent => 4
  | .linkError => 5
  | .zoneBreach => 6
  | .loadMismatch => 7
  | .unmarkedCut => 8
  | .legStarving => 9
  | .powerWarning => 10
  | .overCapacity => 11

/-- The flag set that names one flag alone: bit k stands for flag k. -/
def Alarm.bit (a : Alarm) : BitVec 12 := BitVec.ofNat 12 (2 ^ a.number)

/-- Whether a flag set names a flag. -/
def flagIn (set : BitVec 12) (a : Alarm) : Bool := set &&& a.bit != 0#12

/-- A block raises a flag: it becomes set (R183). -/
def State.raise (s : State) (a : Alarm) : State := { s with flags := s.flags ||| a.bit }

/-- Raises a flag when a condition holds. -/
def State.raiseIf (s : State) (c : Bool) (a : Alarm) : State := if c then s.raise a else s

/-- Whether any enrolled station is SILENT. -/
def State.anySilent (s : State) : Bool :=
  s.stations.entries.any fun e =>
    match e with
    | some st => st.silent
    | none => false

/-- Whether any slot is marked over capacity. -/
def State.anyOverCap (s : State) : Bool := s.slots.entries.any fun k => k.overCap

/-- The flags whose persisting cause stands (R183, and the last column of section 11.1). -/
def State.standing (s : State) : BitVec 12 :=
  (if s.anySilent then Alarm.stationSilent.bit else 0#12)
    ||| (if s.pfw then Alarm.powerWarning.bit else 0#12)
    ||| (if s.anyOverCap then Alarm.overCapacity.bit else 0#12)

/-- ALERT (R186): asserted while the master enable is on and a set flag is in the mask; deasserted while the
part has no supply or is held in reset. -/
def State.alert (s : State) : Bool :=
  match s.phase with
  | .off => false
  | .inReset => false
  | .startup => s.hall.alarms.enable && (s.flags &&& s.hall.alarms.mask != 0#12)
  | .running => s.hall.alarms.enable && (s.flags &&& s.hall.alarms.mask != 0#12)

end Sys2Proof.Machine
end

