-- ==== Sys2Proof/Machine/Ops.lean ====
section
/-! DEFINITION. Operations several blocks share: the station table and answer slots, the write queue, reading
and changing a plate record, whether an unfinished leg names a plate. -/

namespace Sys2Proof.Machine

open Sys2Proof

/-! ## Stations (section 9.2) -/

/-- The station table entry of an address. -/
def State.station? (s : State) (a : Nat) : Option Station :=
  match a with
  | 0 => none
  | i + 1 =>
    match s.stations.get? i with
    | some e => e
    | none => none

/-- The station of an address passed through `f`; nothing where none is enrolled. -/
def State.modifyStation (s : State) (a : Nat) (f : Station → Station) : State :=
  match s.station? a with
  | some st => { s with stations := s.stations.set (a - 1) (some (f st)) }
  | none => s

/-- Puts a value into a station's answer slot (R169). -/
def State.putAnswer (s : State) (a : Nat) (v : AnsSlot) : State :=
  s.modifyStation a fun st => { st with slot := v }

/-- Whether a station's answer slot is IN_FLIGHT. -/
def AnsSlot.busy : AnsSlot → Bool
  | .inFlight _ => true
  | _ => false

/-- The addresses enrolled with a given kind and bound unit, ascending. -/
def State.addressesOf (s : State) (p : Station → Bool) : List Nat :=
  (s.stations.indicesWhere fun e =>
    match e with
    | some st => p st
    | none => false).map (· + 1)

/-- The CRANE station bound to a crane, if one is enrolled. -/
def State.craneStation (s : State) (c : Nat) : Option Station :=
  match s.addressesOf fun st => st.kind = .crane && st.unit = some c with
  | a :: _ => s.station? a
  | [] => none

/-- A crane is in service while a CRANE station is enrolled bound to it (R131). -/
def State.inService (s : State) (c : Nat) : Bool := (s.craneStation c).isSome

/-- A crane is SILENT while its station is (R145, R166). -/
def State.craneSilent (s : State) (c : Nat) : Bool :=
  match s.craneStation c with
  | some st => st.silent
  | none => false

/-! ## The write queue (R176) -/

/-- Hands an image to the write queue; one already waiting keeps its place. -/
def State.enqueue (s : State) (i : ImageId) : State :=
  if i ∈ s.queue then s else { s with queue := s.queue ++ [i] }

/-- Hands images over in order. -/
def State.enqueueAll (s : State) (l : List ImageId) : State := l.foldl State.enqueue s

/-! ## Plates -/

/-- The plate record a handle names (R1). -/
def State.plate? (s : State) (h : Handle) : Option PlateRec := s.plates.find h

/-- The plate record a handle names passed through `f`. -/
def State.modifyPlate (s : State) (h : Handle) (f : PlateRec → PlateRec) : State :=
  { s with plates := s.plates.modify h f }

/-- The plate's location set, with no place changed. -/
def State.putLocation (s : State) (h : Handle) (l : Location) : State :=
  s.modifyPlate h fun r => { r with st := { r.st with location := l } }

/-- The mass a plate counts for in sums: the one kept for it, or 0. -/
def State.massOfPlate (s : State) (h : Handle) : Nat :=
  match s.plate? h with
  | some r => r.mass.getD 0
  | none => 0

/-! ## Cranes, slots, beds -/

/-- The crane of a number. -/
def State.crane (s : State) (c : Nat) : Crane :=
  s.cranes.getD c ⟨.offline, none, none, none, false⟩

/-- A crane passed through `f`. -/
def State.modifyCrane (s : State) (c : Nat) (f : Crane → Crane) : State :=
  { s with cranes := s.cranes.modify c f }

/-- A crane's configuration. -/
def State.craneCfg (s : State) (c : Nat) : CraneCfg := s.hall.cranes.getD c (CraneCfg.factory c)

/-- A slot's contents. -/
def State.slot (s : State) (k : Nat) : Slot := s.slots.getD k ⟨[], [], false⟩

/-- A slot passed through `f`. -/
def State.modifySlot (s : State) (k : Nat) (f : Slot → Slot) : State :=
  { s with slots := s.slots.modify k f }

/-- A slot's configuration. -/
def State.slotCfg (s : State) (k : Nat) : SlotCfg := s.hall.slots.getD k (SlotCfg.factory k)

/-- The entry of bed `b` of table `t` among the 16 beds and job entries (R74). -/
def bedIndex (t b : Nat) : Nat := 2 * t + b

/-- A bed as a place. -/
def State.bed (s : State) (t b : Nat) : Bed := s.beds.getD (bedIndex t b) ⟨[], false⟩

/-- A bed passed through `f`. -/
def State.modifyBed (s : State) (t b : Nat) (f : Bed → Bed) : State :=
  { s with beds := s.beds.modify (bedIndex t b) f }

/-- Sets or clears a bed's skeleton mark (R50). -/
def State.putSkeleton (s : State) (t b : Nat) (v : Bool) : State :=
  s.modifyBed t b fun d => { d with skeleton := v }

/-! ## Legs and jobs -/

/-- Unfinished: QUEUED, ASSIGNED, LIFTED or CHECK (section 7.1). -/
def LegState.unfinished : LegState → Bool
  | .queued => true
  | .assigned => true
  | .lifted => true
  | .check => true
  | _ => false

/-- In a crane's hands: ASSIGNED, LIFTED or CHECK. -/
def LegState.inHand : LegState → Bool
  | .assigned => true
  | .lifted => true
  | .check => true
  | _ => false

/-- On a hook: LIFTED or CHECK. -/
def LegState.onHook : LegState → Bool
  | .lifted => true
  | .check => true
  | _ => false

/-- The leg record a handle names (R125). -/
def State.leg? (s : State) (h : Handle) : Option Leg := s.legs.find h

/-- The leg record a handle names passed through `f`. -/
def State.modifyLeg (s : State) (h : Handle) (f : Leg → Leg) : State :=
  { s with legs := s.legs.modify h f }

/-- The batch record a handle names (R125). -/
def State.batch? (s : State) (h : Handle) : Option Batch := s.batches.find h

/-- The batch record a handle names passed through `f`. -/
def State.modifyBatch (s : State) (h : Handle) (f : Batch → Batch) : State :=
  { s with batches := s.batches.modify h f }

/-- Whether an unfinished leg names a plate (R22, R23, R128). -/
def State.namedByLeg (s : State) (h : Handle) : Bool :=
  s.legs.any fun l => l.state.unfinished && l.plate == some h

/-- The job record a handle names (R74). -/
def State.job? (s : State) (h : Handle) : Option Job := s.jobs.find h

/-- The job record a handle names passed through `f`. -/
def State.modifyJob (s : State) (h : Handle) (f : Job → Job) : State :=
  { s with jobs := s.jobs.modify h f }

/-- A bed's job: the record in its job entry in any state other than CLEARED, with its handle (R73). -/
def State.bedJob (s : State) (t b : Nat) : Option (Handle × Job) :=
  match s.jobs.get? (bedIndex t b) with
  | none => none
  | some e =>
    match e.record with
    | none => none
    | some j => if j.state = .cleared then none else some (⟨bedIndex t b, e.gen⟩, j)

/-- The part record a handle names (R99). -/
def State.part? (s : State) (h : Handle) : Option Part := s.parts.find h

/-- The part record a handle names passed through `f`. -/
def State.modifyPart (s : State) (h : Handle) (f : Part → Part) : State :=
  { s with parts := s.parts.modify h f }

/-- The table a job's entry belongs to, and its bed (R74). -/
def jobTable (h : Handle) : Nat := h.idx / 2
def jobBed (h : Handle) : Nat := h.idx % 2

end Sys2Proof.Machine
end

