-- ==== Sys2Proof/Machine/Operands.lean ====
section
/-! DEFINITION. The request side of the Link Controller: the request code table (section 9.6), the checks of
R167, the ANSWER of R168 and the answer slot of R169; the choices of R174 read from their numbers; the fields
of answers. -/

namespace Sys2Proof.Machine

open Sys2Proof

/-! ## Choices from named sets, numbered from 0 in the order the set is listed (R174) -/

def Bay.ofNum : Nat → Option Bay
  | 0 => some .a
  | 1 => some .b
  | _ => none

def Bay.num : Bay → Nat
  | .a => 0
  | .b => 1

def StationKind.ofNum : Nat → Option StationKind
  | 0 => some .supervisor
  | 1 => some .table
  | 2 => some .marker
  | 3 => some .crane
  | 4 => some .cart
  | 5 => some .terminal
  | _ => none

def StationKind.num : StationKind → Nat
  | .supervisor => 0
  | .table => 1
  | .marker => 2
  | .crane => 3
  | .cart => 4
  | .terminal => 5

/-- The number of a flag (set or clear) or of a yes-or-no (R174): set and yes are listed first. That those with no list
of their own follow the same order is DEDUCED: notes/assumptions/44.md. -/
def flagNum (b : Bool) : Nat := if b then 0 else 1

/-- A flag or a yes-or-no from its number. -/
def flagOfNum : Nat → Option Bool
  | 0 => some true
  | 1 => some false
  | _ => none

/-- The number of the master enable: 0 off, 1 on (R184). -/
def enableNum (b : Bool) : Nat := if b then 1 else 0

/-- The master enable from its number. -/
def enableOfNum : Nat → Option Bool
  | 0 => some false
  | 1 => some true
  | _ => none

/-- The reasons of a retirement, numbered as section 1.1 lists them (R174). DEDUCED: notes/assumptions/16.md. -/
def RetireReason.num : RetireReason → Nat
  | .consumed => 0
  | .scrapped => 1
  | .shipped => 2

/-- The reasons Retire Plate takes: SCRAPPED or SHIPPED (R22), by the numbers of section 1.1 and not from 0 by R22's
own list of two. DEDUCED: notes/assumptions/16.md. -/
def RetireReason.ofRequest : Nat → Option RetireReason
  | 1 => some .scrapped
  | 2 => some .shipped
  | _ => none

def Orientation.ofNum : Nat → Option Orientation
  | 0 => some .along
  | 1 => some .rotated
  | _ => none

def PauseCause.ofNum : Nat → Option PauseCause
  | 0 => some .arcLoss
  | 1 => some .collision
  | 2 => some .operator
  | _ => none

def PauseCause.num : PauseCause → Nat
  | .arcLoss => 0
  | .collision => 1
  | .operator => 2

/-- The outcomes End Job takes: PASS or FAIL (R86). -/
def Verdict.ofRequest : Nat → Option Verdict
  | 0 => some .pass
  | 1 => some .fail
  | _ => none

def Verdict.num : Verdict → Nat
  | .pass => 0
  | .fail => 1
  | .aborted => 2

def Purpose.ofNum : Nat → Option Purpose
  | 0 => some .stock
  | 1 => some .remnant
  | 2 => some .intake
  | _ => none

def Purpose.num : Purpose → Nat
  | .stock => 0
  | .remnant => 1
  | .intake => 2

def Group.ofNum : Nat → Option Group
  | 0 => some .grades
  | 1 => some .slots
  | 2 => some .tables
  | 3 => some .cranes
  | 4 => some .cart
  | 5 => some .bins
  | 6 => some .runways
  | 7 => some .stations
  | 8 => some .alarms
  | _ => none

def Origin.num : Origin → Nat
  | .mill => 0
  | .derived => 1

def JobState.num : JobState → Nat
  | .admitted => 0
  | .loaded => 1
  | .burning => 2
  | .paused => 3
  | .ended => 4
  | .cleared => 5

def Role.num : Role → Nat
  | .active => 0
  | .staged => 1

def MarkState.num : MarkState → Nat
  | .planned => 0
  | .issued => 1
  | .marked => 2
  | .failed => 3

def CutState.num : CutState → Nat
  | .uncut => 0
  | .cut => 1
  | .scrapped => 2

def MarkOutcome.num : MarkOutcome → Nat
  | .made => 0
  | .failed => 1

def LegKind.num : LegKind → Nat
  | .fetch => 0
  | .ret => 1
  | .clearRemnant => 2
  | .clearSkeleton => 3
  | .dig => 4
  | .transferOut => 5
  | .transferIn => 6
  | .manual => 7

def LegState.num : LegState → Nat
  | .queued => 0
  | .assigned => 1
  | .lifted => 2
  | .check => 3
  | .done => 4
  | .cancelled => 5
  | .failed => 6

def HoldUp.num : HoldUp → Nat
  | .blocked => 0
  | .full => 1
  | .overload => 2
  | .noWork => 3
  | .tooDeep => 4

def BatchState.num : BatchState → Nat
  | .opened => 0
  | .committed => 1
  | .done => 2
  | .cancelled => 3

def CraneState.num : CraneState → Nat
  | .offline => 0
  | .idle => 1
  | .assigned => 2
  | .loaded => 3
  | .check => 4

/-- The values of the answer codes (section 9.6). -/
def AnsCode.num : AnsCode → Nat
  | .done => 0
  | .doneUnsaved => 1
  | .working => 2
  | .noResult => 3
  | .busy => 4
  | .notPermitted => 5
  | .badRequest => 6
  | .noSuch => 7
  | .wrongState => 8
  | .full => 9
  | .duplicate => 10
  | .gone => 11
  | .tooDeep => 12
  | .blocked => 13
  | .overload => 14
  | .mismatch => 15
  | .wrongPlace => 16
  | .inUse => 17
  | .powerDown => 18
  | .noWork => 19
  | .park => 20

/-- Whether a text is made of the link alphabet: A to Z, 0 to 9 and the hyphen (00_scope). -/
def textOk (t : Text) : Bool :=
  t.all fun c => (0x41#8 ≤ c && c ≤ 0x5A#8) || (0x30#8 ≤ c && c ≤ 0x39#8) || c == 0x2D#8

/-- Whether a text is of the link alphabet with `lo` to `hi` characters. -/
def textIn (lo hi : Nat) (t : Text) : Bool := lo ≤ t.length && t.length ≤ hi && textOk t

/-- Whether a number lies from `lo` to `hi`. -/
def inRange (lo hi v : Nat) : Bool := lo ≤ v && v ≤ hi

/-! ## Fields of answers (R174) -/

/-- An optional field: a presence byte, then the field. -/
def optTok {α : Type} (o : Option α) (f : α → List Token) : List Token :=
  match o with
  | none => [.choice 0]
  | some a => .choice 1 :: f a

/-- A flag or a yes-or-no in its byte (R174). -/
def flagTok (b : Bool) : Token := .choice (flagNum b)

/-- The master enable in its byte (R184). -/
def enableTok (b : Bool) : Token := .choice (enableNum b)

/-- A list: a count byte, then its entries. -/
def listTok (l : List (List Token)) : List Token := .num 1 l.length :: l.flatten

/-- How many bytes a place takes (R174). -/
def Place.size : Place → Nat
  | .slot _ => 2
  | .bed _ _ => 3
  | .hook _ => 2
  | _ => 1

/-- How many bytes a field takes (R174). -/
def Token.size : Token → Nat
  | .num w _ => w
  | .handle _ => 3
  | .choice _ => 1
  | .text t => 1 + t.length
  | .place p => Place.size p

/-- How many bytes fields take. -/
def sizeOfTokens (l : List Token) : Nat := (l.map Token.size).sum

/-- As many whole entries from the front as fit in `room` bytes. DEDUCED: notes/assumptions/17.md. -/
def fitting (room : Nat) : List (List Token) → List (List Token)
  | [] => []
  | e :: es => if sizeOfTokens e ≤ room then e :: fitting (room - sizeOfTokens e) es else []

/-- A list that may be too long for one frame (R174): the total count, then as many whole entries from the
start index as fit beside the `used` bytes of the rest of the payload. DEDUCED: notes/assumptions/17.md. -/
def pageTok (used : Nat) (start : Option Nat) (l : List (List Token)) : List Token :=
  .num 1 l.length :: (fitting (Config.payloadMax - used - 1) (l.drop (start.getD 0))).flatten

/-! ## Requests -/

/-- A row of the request code table (section 9.6). -/
structure Req where
  code : Nat
  kinds : List StationKind
  deferred : Bool
  deriving DecidableEq, Repr

/-- "Any" station kind. -/
def anyKind : List StationKind := [.supervisor, .table, .marker, .crane, .cart, .terminal]

def reqFetchResult : Req := ⟨0x01, anyKind, false⟩
def reqReadStation : Req := ⟨0x02, anyKind, false⟩
def reqEnrolStation : Req := ⟨0x03, [.supervisor], true⟩
def reqRemoveStation : Req := ⟨0x04, [.supervisor], true⟩
def reqRegisterPlate : Req := ⟨0x10, [.supervisor], true⟩
def reqReadPlate : Req := ⟨0x11, anyKind, false⟩
def reqAmendPlate : Req := ⟨0x12, [.supervisor], true⟩
def reqHoldPlate : Req := ⟨0x13, [.supervisor], true⟩
def reqReleasePlate : Req := ⟨0x14, [.supervisor], true⟩
def reqRetirePlate : Req := ⟨0x15, [.supervisor], true⟩
def reqReadSlot : Req := ⟨0x20, anyKind, false⟩
def reqFindRemnant : Req := ⟨0x28, [.supervisor, .terminal], true⟩
def reqReadSearchQueue : Req := ⟨0x29, anyKind, false⟩
def reqStageParts : Req := ⟨0x30, [.supervisor], false⟩
def reqAdmitJob : Req := ⟨0x31, [.supervisor], false⟩
def reqStartJob : Req := ⟨0x32, [.table], false⟩
def reqPartCut : Req := ⟨0x33, [.table], false⟩
def reqPauseJob : Req := ⟨0x34, [.table], false⟩
def reqResumeJob : Req := ⟨0x35, [.table], false⟩
def reqEndJob : Req := ⟨0x36, [.table], true⟩
def reqAbortJob : Req := ⟨0x37, [.supervisor], true⟩
def reqClearBed : Req := ⟨0x38, [.supervisor], false⟩
def reqReadTable : Req := ⟨0x39, anyKind, false⟩
def reqNextMark : Req := ⟨0x40, [.marker], false⟩
def reqMarkMade : Req := ⟨0x41, [.marker], false⟩
def reqMarkFailed : Req := ⟨0x42, [.marker], false⟩
def reqConfirmManualMark : Req := ⟨0x43, [.supervisor, .terminal], false⟩
def reqScrapPart : Req := ⟨0x44, [.supervisor], false⟩
def reqSortPart : Req := ⟨0x45, [.terminal], false⟩
def reqDispatchPallet : Req := ⟨0x46, [.supervisor, .terminal], false⟩
def reqReadPart : Req := ⟨0x47, anyKind, false⟩
def reqReadMarkerWindow : Req := ⟨0x48, anyKind, false⟩
def reqReadPallet : Req := ⟨0x49, anyKind, false⟩
def reqReadJobParts : Req := ⟨0x4A, anyKind, false⟩
def reqOpenBatch : Req := ⟨0x50, [.supervisor], false⟩
def reqAddLeg : Req := ⟨0x51, [.supervisor], false⟩
def reqCommitBatch : Req := ⟨0x52, [.supervisor], false⟩
def reqNextLeg : Req := ⟨0x53, [.crane], false⟩
def reqLifted : Req := ⟨0x54, [.crane], true⟩
def reqSetDown : Req := ⟨0x55, [.crane], true⟩
def reqAcceptLoad : Req := ⟨0x56, [.supervisor], false⟩
def reqLegFault : Req := ⟨0x57, [.crane], false⟩
def reqCancelLeg : Req := ⟨0x58, [.supervisor], false⟩
def reqBreakHook : Req := ⟨0x59, [.supervisor], true⟩
def reqNextTrip : Req := ⟨0x5A, [.cart], false⟩
def reqCartArrived : Req := ⟨0x5B, [.cart], false⟩
def reqReadLeg : Req := ⟨0x5C, anyKind, false⟩
def reqReadBatch : Req := ⟨0x5D, anyKind, false⟩
def reqReadCrane : Req := ⟨0x5E, anyKind, false⟩
def reqCraneReport : Req := ⟨0x60, [.crane], false⟩
def reqReadRunway : Req := ⟨0x61, anyKind, false⟩
def reqSetGrade : Req := ⟨0x70, [.supervisor], true⟩
def reqSetSlot : Req := ⟨0x71, [.supervisor], true⟩
def reqSetTable : Req := ⟨0x72, [.supervisor], true⟩
def reqSetCrane : Req := ⟨0x73, [.supervisor], true⟩
def reqSetCart : Req := ⟨0x74, [.supervisor], true⟩
def reqSetScrapBin : Req := ⟨0x75, [.supervisor], true⟩
def reqSetRunway : Req := ⟨0x76, [.supervisor], true⟩
def reqReadHallMap : Req := ⟨0x77, anyKind, false⟩
def reqRestart : Req := ⟨0x78, [.supervisor], false⟩
def reqReadAlarms : Req := ⟨0x80, anyKind, false⟩
def reqClearAlarms : Req := ⟨0x81, [.supervisor], false⟩
def reqSetAlertMask : Req := ⟨0x82, [.supervisor], true⟩

/-- The station whose request is handled (R167): address, kind, bound unit, and the request tag. -/
structure Asker where
  address : Nat
  kind : StationKind
  unit : Option Nat
  tag : Byte
  deriving DecidableEq, Repr

/-- The table or crane the asking station is bound to. -/
def Asker.unitNum (k : Asker) : Nat := k.unit.getD 0

/-- What the payload of an answer to this station holds before its fields: the code, and a permit for a crane. -/
def Asker.head (k : Asker) : Nat := if k.kind = .crane then 2 else 1

/-- What the owning block makes of a request.
* `now`: its final answer stands in the ANSWER frame (an immediate request, or a refusal of a deferred one);
* `complete`: a deferred request taken and complete at once;
* `waits`: a deferred request taken, whose answer waits for the writes of these images;
* `search`: a search taken; its answer comes at the scan's end. -/
inductive Reply where
  | now (s : State) (code : AnsCode) (fields : List Token)
  | complete (s : State) (code : AnsCode) (fields : List Token)
  | waits (s : State) (images : List ImageId) (code : AnsCode) (fields : List Token)
  | search (s : State)
  deriving DecidableEq, Repr

/-- The poll a reply belongs to. -/
inductive Due where
  | no (why : NotEnabled)
  | broken
  | polled (address : Nat) (st : Station)
  deriving DecidableEq, Repr

/-- Whether a reply is due, and from which station: the part polls once start-up has ended and until a Restart
has been answered (R163, R178), and a station speaks only when polled (R165).
DESIGN CHOICE: notes/assumptions/1.md. DEDUCED: notes/assumptions/21.md. -/
def State.due (s : State) : Due :=
  if s.phase = .running then
    if s.restartPending then .no .notRunning
    else
      match s.poll with
      | none => .no .noPoll
      | some p =>
        match s.station? p.address with
        | none => .broken
        | some st => .polled p.address st
  else .no .notRunning

/-- A valid reply: the miss count becomes 0, SILENT is cleared, the poll ends (R165, R166). -/
def State.heard (s : State) (a : Nat) : State :=
  { (s.modifyStation a fun st => { st with misses := 0, silent := false }) with poll := none }

/-- The permit that stands for a crane: GO when it has a claim and STOPPED is clear (R157). -/
def State.permit (s : State) (c : Nat) : Permit :=
  match (s.crane c).claim with
  | none => .stop
  | some _ => if (s.crane c).stopped then .stop else .go

/-- Sends the ANSWER frame (R168); a CRANE station's carries the permit that stands now. -/
def State.answer (s : State) (k : Asker) (code : AnsCode) (fields : List Token) : State :=
  { s with
    lastFrame := some (.answer
      { address := k.address
        tag := k.tag
        code := code
        permit := if k.kind = .crane then some (s.permit k.unitNum) else none
        fields := fields }) }

/-- A deferred request joins those that wait on writes (R14). -/
def State.defer (s : State) (d : Deferred) : State := { s with deferred := s.deferred ++ [d] }

/-- Takes the block's reply to the station: the answer slot (R169), the list of requests in flight, and the
ANSWER frame (R168). A deferred request that altered no image is complete at once (R14). -/
def State.deliver (r : Req) (k : Asker) : Reply → State
  | .now s code fields => s.answer k code fields
  | .complete s code fields => (s.putAnswer k.address (.held k.tag r.code code fields)).answer k .working []
  | .search s => (s.putAnswer k.address (.inFlight k.tag)).answer k .working []
  | .waits s images code fields =>
    match images with
    | [] => (s.putAnswer k.address (.held k.tag r.code code fields)).answer k .working []
    | _ :: _ =>
      ((s.putAnswer k.address (.inFlight k.tag)).defer
        { station := some k.address
          tag := k.tag
          request := r.code
          waits := images.map fun i => ⟨i, false⟩
          failed := false
          code := code
          fields := fields }).answer k .working []

/-- A good REQUEST from the polled station `a` (R167): a valid reply, which ends SILENT before the request is looked
at (DEDUCED: notes/assumptions/42.md); then the payload, the station's kind and the answer slot are checked in this
order, and a request that passes goes to the block that owns it. -/
def State.handle {α : Type} (s : State) (r : Req) (tag : Byte) (p : Payload α) (a : Nat) (st : Station)
    (body : Asker → α → State → Reply) : State :=
  let k : Asker := ⟨a, st.kind, st.unit, tag⟩
  let s' := s.heard a
  match p with
  | .malformed => s'.answer k .badRequest []
  | .fields v =>
    if st.kind ∈ r.kinds then
      if r.deferred && st.slot.busy then s'.answer k .busy []
      else State.deliver r k (body k v s')
    else s'.answer k .notPermitted []

/-- A request as a step: refused as an event where no reply is due. DEDUCED: notes/assumptions/21.md. -/
def request {α : Type} (r : Req) (tag : Byte) (p : Payload α) (s : State)
    (body : Asker → α → State → Reply) : Result :=
  match s.due with
  | .no why => .refused (.notEnabled why)
  | .broken => .fault .unknownStation
  | .polled a st => .next (s.handle r tag p a st body)

/-- A refusal of a request: its code, and nothing changed. -/
def Reply.refuse (s : State) (code : AnsCode) : Reply := .now s code []

end Sys2Proof.Machine
end

