-- ==== Sys2Proof/Machine/Images.lean ====
section
/-! DEFINITION. What the words of each image spell (section 10.1), by the field encoding of R174, and the array
read image by image (R175). The spec gives no layout. DESIGN CHOICE: notes/assumptions/7.md. -/

namespace Sys2Proof.Machine

open Sys2Proof

/-! ## Fields that only images hold -/

/-- A number of eight bytes. -/
def put8 (n : Nat) : List Byte := put4 n ++ put4 (n / 4294967296)

def take8 (l : List Byte) : Option (Nat × List Byte) := do
  let (a, l) ← take4 l
  let (b, l) ← take4 l
  return (a + 4294967296 * b, l)

/-- A choice from a named set, by the numbers of R174. -/
def takeChoice {α : Type} (ofNum : Nat → Option α) (l : List Byte) : Option (α × List Byte) := do
  let (n, l) ← take1 l
  let v ← ofNum n
  return (v, l)

def putFlag (b : Bool) : List Byte := put1 (flagNum b)

def takeFlag (l : List Byte) : Option (Bool × List Byte) := takeChoice flagOfNum l

def Origin.ofNum : Nat → Option Origin
  | 0 => some .mill
  | 1 => some .derived
  | _ => none

/-- A disposition in one byte: STOCK, or RETIRED with its reason. -/
def Disposition.num : Disposition → Nat
  | .stock => 0
  | .retired r => r.num + 1

def Disposition.ofNum : Nat → Option Disposition
  | 0 => some .stock
  | 1 => some (.retired .consumed)
  | 2 => some (.retired .scrapped)
  | 3 => some (.retired .shipped)
  | _ => none

/-- A location: its form, then its numbers, a slot's level among them. -/
def putLocation (l : Location) : List Byte :=
  match l with
  | .slot k level => put1 0 ++ (put1 k ++ put1 level)
  | .bed t b => put1 1 ++ (put1 t ++ put1 b)
  | .hook c => put1 2 ++ put1 c
  | .cart => put1 3
  | .nowhere => put1 4

def takeLocation (l : List Byte) : Option (Location × List Byte) := do
  let (form, l) ← take1 l
  match form with
  | 0 =>
    let (k, l) ← take1 l
    let (level, l) ← take1 l
    return (.slot k level, l)
  | 1 =>
    let (t, l) ← take1 l
    let (b, l) ← take1 l
    return (.bed t b, l)
  | 2 =>
    let (c, l) ← take1 l
    return (.hook c, l)
  | 3 => return (.cart, l)
  | 4 => return (.nowhere, l)
  | _ => none

/-- The entries of a collection with a fixed number of them. -/
def takeTable {α : Type} (n : Nat) (take : List Byte → Option (α × List Byte)) (l : List Byte) :
    Option (Table α n × List Byte) :=
  match takeEntries take n l with
  | some (as, l) => if h : as.length = n then some (⟨as, h⟩, l) else none
  | none => none

/-! ## The contents of the images -/

/-- An identity image: the record's generation, then the identity part (R5). -/
def putIdentity (g : Nat) (v : PlateId) : List Byte :=
  put1 g ++ put1 v.origin.num ++ putOpt putHandle v.parent ++ put1 v.depth ++ putText v.heat ++ put1 v.grade
    ++ put2 v.thickness ++ put2 v.length ++ put2 v.width ++ put1 v.headTrim ++ put1 v.tailTrim
    ++ put1 v.sideATrim ++ put1 v.sideBTrim ++ put4 v.seq

def takeIdentity (l : List Byte) : Option ((Nat × PlateId) × List Byte) := do
  let (g, l) ← take1 l
  let (origin, l) ← takeChoice Origin.ofNum l
  let (parent, l) ← takeOpt takeHandle l
  let (depth, l) ← take1 l
  let (heat, l) ← takeText l
  let (grade, l) ← take1 l
  let (thickness, l) ← take2 l
  let (length, l) ← take2 l
  let (width, l) ← take2 l
  let (headTrim, l) ← take1 l
  let (tailTrim, l) ← take1 l
  let (sideATrim, l) ← take1 l
  let (sideBTrim, l) ← take1 l
  let (seq, l) ← take4 l
  return ((g, ⟨origin, parent, depth, heat, grade, thickness, length, width, headTrim, tailTrim, sideATrim,
    sideBTrim, seq⟩), l)

/-- A state image: the record's generation, then the state part. -/
def putState (g : Nat) (v : PlateSt) : List Byte :=
  put1 g ++ put1 v.disposition.num ++ putLocation v.location ++ putOpt (putList putPanel) v.panels
    ++ putOpt put4 v.area ++ putFlag v.held ++ putFlag v.massDoubt ++ putFlag v.doubtful

def takeState (l : List Byte) : Option ((Nat × PlateSt) × List Byte) := do
  let (g, l) ← take1 l
  let (disposition, l) ← takeChoice Disposition.ofNum l
  let (location, l) ← takeLocation l
  let (panels, l) ← takeOpt (takeList takePanel) l
  let (area, l) ← takeOpt take4 l
  let (held, l) ← takeFlag l
  let (massDoubt, l) ← takeFlag l
  let (doubtful, l) ← takeFlag l
  return ((g, ⟨disposition, location, panels, area, held, massDoubt, doubtful⟩), l)

def putGrade (g : Grade) : List Byte :=
  putText g.label ++ put1 g.family ++ put2 g.density ++ put2 g.minLength ++ put2 g.minWidth ++ put1 g.clearance

def takeGrade (l : List Byte) : Option (Grade × List Byte) := do
  let (label, l) ← takeText l
  let (family, l) ← take1 l
  let (density, l) ← take2 l
  let (minLength, l) ← take2 l
  let (minWidth, l) ← take2 l
  let (clearance, l) ← take1 l
  return (⟨label, family, density, minLength, minWidth, clearance⟩, l)

def putSlotCfg (c : SlotCfg) : List Byte :=
  put1 c.bay.num ++ put2 c.position ++ put1 c.purpose.num ++ put1 c.capacity ++ put4 c.limit

def takeSlotCfg (l : List Byte) : Option (SlotCfg × List Byte) := do
  let (bay, l) ← takeChoice Bay.ofNum l
  let (position, l) ← take2 l
  let (purpose, l) ← takeChoice Purpose.ofNum l
  let (capacity, l) ← take1 l
  let (limit, l) ← take4 l
  return (⟨bay, position, purpose, capacity, limit⟩, l)

def putTableCfg (c : TableCfg) : List Byte := put2 c.bed0 ++ put2 c.bed1

def takeTableCfg (l : List Byte) : Option (TableCfg × List Byte) := do
  let (bed0, l) ← take2 l
  let (bed1, l) ← take2 l
  return (⟨bed0, bed1⟩, l)

def putCraneCfg (c : CraneCfg) : List Byte :=
  put1 c.runway.num ++ put1 c.order ++ put4 c.swl ++ put4 c.tare ++ put2 c.hw ++ put2 c.minThickness

def takeCraneCfg (l : List Byte) : Option (CraneCfg × List Byte) := do
  let (runway, l) ← takeChoice Bay.ofNum l
  let (order, l) ← take1 l
  let (swl, l) ← take4 l
  let (tare, l) ← take4 l
  let (hw, l) ← take2 l
  let (minThickness, l) ← take2 l
  return (⟨runway, order, swl, tare, hw, minThickness⟩, l)

def putPerBay (p : PerBay) : List Byte := put2 p.onA ++ put2 p.onB

def takePerBay (l : List Byte) : Option (PerBay × List Byte) := do
  let (a, l) ← take2 l
  let (b, l) ← take2 l
  return (⟨a, b⟩, l)

def putStationCfg (c : StationCfg) : List Byte :=
  put1 c.address ++ put1 c.kind.num ++ putOpt put1 c.unit ++ put1 c.weight

/-- A station of the stations group; a CRANE station is bound to a crane (R163). -/
def takeStationCfg (l : List Byte) : Option (StationCfg × List Byte) := do
  let (address, l) ← take1 l
  let (kind, l) ← takeChoice StationKind.ofNum l
  let (unit, l) ← takeOpt take1 l
  let (weight, l) ← take1 l
  if kind = .crane ∧ unit = none then none else some (⟨address, kind, unit, weight⟩, l)

def putAlarmCfg (c : AlarmCfg) : List Byte := put2 c.mask.toNat ++ put1 (enableNum c.enable)

def takeAlarmCfg (l : List Byte) : Option (AlarmCfg × List Byte) := do
  let (mask, l) ← take2 l
  let (enable, l) ← takeChoice enableOfNum l
  if mask < 4096 then some (⟨BitVec.ofNat 12 mask, enable⟩, l) else none

/-! ## The array read (R175, R181) -/

/-- What a read finds of the three images of a plate entry. -/
structure StoredPlate where
  genWord : Stored Nat
  identity : Stored (Nat × PlateId)
  state : Stored (Nat × PlateSt)
  deriving DecidableEq, Repr

/-- The three images of a plate entry as a read finds them. -/
def PlateImages.read (p : PlateImages) : StoredPlate where
  genWord := p.genWord.read take1
  identity := p.identity.read takeIdentity
  state := p.state.read takeState

/-- Every plate entry's images as a read finds them. -/
def Store.readPlates (s : Store) : Table StoredPlate 1024 := s.plates.map PlateImages.read

def Store.readHeader (s : Store) : Stored Nat := s.header.read take8

def Store.readGrades (s : Store) : Stored (Table Grade 64) := s.grades.read (takeTable 64 takeGrade)

def Store.readSlots (s : Store) : Stored (Table SlotCfg 96) := s.slots.read (takeTable 96 takeSlotCfg)

def Store.readTables (s : Store) : Stored (Table TableCfg 8) := s.tables.read (takeTable 8 takeTableCfg)

def Store.readCranes (s : Store) : Stored (Table CraneCfg 6) := s.cranes.read (takeTable 6 takeCraneCfg)

def Store.readCart (s : Store) : Stored PerBay := s.cart.read takePerBay

def Store.readBins (s : Store) : Stored PerBay := s.bins.read takePerBay

def Store.readRunways (s : Store) : Stored PerBay := s.runways.read takePerBay

def Store.readStations (s : Store) : Stored (List StationCfg) := s.stations.read (takeList takeStationCfg)

def Store.readAlarms (s : Store) : Stored AlarmCfg := s.alarms.read takeAlarmCfg

/-- The image that a name names. An index beyond the array has none (notes/assumptions/1.md). -/
def Store.image (s : Store) (i : ImageId) : Image :=
  match i with
  | .genWord n => ((s.plates.get? n).map PlateImages.genWord).getD []
  | .identity n => ((s.plates.get? n).map PlateImages.identity).getD []
  | .state n => ((s.plates.get? n).map PlateImages.state).getD []
  | .header => s.header
  | .group .grades => s.grades
  | .group .slots => s.slots
  | .group .tables => s.tables
  | .group .cranes => s.cranes
  | .group .cart => s.cart
  | .group .bins => s.bins
  | .group .runways => s.runways
  | .group .stations => s.stations
  | .group .alarms => s.alarms

/-- The array with one image replaced. -/
def Store.putImage (s : Store) (i : ImageId) (m : Image) : Store :=
  match i with
  | .genWord n => { s with plates := s.plates.modify n fun p => { p with genWord := m } }
  | .identity n => { s with plates := s.plates.modify n fun p => { p with identity := m } }
  | .state n => { s with plates := s.plates.modify n fun p => { p with state := m } }
  | .header => { s with header := m }
  | .group .grades => { s with grades := m }
  | .group .slots => { s with slots := m }
  | .group .tables => { s with tables := m }
  | .group .cranes => { s with cranes := m }
  | .group .cart => { s with cart := m }
  | .group .bins => { s with bins := m }
  | .group .runways => { s with runways := m }
  | .group .stations => { s with stations := m }
  | .group .alarms => { s with alarms := m }

/-- The array after a write of words over an image. -/
def Store.write (s : Store) (i : ImageId) (ws : List (BitVec 64)) (fate : WriteFate) : Store :=
  s.putImage i ((s.image i).write fate ws)

/-- The array after bits of it flipped. -/
def Store.decay (s : Store) (l : Decay) : Store :=
  l.foldl (fun s f => s.putImage f.image ((s.image f.image).flip f.word f.bit)) s

end Sys2Proof.Machine
end

