-- ==== Sys2Proof/Machine/Geometry.lean ====
section
/-! DEFINITION. Geometry and Mass (chapter 2): exact integer arithmetic on panels, areas, masses and hook
loads. None of it keeps state. -/

namespace Sys2Proof.Machine

open Sys2Proof

/-- A panel's area (R31). -/
def Panel.area (p : Panel) : Nat := p.length * p.width

/-- Two panels share interior area when each begins before the other ends along both axes (R30). -/
def Panel.overlaps (p q : Panel) : Bool :=
  p.x < q.x + q.length && q.x < p.x + p.length && p.y < q.y + q.width && q.y < p.y + p.width

/-- A panel of at least 1 by 1 within the usable rectangle (R30). -/
def Panel.within (p : Panel) (usableLength usableWidth : Nat) : Bool :=
  1 ≤ p.length && 1 ≤ p.width && p.x + p.length ≤ usableLength && p.y + p.width ≤ usableWidth

/-- The order in which panels are kept: larger area, then lower x, then lower y (R35). -/
def Panel.keptBefore (p q : Panel) : Bool :=
  q.area < p.area || (p.area == q.area && (p.x < q.x || (p.x == q.x && p.y < q.y)))

/-- A plate of a family matches a grade spec when both agree on the bits of the mask (R28). -/
def gradeMatches (family specFamily mask : Nat) : Bool :=
  family &&& mask == specFamily &&& mask

/-- The usable length (R29). -/
def PlateId.usableLength (p : PlateId) : Nat := p.length - p.headTrim - p.tailTrim

/-- The usable width (R29). -/
def PlateId.usableWidth (p : PlateId) : Nat := p.width - p.sideATrim - p.sideBTrim

/-- The sum of the areas of panels (R31). -/
def panelsArea (l : List Panel) : Nat := (l.map Panel.area).sum

/-- No two panels of the list share interior area. -/
def panelsApart : List Panel → Bool
  | [] => true
  | p :: ps => ps.all (fun q => !p.overlaps q) && panelsApart ps

/-- A list of panels valid for a usable rectangle (R30). -/
def panelsValid (l : List Panel) (usableLength usableWidth : Nat) : Bool :=
  inRange 1 Config.maxPanels l.length && l.all (fun p => p.within usableLength usableWidth) && panelsApart l

/-- The mass of a piece in units of 0.1 kg, from its area in mm², its thickness in 0.1 mm and its density in
kg/m³, rounded to the nearest unit with a half rounded up (R32). -/
def massOf (area thickness density : Nat) : Nat :=
  (area * thickness * density + 500000000) / 1000000000

/-- The extent of an envelope along and across the panel's length (R33). -/
def envExtent (o : Orientation) (envLength envWidth : Nat) : Nat × Nat :=
  match o with
  | .along => (envLength, envWidth)
  | .rotated => (envWidth, envLength)

/-- The envelope fits the panel at its origin (R33). -/
def envFits (p : Panel) (extent : Nat × Nat) : Bool :=
  extent.1 ≤ p.length && extent.2 ≤ p.width

/-- A candidate piece of the given size at (x, y), kept when both sizes are positive and at least the
minimums (R34). -/
def keptPiece (x y : Nat) (length width : Int) (minLength minWidth : Nat) : List Panel :=
  if 0 < length ∧ 0 < width ∧ (minLength : Int) ≤ length ∧ (minWidth : Int) ≤ width then
    [⟨x, y, length.toNat, width.toNat⟩]
  else []

/-- The tail piece: the full width of the panel beyond the envelope and the clearance (R34). -/
def tailPiece (p : Panel) (extent : Nat × Nat) (g : Grade) : List Panel :=
  keptPiece (p.x + extent.1 + g.clearance) p.y
    ((p.length : Int) - extent.1 - g.clearance) p.width g.minLength g.minWidth

/-- The side piece: beside the envelope, no longer than it (R34). -/
def sidePiece (p : Panel) (extent : Nat × Nat) (g : Grade) : List Panel :=
  keptPiece p.x (p.y + extent.2 + g.clearance)
    extent.1 ((p.width : Int) - extent.2 - g.clearance) g.minLength g.minWidth

/-- The best four panels, in the order they stand in (R35). -/
def bestFour (l : List Panel) : List Panel :=
  l.filter fun p => l.countP (fun q => q.keptBefore p) < Config.maxPanels

/-- The panel list the derivation arithmetic assembles (R33 to R35): the parent's other panels, the tail
piece, the side piece, and of these at most the best four. -/
def derivedPanels (panels : List Panel) (index : Nat) (extent : Nat × Nat) (g : Grade) : List Panel :=
  match panels[index]? with
  | some p => bestFour (panels.eraseIdx index ++ tailPiece p extent g ++ sidePiece p extent g)
  | none => bestFour panels

/-- The skeleton area: the parent's piece area less the remnant's and less the net areas of the parts CUT; a
result below 0 becomes 0 (R37). -/
def skeletonArea (parentArea remnantArea cutArea : Nat) : Nat :=
  ((parentArea : Int) - remnantArea - cutArea).toNat

/-- The expected hook load: the tare plus the mass lifted (R38). -/
def hookLoad (tare mass : Nat) : Nat := tare + mass

/-- The tolerance of an expected hook load (R39). -/
def tolerance (expected : Nat) : Nat := expected * 3 / 100 + 2000

/-- A measured load clamped to 0 and 4,000,000 (R39). -/
def clampLoad (v : Int) : Nat :=
  if v < 0 then 0 else if (Config.maxLoad : Int) < v then Config.maxLoad else v.toNat

/-- The lift agrees when the difference is no more than the tolerance (R39). -/
def loadAgrees (expected load : Nat) : Bool :=
  load ≤ expected + tolerance expected && expected ≤ load + tolerance expected

/-- A panel of length `l` and width `w` holds a rectangle unrotated (R61). -/
def fitsAlong (p : Panel) (length width : Nat) : Bool := length ≤ p.length && width ≤ p.width

/-- A panel holds a rectangle lying across it (R61). -/
def fitsAcross (p : Panel) (length width : Nat) : Bool := width ≤ p.length && length ≤ p.width

/-- The waste of a fitting panel (R61). -/
def wasteOf (p : Panel) (length width : Nat) : Nat := p.area - length * width

/-- The waste band (R61). -/
def bandOf (waste : Nat) : Nat := waste / 1000000

end Sys2Proof.Machine
end

