-- ==== Sys2Proof/Machine/Racks.lean ====
section
/-! DEFINITION. Racks, Stacks and Places (chapter 3): stacks and their masses, room, plates joining and
leaving places, the over-capacity mark, runway positions, destination choice; and the services of the Plate
Register that move, create and retire plate records (sections 1.1 and 1.6). -/

namespace Sys2Proof.Machine

open Sys2Proof

/-- The place of a location. -/
def Location.place : Location → Place
  | .slot k _ => .slot k
  | .bed t b => .bed t b
  | .hook c => .hook c
  | .cart => .cart
  | .nowhere => .nowhere

/-! ## What a stack weighs and whether it has room -/

/-- What a plate counts for in its stack's mass: DOUBTFUL plates are left out (R43). -/
def State.stackShare (s : State) (h : Handle) : Nat :=
  match s.plate? h with
  | some r => if r.st.doubtful then 0 else r.mass.getD 0
  | none => 0

/-- The stack mass (R43). -/
def State.stackMass (s : State) (k : Nat) : Nat := ((s.slot k).stack.map s.stackShare).sum

/-- The mass of the plate a leg carries. -/
def State.legPlateMass (s : State) (h : Handle) : Nat :=
  match s.leg? h with
  | none => 0
  | some l =>
    match l.plate with
    | none => 0
    | some p => s.massOfPlate p

/-- The incoming mass: the sum of the masses of the incoming legs' plates (R44). -/
def State.incomingMass (s : State) (k : Nat) : Nat := ((s.slot k).incoming.map s.legPlateMass).sum

/-- A slot has room for a plate (R45); the mass is absent for a DOUBTFUL plate, tested on length alone. -/
def State.hasRoom (s : State) (k : Nat) (mass : Option Nat) : Bool :=
  (s.slot k).stack.length + (s.slot k).incoming.length < (s.slotCfg k).capacity
    && (match mass with
        | none => true
        | some m => s.stackMass k + s.incomingMass k + m ≤ (s.slotCfg k).limit)
    && !(s.slot k).overCap

/-- The mass a plate is tested with: absent while it is DOUBTFUL (R45). -/
def PlateRec.roomMass (r : PlateRec) : Option Nat :=
  if r.st.doubtful then none else some (r.mass.getD 0)

/-- The cart has room when it holds no plate and its incoming list is empty (R51). -/
def State.cartHasRoom (s : State) : Bool := s.cart.plates.isEmpty && s.cart.incoming.isEmpty

/-- A bed with no plate and no skeleton (R50). -/
def State.bedBare (s : State) (t b : Nat) : Bool :=
  (s.bed t b).plates.isEmpty && !(s.bed t b).skeleton

/-- The number of plates above a plate in its stack (R43). -/
def State.burialDepth (s : State) (k level : Nat) : Nat := (s.slot k).stack.length - level - 1

/-- A marked slot is cleared once its length and its mass are within its bounds (R54). -/
def State.examineSlot (s : State) (k : Nat) : State :=
  if (s.slot k).overCap && (s.slot k).stack.length ≤ (s.slotCfg k).capacity
      && s.stackMass k ≤ (s.slotCfg k).limit then
    s.modifySlot k fun c => { c with overCap := false }
  else s

/-! ## Plates joining and leaving places -/

/-- The plates above a plate in the stack it lies in, from the lowest up. -/
def State.platesAbove (s : State) (h : Handle) (k : Nat) : List Handle :=
  (s.slot k).stack.drop ((s.slot k).stack.idxOf h + 1)

/-- Plates that moved down take the levels from `level` up, and their state images are queued in that order
(R42, R47). -/
def relevel (k : Nat) : Nat → List Handle → State → State
  | _, [], s => s
  | level, h :: hs, s =>
    relevel k (level + 1) hs ((s.putLocation h (.slot k level)).enqueue (.state h.idx))

/-- A plate leaves a slot from its own position, and those above move down one level (R42, R47). -/
def State.leaveSlot (s : State) (h : Handle) (k : Nat) : State :=
  (relevel k ((s.slot k).stack.idxOf h) (s.platesAbove h k)
    (s.modifySlot k fun c => { c with stack := c.stack.erase h })).examineSlot k

/-- A plate leaves the place it lies in: a slot stack, a bed, the cart, or a hook (R24, R50, R51). -/
def State.leavePlace (s : State) (h : Handle) : State :=
  match s.plate? h with
  | none => s
  | some r =>
    match r.st.location with
    | .slot k _ => s.leaveSlot h k
    | .bed t b => s.modifyBed t b fun d => { d with plates := d.plates.erase h }
    | .cart => { s with cart := { s.cart with plates := s.cart.plates.erase h } }
    | .hook _ => s
    | .nowhere => s

/-- A plate joins a place: on top of a slot's stack, a bed, the cart, a hook, or nowhere known (R42, R50, R51). -/
def State.joinPlace (s : State) (h : Handle) (p : Place) : State :=
  match p with
  | .slot k =>
    (s.modifySlot k fun c => { c with stack := c.stack ++ [h] }).putLocation h
      (.slot k (s.slot k).stack.length)
  | .bed t b => (s.modifyBed t b fun d => { d with plates := d.plates ++ [h] }).putLocation h (.bed t b)
  | .cart => ({ s with cart := { s.cart with plates := s.cart.plates ++ [h] } }).putLocation h .cart
  | .hook c => s.putLocation h (.hook c)
  | .nowhere => s.putLocation h .nowhere
  | .scrapBin => s
  | .choose => s

/-- The images a move out of a plate's place alters beside the plate's own: those of the plates above it. -/
def State.movedImages (s : State) (h : Handle) : List ImageId :=
  match s.plate? h with
  | none => []
  | some r =>
    match r.st.location with
    | .slot k _ => (s.platesAbove h k).map fun g => .state g.idx
    | _ => []

/-- A plate is moved to a place; its own state image is queued before those of the plates moved down (R47). -/
def State.movePlate (s : State) (h : Handle) (p : Place) : State :=
  ((s.enqueue (.state h.idx)).leavePlace h).joinPlace h p

/-- A plate record is retired (R6): it leaves its place, its location becomes NONE, its reservation, carrying
leg and mass go, and its state image is queued. -/
def State.retirePlate (s : State) (h : Handle) (why : RetireReason) : State :=
  ((s.enqueue (.state h.idx)).leavePlace h).modifyPlate h fun r =>
    { r with
      st := { r.st with disposition := .retired why, location := .nowhere }
      job := none
      leg := none
      mass := none }

/-! ## Creating a plate record (R2 to R5) -/

/-- A plate entry that a new record may take: FREE, or holding a RETIRED record (R3). -/
def plateEntryFree (e : Entry PlateRec) : Bool :=
  match e.record with
  | none => true
  | some r => r.st.disposition != .stock

/-- Whether the Plate Register can create a record: an entry by R3 and a counter not exhausted (R4). -/
def State.canCreatePlate (s : State) : Bool :=
  (s.plates.firstIdx? plateEntryFree).isSome && s.seqCounter < Config.counterEnd

/-- Creates a record: lowest entry (R3), generation (R2), creation sequence number (R4); its three images are
queued. The identity's sequence number is the counter's. -/
def State.createPlate (s : State) (ident : PlateId) (st : PlateSt) (mass : Nat) : Option (State × Handle) :=
  if s.seqCounter < Config.counterEnd then
    match s.plates.create plateEntryFree
        ⟨{ ident with seq := s.seqCounter }, st, none, none, some mass⟩ with
    | none => none
    | some (plates, h) =>
      some
        (({ s with plates := plates, seqCounter := s.seqCounter + 1 }).enqueueAll
          [.genWord h.idx, .identity h.idx, .state h.idx], h)
  else none

/-! ## The reservation and carrying services (R23, R24) -/

/-- Why the reservation service would refuse a plate, if it would (R23). -/
def State.reserveRefusal (s : State) (h : Handle) : Option AnsCode :=
  match s.plate? h with
  | none => some .noSuch
  | some r =>
    if r.st.disposition ≠ .stock || r.use ≠ .free || s.namedByLeg h then some .gone
    else if r.st.held || r.st.doubtful then some .blocked
    else none

/-- The reservation is set (R23). -/
def State.reserve (s : State) (h job : Handle) : State := s.modifyPlate h fun r => { r with job := some job }

/-- A job releases its plate: the reserving job is removed if it is that job (R23). -/
def State.releasePlate (s : State) (h job : Handle) : State :=
  s.modifyPlate h fun r => if r.job = some job then { r with job := none } else r

/-- A leg for the plate is assigned: the carrying leg is set (R24). -/
def State.carry (s : State) (h leg : Handle) : State := s.modifyPlate h fun r => { r with leg := some leg }

/-- A leg leaves ASSIGNED, LIFTED and CHECK: the carrying leg is removed (R24). -/
def State.uncarry (s : State) (h : Handle) : State := s.modifyPlate h fun r => { r with leg := none }

/-! ## Positions and destination choice -/

/-- The runway position of a place, the cart and the scrap bin on the runway of the bay asking (R52). -/
def State.placePos (s : State) (bay : Bay) : Place → Nat
  | .slot k => (s.slotCfg k).position
  | .bed t d =>
    match d with
    | 0 => (s.hall.tables.getD t (TableCfg.factory t)).bed0
    | _ => (s.hall.tables.getD t (TableCfg.factory t)).bed1
  | .cart => s.hall.cart.get bay
  | .scrapBin => s.hall.bins.get bay
  | _ => 0

/-- The runway distance between two positions (R52). -/
def distance (p q : Nat) : Nat := (p - q) + (q - p)

/-- The preference groups of a leg's kind and its plate's origin (R53, step 3). -/
def preference (k : LegKind) (o : Origin) : List (List Purpose) :=
  match k with
  | .clearRemnant => [[.remnant], [.stock]]
  | .transferIn => [[.remnant], [.stock]]
  | .dig => [[.stock, .remnant]]
  | .ret =>
    match o with
    | .derived => [[.remnant], [.stock]]
    | .mill => [[.stock], [.remnant]]
  | .manual =>
    match o with
    | .derived => [[.remnant], [.stock]]
    | .mill => [[.stock], [.remnant]]
  | _ => []

/-- The candidates of a preference group: slots of the bay with room, other than the source slot (R53, step 2). -/
def State.candidates (s : State) (bay : Bay) (source : Place) (mass : Option Nat) (group : List Purpose) :
    List Nat :=
  (List.range 96).filter fun k =>
    (s.slotCfg k).bay = bay && group.contains (s.slotCfg k).purpose && source != .slot k && s.hasRoom k mass

/-- The nearest of ascending slots, the lower number among equals (R53, step 4). -/
def State.nearest (s : State) (pos : Nat) : List Nat → Option Nat
  | [] => none
  | k :: ks =>
    match s.nearest pos ks with
    | none => some k
    | some j =>
      if distance pos (s.slotCfg k).position ≤ distance pos (s.slotCfg j).position then some k else some j

/-- The nearest candidate of the first group that holds one. -/
def State.firstGroup (s : State) (bay : Bay) (source : Place) (mass : Option Nat) :
    List (List Purpose) → Option Nat
  | [] => none
  | g :: gs =>
    match s.nearest (s.placePos bay source) (s.candidates bay source mass g) with
    | some k => some k
    | none => s.firstGroup bay source mass gs

/-- The destination choice for a leg of a kind whose plate lies at `source` (R53). -/
def State.chooseSlot (s : State) (bay : Bay) (kind : LegKind) (source : Place) (r : PlateRec) : Option Nat :=
  s.firstGroup bay source r.roomMass (preference kind r.ident.origin)

/-! ## Read Slot (R49) -/

/-- The fields of a slot's configuration. -/
def SlotCfg.tokens (c : SlotCfg) : List Token :=
  [.choice c.bay.num, .num 2 c.position, .choice c.purpose.num, .num 1 c.capacity, .num 4 c.limit]

/-- What Read Slot answers for a slot number in range.
DEDUCED: notes/assumptions/17.md. DEDUCED: notes/assumptions/18.md. -/
def State.slotTokens (s : State) (k : Asker) (i : Nat) (start : Option Nat) : List Token :=
  let c := (s.slotCfg i).tokens
  let tail : List Token :=
    [.num 1 (s.slot i).stack.length, .num 4 (s.stackMass i), .num 1 (s.slot i).incoming.length,
      .num 4 (s.incomingMass i)]
      ++ listTok ((s.slot i).incoming.map fun h => [.handle h])
      ++ [flagTok (s.slot i).overCap]
  c ++ pageTok (k.head + sizeOfTokens c + sizeOfTokens tail) start
      ((s.slot i).stack.map fun h => [.handle h]) ++ tail

/-- READ_SLOT (R49). -/
def execReadSlot (tag : Byte) (p : Payload ReadNumF) (s : State) : Result :=
  request reqReadSlot tag p s fun k f s =>
    if f.index < 96 then .now s .done (s.slotTokens k f.index f.start) else .refuse s .badRequest

end Sys2Proof.Machine
end

