-- ==== Sys2Proof/Machine/Plates.lean ====
section
/-! DEFINITION. The plate requests (chapter 1). -/

namespace Sys2Proof.Machine

open Sys2Proof

/-! ## Register Plate (R15, R16) -/

/-- The fields of Register Plate lie in their ranges (R15, check 1). -/
def RegisterF.inRanges (f : RegisterF) : Bool :=
  textIn 1 12 f.heat && inRange 0 63 f.grade && inRange 30 1500 f.thickness && inRange 500 24000 f.length
    && inRange 300 5000 f.width && inRange 10 250 f.headTrim && inRange 10 250 f.tailTrim
    && inRange 15 250 f.sideATrim && inRange 15 250 f.sideBTrim && inRange 0 95 f.slot

/-- The identity of the MILL record a request describes (R5, R16); the sequence number is given at creation. -/
def RegisterF.ident (f : RegisterF) : PlateId where
  origin := .mill
  parent := none
  depth := 0
  heat := f.heat
  grade := f.grade
  thickness := f.thickness
  length := f.length
  width := f.width
  headTrim := f.headTrim
  tailTrim := f.tailTrim
  sideATrim := f.sideATrim
  sideBTrim := f.sideBTrim
  seq := 0

/-- The density of a grade. -/
def State.density (s : State) (g : Nat) : Nat := (s.hall.grades.getD g (Grade.factory g)).density

/-- A grade table entry. -/
def State.grade (s : State) (g : Nat) : Grade := s.hall.grades.getD g (Grade.factory g)

/-- The mass of a piece of a plate, by its thickness and its grade's density (R32). -/
def State.massFor (s : State) (p : PlateId) (area : Nat) : Nat := massOf area p.thickness (s.density p.grade)

/-- The state part of a MILL record at creation, but for its location (R16). -/
def PlateId.millState (p : PlateId) : PlateSt where
  disposition := .stock
  location := .nowhere
  panels := some [⟨0, 0, p.usableLength, p.usableWidth⟩]
  area := some (p.length * p.width)
  held := false
  massDoubt := false
  doubtful := false

/-- Register Plate in the Plate Register. -/
def registerPlate (_ : Asker) (f : RegisterF) (s : State) : Reply :=
  if s.pfw then .refuse s .powerDown
  else if !f.inRanges then .refuse s .badRequest
  else if f.ident.usableLength < 300 || f.ident.usableWidth < 200 then .refuse s .badRequest
  else
    let mass := s.massFor f.ident (f.length * f.width)
    if !s.canCreatePlate then .refuse s .full
    else if !s.hasRoom f.slot (some mass) then .refuse s .full
    else
      match s.createPlate f.ident f.ident.millState mass with
      | none => .refuse s .full
      | some (s', h) =>
        .waits (s'.joinPlace h (.slot f.slot)) [.genWord h.idx, .identity h.idx, .state h.idx] .done
          [.handle h, .num 1 (s.slot f.slot).stack.length]

/-- REGISTER_PLATE (R15, R16). -/
def execRegisterPlate (tag : Byte) (p : Payload RegisterF) (s : State) : Result :=
  request reqRegisterPlate tag p s registerPlate

/-! ## Read Plate (R17) -/

def Panel.tokens (p : Panel) : List Token := [.num 2 p.x, .num 2 p.y, .num 2 p.length, .num 2 p.width]

/-- A location: its place, then the level where that is a slot. DESIGN CHOICE: notes/assumptions/49.md. -/
def Location.tokens (l : Location) : List Token :=
  match l with
  | .slot k level => [.place (.slot k), .num 1 level]
  | .bed t b => [.place (.bed t b)]
  | .hook c => [.place (.hook c)]
  | .cart => [.place .cart]
  | .nowhere => [.place .nowhere]

/-- A disposition: STOCK (0) alone, RETIRED (1) with its reason after it. DESIGN CHOICE: notes/assumptions/49.md. -/
def Disposition.tokens (d : Disposition) : List Token :=
  match d with
  | .stock => [.choice 0]
  | .retired why => [.choice 1, .choice why.num]

/-- A use: FREE (0) alone, RESERVED (1) with the job, MOVING (2) with the leg.
DESIGN CHOICE: notes/assumptions/49.md. -/
def Use.tokens (u : Use) : List Token :=
  match u with
  | .free => [.choice 0]
  | .reserved j => [.choice 1, .handle j]
  | .moving l => [.choice 2, .handle l]

/-- The burial depth of a plate that lies in a slot (R43). -/
def State.depthOf (s : State) (r : PlateRec) : Option Nat :=
  match r.st.location with
  | .slot k level => some (s.burialDepth k level)
  | _ => none

/-- Every field of the identity part, in the order of the table of section 1.1. -/
def PlateId.tokens (p : PlateId) (h : Handle) : List Token :=
  [.handle h, .choice p.origin.num]
    ++ optTok p.parent (fun g => [.handle g])
    ++ [.num 1 p.depth, .text p.heat, .num 1 p.grade, .num 2 p.thickness, .num 2 p.length, .num 2 p.width,
        .num 1 p.headTrim, .num 1 p.tailTrim, .num 1 p.sideATrim, .num 1 p.sideBTrim, .num 4 p.seq]

/-- Every field of the state part, in the order of the table of section 1.1. -/
def PlateSt.tokens (t : PlateSt) : List Token :=
  t.disposition.tokens ++ t.location.tokens
    ++ optTok t.panels (fun l => listTok (l.map Panel.tokens))
    ++ optTok t.area (fun a => [.num 4 a])
    ++ [flagTok t.held, flagTok t.massDoubt, flagTok t.doubtful]

/-- What Read Plate answers for a record (R17). -/
def State.plateTokens (s : State) (h : Handle) (r : PlateRec) : List Token :=
  r.ident.tokens h ++ r.st.tokens ++ r.use.tokens ++ optTok r.mass (fun m => [.num 4 m])
    ++ optTok (s.depthOf r) (fun d => [.num 1 d])

/-- READ_PLATE (R17). -/
def execReadPlate (tag : Byte) (p : Payload Handle) (s : State) : Result :=
  request reqReadPlate tag p s fun _ h s =>
    match s.plate? h with
    | none => .refuse s .noSuch
    | some r => .now s .done (s.plateTokens h r)

/-! ## Amend Plate (R18, R19) -/

/-- The piece area a request leaves the plate with (R19, R31). -/
def AmendF.newArea (f : AmendF) (r : PlateRec) : Nat :=
  match r.ident.origin with
  | .mill => r.ident.length * r.ident.width
  | .derived => f.area.getD (panelsArea f.panels)

/-- A piece area may be given for a DERIVED plate only, from the sum of the panels to the nominal area (R18). -/
def AmendF.areaOk (f : AmendF) (r : PlateRec) : Bool :=
  match f.area with
  | none => true
  | some a =>
    match r.ident.origin with
    | .mill => false
    | .derived => panelsArea f.panels ≤ a && a ≤ r.ident.length * r.ident.width

/-- A location that Amend Plate takes: a slot, a bed, the cart or NONE (R18). DEDUCED: notes/assumptions/40.md. -/
def amendPlaceOk (p : Place) : Bool :=
  match p with
  | .slot k => k ≤ 95
  | .bed t b => t ≤ 7 && b ≤ 1
  | .cart => true
  | .nowhere => true
  | _ => false

/-- Check 3 of R18. -/
def AmendF.inRanges (f : AmendF) (r : PlateRec) : Bool :=
  panelsValid f.panels r.ident.usableLength r.ident.usableWidth && f.areaOk r
    && (match f.location with
        | none => true
        | some p => amendPlaceOk p)

/-- A bed given as the location holds no job, no skeleton, and no plate other than this one (R18 check 5, R50).
DEDUCED: notes/assumptions/33.md. -/
def State.bedTakes (s : State) (h : Handle) (t b : Nat) : Bool :=
  (s.bedJob t b).isNone && !(s.bed t b).skeleton && (s.bed t b).plates.all (· == h)

/-- Check 6 of R18: room at the place the plate goes to or stays at, with its new mass. -/
def State.amendRoom (s : State) (h : Handle) (r : PlateRec) (f : AmendF) (mass : Nat) : Bool :=
  let stays (k : Nat) : Bool :=
    s.stackMass k - s.stackShare h + mass + s.incomingMass k ≤ (s.slotCfg k).limit
  match f.location with
  | none =>
    match r.st.location with
    | .slot k _ => stays k
    | _ => true
  | some (.slot k) => if r.st.location.place = .slot k then stays k else s.hasRoom k (some mass)
  | some .cart => r.st.location = .cart || s.cartHasRoom
  | some _ => true

/-- A plate on a hook must be given a location (R18, check 4). -/
def AmendF.leavesOnHook (f : AmendF) (r : PlateRec) : Bool :=
  match r.st.location, f.location with
  | .hook _, none => true
  | _, _ => false

/-- The record with the new panels, area and mass, and with MASS_DOUBT and DOUBTFUL cleared (R19). -/
def AmendF.apply (f : AmendF) (mass : Nat) (r : PlateRec) : PlateRec :=
  { r with
    st := { r.st with
      panels := some f.panels
      area := some (f.newArea r)
      massDoubt := false
      doubtful := false }
    mass := some mass }

/-- Whether the request moves the plate: a location given that differs from the present one (R19). -/
def AmendF.moves (f : AmendF) (r : PlateRec) : Option Place :=
  match f.location with
  | none => none
  | some p => if r.st.location.place = p then none else some p

/-- Amend Plate in the Plate Register. DEDUCED: notes/assumptions/10.md. -/
def amendPlate (_ : Asker) (f : AmendF) (s : State) : Reply :=
  if s.pfw then .refuse s .powerDown
  else
    match s.plate? f.plate with
    | none => .refuse s .noSuch
    | some r =>
      if r.st.disposition ≠ .stock || r.use ≠ .free then .refuse s .wrongState
      else if !f.inRanges r then .refuse s .badRequest
      else if f.leavesOnHook r then .refuse s .wrongState
      else if (match f.location with
          | some (.bed t b) => !s.bedTakes f.plate t b
          | _ => false) then .refuse s .wrongState
      else
        let mass := s.massFor r.ident (f.newArea r)
        if !s.amendRoom f.plate r f mass then .refuse s .full
        else
          let own : ImageId := .state f.plate.idx
          match f.moves r with
          | none =>
            if (f.apply mass r).st = r.st then .complete (s.modifyPlate f.plate (f.apply mass)) .done []
            else .waits ((s.modifyPlate f.plate (f.apply mass)).enqueue own) [own] .done []
          | some place =>
            .waits ((s.modifyPlate f.plate (f.apply mass)).movePlate f.plate place)
              (own :: s.movedImages f.plate) .done []

/-- AMEND_PLATE (R18, R19). DEDUCED: notes/assumptions/10.md. -/
def execAmendPlate (tag : Byte) (p : Payload AmendF) (s : State) : Result :=
  request reqAmendPlate tag p s amendPlate

/-! ## Hold Plate and Release Plate (R20, R21) -/

/-- The shared body of Hold Plate and Release Plate: HELD takes the value `v`. -/
def setHeld (v : Bool) (_ : Asker) (h : Handle) (s : State) : Reply :=
  if s.pfw then .refuse s .powerDown
  else
    match s.plate? h with
    | none => .refuse s .noSuch
    | some r =>
      if r.st.disposition ≠ .stock then .refuse s .wrongState
      else if r.st.doubtful then .refuse s .blocked
      else if r.st.held = v then .complete s .done []
      else
        .waits ((s.modifyPlate h fun r => { r with st := { r.st with held := v } }).enqueue (.state h.idx))
          [.state h.idx] .done []

/-- HOLD_PLATE (R20). -/
def execHoldPlate (tag : Byte) (p : Payload Handle) (s : State) : Result :=
  request reqHoldPlate tag p s (setHeld true)

/-- RELEASE_PLATE (R21). -/
def execReleasePlate (tag : Byte) (p : Payload Handle) (s : State) : Result :=
  request reqReleasePlate tag p s (setHeld false)

/-! ## Retire Plate (R22) -/

/-- A plate in a slot lies at the top of its stack (R22, check 4). -/
def State.atTop (s : State) (r : PlateRec) : Bool :=
  match r.st.location with
  | .slot k level => s.burialDepth k level == 0
  | _ => true

/-- Retire Plate in the Plate Register. -/
def retirePlate (_ : Asker) (f : RetireF) (s : State) : Reply :=
  if s.pfw then .refuse s .powerDown
  else
    match RetireReason.ofRequest f.reason with
    | none => .refuse s .badRequest
    | some why =>
      match s.plate? f.plate with
      | none => .refuse s .noSuch
      | some r =>
        if r.st.disposition ≠ .stock || r.use ≠ .free then .refuse s .wrongState
        else if !s.atTop r then .refuse s .wrongState
        else if s.namedByLeg f.plate then .refuse s .wrongState
        else .waits (s.retirePlate f.plate why) [.state f.plate.idx] .done []

/-- RETIRE_PLATE (R22). -/
def execRetirePlate (tag : Byte) (p : Payload RetireF) (s : State) : Result :=
  request reqRetirePlate tag p s retirePlate

end Sys2Proof.Machine
end

