-- ==== Sys2Proof/Machine/Search.lean ====
section
/-! DEFINITION. The Fit Search Unit (chapter 4): its queue, the scan in flight, eligibility, fit and ranking. -/

namespace Sys2Proof.Machine

open Sys2Proof

/-! ## Find Remnant (R57 to R59) -/

/-- The fields of Find Remnant lie in their ranges (R57, check 1). -/
def FindF.inRanges (f : FindF) : Bool :=
  inRange 0 255 f.specFamily && inRange 0 255 f.specMask && inRange 30 1500 f.thickness
    && inRange 0 50 f.tolerance && inRange 1 23980 f.length && inRange 1 4970 f.width
    && inRange 0 1 f.rotation && inRange 1 4 f.wanted

/-- The search record of a request (R58). Of the two values of rotation allowed, 0 is yes (R174, section 4.1). -/
def FindF.search (f : FindF) (k : Asker) : SearchRec where
  station := k.address
  tag := k.tag
  specFamily := f.specFamily
  specMask := f.specMask
  thickness := f.thickness
  tolerance := f.tolerance
  length := f.length
  width := f.width
  rotation := f.rotation == 0
  wanted := f.wanted

/-- A scan starts when the unit is IDLE and its queue is not empty (R59). -/
def State.startScan (s : State) : State :=
  match s.scan with
  | some _ => s
  | none =>
    match s.searchQueue with
    | [] => s
    | q :: qs => { s with searchQueue := qs, scan := some ⟨q, 0, []⟩ }

/-- Find Remnant in the Fit Search Unit. -/
def findRemnant (k : Asker) (f : FindF) (s : State) : Reply :=
  if !f.inRanges then .refuse s .badRequest
  else if Config.searchQueueMax ≤ s.searchQueue.length then .refuse s .full
  else .search ({ s with searchQueue := s.searchQueue ++ [f.search k] }).startScan

/-- FIND_REMNANT (R57, R58). -/
def execFindRemnant (tag : Byte) (p : Payload FindF) (s : State) : Result :=
  request reqFindRemnant tag p s findRemnant

/-! ## Reaching an entry (R60 to R65) -/

/-- The slot and level of a location, when it is one. -/
def Location.inSlot (l : Location) : Option (Nat × Nat) :=
  match l with
  | .slot k level => some (k, level)
  | _ => none

/-- A plate is eligible for a search (R60), its place apart. -/
def State.fitsSearch (s : State) (q : SearchRec) (r : PlateRec) : Bool :=
  r.st.disposition == .stock && r.use == .free && !r.st.held && !r.st.massDoubt && !r.st.doubtful
    && gradeMatches (s.grade r.ident.grade).family q.specFamily q.specMask
    && q.thickness ≤ r.ident.thickness && r.ident.thickness ≤ q.thickness + q.tolerance

/-- A panel fits the required rectangle in one way or the other (R61). -/
def SearchRec.fits (q : SearchRec) (p : Panel) : Bool :=
  fitsAlong p q.length q.width || (q.rotation && fitsAcross p q.length q.width)

/-- The best fitting panel with its index: least waste, then lower index (R62). -/
def SearchRec.bestPanel (q : SearchRec) : Nat → List Panel → Option (Nat × Panel)
  | _, [] => none
  | i, p :: ps =>
    match q.bestPanel (i + 1) ps with
    | none => if q.fits p then some (i, p) else none
    | some (j, b) =>
      if q.fits p && wasteOf p q.length q.width ≤ wasteOf b q.length q.width then some (i, p) else some (j, b)

/-- The candidate an eligible plate in a slot offers (R62). -/
def SearchRec.candidate (q : SearchRec) (h : Handle) (r : PlateRec) (depth : Nat) : Option Candidate :=
  match q.bestPanel 0 (r.st.panels.getD []) with
  | none => none
  | some (i, p) =>
    some
      { plate := h
        panel := i
        rotated := !fitsAlong p q.length q.width
        depth := depth
        waste := wasteOf p q.length q.width
        band := bandOf (wasteOf p q.length q.width)
        origin := r.ident.origin
        seq := r.ident.seq }

/-- The keys of the ranking in order: DERIVED before MILL, band, burial depth, waste, sequence number (R63). -/
def Candidate.keys (c : Candidate) : List Nat :=
  [match c.origin with
    | .derived => 0
    | .mill => 1, c.band, c.depth, c.waste, c.seq]

/-- The better of two candidates (R63). -/
def Candidate.ranksBefore (c d : Candidate) : Bool := keysBefore c.keys d.keys

/-- What entry `i` offers to a search (R60 to R62). -/
def State.offer (s : State) (q : SearchRec) (i : Nat) : Option Candidate :=
  match s.plates.get? i with
  | none => none
  | some e =>
    match e.record with
    | none => none
    | some r =>
      match r.st.location.inSlot with
      | none => none
      | some (k, level) =>
        if s.fitsSearch q r then q.candidate ⟨i, e.gen⟩ r (s.burialDepth k level) else none

/-- A candidate is placed at its rank, and the list kept to the wanted count (R63). -/
def rankIn (wanted : Nat) (l : List Candidate) (c : Candidate) : List Candidate :=
  (insertBy Candidate.ranksBefore c l).take wanted

/-- The working list after an entry's offer. -/
def workingAfter (wanted : Nat) (l : List Candidate) (o : Option Candidate) : List Candidate :=
  match o with
  | none => l
  | some c => rankIn wanted l c

/-- The five values a result gives of a candidate (R68). -/
def Candidate.tokens (c : Candidate) : List Token :=
  [.handle c.plate, .num 1 c.panel, flagTok c.rotated, .num 1 c.depth, .num 4 c.waste]

/-- The scan ends: its result goes to the station's answer slot (R65), and the next scan starts (R59). -/
def State.endScan (s : State) (q : SearchRec) (result : List Candidate) : State :=
  ({ (match s.station? q.station with
      | some st =>
        if st.slot = AnsSlot.inFlight q.tag then
          s.putAnswer q.station
            (.held q.tag reqFindRemnant.code .done (listTok (result.map Candidate.tokens)))
        else s
      | none => s) with scan := none }).startScan

/-- SCAN_REACH_ENTRY (R60): the scan reaches its next entry and advances; after entry 1023 it ends.
DEDUCED: notes/assumptions/22.md. -/
def execScanReachEntry (s : State) : Result :=
  match s.phase with
  | .running =>
    match s.scan with
    | none => .refused (.notEnabled .noScan)
    | some c =>
      let working := workingAfter c.search.wanted c.working (s.offer c.search c.position)
      if c.position + 1 < Config.plateEntries then
        .next { s with scan := some { c with position := c.position + 1, working := working } }
      else .next (s.endScan c.search working)
  | _ => .refused (.notEnabled .notRunning)

/-! ## Withdrawal (R66) -/

/-- A station's outstanding search is withdrawn: its record leaves the queue, or its scan is abandoned and the
next one starts. -/
def State.withdrawSearch (s : State) (a : Nat) : State :=
  ({ s with
      searchQueue := s.searchQueue.filter fun q => q.station != a
      scan :=
        match s.scan with
        | some c => if c.search.station = a then none else some c
        | none => none }).startScan

/-! ## Read Search Queue (R70) -/

/-- What Read Search Queue answers: IDLE (0) or SCANNING (1), the fields of the scan in flight where there is one, the
queue as one list of pairs of an address and a tag. DESIGN CHOICE: notes/assumptions/47.md and, for the pairs,
notes/assumptions/55.md. -/
def State.searchTokens (s : State) : List Token :=
  (match s.scan with
    | none => [.choice 0]
    | some c =>
      [.choice 1, .num 1 c.search.station, .num 1 c.search.tag.toNat, .num 1 c.search.wanted,
        .num 2 c.position, .num 1 c.working.length])
    ++ listTok (s.searchQueue.map fun q => [.num 1 q.station, .num 1 q.tag.toNat])

/-- READ_SEARCH_QUEUE (R70). -/
def execReadSearchQueue (tag : Byte) (p : Payload Unit) (s : State) : Result :=
  request reqReadSearchQueue tag p s fun _ _ s => .now s .done s.searchTokens

end Sys2Proof.Machine
end

