-- ==== Sys2Proof/Machine/Parts.lean ====
section
/-! DEFINITION. Parts, Marks and Pallets (chapter 6): part records, cut states, marker windows, marks by hand,
the sorting condition, pallets. -/

namespace Sys2Proof.Machine

open Sys2Proof

/-! ## Operations on part records -/

/-- The marker window of a table. -/
def State.window (s : State) (t : Nat) : Window := s.windows.getD t ⟨[], none⟩

/-- A marker window replaced. -/
def State.putWindow (s : State) (t : Nat) (w : Window) : State := { s with windows := s.windows.set t w }

/-- A pallet's list of parts. -/
def State.pallet (s : State) (p : Nat) : List Handle := s.pallets.getD p []

/-- A pallet's list replaced. -/
def State.putPallet (s : State) (p : Nat) (l : List Handle) : State := { s with pallets := s.pallets.set p l }

/-- The resume point of a part list: the lowest nest index whose part is UNCUT, or the list's length (R83). -/
def State.resumeOf (s : State) (parts : List Handle) : Nat :=
  parts.findIdx fun h =>
    match s.part? h with
    | some p => p.cut == .uncut
    | none => false

/-- The Table Sequencer recomputes a job's resume point (R83, R102). -/
def State.recomputeResume (s : State) (job : Handle) : State :=
  s.modifyJob job fun j => { j with resume := s.resumeOf j.parts }

/-- A part takes a cut state, and its job's resume point is recomputed (R102). -/
def State.putCut (s : State) (h : Handle) (c : CutState) : State :=
  match s.part? h with
  | none => s
  | some p => (s.modifyPart h fun p => { p with cut := c }).recomputeResume p.job

/-- Every UNCUT part of a list becomes SCRAPPED (R87 step 1, R93 step 2, R102). -/
def State.scrapUncut (s : State) (parts : List Handle) : State :=
  parts.foldl (fun s h =>
    match s.part? h with
    | none => s
    | some p => if p.cut = .uncut then s.putCut h .scrapped else s) s

/-- Every live part of a list whose cut state is SCRAPPED retires (R120). -/
def State.retireScrapped (s : State) (parts : List Handle) : State :=
  parts.foldl (fun s h =>
    match s.part? h with
    | none => s
    | some p => if p.cut = .scrapped then { s with parts := s.parts.release h } else s) s

/-- One part taken out of an emptied window: it becomes FAILED, and UNMARKED_CUT is raised if it is CUT (R110). -/
def State.failIssued (s : State) (h : Handle) : State :=
  match s.part? h with
  | none => s
  | some p => (s.modifyPart h fun p => { p with mark := .failed }).raiseIf (p.cut == .cut) .unmarkedCut

/-- A table's marker window is emptied, oldest part first, and its last confirmation made absent (R104, R110). -/
def State.emptyWindow (s : State) (t : Nat) : State :=
  ((s.window t).parts.foldl State.failIssued s).putWindow t ⟨[], none⟩

/-- Unmarked-cut: CUT with mark state PLANNED or FAILED (section 6.1). -/
def Part.unmarkedCut (p : Part) : Bool := p.cut == .cut && (p.mark == .planned || p.mark == .failed)

/-- A job's sorting condition: no part of its list is live, CUT and ON_BED (R114). -/
def State.sorted (s : State) (parts : List Handle) : Bool :=
  parts.all fun h =>
    match s.part? h with
    | none => true
    | some p => !(p.cut == .cut && p.placement == .onBed)

/-- The ACTIVE job of a table (R75). -/
def State.activeJob (s : State) (t : Nat) : Option (Handle × Job) :=
  match s.bedJob t 0 with
  | some (h, j) =>
    if j.role = some .active then some (h, j)
    else
      match s.bedJob t 1 with
      | some (h', j') => if j'.role = some .active then some (h', j') else none
      | none => none
  | none =>
    match s.bedJob t 1 with
    | some (h', j') => if j'.role = some .active then some (h', j') else none
    | none => none

/-- The next part to mark: the lowest nest index PLANNED and UNCUT (R105, check 2). -/
def State.nextPart (s : State) (parts : List Handle) : Option (Handle × Part) :=
  parts.findSome? fun h =>
    match s.part? h with
    | some p => if p.mark = .planned ∧ p.cut = .uncut then some (h, p) else none
    | none => none

/-- A part record is free to be taken (R99). -/
def partEntryFree (e : Entry Part) : Bool := e.record.isNone

/-- A triple is held by a live part record (R101). -/
def State.tripleHeld (s : State) (d : DraftEntry) : Bool :=
  s.parts.any fun p => p.hull == d.hull && p.block == d.block && p.number == d.number

/-- Two draft entries carry the same triple (R101). -/
def DraftEntry.sameTriple (d e : DraftEntry) : Bool :=
  d.hull == e.hull && d.block == e.block && d.number == e.number

/-- The duplicate check: a triple of the draft is held by a live record, or two entries carry one triple (R101). -/
def State.duplicates (s : State) : List DraftEntry → Bool
  | [] => false
  | d :: ds => s.tripleHeld d || ds.any d.sameTriple || s.duplicates ds

/-- The creation service (R100): one PLANNED, UNCUT part ON_BED for each draft entry in draft order, in the
lowest FREE entries; the handles come back in nest order. -/
def State.createParts (job : Handle) (plate : PlateId) : Nat → List DraftEntry → State → State × List Handle
  | _, [], s => (s, [])
  | i, d :: ds, s =>
    match s.parts.create partEntryFree
        { job := job
          index := i
          hull := d.hull
          block := d.block
          number := d.number
          area := d.area
          heat := plate.heat
          grade := plate.grade
          thickness := plate.thickness
          mark := .planned
          cut := .uncut
          placement := .onBed
          manual := false } with
    | none => (s, [])
    | some (parts, h) =>
      let rest := State.createParts job plate (i + 1) ds { s with parts := parts }
      (rest.1, h :: rest.2)

/-! ## Marker requests (R105 to R110) -/

/-- Next Mark in the Part Register. -/
def nextMark (k : Asker) (_ : Unit) (s : State) : Reply :=
  match s.activeJob k.unitNum with
  | none => .refuse s .noResult
  | some (_, j) =>
    if j.state = .loaded ∨ j.state = .burning ∨ j.state = .paused then
      match s.nextPart j.parts with
      | none => .refuse s .noResult
      | some (h, p) =>
        let w := s.window k.unitNum
        if Config.windowMax ≤ w.parts.length then .refuse s .full
        else
          .now ((s.modifyPart h fun p => { p with mark := .issued }).putWindow k.unitNum
                { w with parts := w.parts ++ [h] })
            .done
            [.handle h, .num 1 p.index, .text p.hull, .text p.block, .num 4 p.number, .text p.heat,
              .num 1 p.grade, .text (s.grade p.grade).label, .num 2 p.thickness]
    else .refuse s .noResult

/-- NEXT_MARK (R105, R106). -/
def execNextMark (tag : Byte) (p : Payload Unit) (s : State) : Result :=
  request reqNextMark tag p s nextMark

/-- A confirmation by the marking head (R107, R108): taken for the head of the window, answered DONE without a
change when it repeats the last confirmation (R109), else WRONG_STATE. DEDUCED: notes/assumptions/26.md. -/
def confirmMark (o : MarkOutcome) (k : Asker) (h : Handle) (s : State) : Reply :=
  match s.part? h with
  | none => .refuse s .noSuch
  | some p =>
    let w := s.window k.unitNum
    if w.parts.head? = some h then
      let s' := (s.modifyPart h fun p =>
          { p with mark := match o with
              | .made => .marked
              | .failed => .failed }).putWindow k.unitNum ⟨w.parts.tail, some ⟨h, o⟩⟩
      .now (s'.raiseIf (o == .failed && p.cut == .cut) .unmarkedCut) .done [.num 1 w.parts.tail.length]
    else if w.last = some ⟨h, o⟩ then .now s .done []
    else .refuse s .wrongState

/-- MARK_MADE (R107). -/
def execMarkMade (tag : Byte) (p : Payload Handle) (s : State) : Result :=
  request reqMarkMade tag p s (confirmMark .made)

/-- MARK_FAILED (R108). -/
def execMarkFailed (tag : Byte) (p : Payload Handle) (s : State) : Result :=
  request reqMarkFailed tag p s (confirmMark .failed)

/-! ## Marks by hand and scrapping (R111 to R113) -/

/-- Confirm Manual Mark in the Part Register. -/
def confirmManualMark (_ : Asker) (h : Handle) (s : State) : Reply :=
  match s.part? h with
  | none => .refuse s .noSuch
  | some p =>
    if p.cut = .scrapped then .refuse s .wrongState
    else
      match p.mark with
      | .planned => .now (s.modifyPart h fun p => { p with mark := .marked, manual := true }) .done []
      | .failed => .now (s.modifyPart h fun p => { p with mark := .marked, manual := true }) .done []
      | .marked => .now s .done []
      | .issued => .refuse s .wrongState

/-- CONFIRM_MANUAL_MARK (R111). -/
def execConfirmManualMark (tag : Byte) (p : Payload Handle) (s : State) : Result :=
  request reqConfirmManualMark tag p s confirmManualMark

/-- A part leaves the pallet it lies on; the parts behind it move up (R113). -/
def State.offPallet (s : State) (h : Handle) (pl : Placement) : State :=
  match pl with
  | .pallet p => s.putPallet p ((s.pallet p).erase h)
  | _ => s

/-- A part's job is CLEARED, or its handle names no job record (R113). -/
def State.jobGone (s : State) (job : Handle) : Bool :=
  match s.job? job with
  | none => true
  | some j => j.state == .cleared

/-- The effects of Scrap Part (R113). -/
def State.scrapPart (s : State) (h : Handle) (p : Part) : State :=
  let s' := ((s.offPallet h p.placement).modifyPart h fun p =>
    { p with cut := .scrapped, placement := .nowhere }).recomputeResume p.job
  if s'.jobGone p.job then { s' with parts := s'.parts.release h } else s'

/-- Scrap Part in the Part Register. -/
def scrapPart (_ : Asker) (h : Handle) (s : State) : Reply :=
  match s.part? h with
  | none => .refuse s .noSuch
  | some p => if p.cut = .scrapped then .now s .done [] else .now (s.scrapPart h p) .done []

/-- SCRAP_PART (R112, R113). -/
def execScrapPart (tag : Byte) (p : Payload Handle) (s : State) : Result :=
  request reqScrapPart tag p s scrapPart

/-! ## Pallets (R115 to R119) -/

/-- Sort Part in the Part Register. -/
def sortPart (_ : Asker) (f : SortF) (s : State) : Reply :=
  if 15 < f.pallet then .refuse s .badRequest
  else
    match s.part? f.part with
    | none => .refuse s .noSuch
    | some p =>
      if p.cut = .cut ∧ p.placement = .onBed then
        match s.job? p.job with
        | none => .refuse s .wrongState
        | some j =>
          if j.state ≠ .ended then .refuse s .wrongState
          else if Config.palletMax ≤ (s.pallet f.pallet).length then .refuse s .full
          else
            .now ((s.putPallet f.pallet (s.pallet f.pallet ++ [f.part])).modifyPart f.part fun p =>
                { p with placement := .pallet f.pallet })
              .done [.num 1 ((s.pallet f.pallet).length + 1)]
      else .refuse s .wrongState

/-- SORT_PART (R116, R117). -/
def execSortPart (tag : Byte) (p : Payload SortF) (s : State) : Result :=
  request reqSortPart tag p s sortPart

/-- Whether a handle names a part that is not MARKED. -/
def State.notMarked (s : State) (h : Handle) : Bool :=
  match s.part? h with
  | none => false
  | some p => p.mark != .marked

/-- Every part of a list retires (R119). -/
def State.retireParts (s : State) (l : List Handle) : State :=
  l.foldl (fun s h => { s with parts := s.parts.release h }) s

/-- Dispatch Pallet in the Part Register. -/
def dispatchPallet (_ : Asker) (p : Nat) (s : State) : Reply :=
  if 15 < p then .refuse s .badRequest
  else
    match (s.pallet p).filter s.notMarked with
    | [] => .now ((s.retireParts (s.pallet p)).putPallet p []) .done [.num 1 (s.pallet p).length]
    | h :: hs =>
      .now s .wrongState (.num 1 (h :: hs).length :: listTok (((h :: hs).take 8).map fun g => [.handle g]))

/-- DISPATCH_PALLET (R118, R119). -/
def execDispatchPallet (tag : Byte) (p : Payload Nat) (s : State) : Result :=
  request reqDispatchPallet tag p s dispatchPallet

/-! ## Reading the register (R121 to R123) -/

/-- A placement: ON_BED (0), PALLET (1) with its number after it, NONE (2).
DESIGN CHOICE: notes/assumptions/49.md. -/
def Placement.tokens (p : Placement) : List Token :=
  match p with
  | .onBed => [.choice 0]
  | .pallet n => [.choice 1, .num 1 n]
  | .nowhere => [.choice 2]

/-- The place of a handle in a list, counted from 0, when it stands in it. DESIGN CHOICE: notes/assumptions/41.md. -/
def positionIn (h : Handle) (l : List Handle) : Option Nat :=
  if h ∈ l then some (l.idxOf h) else none

/-- The position of a part in its table's marker window or on its pallet (R121). -/
def State.partPosition (s : State) (h : Handle) (p : Part) : Option Nat :=
  match p.placement with
  | .pallet n => positionIn h (s.pallet n)
  | _ => positionIn h (s.window (jobTable p.job)).parts

/-- What Read Part answers (R121). -/
def State.partTokens (s : State) (h : Handle) (p : Part) : List Token :=
  [.handle h, .handle p.job, .num 1 p.index, .text p.hull, .text p.block, .num 4 p.number, .num 4 p.area,
    .text p.heat, .num 1 p.grade, .num 2 p.thickness, .choice p.mark.num, .choice p.cut.num]
    ++ p.placement.tokens ++ [flagTok p.manual]
    ++ optTok (s.partPosition h p) (fun n => [.num 1 n])

/-- READ_PART (R121). -/
def execReadPart (tag : Byte) (p : Payload Handle) (s : State) : Result :=
  request reqReadPart tag p s fun _ h s =>
    match s.part? h with
    | none => .refuse s .noSuch
    | some p => .now s .done (s.partTokens h p)

/-- What Read Marker Window answers for a table in range (R122). The next part is named whether or not the window is
full: DESIGN CHOICE: notes/assumptions/48.md. -/
def State.windowTokens (s : State) (t : Nat) : List Token :=
  let active := s.activeJob t
  optTok active (fun a => [.handle a.1])
    ++ listTok ((s.window t).parts.map fun h =>
        match s.part? h with
        | some p => [.handle h, .num 1 p.index, .choice p.cut.num]
        | none => [.handle h, .num 1 0, .choice 0])
    ++ optTok (s.window t).last (fun c => [.handle c.part, .choice c.outcome.num])
    ++ optTok (match active with
        | some (_, j) =>
          if j.state = .loaded ∨ j.state = .burning ∨ j.state = .paused then s.nextPart j.parts else none
        | none => none) (fun n => [.num 1 n.2.index])

/-- READ_MARKER_WINDOW (R122). -/
def execReadMarkerWindow (tag : Byte) (p : Payload Nat) (s : State) : Result :=
  request reqReadMarkerWindow tag p s fun _ t s =>
    if t ≤ 7 then .now s .done (s.windowTokens t) else .refuse s .badRequest

/-- What Read Pallet answers for a pallet in range (R122). DEDUCED: notes/assumptions/18.md. -/
def State.palletTokens (s : State) (k : Asker) (n : Nat) (start : Option Nat) : List Token :=
  let tail : List Token := [.num 1 (s.pallet n).length, .num 1 ((s.pallet n).countP s.notMarked)]
  pageTok (k.head + sizeOfTokens tail) start ((s.pallet n).map fun h => [.handle h]) ++ tail

/-- READ_PALLET (R122). -/
def execReadPallet (tag : Byte) (p : Payload ReadNumF) (s : State) : Result :=
  request reqReadPallet tag p s fun k f s =>
    if f.index ≤ 15 then .now s .done (s.palletTokens k f.index f.start) else .refuse s .badRequest

/-- What Read Job Parts answers for one entry of the part list (R123). -/
def State.jobPartTokens (s : State) (h : Handle) : List Token :=
  .handle h :: (match s.part? h with
    | some p =>
      [.choice 1, .choice p.mark.num, .choice p.cut.num] ++ p.placement.tokens ++ [flagTok p.manual]
    | none => [.choice 0])

/-- Whether a handle names a part that is unmarked-cut. -/
def State.isUnmarkedCut (s : State) (h : Handle) : Bool :=
  match s.part? h with
  | some p => p.unmarkedCut
  | none => false

/-- What Read Job Parts answers for a job found (R123). DEDUCED: notes/assumptions/18.md. -/
def State.jobPartsTokens (s : State) (k : Asker) (j : Job) (start : Option Nat) : List Token :=
  let tail : List Token := [.num 1 (j.parts.countP s.isUnmarkedCut), flagTok (s.sorted j.parts)]
  pageTok (k.head + sizeOfTokens tail) start (j.parts.map s.jobPartTokens) ++ tail

/-- READ_JOB_PARTS (R123). -/
def execReadJobParts (tag : Byte) (p : Payload ReadHandleF) (s : State) : Result :=
  request reqReadJobParts tag p s fun k f s =>
    match s.job? f.handle with
    | none => .refuse s .noSuch
    | some j => .now s .done (s.jobPartsTokens k j f.start)

end Sys2Proof.Machine
end

