-- ==== Sys2Proof/Machine/Zones.lean ====
section
/-! DEFINITION. The Runway Zone Units (chapter 8): claims and their grant, Crane Report, the shrink of a claim,
park positions. -/

namespace Sys2Proof.Machine

open Sys2Proof

/-- A crane's half-width (section 7.3). -/
def State.halfWidth (s : State) (c : Nat) : Nat := (s.craneCfg c).hw

/-- The bay of a crane's configured runway. -/
def State.craneBay (s : State) (c : Nat) : Bay := (s.craneCfg c).runway

/-- The cranes of a runway: those in service whose configured runway it is (R131). -/
def State.runwayCranes (s : State) (bay : Bay) : List Nat :=
  (List.range 6).filter fun c => s.inService c && s.craneBay c == bay

/-- The claim that covers the positions from `lo` to `hi` with a crane's half-width on either side (R152). -/
def claimOf (hw lo hi : Nat) : Claim := ⟨(lo : Int) - hw, (hi : Int) + hw⟩

/-- The idle claim of a crane at a position (R152). -/
def State.idleClaim (s : State) (c p : Nat) : Claim := claimOf (s.halfWidth c) p p

/-- The leg claim of a crane at `p` for a leg from `src` to `dst` (R152). -/
def State.legClaim (s : State) (c p src dst : Nat) : Claim :=
  claimOf (s.halfWidth c) (min p (min src dst)) (max p (max src dst))

/-- A claim lies inside another. -/
def Claim.within (c d : Claim) : Bool := d.lo ≤ c.lo && c.hi ≤ d.hi

/-- Two intervals share a decimetre. -/
def Claim.meets (c d : Claim) : Bool := c.lo ≤ d.hi && d.lo ≤ c.hi

/-- A new claim for crane `c` agrees with the present claim of another crane `d` (R153). -/
def State.agrees (s : State) (c : Nat) (q : Claim) (d : Nat) : Bool :=
  match (s.crane d).claim with
  | none => true
  | some p =>
    if (s.craneCfg d).order < (s.craneCfg c).order then p.hi < q.lo else q.hi < p.lo

/-- A claim for a crane is grantable when it agrees with that of every other crane of the runway (R153). -/
def State.grantable (s : State) (c : Nat) (q : Claim) : Bool :=
  (s.runwayCranes (s.craneBay c)).all fun d => d == c || s.agrees c q d

/-- A crane's claim replaced. -/
def State.putClaim (s : State) (c : Nat) (q : Claim) : State :=
  s.modifyCrane c fun k => { k with claim := some q }

/-- A crane's STOPPED set or cleared. -/
def State.putStopped (s : State) (c : Nat) (v : Bool) : State :=
  s.modifyCrane c fun k => { k with stopped := v }

/-- STOPPED is set, and ZONE_BREACH raised when it was clear before (R155, R156). -/
def State.breach (s : State) (c : Nat) : State :=
  (s.raiseIf (!(s.crane c).stopped) .zoneBreach).putStopped c true

/-- A reported position taken into the runway's length (R155). -/
def State.clampPosition (s : State) (bay : Bay) (v : Int) : Nat :=
  if v < 0 then 0 else min v.toNat (s.hall.runways.get bay)

/-- A Crane Report for a crane that is OFFLINE (R155): online where its idle claim is grantable, else STOPPED
with ZONE_BREACH raised. DEDUCED: notes/assumptions/39.md. -/
def State.reportOffline (s : State) (c p : Nat) : State :=
  if s.grantable c (s.idleClaim c p) then
    s.modifyCrane c fun k =>
      { k with state := .idle, position := some p, claim := some (s.idleClaim c p), stopped := false }
  else (s.raise .zoneBreach).putStopped c true

/-- A Crane Report for a crane that is IDLE (R155). -/
def State.reportIdle (s : State) (c p : Nat) : State :=
  let s' := s.modifyCrane c fun k => { k with position := some p }
  if s.grantable c (s.idleClaim c p) then (s'.putClaim c (s.idleClaim c p)).putStopped c false
  else s'.breach c

/-- Whether a crane's idle claim at a position lies inside its claim. -/
def State.insideClaim (s : State) (c p : Nat) : Bool :=
  match (s.crane c).claim with
  | some q => (s.idleClaim c p).within q
  | none => false

/-- A Crane Report for a crane with a leg (R156). -/
def State.reportBusy (s : State) (c p : Nat) : State :=
  let s' := s.modifyCrane c fun k => { k with position := some p }
  if s.insideClaim c p then s'.putStopped c false else s'.breach c

/-- What a Crane Report makes of a crane, by the crane's state (R155, R156). -/
def State.report (s : State) (c p : Nat) : State :=
  match (s.crane c).state with
  | .offline => s.reportOffline c p
  | .idle => s.reportIdle c p
  | .assigned => s.reportBusy c p
  | .loaded => s.reportBusy c p
  | .check => s.reportBusy c p

/-- A claim, or a mark that there is none. -/
def claimTokens (o : Option Claim) : List Token := optTok o fun q => [.num 2 q.lo, .num 2 q.hi]

/-- Crane Report in the Runway Zone Unit. -/
def craneReport (k : Asker) (v : Int) (s : State) : Reply :=
  let p := s.clampPosition (s.craneBay k.unitNum) v
  let s' := s.report k.unitNum p
  .now s' .done (.num 2 p :: claimTokens (s'.crane k.unitNum).claim)

/-- CRANE_REPORT (R155 to R157). -/
def execCraneReport (tag : Byte) (p : Payload Int) (s : State) : Result :=
  request reqCraneReport tag p s craneReport

/-- The claim of a crane that became IDLE shrinks (R158); it stays frozen while the crane is SILENT, and SILENT has
ended when the request that is the first valid reply is served. DEDUCED: notes/assumptions/42.md. -/
def State.shrink (s : State) (c : Nat) : State :=
  if s.craneSilent c then s
  else
    match (s.crane c).position with
    | none => s
    | some p =>
      if s.insideClaim c p then s.putClaim c (s.idleClaim c p)
      else if s.grantable c (s.idleClaim c p) then (s.putClaim c (s.idleClaim c p)).putStopped c false
      else s.putStopped c true

/-- A crane out of service: OFFLINE, with no leg, position or claim, and STOPPED clear (R131, R151, R172). -/
def State.craneOff (s : State) (c : Nat) : State :=
  s.modifyCrane c fun _ => ⟨.offline, none, none, none, false⟩

/-- The largest half-width among the cranes of a runway (R160). -/
def State.maxHalfWidth (s : State) (bay : Bay) : Nat :=
  ((s.runwayCranes bay).map s.halfWidth).foldl max 0

/-- The park position of crane `c` at `p` against the span from `a` to `b` (R160). -/
def State.parkAt (s : State) (c p a b : Nat) : Int :=
  if 2 * p ≤ a + b then (a : Int) - s.maxHalfWidth (s.craneBay c) - s.halfWidth c - 1
  else (b : Int) + s.maxHalfWidth (s.craneBay c) + s.halfWidth c + 1

/-- The park position the unit gives, if any (R160). -/
def State.parkPosition (s : State) (c a b : Nat) : Option Nat :=
  match (s.crane c).position with
  | none => none
  | some p =>
    let q := s.parkAt c p a b
    if 0 ≤ q ∧ q ≤ s.hall.runways.get (s.craneBay c)
        ∧ s.grantable c (claimOf (s.halfWidth c) (min p q.toNat) (max p q.toNat)) then
      some q.toNat
    else none

end Sys2Proof.Machine
end

