-- ==== Sys2Proof/Machine/Batches.lean ====
section
/-! DEFINITION. Legs and batches as the Bay Dispatchers keep them (sections 7.1, 7.2, 7.4): taking entries,
committing, what a leg does when it ends or returns to QUEUED, what its job is told, eligibility and the order
of the walk. -/

namespace Sys2Proof.Machine

open Sys2Proof

/-! ## Entries of the leg pool and the batch table (R125) -/

/-- OPEN or COMMITTED. -/
def BatchState.unsettled : BatchState → Bool
  | .opened => true
  | .committed => true
  | _ => false

/-- Whether a handle names a batch that is OPEN or COMMITTED. -/
def State.batchUnsettled (s : State) (h : Handle) : Bool :=
  match s.batch? h with
  | some b => b.state.unsettled
  | none => false

/-- A leg entry that a new leg may take: FREE, or holding a settled leg whose batch handle names no batch that
is OPEN or COMMITTED (R125). -/
def State.legEntryFree (s : State) (e : Entry Leg) : Bool :=
  match e.record with
  | none => true
  | some l => !l.state.unfinished && !s.batchUnsettled l.batch

/-- A batch entry that a new batch may take: FREE, or holding a settled batch (R125). -/
def batchEntryFree (e : Entry Batch) : Bool :=
  match e.record with
  | none => true
  | some b => !b.state.unsettled

/-- The free legs that the FULL checks count. -/
def State.freeLegs (s : State) : Nat := s.legs.count s.legEntryFree

/-- Whether the batch table has a free batch. -/
def State.hasFreeBatch (s : State) : Bool := (s.batches.firstIdx? batchEntryFree).isSome

/-- A leg as it is made: QUEUED, skip count 0, STARVING clear. Batch and position are given with its entry. -/
def Leg.fresh (bay : Bay) (kind : LegKind) (plate : Option Handle) (destination : Place) (priority : Nat) :
    Leg where
  bay := bay
  kind := kind
  batch := ⟨0, 0⟩
  position := 0
  plate := plate
  sourceBed := none
  skeletonMass := none
  skeletonThickness := none
  destination := destination
  priority := priority
  skips := 0
  starving := false
  state := .queued
  holdUp := none
  crane := none
  source := none
  target := none
  expected := none
  checkLoad := none
  ending := false

/-- Places legs of batch `hb` in the pool, numbered from `i`, each in the lowest entry that passes `ok`. -/
def State.addLegs (ok : Entry Leg → Bool) (hb : Handle) : Nat → List Leg → State → State × List Handle
  | _, [], s => (s, [])
  | i, l :: ls, s =>
    match s.legs.create ok { l with batch := hb, position := i } with
    | none => (s, [])
    | some (legs, h) =>
      let rest := State.addLegs ok hb (i + 1) ls { s with legs := legs }
      (rest.1, h :: rest.2)

/-- A new OPEN batch with its legs. -/
def State.openBatch (s : State) (origin : BatchOrigin) (legs : List Leg) : Option (State × Handle) :=
  match s.batches.create batchEntryFree ⟨origin, [], .opened, none⟩ with
  | none => none
  | some (batches, hb) =>
    let made := State.addLegs s.legEntryFree hb 0 legs s
    some (({ made.1 with batches := batches }).modifyBatch hb (fun b => { b with legs := made.2 }), hb)

/-- An OPEN batch becomes COMMITTED with the next commit sequence number (R125, R130). -/
def State.commitBatch (s : State) (hb : Handle) : State :=
  { (s.modifyBatch hb fun b => { b with state := .committed, seq := some s.commitCounter }) with
    commitCounter := min (s.commitCounter + 1) Config.commitEnd }

/-- The commitment service of the dispatchers (R130). -/
def State.commitNew (s : State) (job : Handle) (legs : List Leg) : State × Option Handle :=
  match s.openBatch (.job job) legs with
  | none => (s, none)
  | some (s', hb) => (s'.commitBatch hb, some hb)

/-- The OPEN batch of a station, if it has one (R127). -/
def State.openBatchOf (s : State) (a : Nat) : Option Handle :=
  (s.batches.handles fun b => b.state == .opened && b.origin == .station a).head?

/-- An OPEN batch is discarded: its legs and its record become FREE (R127). -/
def State.discardBatch (s : State) (hb : Handle) : State :=
  match s.batch? hb with
  | none => s
  | some b =>
    { s with
      legs := b.legs.foldl Pool.release s.legs
      batches := s.batches.release hb }

/-- A station's OPEN batch, if it has one, is discarded. -/
def State.discardOpen (s : State) (a : Nat) : State :=
  match s.openBatchOf a with
  | some hb => s.discardBatch hb
  | none => s

/-! ## The end of a leg (R126) -/

/-- A leg leaves the incoming list of its resolved destination (R44, R51). -/
def State.dropIncoming (s : State) (h : Handle) (target : Option Place) : State :=
  match target with
  | some (.slot k) => s.modifySlot k fun c => { c with incoming := c.incoming.erase h }
  | some .cart => { s with cart := { s.cart with incoming := s.cart.incoming.erase h } }
  | _ => s

/-- A leg joins the incoming list of its resolved destination (R44, R51), after those assigned before it.
DESIGN CHOICE: notes/assumptions/51.md. -/
def State.addIncoming (s : State) (h : Handle) (target : Place) : State :=
  match target with
  | .slot k => s.modifySlot k fun c => { c with incoming := c.incoming ++ [h] }
  | .cart => { s with cart := { s.cart with incoming := s.cart.incoming ++ [h] } }
  | _ => s

/-- A crane loses its leg: an OFFLINE crane stays OFFLINE, any other becomes IDLE and its claim shrinks
(R131, R147, R158). -/
def State.freeCrane (s : State) (c : Nat) : State :=
  (s.modifyCrane c fun k =>
    { k with
      state := if k.state = .offline then .offline else .idle
      leg := none }).shrink c

/-- A leg leaves ASSIGNED, LIFTED and CHECK: its incoming place, its plate's carrying leg and its crane go. -/
def State.letGo (s : State) (h : Handle) (l : Leg) : State :=
  if l.state.inHand then
    let s1 := s.dropIncoming h l.target
    let s2 := match l.plate with
      | some p => s1.uncarry p
      | none => s1
    match l.crane with
    | some c => s2.freeCrane c
    | none => s2
  else s

/-- A leg takes a state in which it has no crane. -/
def State.putLegState (s : State) (h : Handle) (v : LegState) : State :=
  s.modifyLeg h fun l => { l with state := v, crane := none }

/-- The legs of a list passed through `f`, each with its own record in view. -/
def State.overLegs (s : State) (f : Leg → Leg) (l : List Handle) : State :=
  l.foldl (fun s h => s.modifyLeg h f) s

/-- What the cancellation or failure of the leg at a position does to another leg of the batch: a later QUEUED
one becomes CANCELLED, and one on a hook cannot return to QUEUED (R126, notes/assumptions/12.md). -/
def Leg.afterStop (position : Nat) (l : Leg) : Leg :=
  if l.state = .queued ∧ position < l.position then { l with state := .cancelled }
  else if l.state.onHook then { l with ending := true }
  else l

/-- Every leg of a list is settled. -/
def State.allSettled (s : State) (l : List Handle) : Bool :=
  l.all fun h =>
    match s.leg? h with
    | some r => !r.state.unfinished
    | none => true

/-- Every leg of a list is DONE. -/
def State.allDone (s : State) (l : List Handle) : Bool :=
  l.all fun h =>
    match s.leg? h with
    | some r => r.state == .done
    | none => false

/-- A COMMITTED batch whose legs are all settled becomes DONE when all are DONE, else CANCELLED (R126). -/
def State.settleBatch (s : State) (hb : Handle) : State :=
  match s.batch? hb with
  | none => s
  | some b =>
    if b.state = .committed ∧ s.allSettled b.legs then
      s.modifyBatch hb fun b => { b with state := if s.allDone b.legs then .done else .cancelled }
    else s

/-- A leg becomes CANCELLED or FAILED, with the effects of R126 on its batch; no job is told. -/
def State.stopLeg (s : State) (h : Handle) (how : LegState) : State :=
  match s.leg? h with
  | none => s
  | some l =>
    let s1 := (s.letGo h l).putLegState h how
    match s1.batch? l.batch with
    | none => s1
    | some b => (s1.overLegs (Leg.afterStop l.position) b.legs).settleBatch l.batch

/-! ## What the job of a batch is told (R80, R94, R95) -/

/-- The job a batch was made for, when its handle names one (R74, R126). -/
def State.batchJob (s : State) (hb : Handle) : Option (Handle × Job) :=
  match s.batch? hb with
  | none => none
  | some b =>
    match b.origin with
    | .station _ => none
    | .job jh =>
      match s.job? jh with
      | some j => some (jh, j)
      | none => none

/-- A carrying leg: a FETCH or the TRANSFER_OUT ahead of it (R79). -/
def Leg.carries (l : Leg) : Bool := l.kind == .fetch || l.kind == .transferOut

/-- A job becomes CLEARED, and its part records whose cut state is SCRAPPED retire (R95, R120). -/
def State.clearJob (s : State) (jh : Handle) : State :=
  match s.job? jh with
  | none => s
  | some j => (s.modifyJob jh fun j => { j with state := .cleared, role := none }).retireScrapped j.parts

/-- The return batch a job holds OPEN while its carrying leg is on a hook (R94). -/
def State.openReturn (s : State) (j : Job) : Option Handle :=
  match j.clearBatch with
  | none => none
  | some rb =>
    match s.batch? rb with
    | some b => if j.state = .ended ∧ b.state = .opened then some rb else none
    | none => none

/-- An OPEN return batch is cancelled with its leg (R94). -/
def State.cancelBatch (s : State) (hb : Handle) : State :=
  match s.batch? hb with
  | none => s
  | some b =>
    (s.overLegs (fun l => { l with state := .cancelled }) b.legs).modifyBatch hb fun b =>
      { b with state := .cancelled }

/-- The Table Sequencer finishes an OPEN return batch (R94): committed, or cancelled and the job CLEARED. -/
def State.finishReturn (s : State) (jh rb : Handle) (keep : Bool) : State :=
  if keep then s.commitBatch rb else (s.cancelBatch rb).clearJob jh

/-- Whether a carrying leg of a list has become CANCELLED or FAILED. -/
def State.carryingLost (s : State) (l : List Handle) : Bool :=
  l.any fun h =>
    match s.leg? h with
    | some r => r.carries && (r.state == .cancelled || r.state == .failed)
    | none => false

/-- The job of a batch in which a leg became CANCELLED or FAILED is told: an ADMITTED job whose carrying leg is
among them sets fetch lost (R80); an OPEN return batch is cancelled and the job CLEARED when the leg was the
carrying leg (R94). -/
def State.tellStopped (s : State) (l : Leg) : State :=
  match s.batch? l.batch, s.batchJob l.batch with
  | some b, some (jh, j) =>
    if j.state = .admitted ∧ j.fetchBatch = some l.batch ∧ s.carryingLost b.legs then
      s.modifyJob jh fun j => { j with fetchLost := true }
    else
      match s.openReturn j with
      | some rb => if j.fetchBatch = some l.batch ∧ l.carries then s.finishReturn jh rb false else s
      | none => s
  | _, _ => s

/-- A leg becomes CANCELLED or FAILED, and its job is told (R126). DEDUCED: notes/assumptions/12.md. -/
def State.endLeg (s : State) (h : Handle) (how : LegState) : State :=
  match s.leg? h with
  | none => s
  | some l => (s.stopLeg h how).tellStopped l

/-- The job of a leg that became DONE is told: the last leg of a clear or return batch makes its ENDED job CLEARED
(R95); FETCH makes its ADMITTED job LOADED (R80); an OPEN return batch is committed (R94). -/
def State.tellDone (s : State) (l : Leg) : State :=
  match s.batch? l.batch, s.batchJob l.batch with
  | some b, some (jh, j) =>
    if j.clearBatch = some l.batch ∧ j.state = .ended ∧ b.state = .done then s.clearJob jh
    else if j.fetchBatch = some l.batch then
      if l.kind = .fetch ∧ j.state = .admitted then s.modifyJob jh fun j => { j with state := .loaded }
      else
        match s.openReturn j with
        | some rb => if l.carries then s.finishReturn jh rb true else s
        | none => s
    else s
  | _, _ => s

/-- A leg becomes DONE (R126, R141). -/
def State.doneLeg (s : State) (h : Handle) : State :=
  match s.leg? h with
  | none => s
  | some l => (((s.letGo h l).putLegState h .done).settleBatch l.batch).tellDone l

/-- Whether a leg's plate lies on the cart. -/
def State.onCart (s : State) (l : Leg) : Bool :=
  match l.plate with
  | none => false
  | some p =>
    match s.plate? p with
    | some r => r.st.location == .cart
    | none => false

/-- The OPEN return batch that waits for a leg, with its job (R94). -/
def State.returnFor (s : State) (l : Leg) : Option (Handle × Handle) :=
  match s.batchJob l.batch with
  | none => none
  | some (jh, j) =>
    match s.openReturn j with
    | some rb => if j.fetchBatch = some l.batch ∧ l.carries then some (jh, rb) else none
    | none => none

/-- A leg returns to QUEUED (R140, R142, R143, R144) with no destination until it is assigned again (R44). A
carrying leg that an aborted job waits for is cancelled instead, and its return batch finished (R94); so is a leg
that a stop in its batch left on its hook (R126).
DEDUCED: notes/assumptions/12.md. DESIGN CHOICE: notes/assumptions/13.md. -/
def State.requeueLeg (s : State) (h : Handle) : State :=
  match s.leg? h with
  | none => s
  | some l =>
    let s1 := (s.letGo h l).putLegState h .queued
    match s1.returnFor l with
    | some (jh, rb) => (s1.stopLeg h .cancelled).finishReturn jh rb (s1.onCart l)
    | none =>
      if l.ending then s1.endLeg h .cancelled else s1.modifyLeg h fun l => { l with target := none }

/-! ## Eligibility and the order of the walk (R132, R134) -/

/-- The first leg of a list that is unfinished. -/
def State.firstUnfinished (s : State) (l : List Handle) : Option (Handle × Leg) :=
  l.findSome? fun h =>
    match s.leg? h with
    | some r => if r.state.unfinished then some (h, r) else none
    | none => none

/-- A bay can lift from a location: a slot of the bay, a bed of one of its tables, or the cart on its side. -/
def State.reaches (s : State) (bay : Bay) (l : Location) : Bool :=
  match l with
  | .slot k _ => (s.slotCfg k).bay == bay
  | .bed t _ => tableBay t == bay
  | .cart => s.cart.side == some bay
  | _ => false

/-- The plate of a leg is not DOUBTFUL and lies within reach (R132). -/
def State.plateReady (s : State) (l : Leg) : Bool :=
  match l.plate with
  | none => true
  | some p =>
    match s.plate? p with
    | some r => !r.st.doubtful && s.reaches l.bay r.st.location
    | none => false

/-- The cart waits empty at a bay's side (R132). -/
def State.cartReady (s : State) (bay : Bay) : Bool := s.cartHasRoom && s.cart.side == some bay

/-- The skeleton of a CLEAR_SKELETON leg is marked on its bed, and its job is sorted (R114, R132). -/
def State.skeletonReady (s : State) (l : Leg) : Bool :=
  (match l.sourceBed with
    | some (t, d) => (s.bed t d).skeleton
    | none => false)
  && (match s.batchJob l.batch with
    | some (_, j) => s.sorted j.parts
    | none => false)

/-- A leg is eligible (R132), its batch being COMMITTED and the leg its first unfinished one. -/
def State.eligible (s : State) (l : Leg) : Bool :=
  l.state == .queued && s.plateReady l
    && (l.kind != .transferOut || s.cartReady l.bay)
    && (l.kind != .clearSkeleton || s.skeletonReady l)

/-- The first unfinished legs of the COMMITTED batches that pass `p`, by ascending batch entry. -/
def State.frontLegs (s : State) (p : Leg → Bool) : List (Handle × Leg) :=
  (s.batches.handles fun b => b.state == .committed).filterMap fun hb =>
    match s.batch? hb with
    | none => none
    | some b =>
      match s.firstUnfinished b.legs with
      | some (h, l) => if p l then some (h, l) else none
      | none => none

/-- The keys of walk order: STARVING first, higher priority, lower commit sequence, lower batch entry, lower
position (R134). -/
def State.walkKeys (s : State) (l : Leg) : List Nat :=
  [if l.starving then 0 else 1, 3 - l.priority,
    match s.batch? l.batch with
      | some b => b.seq.getD 0
      | none => 0,
    l.batch.idx, l.position]

/-- Legs in walk order. -/
def State.inWalkOrder (s : State) (l : List (Handle × Leg)) : List (Handle × Leg) :=
  sortBy (fun a b => keysBefore (s.walkKeys a.2) (s.walkKeys b.2)) l

/-- The eligible legs of a bay in walk order (R134). DEDUCED: notes/assumptions/27.md. -/
def State.walk (s : State) (bay : Bay) : List (Handle × Leg) :=
  s.inWalkOrder (s.frontLegs fun l => l.bay == bay && s.eligible l)

end Sys2Proof.Machine
end

