-- ==== Sys2Proof/Machine/Tables.lean ====
section
/-! DEFINITION. The Table Sequencers (chapter 5): admission drafts, admission, the burn, job end with the
derivation service (R25), abort, and the bed. -/

namespace Sys2Proof.Machine

open Sys2Proof

/-! ## Beds and tables -/

/-- The states of a bed (R73). -/
inductive BedState where
  | empty | occupied | awaitingPlate | loaded | burning | paused | ended
  deriving DecidableEq, Repr

def BedState.num : BedState → Nat
  | .empty => 0
  | .occupied => 1
  | .awaitingPlate => 2
  | .loaded => 3
  | .burning => 4
  | .paused => 5
  | .ended => 6

/-- The state of a bed, derived at each reading (R73). DEDUCED: notes/assumptions/33.md. -/
def State.bedState (s : State) (t b : Nat) : BedState :=
  match s.bedJob t b with
  | none => if s.bedBare t b then .empty else .occupied
  | some (_, j) =>
    match j.state with
    | .admitted => .awaitingPlate
    | .loaded => .loaded
    | .burning => .burning
    | .paused => .paused
    | .ended => .ended
    | .cleared => .empty

/-- What a Table Sequencer holds for its table beside its jobs. -/
def State.tableSeq (s : State) (t : Nat) : TableSeq := s.tables.getD t ⟨0, none, none⟩

/-- A table's own record passed through `f`. -/
def State.modifyTable (s : State) (t : Nat) (f : TableSeq → TableSeq) : State :=
  { s with tables := s.tables.modify t f }

/-- A job that works or waits to work: ADMITTED, LOADED, BURNING or PAUSED (R75). -/
def JobState.live : JobState → Bool
  | .admitted => true
  | .loaded => true
  | .burning => true
  | .paused => true
  | _ => false

/-- Pierced: BURNING or PAUSED (R92). -/
def JobState.torch : JobState → Bool
  | .burning => true
  | .paused => true
  | _ => false

/-- Whether a bed has a job in ADMITTED, LOADED, BURNING or PAUSED. -/
def State.bedLive (s : State) (t b : Nat) : Bool :=
  match s.bedJob t b with
  | some (_, j) => j.state.live
  | none => false

/-- The verdicts shift (R88). -/
def State.shiftVerdict (s : State) (t : Nat) (v : Verdict) (nest : Nat) : State :=
  s.modifyTable t fun r => { r with verdictN := some ⟨v, nest⟩, verdictN1 := r.verdictN }

/-- A QUEUED leg of a promoted job's fetch batch is raised to priority 2 (R89). -/
def Leg.promoted (l : Leg) : Leg := if l.state = .queued then { l with priority := 2 } else l

/-- The legs of a batch, if the handle names one. -/
def State.batchLegs (s : State) (hb : Option Handle) : List Handle :=
  match hb with
  | none => []
  | some h =>
    match s.batch? h with
    | some b => b.legs
    | none => []

/-- Promotion (R89): the STAGED job of the other bed becomes ACTIVE, its bed the gantry bed. -/
def State.promote (s : State) (t b : Nat) : State :=
  match s.bedJob t (1 - b) with
  | none => s
  | some (jh, j) =>
    if j.role = some .staged then
      ((s.modifyJob jh fun j => { j with role := some .active }).modifyTable t fun r =>
          { r with gantry := 1 - b }).overLegs Leg.promoted (s.batchLegs j.fetchBatch)
    else s

/-! ## Stage Parts (R76) -/

/-- A draft entry lies in its ranges (R76). -/
def DraftEntry.ok (d : DraftEntry) : Bool :=
  textIn 1 4 d.hull && textIn 1 5 d.block && inRange 1 99999 d.number && inRange 1 120000000 d.area

/-- A station's admission draft. -/
def State.draft (s : State) (a : Nat) : List DraftEntry := s.drafts.getD (a - 1) []

/-- A station's admission draft replaced. -/
def State.putDraft (s : State) (a : Nat) (l : List DraftEntry) : State :=
  { s with drafts := s.drafts.set (a - 1) l }

/-- Stage Parts in the Table Sequencers. -/
def stageParts (k : Asker) (f : StageF) (s : State) : Reply :=
  match flagOfNum f.afresh with
  | none => .refuse s .badRequest
  | some afresh =>
    if !(inRange 1 6 f.parts.length && f.parts.all DraftEntry.ok) then .refuse s .badRequest
    else
      let d := (if afresh then [] else s.draft k.address) ++ f.parts
      if Config.draftMax < d.length then .refuse s .full
      else .now (s.putDraft k.address d) .done [.num 1 d.length]

/-- STAGE_PARTS (R76). -/
def execStageParts (tag : Byte) (p : Payload StageF) (s : State) : Result :=
  request reqStageParts tag p s stageParts

/-! ## Admit Job (R77 to R79) -/

/-- The fields of Admit Job lie in their ranges (R77, check 1), the orientation apart. -/
def AdmitF.inRanges (f : AdmitF) : Bool :=
  f.table ≤ 7 && f.bed ≤ 1 && f.nest ≤ 4294967295 && f.panel ≤ 3 && inRange 1 23980 f.envLength
    && inRange 1 4970 f.envWidth && f.specFamily ≤ 255 && f.specMask ≤ 255 && inRange 30 1500 f.thickness
    && f.tolerance ≤ 50

/-- The bed is EMPTY, or OCCUPIED holding only the named plate (R77, check 2). DEDUCED: notes/assumptions/33.md. -/
def State.bedAdmits (s : State) (f : AdmitF) : Bool :=
  match s.bedState f.table f.bed with
  | .empty => true
  | .occupied => (s.bed f.table f.bed).plates == [f.plate]
  | _ => false

/-- Whether a location is one that a fetch can start from: a slot, a bed or the cart. -/
def Location.fetchable (l : Location) : Bool :=
  match l with
  | .slot _ _ => true
  | .bed _ _ => true
  | .cart => true
  | _ => false

/-- The plate matches the job's grade spec and thickness, and lies where it can be fetched (R77, check 3). -/
def State.suits (s : State) (f : AdmitF) (r : PlateRec) : Bool :=
  gradeMatches (s.grade r.ident.grade).family f.specFamily f.specMask
    && f.thickness ≤ r.ident.thickness && r.ident.thickness ≤ f.thickness + f.tolerance
    && r.st.location.fetchable

/-- A plate in a slot lies too deep to be dug out (R77, check 3). -/
def State.tooDeep (s : State) (r : PlateRec) : Bool :=
  match r.st.location with
  | .slot k level => Config.maxDig < s.burialDepth k level
  | _ => false

/-- The panel holds the envelope at its origin (R77, check 4). -/
def AdmitF.panelOk (f : AdmitF) (o : Orientation) (r : PlateRec) : Bool :=
  match (r.st.panels.getD [])[f.panel]? with
  | some p => envFits p (envExtent o f.envLength f.envWidth)
  | none => false

/-- The bay a plate lies in: that of its slot or of its table; a plate elsewhere lies in none. -/
def State.locationBay (s : State) (l : Location) : Option Bay :=
  match l with
  | .slot k _ => some (s.slotCfg k).bay
  | .bed t _ => some (tableBay t)
  | _ => none

/-- The legs of a fetch batch, in order (R79). -/
def State.fetchLegs (s : State) (f : AdmitF) (r : PlateRec) (priority : Nat) : List Leg :=
  let fetch := Leg.fresh (tableBay f.table) .fetch (some f.plate) (.bed f.table f.bed) priority
  match s.locationBay r.st.location with
  | some bay =>
    if bay = tableBay f.table then [fetch]
    else [Leg.fresh bay .transferOut (some f.plate) .cart priority, fetch]
  | none => [fetch]

/-- The job record of an admission (R78). -/
def AdmitF.job (f : AdmitF) (o : Orientation) (parts : List Handle) (role : Role) (lies : Bool)
    (fetch : Option Handle) : Job where
  nest := f.nest
  plate := f.plate
  panel := f.panel
  orientation := o
  envLength := f.envLength
  envWidth := f.envWidth
  specFamily := f.specFamily
  specMask := f.specMask
  thickness := f.thickness
  tolerance := f.tolerance
  parts := parts
  resume := 0
  pierced := false
  state := if lies then .loaded else .admitted
  role := some role
  pauseCause := none
  fetchLost := false
  fetchBatch := fetch
  clearBatch := none
  verdict := none

/-- The handle that a new job of a bed takes (R74). -/
def State.newJobHandle (s : State) (t b : Nat) : Handle :=
  match s.jobs.get? (bedIndex t b) with
  | some e => ⟨bedIndex t b, e.newGen⟩
  | none => ⟨bedIndex t b, 0⟩

/-- A job record stands in its entry. -/
def State.putJob (s : State) (h : Handle) (j : Job) : State :=
  { s with jobs := s.jobs.set h.idx ⟨h.gen, some j⟩ }

/-- An admission that passed its checks (R78). -/
def State.admitPlate (s : State) (k : Asker) (f : AdmitF) (o : Orientation) (r : PlateRec) : Reply :=
  let jh := s.newJobHandle f.table f.bed
  let active := !(s.bedLive f.table 0 || s.bedLive f.table 1)
  let lies := r.st.location == .bed f.table f.bed
  let made := State.createParts jh r.ident 0 (s.draft k.address) (s.reserve f.plate jh)
  let s1 := if active then made.1.modifyTable f.table fun t => { t with gantry := f.bed } else made.1
  let sent := if lies then (s1, none) else s1.commitNew jh (s.fetchLegs f r (if active then 2 else 1))
  let s2 := sent.1.putJob jh (f.job o made.2 (if active then .active else .staged) lies sent.2)
  .now (s2.putDraft k.address []) .done (.handle jh :: optTok sent.2 fun h => [.handle h])

/-- Admit Job in the Table Sequencer (R77). -/
def admitJob (k : Asker) (f : AdmitF) (s : State) : Reply :=
  match Orientation.ofNum f.orientation with
  | none => .refuse s .badRequest
  | some o =>
    if !f.inRanges || (s.draft k.address).isEmpty then .refuse s .badRequest
    else if !s.bedAdmits f then .refuse s .wrongState
    else
      match s.reserveRefusal f.plate, s.plate? f.plate with
      | some code, _ => .refuse s code
      | none, none => .refuse s .noSuch
      | none, some r =>
        if !s.suits f r then .refuse s .gone
        else if s.tooDeep r then .refuse s .tooDeep
        else if !f.panelOk o r then .refuse s .badRequest
        else if s.parts.count partEntryFree < (s.draft k.address).length then .refuse s .full
        else if s.duplicates (s.draft k.address) then .refuse s .duplicate
        else if r.st.location != .bed f.table f.bed
            && (s.freeLegs < (s.fetchLegs f r 1).length || !s.hasFreeBatch) then .refuse s .full
        else s.admitPlate k f o r

/-- ADMIT_JOB (R77 to R79). -/
def execAdmitJob (tag : Byte) (p : Payload AdmitF) (s : State) : Result :=
  request reqAdmitJob tag p s admitJob

/-! ## The burn (R81 to R85) -/

/-- The job of the station's own table that a handle names (R81). -/
def State.tableJob (s : State) (k : Asker) (h : Handle) : Option Job :=
  match s.job? h with
  | some j => if jobTable h = k.unitNum then some j else none
  | none => none

/-- Start Job in the Table Sequencer. -/
def startJob (k : Asker) (h : Handle) (s : State) : Reply :=
  match s.tableJob k h with
  | none => .refuse s .noSuch
  | some j =>
    if j.state = .loaded ∧ j.role = some .active ∧ !s.namedByLeg j.plate then
      .now (s.modifyJob h fun j => { j with state := .burning, pierced := true }) .done [.num 1 j.resume]
    else .refuse s .wrongState

/-- START_JOB (R82). -/
def execStartJob (tag : Byte) (p : Payload Handle) (s : State) : Result :=
  request reqStartJob tag p s startJob

/-- The resume point of a job as it stands. -/
def State.resumeNow (s : State) (h : Handle) : Nat :=
  match s.job? h with
  | some j => j.resume
  | none => 0

/-- A part is cut (R83, R103): it becomes CUT, and UNMARKED_CUT is raised when its mark is PLANNED or FAILED. -/
def State.cutPart (s : State) (h : Handle) (p : Part) : State :=
  (s.putCut h .cut).raiseIf (p.mark == .planned || p.mark == .failed) .unmarkedCut

/-- Part Cut in the Table Sequencer. -/
def partCut (k : Asker) (f : PartCutF) (s : State) : Reply :=
  match s.tableJob k f.job with
  | none => .refuse s .noSuch
  | some j =>
    if !j.state.torch then .refuse s .wrongState
    else
      match j.parts[f.index]? with
      | none => .refuse s .badRequest
      | some h =>
        match s.part? h with
        | none => .refuse s .wrongState
        | some p =>
          match p.cut with
          | .uncut => .now (s.cutPart h p) .done [.num 1 ((s.cutPart h p).resumeNow f.job)]
          | .cut => .now s .done [.num 1 j.resume]
          | .scrapped => .refuse s .wrongState

/-- PART_CUT (R83, R103). -/
def execPartCut (tag : Byte) (p : Payload PartCutF) (s : State) : Result :=
  request reqPartCut tag p s partCut

/-- Pause Job in the Table Sequencer. DEDUCED: notes/assumptions/34.md. -/
def pauseJob (k : Asker) (f : PauseF) (s : State) : Reply :=
  match s.tableJob k f.job with
  | none => .refuse s .noSuch
  | some j =>
    if !j.state.torch then .refuse s .wrongState
    else
      match PauseCause.ofNum f.cause with
      | none => .refuse s .badRequest
      | some c =>
        if j.state = .burning then
          .now (s.modifyJob f.job fun j => { j with state := .paused, pauseCause := some c }) .done []
        else .now s .done []

/-- PAUSE_JOB (R84). -/
def execPauseJob (tag : Byte) (p : Payload PauseF) (s : State) : Result :=
  request reqPauseJob tag p s pauseJob

/-- Resume Job in the Table Sequencer. -/
def resumeJob (k : Asker) (h : Handle) (s : State) : Reply :=
  match s.tableJob k h with
  | none => .refuse s .noSuch
  | some j =>
    if !j.state.torch then .refuse s .wrongState
    else .now (s.modifyJob h fun j => { j with state := .burning }) .done [.num 1 j.resume]

/-- RESUME_JOB (R85). -/
def execResumeJob (tag : Byte) (p : Payload Handle) (s : State) : Result :=
  request reqResumeJob tag p s resumeJob

/-! ## Job end (R25, R37, R86 to R90) -/

/-- The identity of a remnant (R5, R25); its sequence number is given at creation. -/
def PlateId.remnant (p : PlateId) (parent : Handle) : PlateId :=
  { p with origin := .derived, parent := some parent, depth := p.depth + 1 }

/-- The state part of a remnant at its creation (R25). -/
def PlateRec.remnantState (r : PlateRec) (panels : List Panel) (t b : Nat) : PlateSt where
  disposition := .stock
  location := .bed t b
  panels := some panels
  area := some (panelsArea panels)
  held := r.st.held
  massDoubt := r.st.massDoubt
  doubtful := false

/-- The panels the derivation arithmetic leaves of a job's plate (R33 to R35). -/
def State.leftPanels (s : State) (j : Job) (r : PlateRec) : List Panel :=
  derivedPanels (r.st.panels.getD []) j.panel (envExtent j.orientation j.envLength j.envWidth)
    (s.grade r.ident.grade)

/-- The remnant of a derivation, where one is created (R25, R36). -/
def State.createRemnant (s : State) (j : Job) (r : PlateRec) (t b : Nat) : Option (State × Handle) :=
  let panels := s.leftPanels j r
  if panels.isEmpty || Config.maxDepth ≤ r.ident.depth || !s.canCreatePlate then none
  else
    match s.createPlate (r.ident.remnant j.plate) (r.remnantState panels t b)
        (s.massFor r.ident (panelsArea panels)) with
    | none => none
    | some (s', h) => some (s'.joinPlace h (.bed t b), h)

/-- What the derivation service gives: the state, the remnant, the images it handed over, the area of the
skeleton that remains (R25, R37). -/
structure Derived where
  state : State
  remnant : Option Handle
  images : List ImageId
  mass : Nat
  thickness : Nat
  deriving DecidableEq, Repr

/-- The sum of the net areas of the parts of a list that are CUT (R37). -/
def State.cutArea (s : State) (parts : List Handle) : Nat :=
  (parts.map fun h =>
    match s.part? h with
    | some p => if p.cut = .cut then p.area else 0
    | none => 0).sum

/-- The parent is retired as CONSUMED and the bed's skeleton mark set (R25, R50). -/
def State.consume (s : State) (plate : Handle) (t b : Nat) : State :=
  (s.retirePlate plate .consumed).putSkeleton t b true

/-- The derivation service (R25) for a job on bed `b` of table `t`, with the skeleton mass (R37). -/
def State.derive (s : State) (j : Job) (t b : Nat) : Derived :=
  match s.plate? j.plate with
  | none => ⟨s.putSkeleton t b true, none, [], 0, 30⟩
  | some r =>
    let mass (remnant : Nat) : Nat :=
      s.massFor r.ident (skeletonArea (r.st.area.getD 0) remnant (s.cutArea j.parts))
    match s.createRemnant j r t b with
    | none => ⟨s.consume j.plate t b, none, [.state j.plate.idx], mass 0, r.ident.thickness⟩
    | some (s', h) =>
      ⟨s'.consume j.plate t b, some h,
        [.genWord h.idx, .identity h.idx, .state h.idx, .state j.plate.idx],
        mass (panelsArea (s.leftPanels j r)), r.ident.thickness⟩

/-- The legs of a clear batch, in order (R90). -/
def clearLegs (t b : Nat) (d : Derived) : List Leg :=
  (match d.remnant with
    | some h => [Leg.fresh (tableBay t) .clearRemnant (some h) .choose 2]
    | none => [])
  ++ [{ Leg.fresh (tableBay t) .clearSkeleton none .scrapBin 2 with
        sourceBed := some (t, b)
        skeletonMass := some d.mass
        skeletonThickness := some d.thickness }]

/-- The job end (R87): the state and what the answer of End Job carries. -/
def State.jobEnd (s : State) (h : Handle) (j : Job) (pass : Bool) (v : Verdict) : Derived :=
  let t := jobTable h
  let b := jobBed h
  let d := (if pass then s else s.scrapUncut j.parts).derive j t b
  let cleared := (d.state.shiftVerdict t v j.nest).commitNew h (clearLegs t b d)
  let active := j.role == some .active
  let s1 := if active then cleared.1.emptyWindow t else cleared.1
  let s2 := s1.modifyJob h fun j =>
    { j with state := .ended, verdict := some v, role := none, clearBatch := cleared.2 }
  { d with state := if active then s2.promote t b else s2 }

/-- What End Job and a pierced Abort Job answer at last: verdict, remnant, skeleton mass (R86, R91). -/
def Derived.tokens (d : Derived) (v : Verdict) : List Token :=
  .choice v.num :: optTok d.remnant (fun h => [.handle h]) ++ [.num 4 d.mass]

/-- Whether a handle names a part that is CUT. -/
def State.isCut (s : State) (h : Handle) : Bool :=
  match s.part? h with
  | some p => p.cut == .cut
  | none => false

/-- The verdict of an End Job outcome is PASS. -/
def Verdict.passes (v : Verdict) : Bool := v == .pass

/-- End Job in the Table Sequencer. -/
def endJob (k : Asker) (f : EndF) (s : State) : Reply :=
  match Verdict.ofRequest f.outcome with
  | none => .refuse s .badRequest
  | some v =>
    if s.pfw then .refuse s .powerDown
    else
      match s.tableJob k f.job with
      | none => .refuse s .noSuch
      | some j =>
        if !j.state.torch then .refuse s .wrongState
        else if v.passes && !j.parts.all s.isCut then .refuse s .wrongState
        else if s.freeLegs < 2 || !s.hasFreeBatch then .refuse s .full
        else
          let d := s.jobEnd f.job j v.passes v
          .waits d.state d.images .done (d.tokens v)

/-- END_JOB (R86, R87). -/
def execEndJob (tag : Byte) (p : Payload EndF) (s : State) : Result :=
  request reqEndJob tag p s endJob

/-! ## Abort Job (R91 to R94) -/

/-- A carrying leg of the job is LIFTED or CHECK (R93, R94). -/
def State.carryingOnHook (s : State) (j : Job) : Bool :=
  (s.batchLegs j.fetchBatch).any fun h =>
    match s.leg? h with
    | some l => l.carries && l.state.onHook
    | none => false

/-- The job's plate lies on its bed or on the cart, and whether it is DOUBTFUL there (R93, step 6). -/
def State.returnable (s : State) (j : Job) (t b : Nat) : Bool :=
  match s.plate? j.plate with
  | some r => (r.st.location == .bed t b || r.st.location == .cart) && !r.st.doubtful
  | none => false

/-- The RETURN leg of a job's plate (R93). -/
def returnLeg (t : Nat) (plate : Handle) : Leg := Leg.fresh (tableBay t) .ret (some plate) .choose 1

/-- The QUEUED and ASSIGNED legs of a fetch batch become CANCELLED (R93, step 5). -/
def State.cancelFetch (s : State) (legs : List Handle) : State :=
  legs.foldl (fun s h =>
    match s.leg? h with
    | some l => if l.state = .queued ∨ l.state = .assigned then s.stopLeg h .cancelled else s
    | none => s) s

/-- The job becomes ENDED with its return batch (R93, R94). -/
def State.endUnpierced (s : State) (h : Handle) (batch : Option Handle) : State :=
  s.modifyJob h fun j =>
    { j with state := .ended, verdict := some .aborted, role := none, clearBatch := batch }

/-- The unpierced job is finished according to where its plate is (R93, step 6; R94). -/
def State.finishAbort (s : State) (h : Handle) (j : Job) : State :=
  if s.carryingOnHook j then
    match s.openBatch (.job h) [returnLeg (jobTable h) j.plate] with
    | some (s', hb) => s'.endUnpierced h (some hb)
    | none => s.endUnpierced h none
  else if s.returnable j (jobTable h) (jobBed h) then
    let sent := s.commitNew h [returnLeg (jobTable h) j.plate]
    sent.1.endUnpierced h sent.2
  else (s.modifyJob h fun j => { j with verdict := some .aborted }).clearJob h

/-- An unpierced abort (R93). -/
def State.abortUnpierced (s : State) (h : Handle) (j : Job) : State :=
  let active := j.role == some .active
  let s1 := (s.releasePlate j.plate h).scrapUncut j.parts
  let s2 := if active then s1.emptyWindow (jobTable h) else s1
  let s3 := (s2.shiftVerdict (jobTable h) .aborted j.nest).cancelFetch (s2.batchLegs j.fetchBatch)
  let s4 := s3.finishAbort h j
  if active then s4.promote (jobTable h) (jobBed h) else s4

/-- Abort Job in the Table Sequencer. -/
def abortJob (_ : Asker) (h : Handle) (s : State) : Reply :=
  match s.job? h with
  | none => .refuse s .noSuch
  | some j =>
    if !j.state.live then .refuse s .wrongState
    else if j.state.torch then
      if s.pfw then .refuse s .powerDown
      else if s.freeLegs < 2 || !s.hasFreeBatch then .refuse s .full
      else
        let d := s.jobEnd h j false .aborted
        .waits d.state d.images .done (d.tokens .aborted)
    else if (s.carryingOnHook j || s.returnable j (jobTable h) (jobBed h))
        && (s.freeLegs < 1 || !s.hasFreeBatch) then .refuse s .full
    else .complete (s.abortUnpierced h j) .done []

/-- ABORT_JOB (R91 to R94). -/
def execAbortJob (tag : Byte) (p : Payload Handle) (s : State) : Result :=
  request reqAbortJob tag p s abortJob

/-! ## Clear Bed (R96) -/

/-- The job's clear or return batch is OPEN or holds an unfinished leg (R96, check 2). -/
def State.clearing (s : State) (j : Job) : Bool :=
  match j.clearBatch with
  | none => false
  | some hb =>
    match s.batch? hb with
    | none => false
    | some b =>
      match b.state with
      | .opened => true
      | .committed => (s.firstUnfinished b.legs).isSome
      | _ => false

/-- Clear Bed in the Table Sequencer. -/
def clearBed (_ : Asker) (f : BedF) (s : State) : Reply :=
  if 7 < f.table ∨ 1 < f.bed then .refuse s .badRequest
  else
    match s.bedJob f.table f.bed with
    | none => .refuse s .wrongState
    | some (h, j) =>
      if j.state ≠ .ended ∨ s.clearing j then .refuse s .wrongState
      else if !(s.bed f.table f.bed).plates.isEmpty then .refuse s .wrongState
      else if !s.sorted j.parts then .refuse s .wrongState
      else .now ((s.putSkeleton f.table f.bed false).clearJob h) .done []

/-- CLEAR_BED (R96). -/
def execClearBed (tag : Byte) (p : Payload BedF) (s : State) : Result :=
  request reqClearBed tag p s clearBed

/-! ## Read Table (R97) -/

/-- What Read Table gives of a bed's job. -/
def jobTokens (o : Option (Handle × Job)) : List Token :=
  optTok o fun e =>
    [.handle e.1, .num 4 e.2.nest, .handle e.2.plate, .choice e.2.state.num]
      ++ optTok e.2.role (fun r => [.choice r.num])
      ++ [.num 1 e.2.parts.length, .num 1 e.2.resume, flagTok e.2.pierced, flagTok e.2.fetchLost]
      ++ optTok e.2.pauseCause (fun c => [.choice c.num])
      ++ optTok e.2.verdict (fun v => [.choice v.num])
      ++ optTok e.2.fetchBatch (fun h => [.handle h])
      ++ optTok e.2.clearBatch (fun h => [.handle h])

/-- A verdict with its nest, or a mark that it is absent. -/
def verdictTokens (o : Option VerdictRec) : List Token :=
  optTok o fun v => [.choice v.verdict.num, .num 4 v.nest]

/-- What Read Table answers for a table in range (R97). Both plate lists begin at the start index.
DEDUCED: notes/assumptions/17.md. DEDUCED: notes/assumptions/18.md. -/
def State.tableTokens (s : State) (k : Asker) (t : Nat) (start : Option Nat) : List Token :=
  let front : List Token :=
    .num 1 (s.tableSeq t).gantry :: verdictTokens (s.tableSeq t).verdictN
      ++ verdictTokens (s.tableSeq t).verdictN1
  let jobs := jobTokens (s.bedJob t 0) ++ jobTokens (s.bedJob t 1)
  let used := k.head + sizeOfTokens front + sizeOfTokens jobs + 2
  let plates0 := pageTok (used + 1) start ((s.bed t 0).plates.map fun h => [.handle h])
  let plates1 := pageTok (used + sizeOfTokens plates0) start ((s.bed t 1).plates.map fun h => [.handle h])
  front ++ .choice (s.bedState t 0).num :: plates0 ++ .choice (s.bedState t 1).num :: plates1 ++ jobs

/-- READ_TABLE (R97). -/
def execReadTable (tag : Byte) (p : Payload ReadNumF) (s : State) : Result :=
  request reqReadTable tag p s fun k f s =>
    if f.index ≤ 7 then .now s .done (s.tableTokens k f.index f.start) else .refuse s .badRequest

end Sys2Proof.Machine
end

