-- ==== Sys2Proof/Machine/Legs.lean ====
section
/-! DEFINITION. The Bay Dispatchers' requests about batches and legs (sections 7.2, 7.4 to 7.7): building a
supervisor's batch, Next Leg, lift and set-down, faults and cancellation. -/

namespace Sys2Proof.Machine

open Sys2Proof

/-! ## A supervisor's batch (R127 to R130) -/

/-- Open Batch in the dispatchers. -/
def openBatchFor (k : Asker) (_ : Unit) (s : State) : Reply :=
  match (s.discardOpen k.address).openBatch (.station k.address) [] with
  | none => .now (s.discardOpen k.address) .full []
  | some (s', hb) => .now s' .done [.handle hb]

/-- OPEN_BATCH (R127). -/
def execOpenBatch (tag : Byte) (p : Payload Unit) (s : State) : Result :=
  request reqOpenBatch tag p s openBatchFor

/-- A destination that Add Leg takes: a slot number in range, or CHOOSE (R128).
DEDUCED: notes/assumptions/40.md. -/
def addLegPlaceOk (p : Place) : Bool :=
  match p with
  | .slot k => k ≤ 95
  | .choose => true
  | _ => false

/-- A leg placed at the tail of a batch. -/
def State.appendLeg (s : State) (hb : Handle) (b : Batch) (l : Leg) : State × List Handle :=
  let made := State.addLegs s.legEntryFree hb b.legs.length [l] s
  (made.1.modifyBatch hb fun b => { b with legs := b.legs ++ made.2 }, made.2)

/-- Add Leg in the dispatchers. DEDUCED: notes/assumptions/14.md. -/
def addLeg (k : Asker) (f : AddLegF) (s : State) : Reply :=
  match Bay.ofNum f.bay with
  | none => .refuse s .badRequest
  | some bay =>
    if !addLegPlaceOk f.destination || 3 < f.priority then .refuse s .badRequest
    else
      match s.openBatchOf k.address with
      | none => .refuse s .wrongState
      | some hb =>
        match s.plate? f.plate, s.batch? hb with
        | none, _ => .refuse s .noSuch
        | _, none => .refuse s .wrongState
        | some r, some b =>
          if r.st.disposition ≠ .stock ∨ r.job ≠ none ∨ s.namedByLeg f.plate then .refuse s .wrongState
          else if Config.openBatchMax ≤ b.legs.length ∨ s.freeLegs < 1 then .refuse s .full
          else
            let made := s.appendLeg hb b (Leg.fresh bay .manual (some f.plate) f.destination f.priority)
            .now made.1 .done (made.2.map Token.handle ++ [.num 1 (b.legs.length + 1)])

/-- ADD_LEG (R128). -/
def execAddLeg (tag : Byte) (p : Payload AddLegF) (s : State) : Result :=
  request reqAddLeg tag p s addLeg

/-- The code with which the first leg of a list fails a check, and its place in the list. -/
def firstFailing (check : Leg → Option AnsCode) : List Leg → Option (AnsCode × Nat)
  | [] => none
  | l :: ls =>
    match check l with
    | some c => some (c, l.position)
    | none => firstFailing check ls

/-- The first of several checks that some leg fails. DEDUCED: notes/assumptions/31.md. -/
def firstCheck (checks : List (Leg → Option AnsCode)) (legs : List Leg) : Option (AnsCode × Nat) :=
  checks.findSome? fun c => firstFailing c legs

/-- The record of a leg's plate. -/
def State.legPlate (s : State) (l : Leg) : Option PlateRec :=
  match l.plate with
  | none => none
  | some p => s.plate? p

/-- Check 2 of R129: the plate is found, STOCK, and in a slot, on a bed or on the cart. -/
def State.checkPlate (s : State) (l : Leg) : Option AnsCode :=
  match s.legPlate l with
  | none => some .noSuch
  | some r =>
    if r.st.disposition = .stock ∧ r.st.location.fetchable = true then none else some .wrongState

/-- Check 3 of R129: the plate is not DOUBTFUL. -/
def State.checkSound (s : State) (l : Leg) : Option AnsCode :=
  match s.legPlate l with
  | some r => if r.st.doubtful then some .blocked else none
  | none => none

/-- Check 4 of R129: a destination slot lies in the target bay and is not the plate's own. -/
def State.checkTarget (s : State) (l : Leg) : Option AnsCode :=
  match l.destination, s.legPlate l with
  | .slot k, some r =>
    if (s.slotCfg k).bay ≠ l.bay ∨ r.st.location.place = .slot k then some .badRequest else none
  | _, _ => none

/-- The bay the plate lies in, when it is in a slot or on a bed of the bay across (R129, R130).
DEDUCED: notes/assumptions/14.md. -/
def State.crossBay (s : State) (l : Leg) : Option Bay :=
  match s.legPlate l with
  | none => none
  | some r =>
    match s.locationBay r.st.location with
    | some bay => if bay = l.bay then none else some bay
    | none => none

/-- Some crane configured on a bay's runway bears a mass (R129, check 5). -/
def State.bearable (s : State) (mass : Nat) (bay : Bay) : Bool :=
  (List.range 6).any fun c =>
    (s.craneCfg c).runway == bay && hookLoad (s.craneCfg c).tare mass ≤ (s.craneCfg c).swl

/-- Check 5 of R129. -/
def State.checkLoad (s : State) (l : Leg) : Option AnsCode :=
  let mass := match l.plate with
    | some p => s.massOfPlate p
    | none => 0
  if (l.bay :: (s.crossBay l).toList).all (s.bearable mass) then none else some .overload

/-- The legs of a list expanded by R130; `ok` says which entries the TRANSFER_IN legs may take. -/
def State.expandLegs (ok : Entry Leg → Bool) (hb : Handle) : List Handle → State → State × List Handle
  | [], s => (s, [])
  | h :: hs, s =>
    match s.leg? h with
    | none => State.expandLegs ok hb hs s
    | some l =>
      match s.crossBay l with
      | none =>
        let rest := State.expandLegs ok hb hs s
        (rest.1, h :: rest.2)
      | some bay =>
        let made := State.addLegs ok hb 0 [Leg.fresh l.bay .transferIn l.plate l.destination l.priority] s
        let rest := State.expandLegs ok hb hs (made.1.modifyLeg h fun l =>
          { l with kind := .transferOut, bay := bay, destination := .cart })
        (rest.1, h :: made.2 ++ rest.2)

/-- The legs of a list take the positions from `i` up. -/
def renumber : Nat → List Handle → State → State
  | _, [], s => s
  | i, h :: hs, s => renumber (i + 1) hs (s.modifyLeg h fun l => { l with position := i })

/-- A batch takes a list of legs, numbered in its order. -/
def State.putLegs (s : State) (hb : Handle) (l : List Handle) : State :=
  renumber 0 l (s.modifyBatch hb fun b => { b with legs := l })

/-- A Commit Batch that passed its checks (R130). -/
def State.settleOpen (s : State) (hb : Handle) (legs : List Handle) : State × List Handle :=
  let made := State.expandLegs s.legEntryFree hb legs s
  ((made.1.putLegs hb made.2).commitBatch hb, made.2)

/-- The kind of the leg a handle names, with the handle. -/
def State.legKindTokens (s : State) (h : Handle) : List Token :=
  match s.leg? h with
  | some l => [.handle h, .choice l.kind.num]
  | none => [.handle h, .choice 0]

/-- Commit Batch in the dispatchers. DEDUCED: notes/assumptions/31.md. -/
def commitBatchFor (k : Asker) (_ : Unit) (s : State) : Reply :=
  match s.openBatchOf k.address with
  | none => .refuse s .wrongState
  | some hb =>
    let handles := s.batchLegs (some hb)
    let legs := handles.filterMap s.leg?
    if legs.isEmpty then .refuse s .wrongState
    else
      match firstCheck [s.checkPlate, s.checkSound, s.checkTarget, s.checkLoad] legs with
      | some (code, position) => .now s code [.num 1 position]
      | none =>
        let extra := legs.countP fun l => (s.crossBay l).isSome
        if Config.batchMax < legs.length + extra ∨ s.freeLegs < extra then .refuse s .full
        else
          let made := s.settleOpen hb handles
          .now made.1 .done (listTok (made.2.map made.1.legKindTokens))

/-- COMMIT_BATCH (R129, R130). -/
def execCommitBatch (tag : Byte) (p : Payload Unit) (s : State) : Result :=
  request reqCommitBatch tag p s commitBatchFor

/-! ## Needed spans and the tests of assignment (R133 to R137, R159) -/

/-- Where a leg's plate or skeleton lies. -/
def State.legSource (s : State) (l : Leg) : Place :=
  match l.sourceBed with
  | some (t, d) => .bed t d
  | none =>
    match s.legPlate l with
    | some r => r.st.location.place
    | none => .nowhere

/-- The slot the destination choice gives a leg that is to be placed at dispatch (R53). -/
def State.choiceFor (s : State) (l : Leg) : Option Place :=
  match s.legPlate l with
  | none => none
  | some r =>
    match s.chooseSlot l.bay l.kind (s.legSource l) r with
    | some k => some (.slot k)
    | none => none

/-- The destination of a leg as it stands, whether or not it has room (R159). -/
def State.aim (s : State) (l : Leg) : Option Place :=
  match l.destination with
  | .choose => s.choiceFor l
  | p => some p

/-- The needed span of an eligible STARVING leg (R159). -/
def State.spanOf (s : State) (l : Leg) : Nat × Nat :=
  let src := s.placePos l.bay (s.legSource l)
  match s.aim l with
  | some p => (min src (s.placePos l.bay p), max src (s.placePos l.bay p))
  | none => (src, src)

/-- The STARVING legs of a bay that have a needed span, in walk order, with their spans (R137, R159). -/
def State.spans (s : State) (bay : Bay) : List (Handle × (Nat × Nat)) :=
  ((s.walk bay).filter fun e => e.2.starving).map fun e => (e.1, s.spanOf e.2)

/-- A claim shares a decimetre with a span. -/
def Claim.meetsSpan (c : Claim) (a : Nat × Nat) : Bool := c.meets ⟨a.1, a.2⟩

/-- The destination test (R135, test 1): the place the leg would go to, when it can. -/
def State.destinationFor (s : State) (l : Leg) : Option Place :=
  match l.destination with
  | .choose => s.choiceFor l
  | .slot k =>
    match s.legPlate l with
    | some r => if s.hasRoom k r.roomMass then some (.slot k) else none
    | none => none
  | .bed t d => if s.bedBare t d then some (.bed t d) else none
  | .cart => if s.cartHasRoom then some .cart else none
  | .scrapBin => some .scrapBin
  | _ => none

/-- The mass a leg lifts (R38). -/
def State.liftMass (s : State) (l : Leg) : Nat :=
  match l.plate with
  | some p => s.massOfPlate p
  | none => l.skeletonMass.getD 0

/-- The thickness of what a leg lifts (R135, test 3). -/
def State.liftThickness (s : State) (l : Leg) : Nat :=
  match s.legPlate l with
  | some r => r.ident.thickness
  | none => l.skeletonThickness.getD 0

/-- What the tests of R135 give: the first failing test's hold-up and whether it raises the skip count (R136),
or the destination and the claim. -/
inductive Tested where
  | fails (why : HoldUp) (skip : Bool)
  | passes (target : Place) (claim : Claim)
  deriving DecidableEq, Repr

/-- The tests of R135 for a leg and a crane at position `p`. -/
def State.testLeg (s : State) (c p : Nat) (h : Handle) (l : Leg) : Tested :=
  match s.destinationFor l with
  | none => .fails .full false
  | some target =>
    if (s.craneCfg c).swl < hookLoad (s.craneCfg c).tare (s.liftMass l) then .fails .overload false
    else if s.liftThickness l < (s.craneCfg c).minThickness then .fails .noWork false
    else
      let claim := s.legClaim c p (s.placePos l.bay (s.legSource l)) (s.placePos l.bay target)
      if !s.grantable c claim then .fails .noWork true
      else if (s.spans l.bay).any fun e => e.1 != h && claim.meetsSpan e.2 then .fails .noWork true
      else .passes target claim

/-- A leg is passed over with a hold-up; where its skip count rises to 8 it becomes STARVING (R136). -/
def State.passOver (s : State) (h : Handle) (l : Leg) (why : HoldUp) (skip : Bool) : State :=
  let skips := if skip then min (l.skips + 1) Config.starvingAt else l.skips
  let starving := l.starving || (skip && skips == Config.starvingAt)
  (s.modifyLeg h fun l => { l with holdUp := some why, skips := skips, starving := starving }).raiseIf
    (starving && !l.starving) .legStarving

/-- The plate's carrying leg is set when its leg is assigned (R24). -/
def State.carryFor (s : State) (h : Handle) (l : Leg) : State :=
  match l.plate with
  | some p => s.carry p h
  | none => s

/-- A leg that passed every test is assigned to a crane, in one action (R135, R154). -/
def State.assign (s : State) (c : Nat) (h : Handle) (l : Leg) (target : Place) (claim : Claim) : State :=
  (((s.modifyLeg h fun r =>
      { r with
        state := .assigned
        holdUp := none
        crane := some c
        source := some (s.legSource l)
        target := some target
        expected := some (hookLoad (s.craneCfg c).tare (s.liftMass l))
        checkLoad := none }).addIncoming h target).carryFor h l).modifyCrane c fun k =>
    { k with state := .assigned, leg := some h, claim := some claim }

/-- A leg put to the tests for a crane: assigned, or passed over. -/
def State.tryLeg (s : State) (c p : Nat) (h : Handle) : State × Bool :=
  match s.leg? h with
  | none => (s, false)
  | some l =>
    match s.testLeg c p h l with
    | .fails why skip => (s.passOver h l why skip, false)
    | .passes target claim => (s.assign c h l target claim, true)

/-! ### Dig expansion (R133) -/

/-- A plate that no dig leg is made for: HELD, DOUBTFUL or named by an unfinished leg. -/
def State.undiggable (s : State) (h : Handle) : Bool :=
  match s.plate? h with
  | some r => r.st.held || r.st.doubtful || s.namedByLeg h
  | none => true

/-- The plates above a leg's plate in its slot, from the lowest up; none for a plate elsewhere. -/
def State.above (s : State) (l : Leg) : List Handle :=
  match l.plate, s.legSource l with
  | some p, .slot k => s.platesAbove p k
  | _, _ => []

/-- The DIG leg made for a plate above a leg's plate: it takes the leg's bay, priority, skip count and
STARVING. -/
def Leg.dig (l : Leg) (plate : Handle) : Leg :=
  { Leg.fresh l.bay .dig (some plate) .choose l.priority with skips := l.skips, starving := l.starving }

/-- Legs inserted into a list directly ahead of a leg. -/
def insertAhead (h : Handle) (new : List Handle) : List Handle → List Handle
  | [] => new
  | g :: gs => if g = h then new ++ g :: gs else g :: insertAhead h new gs

/-- DIG legs are made for the plates above, from the top of the stack downward, ahead of the leg. -/
def State.expandDigs (s : State) (h : Handle) (l : Leg) (above : List Handle) : State × List Handle :=
  let made := State.addLegs s.legEntryFree l.batch 0 (above.reverse.map l.dig) s
  (made.1.putLegs l.batch (insertAhead h made.2 (s.batchLegs (some l.batch))), made.2)

/-- An eligible leg is considered for a crane: dig expansion, then the tests (R133 to R135).
DEDUCED: notes/assumptions/27.md. -/
def State.consider (s : State) (c p : Nat) (h : Handle) : State × Bool :=
  match s.leg? h with
  | none => (s, false)
  | some l =>
    if !s.eligible l then (s, false)
    else
      let above := s.above l
      if above.isEmpty then s.tryLeg c p h
      else if Config.maxDig < above.length then
        ((s.modifyLeg h fun l => { l with holdUp := some .tooDeep }).endLeg h .failed, false)
      else if above.any s.undiggable then (s.passOver h l .blocked true, false)
      else if Config.batchMax < (s.batchLegs (some l.batch)).length + above.length
          || s.freeLegs < above.length then (s.passOver h l .full true, false)
      else
        match s.expandDigs h l above with
        | (s', top :: _) => s'.tryLeg c p top
        | (s', []) => (s', false)

/-- The walk over eligible legs: the first that passes is assigned, and the walk stops (R134).
DEDUCED: notes/assumptions/27.md. -/
def State.walkOver (c p : Nat) : List Handle → State → State × Bool
  | [], s => (s, false)
  | h :: hs, s =>
    match s.consider c p h with
    | (s', true) => (s', true)
    | (s', false) => State.walkOver c p hs s'

/-- The fields of the answer that hands a leg to a crane (R135), at the assignment and at each repeat (R134); the kind
tells whether the plate, or the source bed and the skeleton mass, follows. DESIGN CHOICE: notes/assumptions/49.md. The
runway positions are those the Hall Map gives now, also in a repeat. DESIGN CHOICE: notes/assumptions/52.md. Each
position stands right after its own place: source, its position, destination, its position. DESIGN CHOICE:
notes/assumptions/53.md. -/
def State.orderTokens (s : State) (h : Handle) (l : Leg) : List Token :=
  let source := l.source.getD .nowhere
  let target := l.target.getD .nowhere
  [.handle h, .choice l.kind.num]
    ++ (match l.plate, l.sourceBed with
        | some p, _ => [.handle p]
        | none, some (t, d) => [.place (.bed t d), .num 4 (l.skeletonMass.getD 0)]
        | none, none => [])
    ++ [.place source, .num 2 (s.placePos l.bay source), .place target, .num 2 (s.placePos l.bay target),
        .num 4 (l.expected.getD 0)]

/-- The answer that hands a crane its assigned leg. -/
def State.handOver (s : State) (c : Nat) : Reply :=
  match (s.crane c).leg with
  | none => .now s .noWork []
  | some h =>
    match s.leg? h with
    | none => .now s .noWork []
    | some l => .now s .done (s.orderTokens h l)

/-- A crane's claim overlaps a span. -/
def State.standsIn (s : State) (c : Nat) (a : Nat × Nat) : Bool :=
  match (s.crane c).claim with
  | some q => q.meetsSpan a
  | none => false

/-- The answer of a walk in which no leg passes: PARK with a position, or NO_WORK (R137). -/
def State.parkOrWait (s : State) (c : Nat) : Reply :=
  match (s.spans (s.craneBay c)).find? fun e => s.standsIn c e.2 with
  | none => .now s .noWork []
  | some (_, a) =>
    match s.parkPosition c a.1 a.2 with
    | some p => .now s .park [.num 2 p]
    | none => .now s .noWork []

/-- Every crane of a runway has a position (R134). -/
def State.allPlaced (s : State) (bay : Bay) : Bool :=
  (s.runwayCranes bay).all fun c => (s.crane c).position.isSome

/-- Next Leg for an IDLE crane (R134). -/
def State.nextFor (s : State) (c : Nat) : Reply :=
  match (s.crane c).position with
  | none => .now s .noWork []
  | some p =>
    if (s.crane c).stopped || !s.allPlaced (s.craneBay c) then .now s .noWork []
    else
      match State.walkOver c p ((s.walk (s.craneBay c)).map (·.1)) s with
      | (s', true) => s'.handOver c
      | (s', false) => s'.parkOrWait c

/-- The handle of a crane's leg, for the answer that names it. -/
def State.craneLegTokens (s : State) (c : Nat) : List Token :=
  match (s.crane c).leg with
  | some h => [.handle h]
  | none => []

/-- Next Leg in the Bay Dispatcher. -/
def nextLeg (k : Asker) (_ : Unit) (s : State) : Reply :=
  match (s.crane k.unitNum).state with
  | .offline => .now s .noWork []
  | .idle => s.nextFor k.unitNum
  | .assigned => s.handOver k.unitNum
  | .loaded => .now s .wrongState (s.craneLegTokens k.unitNum)
  | .check => .now s .wrongState (s.craneLegTokens k.unitNum)

/-- NEXT_LEG (R133 to R137). -/
def execNextLeg (tag : Byte) (p : Payload Unit) (s : State) : Result :=
  request reqNextLeg tag p s nextLeg

/-! ## Lift (R138, R139) -/

/-- The plate or skeleton of a leg can be lifted from its resolved source (R138, check 6). -/
def State.liftable (s : State) (l : Leg) : Bool :=
  match l.plate, l.sourceBed with
  | some p, _ =>
    match l.source with
    | some (.slot k) => (s.slot k).stack.getLast? == some p
    | some (.bed t d) => (s.bed t d).plates.contains p
    | some .cart => s.cart.plates.contains p && s.cart.side == some l.bay
    | _ => false
  | none, some (t, d) => (s.bed t d).skeleton
  | none, none => false

/-- The fields of a MISMATCH answer: clamped load, expected load, tolerance (R139). -/
def mismatchTokens (load expected : Nat) : List Token :=
  [.num 4 load, .num 4 expected, .num 4 (tolerance expected)]

/-- The load leaves its source: the plate goes on the hook, with MASS_DOUBT on a mismatch, or the skeleton
mark is cleared (R24, R139). -/
def State.liftLoad (s : State) (c : Nat) (l : Leg) (agrees : Bool) : State :=
  match l.plate, l.sourceBed with
  | some p, _ =>
    (s.movePlate p (.hook c)).modifyPlate p fun r =>
      { r with st := { r.st with massDoubt := r.st.massDoubt || !agrees } }
  | none, some (t, d) => s.putSkeleton t d false
  | none, none => s

/-- A lift taken (R139): leg and crane take their states, and a mismatch raises LOAD_MISMATCH.
DEDUCED: notes/assumptions/11.md. -/
def State.lift (s : State) (c : Nat) (h : Handle) (l : Leg) (load : Nat) (agrees : Bool) : State :=
  (((s.liftLoad c l agrees).modifyLeg h fun r =>
      { r with
        state := if agrees then .lifted else .check
        checkLoad := if agrees then none else some load }).modifyCrane c fun k =>
      { k with state := if agrees then .loaded else .check }).raiseIf (!agrees) .loadMismatch

/-- The answer of a report that is taken: a plate leg waits for its plate's state image, a skeleton leg is
complete at once (section 7.6). DEDUCED: notes/assumptions/36.md. -/
def Leg.reported (l : Leg) (s : State) (code : AnsCode) (fields : List Token) : Reply :=
  match l.plate with
  | some p => .waits s [.state p.idx] code fields
  | none => .complete s code fields

/-- Lifted in the Bay Dispatcher. DEDUCED: notes/assumptions/11.md. -/
def liftedReport (k : Asker) (f : LiftedF) (s : State) : Reply :=
  match s.leg? f.leg with
  | none => .refuse s .noSuch
  | some l =>
    if l.crane ≠ some k.unitNum then .refuse s .wrongState
    else
      match l.state with
      | .lifted => .complete s .done []
      | .check => .complete s .mismatch (mismatchTokens (l.checkLoad.getD 0) (l.expected.getD 0))
      | .assigned =>
        if l.plate.isSome && s.pfw then .refuse s .powerDown
        else if !s.liftable l then .refuse s .blocked
        else
          let load := clampLoad f.load
          let expected := l.expected.getD 0
          if loadAgrees expected load then l.reported (s.lift k.unitNum f.leg l load true) .done []
          else l.reported (s.lift k.unitNum f.leg l load false) .mismatch (mismatchTokens load expected)
      | _ => .refuse s .wrongState

/-- LIFTED (R138, R139). -/
def execLifted (tag : Byte) (p : Payload LiftedF) (s : State) : Result :=
  request reqLifted tag p s liftedReport

/-! ## Set-down (R140 to R142) -/

/-- A place that Set Down takes (R141, check 1). DEDUCED: notes/assumptions/40.md. -/
def setDownPlaceOk (p : Place) : Bool :=
  match p with
  | .slot k => k ≤ 95
  | .bed t d => t ≤ 7 && d ≤ 1
  | .cart => true
  | .scrapBin => true
  | _ => false

/-- A bed is the resolved destination of an ASSIGNED, LIFTED or CHECK leg (R140). -/
def State.bedAwaited (s : State) (t d : Nat) : Bool :=
  s.legs.any fun l => l.state.inHand && l.target == some (.bed t d)

/-- The mass the room test takes for a leg's plate. -/
def State.legRoomMass (s : State) (l : Leg) : Option Nat :=
  match s.legPlate l with
  | some r => r.roomMass
  | none => none

/-- The source of a leg in CHECK can take its load back (R140); a slot of the other bay never does (R48). -/
def State.takesBack (s : State) (l : Leg) (p : Place) : Bool :=
  match p with
  | .slot k => (s.slotCfg k).bay == l.bay && s.hasRoom k (s.legRoomMass l)
  | .bed t d => s.bedBare t d && !s.bedAwaited t d
  | .cart => s.cartHasRoom && s.cart.side == some l.bay
  | _ => false

/-- The load goes to a place: the plate joins it, a skeleton set on a bed is marked there, and a skeleton in
the scrap bin leaves the records (R24, R140, R141). -/
def State.land (s : State) (l : Leg) (p : Place) : State :=
  match l.plate with
  | some h => s.movePlate h p
  | none =>
    match p with
    | .bed t d => s.putSkeleton t d true
    | _ => s

/-- A Set Down from CHECK: a set-back at the source, or WRONG_PLACE (R140). -/
def State.setBack (s : State) (h : Handle) (l : Leg) (p : Place) : Reply :=
  if l.source = some p ∧ s.takesBack l p = true then l.reported ((s.land l p).requeueLeg h) .done []
  else .refuse s .wrongPlace

/-- The resolved destination of a LIFTED leg takes its load (R141); a slot of the other bay never does (R48). -/
def State.takesLoad (s : State) (l : Leg) (p : Place) : Bool :=
  match p with
  | .slot k => (s.slotCfg k).bay == l.bay
  | .bed t d => s.bedBare t d
  | .cart => s.cart.side == some l.bay
  | .scrapBin => true
  | _ => false

/-- A slot takes a diverted plate: it is of the leg's bay and has room (R142). -/
def State.takesDiverted (s : State) (l : Leg) (p : Place) : Bool :=
  match p with
  | .slot k => l.plate.isSome && (s.slotCfg k).bay == l.bay && s.hasRoom k (s.legRoomMass l)
  | _ => false

/-- A Set Down of a LIFTED leg (R141, R142). -/
def State.setDownLifted (s : State) (h : Handle) (l : Leg) (p : Place) : Reply :=
  if l.target = some p then
    if s.takesLoad l p then l.reported ((s.land l p).doneLeg h) .done [] else .refuse s .wrongPlace
  else if s.takesDiverted l p then l.reported ((s.land l p).requeueLeg h) .done []
  else .refuse s .wrongPlace

/-- Set Down in the Bay Dispatcher. -/
def setDownReport (k : Asker) (f : SetDownF) (s : State) : Reply :=
  if !setDownPlaceOk f.place then .refuse s .badRequest
  else
    match s.leg? f.leg with
    | none => .refuse s .noSuch
    | some l =>
      if l.crane ≠ some k.unitNum then .refuse s .wrongState
      else if l.plate.isSome && s.pfw then .refuse s .powerDown
      else
        match l.state with
        | .check => s.setBack f.leg l f.place
        | .lifted => s.setDownLifted f.leg l f.place
        | _ => .refuse s .wrongState

/-- SET_DOWN (R140 to R142). -/
def execSetDown (tag : Byte) (p : Payload SetDownF) (s : State) : Result :=
  request reqSetDown tag p s setDownReport

/-- Accept Load in the Bay Dispatcher (R140). -/
def acceptLoad (_ : Asker) (h : Handle) (s : State) : Reply :=
  match s.leg? h with
  | none => .refuse s .noSuch
  | some l =>
    match l.state, l.crane with
    | .check, some c =>
      .now ((s.modifyLeg h fun l => { l with state := .lifted }).modifyCrane c fun k =>
          { k with state := .loaded }) .done []
    | _, _ => .refuse s .wrongState

/-- ACCEPT_LOAD (R140). -/
def execAcceptLoad (tag : Byte) (p : Payload Handle) (s : State) : Result :=
  request reqAcceptLoad tag p s acceptLoad

/-! ## Faults, cancellation, silent cranes (R143 to R147) -/

/-- Leg Fault in the Bay Dispatcher. -/
def legFault (k : Asker) (h : Handle) (s : State) : Reply :=
  match s.leg? h with
  | none => .refuse s .noSuch
  | some l =>
    if l.crane = some k.unitNum ∧ l.state = .assigned then .now (s.requeueLeg h) .done []
    else .refuse s .wrongState

/-- LEG_FAULT (R143). -/
def execLegFault (tag : Byte) (p : Payload Handle) (s : State) : Result :=
  request reqLegFault tag p s legFault

/-- The batch a leg belongs to is COMMITTED. -/
def State.inCommitted (s : State) (l : Leg) : Bool :=
  match s.batch? l.batch with
  | some b => b.state == .committed
  | none => false

/-- Cancel Leg in the Bay Dispatcher. -/
def cancelLeg (_ : Asker) (h : Handle) (s : State) : Reply :=
  match s.leg? h with
  | none => .refuse s .noSuch
  | some l =>
    match l.state with
    | .queued => if s.inCommitted l then .now (s.endLeg h .cancelled) .done [] else .refuse s .wrongState
    | .assigned => .now (s.requeueLeg h) .done []
    | _ => .refuse s .wrongState

/-- CANCEL_LEG (R144). -/
def execCancelLeg (tag : Byte) (p : Payload Handle) (s : State) : Result :=
  request reqCancelLeg tag p s cancelLeg

/-- A place that Break Hook names in range (R146, check 1). DEDUCED: notes/assumptions/40.md. -/
def breakHookPlaceOk (p : Place) : Bool :=
  match p with
  | .slot k => k ≤ 95
  | .bed t d => t ≤ 7 && d ≤ 1
  | .cart => true
  | .nowhere => true
  | .scrapBin => true
  | _ => false

/-- A place that can take a plate off a broken hook (R146, check 5). -/
def State.takesBroken (s : State) (p : Place) : Bool :=
  match p with
  | .slot k => s.hasRoom k none
  | .bed t d => s.bedBare t d && (s.bedJob t d).isNone
  | .cart => s.cartHasRoom
  | .nowhere => true
  | _ => false

/-- The plate goes to the named place and becomes DOUBTFUL; its leg, if it has one, becomes CANCELLED
(R24, R147). -/
def State.breakPlate (s : State) (h : Handle) (r : PlateRec) (p : Place) : State :=
  let s' := (s.movePlate h p).modifyPlate h fun r => { r with st := { r.st with doubtful := true } }
  match r.leg with
  | some l => s'.endLeg l .cancelled
  | none => s'

/-- The skeleton leg on a crane's hook (R146, check 4). -/
def State.skeletonOnHook (s : State) (c : Nat) : Option (Handle × Leg) :=
  match (s.crane c).leg with
  | none => none
  | some h =>
    match s.leg? h with
    | some l => if l.kind = .clearSkeleton ∧ l.state.onHook then some (h, l) else none
    | none => none

/-- Break Hook of a skeleton (R146 check 5, R147). -/
def State.breakSkeleton (s : State) (h : Handle) (l : Leg) (p : Place) : Reply :=
  match p with
  | .scrapBin => .complete (s.doneLeg h) .done []
  | .bed t d =>
    if l.sourceBed = some (t, d) then .complete ((s.putSkeleton t d true).endLeg h .cancelled) .done []
    else .refuse s .wrongPlace
  | _ => .refuse s .wrongPlace

/-- Break Hook in the Bay Dispatcher. -/
def breakHook (_ : Asker) (f : BreakHookF) (s : State) : Reply :=
  if 5 < f.crane || !breakHookPlaceOk f.place then .refuse s .badRequest
  else if !(s.craneSilent f.crane || (s.crane f.crane).state == .offline) then .refuse s .wrongState
  else
    match f.plate with
    | some h =>
      if s.pfw then .refuse s .powerDown
      else
        match s.plate? h with
        | none => .refuse s .noSuch
        | some r =>
          if r.st.location ≠ .hook f.crane then .refuse s .wrongState
          else if !s.takesBroken f.place then .refuse s .wrongPlace
          else .waits (s.breakPlate h r f.place) [.state h.idx] .done []
    | none =>
      match s.skeletonOnHook f.crane with
      | none => .refuse s .wrongState
      | some (h, l) => s.breakSkeleton h l f.place

/-- BREAK_HOOK (R146, R147). -/
def execBreakHook (tag : Byte) (p : Payload BreakHookF) (s : State) : Result :=
  request reqBreakHook tag p s breakHook

end Sys2Proof.Machine
end

