-- ==== Sys2Proof/Machine/Cart.lean ====
section
/-! DEFINITION. The transfer cart's requests (section 7.8) and the reads of legs, batches, cranes and runways
(section 7.9, R161). -/

namespace Sys2Proof.Machine

open Sys2Proof

/-! ## The cart (R148, R149) -/

/-- What Next Trip orders (R148). -/
inductive Trip where
  | go (side : Bay)
  | stay
  deriving DecidableEq, Repr

/-- A leg in a crane's hands has the cart as its resolved source or destination (R148, case 1). -/
def State.cartInUse (s : State) : Bool :=
  s.legs.any fun l => l.state.inHand && (l.source == some .cart || l.target == some .cart)

/-- GO with a side that the cart is not at, else STAY. -/
def State.tripTo (s : State) (wanted : Option Bay) : Trip :=
  match wanted with
  | none => .stay
  | some bay => if s.cart.side = some bay then .stay else .go bay

/-- The bay of the leg that a plate on the cart waits for (R148, case 2). -/
def State.cartPlateBay (s : State) (p : Handle) : Option Bay :=
  match s.frontLegs fun l => l.state == .queued && l.plate == some p with
  | (_, l) :: _ => some l.bay
  | [] => none

/-- A leg's plate is found and not DOUBTFUL. -/
def State.plateSound (s : State) (l : Leg) : Bool :=
  match s.legPlate l with
  | some r => !r.st.doubtful
  | none => false

/-- The bay of the first waiting TRANSFER_OUT in walk order (R148, case 3). -/
def State.transferBay (s : State) : Option Bay :=
  match s.inWalkOrder
      (s.frontLegs fun l => l.state == .queued && l.kind == .transferOut && s.plateSound l) with
  | (_, l) :: _ => some l.bay
  | [] => none

/-- The order of Next Trip (R148). -/
def State.trip (s : State) : Trip :=
  if s.cartInUse then .stay
  else
    match s.cart.plates with
    | [p] => s.tripTo (s.cartPlateBay p)
    | [] => if s.cart.incoming.isEmpty then s.tripTo s.transferBay else .stay
    | _ => .stay

/-- Next Trip in the dispatchers: GO (0) with the side after it, STAY (1) alone.
DESIGN CHOICE: notes/assumptions/49.md. -/
def nextTrip (_ : Asker) (_ : Unit) (s : State) : Reply :=
  match s.trip with
  | .go bay => .now { s with cart := { s.cart with side := none } } .done [.choice 0, .choice bay.num]
  | .stay => .now s .done [.choice 1]

/-- NEXT_TRIP (R148). -/
def execNextTrip (tag : Byte) (p : Payload Unit) (s : State) : Result :=
  request reqNextTrip tag p s nextTrip

/-- Cart Arrived in the dispatchers. -/
def cartArrived (_ : Asker) (v : Nat) (s : State) : Reply :=
  match Bay.ofNum v with
  | none => .refuse s .badRequest
  | some bay => .now { s with cart := { s.cart with side := some bay } } .done []

/-- CART_ARRIVED (R149). -/
def execCartArrived (tag : Byte) (p : Payload Nat) (s : State) : Result :=
  request reqCartArrived tag p s cartArrived

/-! ## Reading legs, batches and cranes (R150) -/

/-- Every field of a leg record, in the order of the table of section 7.1.
DESIGN CHOICE: notes/assumptions/13.md. -/
def Leg.tokens (l : Leg) (h : Handle) : List Token :=
  [.handle h, .choice l.bay.num, .choice l.kind.num, .handle l.batch, .num 1 l.position]
    ++ optTok l.plate (fun p => [.handle p])
    ++ optTok l.sourceBed (fun e => [.place (.bed e.1 e.2)])
    ++ optTok l.skeletonMass (fun m => [.num 4 m])
    ++ optTok l.skeletonThickness (fun t => [.num 2 t])
    ++ [.place l.destination, .num 1 l.priority, .num 1 l.skips, flagTok l.starving, .choice l.state.num]
    ++ optTok l.holdUp (fun u => [.choice u.num])
    ++ optTok l.crane (fun c => [.num 1 c])
    ++ optTok l.source (fun p => [.place p])
    ++ optTok l.target (fun p => [.place p])
    ++ optTok l.expected (fun e => [.num 4 e])

/-- READ_LEG (R150). -/
def execReadLeg (tag : Byte) (p : Payload Handle) (s : State) : Result :=
  request reqReadLeg tag p s fun _ h s =>
    match s.leg? h with
    | none => .refuse s .noSuch
    | some l => .now s .done (l.tokens h)

/-- A batch's origin: 0 and a job handle, or 1 and a station address. DESIGN CHOICE: notes/assumptions/49.md. -/
def BatchOrigin.tokens (o : BatchOrigin) : List Token :=
  match o with
  | .job h => [.choice 0, .handle h]
  | .station a => [.choice 1, .num 1 a]

/-- What Read Batch gives of one leg. -/
def Leg.batchTokens (l : Leg) (h : Handle) : List Token :=
  [.handle h, .choice l.kind.num, .choice l.state.num]
    ++ optTok l.plate (fun p => [.handle p])
    ++ optTok l.holdUp (fun u => [.choice u.num])

/-- The legs that a batch's handles still name, each with its fields. -/
def State.batchEntries (s : State) (b : Batch) : List (List Token) :=
  b.legs.filterMap fun h =>
    match s.leg? h with
    | some l => some (l.batchTokens h)
    | none => none

/-- What Read Batch answers for a batch found (R150).
DEDUCED: notes/assumptions/18.md. DEDUCED: notes/assumptions/35.md. -/
def State.batchTokens (s : State) (k : Asker) (h : Handle) (b : Batch) (start : Option Nat) : List Token :=
  let front : List Token := .handle h :: b.origin.tokens
  let back : List Token := .choice b.state.num :: optTok b.seq (fun n => [.num 4 n])
  front ++ pageTok (k.head + sizeOfTokens front + sizeOfTokens back) start (s.batchEntries b) ++ back

/-- READ_BATCH (R150). -/
def execReadBatch (tag : Byte) (p : Payload ReadHandleF) (s : State) : Result :=
  request reqReadBatch tag p s fun k f s =>
    match s.batch? f.handle with
    | none => .refuse s .noSuch
    | some b => .now s .done (s.batchTokens k f.handle b f.start)

/-- A crane's configuration, in the order of the table of section 7.3. -/
def CraneCfg.tokens (c : CraneCfg) : List Token :=
  [.choice c.runway.num, .num 1 c.order, .num 4 c.swl, .num 4 c.tare, .num 2 c.hw, .num 2 c.minThickness]

/-- What Read Crane answers for a crane in range (R150). -/
def State.craneTokens (s : State) (c : Nat) : List Token :=
  (s.craneCfg c).tokens
    ++ [flagTok (s.inService c), .choice (s.crane c).state.num]
    ++ optTok (s.crane c).leg (fun h => [.handle h])
    ++ [flagTok (s.craneSilent c)]
    ++ optTok (s.crane c).position (fun p => [.num 2 p])
    ++ claimTokens (s.crane c).claim
    ++ [flagTok (s.crane c).stopped]

/-- READ_CRANE (R150). -/
def execReadCrane (tag : Byte) (p : Payload Nat) (s : State) : Result :=
  request reqReadCrane tag p s fun _ c s =>
    if c ≤ 5 then .now s .done (s.craneTokens c) else .refuse s .badRequest

/-! ## Read Runway (R161) -/

/-- The cranes of a runway from west to east. -/
def State.cranesWestToEast (s : State) (bay : Bay) : List Nat :=
  sortBy (fun c d => decide ((s.craneCfg c).order < (s.craneCfg d).order)) (s.runwayCranes bay)

/-- What Read Runway gives of one crane. -/
def State.runwayCraneTokens (s : State) (c : Nat) : List Token :=
  [.num 1 c, .num 2 (s.halfWidth c)]
    ++ optTok (s.crane c).position (fun p => [.num 2 p])
    ++ claimTokens (s.crane c).claim
    ++ [flagTok (s.crane c).stopped, flagTok (s.craneSilent c)]

/-- What Read Runway answers for a bay (R161), the STARVING legs in walk order.
DEDUCED: notes/assumptions/18.md. DESIGN CHOICE: notes/assumptions/43.md. -/
def State.runwayTokens (s : State) (k : Asker) (bay : Bay) (start : Option Nat) : List Token :=
  let front : List Token :=
    .num 2 (s.hall.runways.get bay) :: listTok ((s.cranesWestToEast bay).map s.runwayCraneTokens)
  front ++ pageTok (k.head + sizeOfTokens front) start
    ((s.spans bay).map fun e => [.handle e.1, .num 2 e.2.1, .num 2 e.2.2])

/-- READ_RUNWAY (R161). -/
def execReadRunway (tag : Byte) (p : Payload ReadNumF) (s : State) : Result :=
  request reqReadRunway tag p s fun k f s =>
    match Bay.ofNum f.index with
    | none => .refuse s .badRequest
    | some bay => .now s .done (s.runwayTokens k bay f.start)

end Sys2Proof.Machine
end

