-- ==== Sys2Proof/Machine/Link.lean ====
section
/-! DEFINITION. The Link Controller (chapter 9): the poll round, the outcomes of an attempt, Fetch Result, and
enrolment. The checks of a request and its answer stand in Operands.lean. -/

namespace Sys2Proof.Machine

open Sys2Proof

/-! ## Polling (R164 to R166) -/

/-- The poll round built from the station table (R164): the first half of the stations by address, the stations
of weight 2, the rest. -/
def State.buildRound (s : State) : List Nat :=
  let l := s.addressesOf fun _ => true
  let w := s.addressesOf fun st => st.weight == 2
  let half := (l.length + 1) / 2
  l.take half ++ w ++ l.drop half

/-- The next entry of a round that is still to be polled, and how many entries lie before and at it; an entry
whose station was removed is passed over (R164). -/
def nextEntry : Nat → List (Option Nat) → Option (Nat × Nat)
  | _, [] => none
  | i, some a :: _ => some (a, i + 1)
  | i, none :: es => nextEntry (i + 1) es

/-- Sends a POLL to a station: attempt `n` of its entry (R165). -/
def State.sendPoll (s : State) (a n : Nat) : State :=
  { s with poll := some ⟨a, n⟩, lastFrame := some (.poll a) }

/-- POLL (R164, R165): the next entry of the round, or the first of a new one when the round has ended.
DESIGN CHOICE: notes/assumptions/1.md. DEDUCED: notes/assumptions/22.md. DEDUCED: notes/assumptions/25.md. -/
def execPoll (s : State) : Result :=
  if s.phase = .running then
    if s.restartPending then .refused (.notEnabled .notRunning)
    else
      match s.poll with
      | some _ => .refused (.notEnabled .pollOutstanding)
      | none =>
        match nextEntry s.roundPos (s.round.drop s.roundPos) with
        | some (a, i) => .next ({ s with roundPos := i }.sendPoll a 1)
        | none =>
          match s.buildRound with
          | [] => .fault .unknownStation
          | a :: rest =>
            .next ({ s with round := (a :: rest).map some, roundPos := 1 }.sendPoll a 1)
  else .refused (.notEnabled .notRunning)

/-- A poll that ended in a miss (R166): the miss count rises by one, up to 8, and at 8 the station becomes
SILENT and STATION_SILENT is raised. -/
def State.miss (s : State) (a : Nat) (st : Station) : State :=
  let n := min (st.misses + 1) Config.silentAt
  let silent := st.silent || n == Config.silentAt
  (({ s with poll := none }).modifyStation a fun st => { st with misses := n, silent := silent }).raiseIf
    (silent && !st.silent) .stationSilent

/-- A failed attempt (R165): the same station is polled again, or the poll ends in a miss after the third
attempt, or after the only attempt of a SILENT station. -/
def State.failAttempt (s : State) (a : Nat) (st : Station) : State :=
  match s.poll with
  | none => s
  | some p =>
    if st.silent ∨ Config.pollAttempts ≤ p.attempt then s.miss a st else s.sendPoll a (p.attempt + 1)

/-- An event of the poll in progress, as a step. -/
def pollEvent (s : State) (f : Nat → Station → State) : Result :=
  match s.due with
  | .no why => .refused (.notEnabled why)
  | .broken => .fault .unknownStation
  | .polled a st => .next (f a st)

/-- REPLY_TIMEOUT (R165). DEDUCED: notes/assumptions/21.md. -/
def execReplyTimeout (s : State) : Result := pollEvent s fun a st => s.failAttempt a st

/-- BAD_FRAME (R162, R165). DEDUCED: notes/assumptions/21.md. -/
def execBadFrame (s : State) : Result :=
  pollEvent s fun a st => (s.raise .linkError).failAttempt a st

/-- WRONG_ADDRESS_FRAME (R162, R165). DEDUCED: notes/assumptions/21.md. -/
def execWrongAddressFrame (s : State) : Result :=
  pollEvent s fun a st => (s.raise .linkError).failAttempt a st

/-- IDLE_FRAME (R165, R166). DEDUCED: notes/assumptions/21.md. -/
def execIdleFrame (s : State) : Result := pollEvent s fun a _ => s.heard a

/-- A good REQUEST whose code is not in the request code table (R167, step 1). -/
def execUnknownRequestCode (tag : Byte) (_code : Nat) (s : State) : Result :=
  pollEvent s fun a st => (s.heard a).answer ⟨a, st.kind, st.unit, tag⟩ .badRequest []

/-! ## Fetch Result (R170) -/

/-- Fetch Result in the Link Controller. -/
def fetchResult (k : Asker) (_ : Unit) (s : State) : Reply :=
  match s.station? k.address with
  | none => .refuse s .noResult
  | some st =>
    match st.slot with
    | .empty => .refuse s .noResult
    | .inFlight t => .now s .working [.num 1 t.toNat]
    | .held t request code fields =>
      .now (s.putAnswer k.address .empty) code (.num 1 t.toNat :: .choice request :: fields)

/-- FETCH_RESULT (R170). -/
def execFetchResult (tag : Byte) (p : Payload Unit) (s : State) : Result :=
  request reqFetchResult tag p s fetchResult

/-! ## Read Station (R173) -/

/-- The state of an answer slot, with the tag it holds; no tag and no mark of it when it is EMPTY.
DESIGN CHOICE: notes/assumptions/45.md. -/
def AnsSlot.tokens (v : AnsSlot) : List Token :=
  match v with
  | .empty => [.choice 0]
  | .inFlight t => [.choice 1, .num 1 t.toNat]
  | .held t _ _ _ => [.choice 2, .num 1 t.toNat]

/-- The places of an address in a poll round, counted from 0. DESIGN CHOICE: notes/assumptions/41.md. -/
def placesIn (a : Nat) (round : List (Option Nat)) : List Nat :=
  (round.zipIdx.filter fun e => e.1 == some a).map (·.2)

/-- What Read Station answers for an address in range. -/
def State.stationTokens (s : State) (a : Nat) : List Token :=
  match s.station? a with
  | none => [.choice 0]
  | some st =>
    .choice 1 :: .choice st.kind.num :: optTok st.unit (fun u => [.num 1 u])
      ++ [.num 1 st.weight, .num 1 st.misses, flagTok st.silent]
      ++ st.slot.tokens
      ++ listTok ((placesIn a s.round).map fun i => [.num 1 i])

/-- READ_STATION (R173). -/
def execReadStation (tag : Byte) (p : Payload Nat) (s : State) : Result :=
  request reqReadStation tag p s fun _ a s =>
    if inRange 1 32 a then .now s .done (s.stationTokens a) else .refuse s .badRequest

/-! ## Enrolment (R171, R172) -/

/-- The bound unit that a kind must have, or must not have (R171, check 2). -/
def StationKind.unitOk (k : StationKind) (unit : Option Nat) : Bool :=
  match k, unit with
  | .table, some u => u ≤ 7
  | .marker, some u => u ≤ 7
  | .crane, some u => u ≤ 5
  | .supervisor, none => true
  | .cart, none => true
  | .terminal, none => true
  | _, _ => false

/-- The poll weight is 1 or 2, and 2 for CRANE (R171, check 2). -/
def StationKind.weightOk (k : StationKind) (weight : Nat) : Bool :=
  match k with
  | .crane => weight == 2
  | _ => inRange 1 2 weight

/-- Another station may not have this kind with this bound unit: one of each per table or crane, and one CART
(R163). -/
def StationKind.single (k : StationKind) : Bool :=
  match k with
  | .table => true
  | .marker => true
  | .crane => true
  | .cart => true
  | _ => false

/-- Another enrolled station stands in the way (R171, check 3). -/
def State.unitTaken (s : State) (a : Nat) (kind : StationKind) (unit : Option Nat) : Bool :=
  kind.single && (s.addressesOf fun st => st.kind == kind && st.unit == unit).any (· != a)

/-- The crane a station is bound to. -/
def Station.crane? (st : Station) : Option Nat := if st.kind = .crane then st.unit else none

/-- Whether a crane has a leg. -/
def State.craneHasLeg (s : State) (c : Nat) : Bool := (s.crane c).leg.isSome

/-- The address's station is bound to a crane that has a leg, and the request would bind it otherwise
(R171, check 4). -/
def State.craneHeld (s : State) (a : Nat) (new : Option Nat) : Bool :=
  match s.station? a with
  | none => false
  | some st =>
    match st.crane? with
    | none => false
    | some c => s.craneHasLeg c && new != some c

/-- The crane of the address's station, if it is bound otherwise, goes out of service (R171, R172). -/
def State.unbindCrane (s : State) (a : Nat) (new : Option Nat) : State :=
  match s.station? a with
  | none => s
  | some st =>
    match st.crane? with
    | none => s
    | some c => if new = some c then s else s.craneOff c

/-- A request in flight whose station's slot is emptied keeps its work and loses its answer (R169). -/
def Deferred.orphan (a : Nat) (d : Deferred) : Deferred :=
  if d.station = some a then { d with station := none } else d

/-- What goes with a station that is re-enrolled or removed (R169, R171, R172): the answers its deferred
requests would have had, its draft, its OPEN batch, its outstanding search. -/
def State.forget (s : State) (a : Nat) : State :=
  ({ ((s.discardOpen a).putDraft a []) with
      deferred := s.deferred.map (Deferred.orphan a) }).withdrawSearch a

/-- The station table entry of an address replaced. -/
def State.putStation (s : State) (a : Nat) (e : Option Station) : State :=
  { s with stations := s.stations.set (a - 1) e }

/-- A removed station is passed over at its remaining entries of the round (R164). -/
def State.leaveRound (s : State) (a : Nat) : State :=
  { s with round := s.round.map fun e => if e = some a then none else e }

/-- The crane a request would bind. -/
def boundCrane (kind : StationKind) (unit : Option Nat) : Option Nat :=
  if kind = .crane then unit else none

/-- An Enrol Station taken. -/
def State.enrol (s : State) (a : Nat) (kind : StationKind) (unit : Option Nat) (weight : Nat) : State :=
  ((((s.forget a).unbindCrane a (boundCrane kind unit)).putStation a
    (some ⟨kind, unit, weight, 0, false, .empty⟩))).enqueue (.group .stations)

/-- Enrol Station in the Link Controller. -/
def enrolStation (k : Asker) (f : EnrolF) (s : State) : Reply :=
  if s.pfw then .refuse s .powerDown
  else if !inRange 2 32 f.address || f.address == k.address then .refuse s .badRequest
  else
    match StationKind.ofNum f.kind with
    | none => .refuse s .badRequest
    | some kind =>
      if !kind.unitOk f.unit || !kind.weightOk f.weight then .refuse s .badRequest
      else if s.unitTaken f.address kind f.unit then .refuse s .inUse
      else if s.craneHeld f.address (boundCrane kind f.unit) then .refuse s .inUse
      else .waits (s.enrol f.address kind f.unit f.weight) [.group .stations] .done []

/-- ENROL_STATION (R171). DEDUCED: notes/assumptions/28.md. -/
def execEnrolStation (tag : Byte) (p : Payload EnrolF) (s : State) : Result :=
  request reqEnrolStation tag p s enrolStation

/-- A Remove Station taken. -/
def State.removeStation (s : State) (a : Nat) : State :=
  ((((s.forget a).unbindCrane a none).putStation a none).leaveRound a).enqueue (.group .stations)

/-- Remove Station in the Link Controller. -/
def removeStation (k : Asker) (a : Nat) (s : State) : Reply :=
  if s.pfw then .refuse s .powerDown
  else if !inRange 2 32 a || a == k.address then .refuse s .badRequest
  else
    match s.station? a with
    | none => .refuse s .noSuch
    | some _ =>
      if s.craneHeld a none then .refuse s .inUse
      else .waits (s.removeStation a) [.group .stations] .done []

/-- REMOVE_STATION (R172). DEDUCED: notes/assumptions/25.md. -/
def execRemoveStation (tag : Byte) (p : Payload Nat) (s : State) : Result :=
  request reqRemoveStation tag p s removeStation

end Sys2Proof.Machine
end

