-- ==== Sys2Proof/Machine/Store.lean ====
section
/-! DEFINITION. The Record Store (sections 10.1 and 10.2): reading and writing images, the write queue at
work, the completion of deferred requests, PFW, and what a reset or a loss of power leaves. -/

namespace Sys2Proof.Machine

open Sys2Proof

/-! ## The contents of the images (R13, R176) -/

/-- What the stations group keeps of the station table: the enrolled entries, by address (section 10.3).
DEDUCED: notes/assumptions/30.md. -/
def State.stationList (s : State) : List StationCfg :=
  (s.addressesOf fun _ => true).filterMap fun a =>
    match s.station? a with
    | some st => some ⟨a, st.kind, st.unit, st.weight⟩
    | none => none

/-- The generation and record of a plate entry that holds one. -/
def State.plateEntry (s : State) (i : Nat) : Option (Nat × PlateRec) :=
  match s.plates.get? i with
  | none => none
  | some e =>
    match e.record with
    | none => none
    | some r => some (e.gen, r)

/-- The bytes that a write of an image takes from the records (R13, R176); none for an image of a FREE plate entry. -/
def State.contents (s : State) (i : ImageId) : Option (List Byte) :=
  match i with
  | .genWord n => (s.plateEntry n).map fun e => put1 e.1
  | .identity n => (s.plateEntry n).map fun e => putIdentity e.1 e.2.ident
  | .state n => (s.plateEntry n).map fun e => putState e.1 e.2.st
  | .header => some (put8 s.headerFloor)
  | .group .grades => some (putEntries putGrade s.hall.grades.entries)
  | .group .slots => some (putEntries putSlotCfg s.hall.slots.entries)
  | .group .tables => some (putEntries putTableCfg s.hall.tables.entries)
  | .group .cranes => some (putEntries putCraneCfg s.hall.cranes.entries)
  | .group .cart => some (putPerBay s.hall.cart)
  | .group .bins => some (putPerBay s.hall.bins)
  | .group .runways => some (putPerBay s.hall.runways)
  | .group .stations => some (putList putStationCfg s.stationList)
  | .group .alarms => some (putAlarmCfg s.hall.alarms)

/-- The words that a write of an image takes (R176): those of its contents, or of a FREE plate entry's image as it
was read and repaired. DEDUCED: notes/assumptions/8.md. -/
def State.wordsFor (s : State) (i : ImageId) : List (BitVec 64) :=
  match s.contents i with
  | some b => imageWords i.size b
  | none => (s.store.image i).words

/-! ## Writing (R176) -/

/-- Whether the part has run far enough to write: start-up writes too (R182, step 7). -/
def Phase.writes : Phase → Bool
  | .startup => true
  | .running => true
  | _ => false

/-- A wait of a deferred request sees a write of its image begin. -/
def Wait.begin (i : ImageId) (w : Wait) : Wait := if w.image = i then { w with begun := true } else w

/-- A deferred request sees a write begin (R13). -/
def Deferred.begin (i : ImageId) (d : Deferred) : Deferred := { d with waits := d.waits.map (Wait.begin i) }

/-- A wait is over when a write of its image that began after the change ends (R13). -/
def Wait.over (i : ImageId) (w : Wait) : Bool := w.image == i && w.begun

/-- A deferred request sees a write of an image end (R13, R176). -/
def Deferred.finish (i : ImageId) (failed : Bool) (d : Deferred) : Deferred :=
  { d with
    waits := d.waits.filter fun w => !w.over i
    failed := d.failed || (failed && d.waits.any (Wait.over i)) }

/-- WRITE_START (R176): the head image leaves the queue and its write begins.
DESIGN CHOICE: notes/assumptions/1.md. DEDUCED: notes/assumptions/22.md. -/
def execWriteStart (s : State) : Result :=
  if s.phase.writes ∧ !s.restartPending ∧ !s.pfw then
    match s.inFlight, s.queue with
    | none, i :: rest =>
      .next { s with
        queue := rest
        inFlight := some ⟨i, s.wordsFor i, 1⟩
        deferred := s.deferred.map (Deferred.begin i) }
    | _, _ => .refused (.notEnabled .writeNotDue)
  else .refused (.notEnabled .writeNotDue)

/-- A write has ended, good or failed. -/
def State.writeDone (s : State) (w : Write) (failed : Bool) : State :=
  { s with inFlight := none, deferred := s.deferred.map (Deferred.finish w.image failed) }

/-- WRITE_END (R176): the image read back agrees with what was written, or is written a second time, or its write
has failed. DESIGN CHOICE: notes/assumptions/1.md. DESIGN CHOICE: notes/assumptions/5.md.
DEDUCED: notes/assumptions/6.md. -/
def execWriteEnd (fate : WriteFate) (s : State) : Result :=
  if s.phase.writes then
    match s.inFlight with
    | none => .refused (.notEnabled .noWrite)
    | some w =>
      let s' := { s with store := s.store.write w.image w.words fate }
      if (s'.store.image w.image).agrees w.words then .next (s'.writeDone w false)
      else if w.attempt < 2 then .next { s' with inFlight := some { w with attempt := w.attempt + 1 } }
      else .next ((s'.raise .storeWriteFault).writeDone w true)
  else .refused (.notEnabled .noWrite)

/-! ## Completion of deferred requests (R14, R169, R176) -/

/-- The final code: DONE becomes DONE_UNSAVED when a write failed. -/
def Deferred.finalCode (d : Deferred) : AnsCode :=
  if d.failed && d.code == .done then .doneUnsaved else d.code

/-- The final answer is placed in the slot of the station that waits for it (R169).
DESIGN CHOICE: notes/assumptions/38.md. -/
def State.complete (s : State) (d : Deferred) : State :=
  match d.station with
  | none => s
  | some a =>
    match s.station? a with
    | none => s
    | some st =>
      if st.slot = AnsSlot.inFlight d.tag then s.putAnswer a (.held d.tag d.request d.finalCode d.fields)
      else s

/-- DEFERRED_COMPLETE: a deferred request whose images are all written gets its final answer.
DESIGN CHOICE: notes/assumptions/1.md. DEDUCED: notes/assumptions/22.md. DESIGN CHOICE: notes/assumptions/38.md. -/
def execDeferredComplete (index : Nat) (s : State) : Result :=
  match s.phase with
  | .running =>
    match s.deferred[index]? with
    | none => .refused (.notEnabled .notComplete)
    | some d =>
      if d.waits.isEmpty then .next { s.complete d with deferred := s.deferred.eraseIdx index }
      else .refused (.notEnabled .notComplete)
  | _ => .refused (.notEnabled .notRunning)

/-! ## PFW (R177) -/

/-- PFW_ASSERT: POWER_WARNING is raised when PFW becomes asserted. DEDUCED: notes/assumptions/23.md. -/
def execPfwAssert (s : State) : Result :=
  .next ({ s with pfw := true }.raiseIf (s.phase.writes && !s.pfw) .powerWarning)

/-- PFW_RELEASE (R177). DEDUCED: notes/assumptions/23.md. -/
def execPfwRelease (s : State) : Result := .next { s with pfw := false }

/-! ## What a reset leaves (R178) -/

/-- The array after a reset or a loss of power met the write in flight (R175, R178). -/
def State.tornStore (s : State) (fate : WriteFate) : Store :=
  match s.inFlight with
  | none => s.store
  | some w => s.store.write w.image w.words fate

/-- The part with every volatile table cleared (R178): the array, the pins and the commands waiting stay.
DESIGN CHOICE: notes/assumptions/24.md. -/
def State.cleared (s : State) (phase : Phase) (store : Store) : State :=
  { State.reset with
    phase := phase
    rst := s.rst
    pfw := s.pfw
    store := store
    seqCounter := 0
    headerFloor := 0
    queue := []
    flags := 0#12
    pending := s.pending }

/-- POWER_LOSS (R177): the supply is gone. DESIGN CHOICE: notes/assumptions/24.md. -/
def execPowerLoss (fate : WriteFate) (s : State) : Result :=
  match s.phase with
  | .off => .refused (.notEnabled .supplyOff)
  | _ => .next (s.cleared .off (s.tornStore fate))

/-- RST_ASSERT (R178): a reset by RST ends all activity at once, and the part stays in reset.
DEDUCED: notes/assumptions/23.md. DESIGN CHOICE: notes/assumptions/24.md. -/
def execRstAssert (fate : WriteFate) (s : State) : Result :=
  match s.phase with
  | .off => .next { s with rst := true }
  | .inReset => .next { s with rst := true }
  | _ => .next ({ s with rst := true }.cleared .inReset (s.tornStore fate))

end Sys2Proof.Machine
end

