-- ==== Sys2Proof/Machine/Startup.lean ====
section
/-! DEFINITION. Start-up (section 10.4): reading the Hall Map and the plate images, classifying the entries,
settling the records, the collections, the counter and the alarms; and the steps that begin and end it. -/

namespace Sys2Proof.Machine

open Sys2Proof

/-- The condition in which start-up finds an image (R175). -/
inductive Condition where
  | sound | corrected | bad | absent
  deriving DecidableEq, Repr

/-- The condition of what a read finds. -/
def Stored.condition {α : Type} : Stored α → Condition
  | .absent => .absent
  | .sound _ => .sound
  | .corrected _ => .corrected
  | .bad => .bad

/-! ## The Hall Map groups (R181) -/

/-- The condition in which start-up finds a group's image. -/
def Store.groupCondition (s : Store) (g : Group) : Condition :=
  match g with
  | .grades => s.readGrades.condition
  | .slots => s.readSlots.condition
  | .tables => s.readTables.condition
  | .cranes => s.readCranes.condition
  | .cart => s.readCart.condition
  | .bins => s.readBins.condition
  | .runways => s.readRunways.condition
  | .stations => s.readStations.condition
  | .alarms => s.readAlarms.condition

/-- The Hall Map as start-up reads it: a group whose image is bad or absent takes its factory defaults. -/
def Store.hall (s : Store) : HallMap where
  grades := s.readGrades.value.getD HallMap.factory.grades
  slots := s.readSlots.value.getD HallMap.factory.slots
  tables := s.readTables.value.getD HallMap.factory.tables
  cranes := s.readCranes.value.getD HallMap.factory.cranes
  cart := s.readCart.value.getD HallMap.factory.cart
  bins := s.readBins.value.getD HallMap.factory.bins
  runways := s.readRunways.value.getD HallMap.factory.runways
  alarms := s.readAlarms.value.getD HallMap.factory.alarms

/-- An image of this condition is queued when read: all but a sound one. -/
def Condition.rewritten : Condition → Bool
  | .sound => false
  | _ => true

/-- The images of the groups that start-up queues, in the groups' order. -/
def Store.groupQueue (s : Store) : List ImageId :=
  (Group.all.filter fun g => (s.groupCondition g).rewritten).map .group

/-- Whether some group was found in a condition. -/
def Store.someGroup (s : Store) (c : Condition) : Bool := Group.all.any fun g => s.groupCondition g == c

/-! ## Classifying a plate entry (R181) -/

/-- The generation of an entry that start-up finds FREE: the generation word's plus one, or 0 when the word is
not good. -/
def StoredPlate.freeGen (p : StoredPlate) : Nat :=
  match p.genWord.value with
  | some w => nextGen w
  | none => 0

/-- The identity and generation of an entry that holds a record: its identity image is good, and agrees with
the generation word when that is good. DEDUCED: notes/assumptions/37.md. -/
def StoredPlate.named (p : StoredPlate) : Option (Nat × PlateId) :=
  match p.identity.value with
  | none => none
  | some (g, ident) =>
    match p.genWord.value with
    | some w => if w = g then some (g, ident) else none
    | none => some (g, ident)

/-- The stored state part that belongs to a record of a generation. DEDUCED: notes/assumptions/37.md. -/
def StoredPlate.stateFor (p : StoredPlate) (g : Nat) : Option PlateSt :=
  match p.state.value with
  | some (gs, st) => if gs = g then some st else none
  | none => none

/-- The state part of a plate whose state image is lost. -/
def PlateSt.lost : PlateSt where
  disposition := .stock
  location := .nowhere
  panels := none
  area := none
  held := false
  massDoubt := false
  doubtful := true

/-- The mass that start-up computes: that of a STOCK plate with a piece area (R9, R26). -/
def State.startMass (s : State) (ident : PlateId) (st : PlateSt) : Option Nat :=
  match st.disposition with
  | .stock =>
    match st.area with
    | some a => some (s.massFor ident a)
    | none => none
  | .retired _ => none

/-- The entry that start-up makes of a plate's images. -/
def State.classify (s : State) (p : StoredPlate) : Entry PlateRec :=
  match p.named with
  | none => ⟨p.freeGen, none⟩
  | some (g, ident) =>
    let st := (p.stateFor g).getD PlateSt.lost
    ⟨g, some ⟨ident, st, none, none, s.startMass ident st⟩⟩

/-- The record of an entry is DOUBTFUL by the second row of the classification. -/
def StoredPlate.secondRow (p : StoredPlate) : Bool :=
  match p.named with
  | none => false
  | some (g, _) => (p.stateFor g).isNone

/-- A condition that holds of one of the three images. -/
def StoredPlate.someImage (p : StoredPlate) (c : Condition) : Bool :=
  p.genWord.condition == c || p.identity.condition == c || p.state.condition == c

/-- An entry whose images raise RECORD_DOUBTFUL: a bad image, or a state image absent in the second row.
DEDUCED: notes/assumptions/37.md. -/
def StoredPlate.raisesDoubt (p : StoredPlate) : Bool :=
  p.someImage .bad || (p.secondRow && p.state.condition == .absent)

/-- The images of entry `i` that its classification queues: corrected ones, a bad generation word whose record
is kept, the state image of the second row. DEDUCED: notes/assumptions/29.md. -/
def StoredPlate.queued (i : Nat) (p : StoredPlate) : List ImageId :=
  (if p.genWord.condition == .corrected || (p.named.isSome && p.genWord.value.isNone) then [.genWord i] else [])
    ++ (if p.identity.condition == .corrected then [.identity i] else [])
    ++ (if p.state.condition == .corrected || p.secondRow then [.state i] else [])

/-! ## Settling the records (R182) -/

/-- The handles of the STOCK plates that pass `p`, by ascending index. -/
def State.stockWhere (s : State) (p : PlateRec → Bool) : List Handle :=
  s.plates.handles fun r => r.st.disposition == .stock && p r

/-- A plate found on a hook or on a bed. -/
def PlateRec.unsettled (r : PlateRec) : Bool :=
  match r.st.location with
  | .hook _ => true
  | .bed _ _ => true
  | _ => false

/-- A plate is made DOUBTFUL and its state image queued. -/
def State.markDoubtful (s : State) (h : Handle) : State :=
  (s.modifyPlate h fun r => { r with st := { r.st with doubtful := true } }).enqueue (.state h.idx)

/-- Step 1: STOCK plates on a hook or a bed become DOUBTFUL, and their images are queued by ascending plate index.
DESIGN CHOICE: notes/assumptions/56.md. -/
def State.settleLocations (s : State) : State :=
  (s.stockWhere fun r => r.unsettled && !r.st.doubtful).foldl State.markDoubtful s

/-- The parents named by STOCK DERIVED plates. DEDUCED: notes/assumptions/9.md. -/
def State.parents (s : State) : List Handle :=
  (s.stockWhere fun r => r.ident.origin == .derived).filterMap fun h =>
    match s.plate? h with
    | some r => r.ident.parent
    | none => none

/-- A STOCK parent is retired as CONSUMED before any place holds it (R6). -/
def State.retireParent (s : State) (h : Handle) : State :=
  (s.modifyPlate h fun r =>
    { r with
      st := { r.st with disposition := .retired .consumed, location := .nowhere }
      job := none
      leg := none
      mass := none }).enqueue (.state h.idx)

/-- Step 2: torn derivations, judged on the records as the step begins (notes/assumptions/9.md). -/
def State.settleDerivations (s : State) : State :=
  ((s.stockWhere fun _ => true).filter fun h => s.parents.contains h).foldl State.retireParent s

/-- The keys by which plates stored in a slot are stacked: stored level, then creation sequence number. -/
def State.stackKeys (s : State) (h : Handle) : List Nat :=
  match s.plate? h with
  | some r =>
    match r.st.location with
    | .slot _ level => [level, r.ident.seq]
    | _ => []
  | none => []

/-- The stack that a slot's stored plates form, bottom up. Plates of equal keys: DESIGN CHOICE,
notes/assumptions/56.md. -/
def State.storedStack (s : State) (k : Nat) : List Handle :=
  sortBy (fun h g => keysBefore (s.stackKeys h) (s.stackKeys g))
    (s.stockWhere fun r => r.st.location.place == .slot k)

/-- The plates of a stack take the levels from `level` up; those whose level changes have their state image
queued, the lower first. DESIGN CHOICE: notes/assumptions/56.md. -/
def restack (k : Nat) : Nat → List Handle → State → State
  | _, [], s => s
  | level, h :: hs, s =>
    restack k (level + 1) hs
      (match s.plate? h with
        | some r =>
          if r.st.location = .slot k level then s
          else (s.putLocation h (.slot k level)).enqueue (.state h.idx)
        | none => s)

/-- A slot holds more plates or more mass than its bounds allow (R54). -/
def State.overBounds (s : State) (k : Nat) : Bool :=
  (s.slotCfg k).capacity < (s.slot k).stack.length || (s.slotCfg k).limit < s.stackMass k

/-- One slot's stack is rebuilt, and the slot marked when it is over either bound. -/
def State.rebuildSlot (s : State) (k : Nat) : State :=
  let stack := s.storedStack k
  let s' := (restack k 0 stack s).modifySlot k fun c => { c with stack := stack }
  if s'.overBounds k then s'.modifySlot k fun c => { c with overCap := true } else s'

/-- Step 3: stacks, beds and cart take the plates stored there; a slot marked raises OVER_CAPACITY. The slots are taken
by ascending number, which orders the images they queue. DESIGN CHOICE: notes/assumptions/56.md. The plates of a bed
and of the cart stand by ascending index. DESIGN CHOICE: notes/assumptions/50.md. -/
def State.rebuildPlaces (s : State) : State :=
  let s1 := (List.range 96).foldl State.rebuildSlot s
  let s2 := { s1 with
    beds := Table.ofFn 16 fun i => ⟨s1.stockWhere fun r => r.st.location == Location.bed (i / 2) (i % 2), false⟩
    cart := ⟨s1.stockWhere fun r => r.st.location == Location.cart, none, []⟩ }
  s2.raiseIf s2.anyOverCap .overCapacity

/-- The sequence numbers of the good identity images of the array. -/
def Store.seqs (s : Store) : List Nat :=
  s.readPlates.entries.filterMap fun p =>
    match p.identity.value with
    | some (_, ident) => some ident.seq
    | none => none

/-- The counter that start-up sets (R4, R182 step 4). -/
def Store.counter (s : Store) : Nat :=
  min (s.seqs.foldl max (s.readHeader.value.getD 0) + 1) Config.counterEnd

/-- Step 4: the counter, and the header image with it as its new floor. -/
def State.settleCounter (s : State) : State :=
  { s with seqCounter := s.store.counter, headerFloor := s.store.counter }.enqueue .header

/-- The flags of the conditions in which the images were found. -/
def State.raiseFound (s : State) : State :=
  (s.raiseIf (s.store.someGroup .corrected || s.store.readHeader.condition == .corrected
      || s.store.readPlates.entries.any fun p => p.someImage .corrected) .storeCorrected).raiseIf
    (s.store.someGroup .bad || s.store.readPlates.entries.any StoredPlate.raisesDoubt) .recordDoubtful

/-- The images queued as they were read: groups, plate entries by ascending index, header (R181).
DEDUCED: notes/assumptions/29.md. -/
def Store.readQueue (s : Store) : List ImageId :=
  s.groupQueue
    ++ (s.readPlates.entries.zipIdx.map fun e => StoredPlate.queued e.2 e.1).flatten
    ++ (if s.readHeader.condition == .corrected then [.header] else [])

/-- The part with the array read: Hall Map, stations, plate entries, and the images to be written (R181).
DEDUCED: notes/assumptions/29.md. DEDUCED: notes/assumptions/30.md. -/
def State.readArray (s : State) (store : Store) : State :=
  let s1 := { s.cleared .startup store with
    hall := store.hall
    stations := stationTable (store.readStations.value.getD StationCfg.factory) }
  ({ s1 with plates := store.readPlates.map s1.classify }).enqueueAll store.readQueue

/-- Start-up from the first read to step 6 (R181, R182); the writes of step 7 then run by WRITE_START.
DEDUCED: notes/assumptions/32.md. -/
def State.startUp (s : State) (store : Store) : State :=
  ((((((s.readArray store).raiseFound).settleLocations).settleDerivations).rebuildPlaces).settleCounter.raise
    .restarted).raiseIf s.pfw .powerWarning

/-! ## Beginning and ending it (R178, R182) -/

/-- POWER_ON: supply is applied, and start-up follows unless RST is held.
DESIGN CHOICE: notes/assumptions/24.md. -/
def execPowerOn (decay : Decay) (s : State) : Result :=
  match s.phase with
  | .off =>
    if s.rst then .next (s.cleared .inReset (s.store.decay decay))
    else .next (s.startUp (s.store.decay decay))
  | _ => .refused (.notEnabled .supplyOn)

/-- RST_RELEASE: RST is released, and start-up begins. DEDUCED: notes/assumptions/23.md. -/
def execRstRelease (decay : Decay) (s : State) : Result :=
  match s.phase with
  | .inReset => .next ({ s with rst := false }.startUp (s.store.decay decay))
  | _ => .next { s with rst := false }

/-- RESTART_RESET: after an answered Restart and the end of the write in flight, the part resets and start-up
begins. DEDUCED: notes/assumptions/22.md. -/
def execRestartReset (decay : Decay) (s : State) : Result :=
  if s.restartPending ∧ s.inFlight = none then .next (s.startUp (s.store.decay decay))
  else .refused (.notEnabled .noRestart)

/-- STARTUP_END: the queue of start-up is empty, and polling begins (R163, R182). At any other time the event is
refused. DESIGN CHOICE: notes/assumptions/1.md. An image leaves the queue as its write begins (R176); the model has
start-up last until that write, its retry included, has ended too. DESIGN CHOICE: notes/assumptions/54.md. -/
def execStartupEnd (s : State) : Result :=
  match s.phase with
  | .startup =>
    if s.queue = [] ∧ s.inFlight = none then .next { s with phase := .running }
    else .refused (.notEnabled .startupNotDone)
  | _ => .refused (.notEnabled .startupNotDone)

end Sys2Proof.Machine
end

