-- ==== Sys2Proof/Machine/Hall.lean ====
section
/-! DEFINITION. The Hall Map requests (section 10.3) and Restart (R178). -/

namespace Sys2Proof.Machine

open Sys2Proof

/-- The end of a Set request that passed its checks (R179): complete at once when it changes no field, else the
group's image is queued and the answer waits for it. DEDUCED: notes/assumptions/36.md. -/
def setReply (s new : State) (g : Group) (same : Bool) : Reply :=
  if same then .complete s .done [] else .waits (new.enqueue (.group g)) [.group g] .done []

/-! ## Set Grade (R27, R179, R180) -/

/-- The fields of Set Grade lie in their ranges (section 2.1). -/
def SetGradeF.inRanges (f : SetGradeF) : Bool :=
  f.grade ≤ 63 && textIn 1 8 f.label && f.family ≤ 255 && inRange 1000 9999 f.density
    && inRange 300 6000 f.minLength && inRange 200 3000 f.minWidth && f.clearance ≤ 50

/-- The grade a request describes. -/
def SetGradeF.entry (f : SetGradeF) : Grade :=
  ⟨f.label, f.family, f.density, f.minLength, f.minWidth, f.clearance⟩

/-- A grade is in use while a STOCK plate names it (R27). -/
def State.gradeInUse (s : State) (g : Nat) : Bool :=
  s.plates.any fun r => r.st.disposition == .stock && r.ident.grade == g

/-- A new grade entry keeps what may not change while the grade is in use. -/
def Grade.keeps (old new : Grade) : Bool :=
  old.density == new.density && old.family == new.family && old.clearance == new.clearance

/-- A grade entry replaced. -/
def State.putGrade (s : State) (g : Nat) (v : Grade) : State :=
  { s with hall := { s.hall with grades := s.hall.grades.set g v } }

/-- Set Grade in the Hall Map. -/
def setGrade (_ : Asker) (f : SetGradeF) (s : State) : Reply :=
  if s.pfw then .refuse s .powerDown
  else if !f.inRanges then .refuse s .badRequest
  else if s.gradeInUse f.grade && !(s.grade f.grade).keeps f.entry then .refuse s .inUse
  else setReply s (s.putGrade f.grade f.entry) .grades (s.grade f.grade == f.entry)

/-- SET_GRADE (R27, R179, R180). -/
def execSetGrade (tag : Byte) (p : Payload SetGradeF) (s : State) : Result :=
  request reqSetGrade tag p s setGrade

/-! ## Set Slot (R41, R55, R179, R180) -/

/-- The slot configuration a request describes, when its fields lie in their ranges (R41, R179). -/
def SetSlotF.entry (f : SetSlotF) : Option SlotCfg :=
  match Bay.ofNum f.bay, Purpose.ofNum f.purpose with
  | some bay, some purpose =>
    if f.slot ≤ 95 ∧ f.position ≤ Config.maxPosition ∧ inRange 1 12 f.capacity = true
        ∧ inRange 1 Config.maxLoad f.limit = true then
      some ⟨bay, f.position, purpose, f.capacity, f.limit⟩
    else none
  | _, _ => none

/-- A new configuration does not protect what the slot holds (R180). -/
def State.slotInUse (s : State) (k : Nat) (new : SlotCfg) : Bool :=
  new.capacity < (s.slot k).stack.length + (s.slot k).incoming.length
    || new.limit < s.stackMass k + s.incomingMass k
    || (new.bay != (s.slotCfg k).bay && !((s.slot k).stack.isEmpty && (s.slot k).incoming.isEmpty))

/-- A slot configuration replaced, and the over-capacity mark examined against it (R55). -/
def State.putSlotCfg (s : State) (k : Nat) (v : SlotCfg) : State :=
  ({ s with hall := { s.hall with slots := s.hall.slots.set k v } }).examineSlot k

/-- Set Slot in the Hall Map. -/
def setSlot (_ : Asker) (f : SetSlotF) (s : State) : Reply :=
  if s.pfw then .refuse s .powerDown
  else
    match f.entry with
    | none => .refuse s .badRequest
    | some v =>
      if s.slotInUse f.slot v then .refuse s .inUse
      else setReply s (s.putSlotCfg f.slot v) .slots (s.slotCfg f.slot == v)

/-- SET_SLOT (R41, R55, R179, R180). -/
def execSetSlot (tag : Byte) (p : Payload SetSlotF) (s : State) : Result :=
  request reqSetSlot tag p s setSlot

/-! ## Set Table (R72, R179) -/

/-- A table's configuration. -/
def State.tableCfg (s : State) (t : Nat) : TableCfg := s.hall.tables.getD t (TableCfg.factory t)

/-- A table configuration replaced. -/
def State.putTableCfg (s : State) (t : Nat) (v : TableCfg) : State :=
  { s with hall := { s.hall with tables := s.hall.tables.set t v } }

/-- Set Table in the Hall Map. -/
def setTable (_ : Asker) (f : SetTableF) (s : State) : Reply :=
  if s.pfw then .refuse s .powerDown
  else if 7 < f.table ∨ Config.maxPosition < f.bed0 ∨ Config.maxPosition < f.bed1 then .refuse s .badRequest
  else setReply s (s.putTableCfg f.table ⟨f.bed0, f.bed1⟩) .tables (s.tableCfg f.table == ⟨f.bed0, f.bed1⟩)

/-- SET_TABLE (R72, R179). -/
def execSetTable (tag : Byte) (p : Payload SetTableF) (s : State) : Result :=
  request reqSetTable tag p s setTable

/-! ## Set Crane (R151, R179, R180) -/

/-- The crane configuration a request describes, when its fields lie in their ranges (section 7.3). -/
def SetCraneF.entry (f : SetCraneF) : Option CraneCfg :=
  match Bay.ofNum f.runway with
  | none => none
  | some bay =>
    if f.crane ≤ 5 ∧ f.order ≤ 2 ∧ inRange 1 Config.maxLoad f.swl = true
        ∧ inRange 1 1000000 f.tare = true ∧ inRange 1 500 f.hw = true
        ∧ inRange 30 1500 f.minThickness = true then
      some ⟨bay, f.order, f.swl, f.tare, f.hw, f.minThickness⟩
    else none

/-- Two configurations stand at the same place of the same runway. -/
def CraneCfg.samePlace (c d : CraneCfg) : Bool := c.runway == d.runway && c.order == d.order

/-- A crane has a claim or a leg. -/
def State.craneBusy (s : State) (c : Nat) : Bool := (s.crane c).claim.isSome || (s.crane c).leg.isSome

/-- The other crane that stands where a new configuration would put crane `c`. -/
def State.exchanged (s : State) (c : Nat) (new : CraneCfg) : Option Nat :=
  (List.range 6).find? fun d => d != c && (s.craneCfg d).samePlace new

/-- The IN_USE conditions of Set Crane (R180). -/
def State.craneInUse (s : State) (c : Nat) (new : CraneCfg) : Bool :=
  (!(s.craneCfg c).samePlace new && s.craneBusy c)
    || (((s.craneCfg c).swl != new.swl || (s.craneCfg c).tare != new.tare) && (s.crane c).leg.isSome)
    || (match s.exchanged c new with
        | some d => s.craneBusy d
        | none => false)

/-- A crane configuration replaced; a crane that leaves its runway has no position or claim, and STOPPED is
clear (R151). -/
def State.putCraneCfg (s : State) (c : Nat) (v : CraneCfg) : State :=
  let s' := { s with hall := { s.hall with cranes := s.hall.cranes.set c v } }
  if (s.craneCfg c).runway = v.runway then s'
  else s'.modifyCrane c fun k => { k with position := none, claim := none, stopped := false }

/-- A Set Crane taken: crane `d` that stands at the new place takes the former one (R180). -/
def State.placeCrane (s : State) (c : Nat) (v : CraneCfg) : State :=
  match s.exchanged c v with
  | none => s.putCraneCfg c v
  | some d =>
    (s.putCraneCfg d
      { s.craneCfg d with runway := (s.craneCfg c).runway, order := (s.craneCfg c).order }).putCraneCfg c v

/-- Set Crane in the Hall Map. -/
def setCrane (_ : Asker) (f : SetCraneF) (s : State) : Reply :=
  if s.pfw then .refuse s .powerDown
  else
    match f.entry with
    | none => .refuse s .badRequest
    | some v =>
      if s.craneInUse f.crane v then .refuse s .inUse
      else setReply s (s.placeCrane f.crane v) .cranes (s.craneCfg f.crane == v)

/-- SET_CRANE (R151, R179, R180). -/
def execSetCrane (tag : Byte) (p : Payload SetCraneF) (s : State) : Result :=
  request reqSetCrane tag p s setCrane

/-! ## Set Cart, Set Scrap Bin, Set Runway (R51, R52, R151, R179) -/

/-- The cart's positions on the runways replaced. -/
def State.putCartCfg (s : State) (v : PerBay) : State := { s with hall := { s.hall with cart := v } }

/-- The scrap bins' positions replaced. -/
def State.putBins (s : State) (v : PerBay) : State := { s with hall := { s.hall with bins := v } }

/-- The runways' lengths replaced. -/
def State.putRunways (s : State) (v : PerBay) : State := { s with hall := { s.hall with runways := v } }

/-- Set Cart in the Hall Map. DEDUCED: notes/assumptions/15.md. -/
def setCart (_ : Asker) (f : SetBayF) (s : State) : Reply :=
  if s.pfw then .refuse s .powerDown
  else
    match Bay.ofNum f.bay with
    | none => .refuse s .badRequest
    | some bay =>
      if Config.maxPosition < f.value then .refuse s .badRequest
      else setReply s (s.putCartCfg (s.hall.cart.set bay f.value)) .cart (s.hall.cart.get bay == f.value)

/-- SET_CART (R51, R179). -/
def execSetCart (tag : Byte) (p : Payload SetBayF) (s : State) : Result :=
  request reqSetCart tag p s setCart

/-- Set Scrap Bin in the Hall Map. -/
def setScrapBin (_ : Asker) (f : SetBayF) (s : State) : Reply :=
  if s.pfw then .refuse s .powerDown
  else
    match Bay.ofNum f.bay with
    | none => .refuse s .badRequest
    | some bay =>
      if Config.maxPosition < f.value then .refuse s .badRequest
      else setReply s (s.putBins (s.hall.bins.set bay f.value)) .bins (s.hall.bins.get bay == f.value)

/-- SET_SCRAP_BIN (R52, R179). -/
def execSetScrapBin (tag : Byte) (p : Payload SetBayF) (s : State) : Result :=
  request reqSetScrapBin tag p s setScrapBin

/-- Set Runway in the Hall Map. -/
def setRunway (_ : Asker) (f : SetBayF) (s : State) : Reply :=
  if s.pfw then .refuse s .powerDown
  else
    match Bay.ofNum f.bay with
    | none => .refuse s .badRequest
    | some bay =>
      if !inRange 1 Config.maxPosition f.value then .refuse s .badRequest
      else
        setReply s (s.putRunways (s.hall.runways.set bay f.value)) .runways
          (s.hall.runways.get bay == f.value)

/-- SET_RUNWAY (R151, R179). -/
def execSetRunway (tag : Byte) (p : Payload SetBayF) (s : State) : Result :=
  request reqSetRunway tag p s setRunway

/-! ## Read Hall Map (R179) -/

/-- A flag set on the line: two bytes (section 11.1). -/
def flagSetTok (v : BitVec 12) : Token := .num 2 v.toNat

def Grade.tokens (g : Grade) : List Token :=
  [.text g.label, .num 1 g.family, .num 2 g.density, .num 2 g.minLength, .num 2 g.minWidth, .num 1 g.clearance]

def TableCfg.tokens (t : TableCfg) : List Token := [.num 2 t.bed0, .num 2 t.bed1]

def StationCfg.tokens (c : StationCfg) : List Token :=
  [.num 1 c.address, .choice c.kind.num] ++ optTok c.unit (fun u => [.num 1 u]) ++ [.num 1 c.weight]

/-- The entries of a group as they stand (R179). DEDUCED: notes/assumptions/18.md. -/
def State.groupEntries (s : State) (g : Group) : List (List Token) :=
  match g with
  | .grades => s.hall.grades.entries.map Grade.tokens
  | .slots => s.hall.slots.entries.map SlotCfg.tokens
  | .tables => s.hall.tables.entries.map TableCfg.tokens
  | .cranes => s.hall.cranes.entries.map CraneCfg.tokens
  | .cart => [[.num 2 s.hall.cart.onA], [.num 2 s.hall.cart.onB]]
  | .bins => [[.num 2 s.hall.bins.onA], [.num 2 s.hall.bins.onB]]
  | .runways => [[.num 2 s.hall.runways.onA], [.num 2 s.hall.runways.onB]]
  | .stations => s.stationList.map StationCfg.tokens
  | .alarms => [[flagSetTok s.hall.alarms.mask, enableTok s.hall.alarms.enable]]

/-- READ_HALL_MAP (R179). -/
def execReadHallMap (tag : Byte) (p : Payload ReadNumF) (s : State) : Result :=
  request reqReadHallMap tag p s fun k f s =>
    match Group.ofNum f.index with
    | none => .refuse s .badRequest
    | some g => .now s .done (pageTok k.head f.start (s.groupEntries g))

/-! ## Restart (R178) -/

/-- RESTART: answered DONE; the reset follows as RESTART_RESET. DEDUCED: notes/assumptions/22.md. -/
def execRestart (tag : Byte) (p : Payload Unit) (s : State) : Result :=
  request reqRestart tag p s fun _ _ s => .now { s with restartPending := true } .done []

end Sys2Proof.Machine
end

