-- ==== Sys2Proof/Machine/Alarms.lean ====
section
/-! DEFINITION. The Alarm Unit's requests (sections 11.2 and 11.3). -/

namespace Sys2Proof.Machine

open Sys2Proof

/-- The addresses of the SILENT stations, ascending. -/
def State.silentAddresses (s : State) : List Nat := s.addressesOf fun st => st.silent

/-- What Read Alarms answers (R184). -/
def State.alarmTokens (s : State) : List Token :=
  [flagSetTok s.flags, flagSetTok s.hall.alarms.mask, enableTok s.hall.alarms.enable, flagTok s.alert]
    ++ listTok (s.silentAddresses.map fun a => [.num 1 a])

/-- READ_ALARMS (R184). -/
def execReadAlarms (tag : Byte) (p : Payload Unit) (s : State) : Result :=
  request reqReadAlarms tag p s fun _ _ s => .now s .done s.alarmTokens

/-- The named flags are cleared, and those whose cause stands set again (R184). -/
def State.clearFlags (s : State) (set : BitVec 12) : State :=
  { s with flags := (s.flags &&& ~~~set) ||| (set &&& s.standing) }

/-- Clear Alarms in the Alarm Unit. -/
def clearAlarms (_ : Asker) (v : Nat) (s : State) : Reply :=
  if 4096 ≤ v then .refuse s .badRequest
  else
    .now (s.clearFlags (BitVec.ofNat 12 v)) .done [flagSetTok (s.clearFlags (BitVec.ofNat 12 v)).flags]

/-- CLEAR_ALARMS (R184). -/
def execClearAlarms (tag : Byte) (p : Payload Nat) (s : State) : Result :=
  request reqClearAlarms tag p s clearAlarms

/-- The alarm settings replaced. -/
def State.putAlarms (s : State) (v : AlarmCfg) : State := { s with hall := { s.hall with alarms := v } }

/-- Set Alert Mask in the Alarm Unit. -/
def setAlertMask (_ : Asker) (f : AlertF) (s : State) : Reply :=
  if s.pfw then .refuse s .powerDown
  else if 4096 ≤ f.mask then .refuse s .badRequest
  else
    match enableOfNum f.enable with
    | none => .refuse s .badRequest
    | some enable =>
      setReply s (s.putAlarms ⟨BitVec.ofNat 12 f.mask, enable⟩) .alarms
        (s.hall.alarms == ⟨BitVec.ofNat 12 f.mask, enable⟩)

/-- SET_ALERT_MASK (R185). -/
def execSetAlertMask (tag : Byte) (p : Payload AlertF) (s : State) : Result :=
  request reqSetAlertMask tag p s setAlertMask

end Sys2Proof.Machine
end

