-- ==== Sys2Proof/Machine/Dispatch.lean ====
section
/-! DEFINITION. One arm per command: its meaning. -/

namespace Sys2Proof.Machine

open Sys2Proof

/-- The effect of a command on everything but the queue of waiting commands. -/
def exec (i : Instr) (s : State) : Host.Outcome State Fault Refusal :=
  match i with
  | .poll => Sys2Proof.Machine.execPoll s
  | .replyTimeout => Sys2Proof.Machine.execReplyTimeout s
  | .badFrame => Sys2Proof.Machine.execBadFrame s
  | .wrongAddressFrame => Sys2Proof.Machine.execWrongAddressFrame s
  | .idleFrame => Sys2Proof.Machine.execIdleFrame s
  | .unknownRequestCode tag code => Sys2Proof.Machine.execUnknownRequestCode tag code s
  | .fetchResult tag p => Sys2Proof.Machine.execFetchResult tag p s
  | .readStation tag p => Sys2Proof.Machine.execReadStation tag p s
  | .enrolStation tag p => Sys2Proof.Machine.execEnrolStation tag p s
  | .removeStation tag p => Sys2Proof.Machine.execRemoveStation tag p s
  | .registerPlate tag p => Sys2Proof.Machine.execRegisterPlate tag p s
  | .readPlate tag p => Sys2Proof.Machine.execReadPlate tag p s
  | .amendPlate tag p => Sys2Proof.Machine.execAmendPlate tag p s
  | .holdPlate tag p => Sys2Proof.Machine.execHoldPlate tag p s
  | .releasePlate tag p => Sys2Proof.Machine.execReleasePlate tag p s
  | .retirePlate tag p => Sys2Proof.Machine.execRetirePlate tag p s
  | .readSlot tag p => Sys2Proof.Machine.execReadSlot tag p s
  | .findRemnant tag p => Sys2Proof.Machine.execFindRemnant tag p s
  | .scanReachEntry => Sys2Proof.Machine.execScanReachEntry s
  | .readSearchQueue tag p => Sys2Proof.Machine.execReadSearchQueue tag p s
  | .stageParts tag p => Sys2Proof.Machine.execStageParts tag p s
  | .admitJob tag p => Sys2Proof.Machine.execAdmitJob tag p s
  | .startJob tag p => Sys2Proof.Machine.execStartJob tag p s
  | .partCut tag p => Sys2Proof.Machine.execPartCut tag p s
  | .pauseJob tag p => Sys2Proof.Machine.execPauseJob tag p s
  | .resumeJob tag p => Sys2Proof.Machine.execResumeJob tag p s
  | .endJob tag p => Sys2Proof.Machine.execEndJob tag p s
  | .abortJob tag p => Sys2Proof.Machine.execAbortJob tag p s
  | .clearBed tag p => Sys2Proof.Machine.execClearBed tag p s
  | .readTable tag p => Sys2Proof.Machine.execReadTable tag p s
  | .nextMark tag p => Sys2Proof.Machine.execNextMark tag p s
  | .markMade tag p => Sys2Proof.Machine.execMarkMade tag p s
  | .markFailed tag p => Sys2Proof.Machine.execMarkFailed tag p s
  | .confirmManualMark tag p => Sys2Proof.Machine.execConfirmManualMark tag p s
  | .scrapPart tag p => Sys2Proof.Machine.execScrapPart tag p s
  | .sortPart tag p => Sys2Proof.Machine.execSortPart tag p s
  | .dispatchPallet tag p => Sys2Proof.Machine.execDispatchPallet tag p s
  | .readPart tag p => Sys2Proof.Machine.execReadPart tag p s
  | .readMarkerWindow tag p => Sys2Proof.Machine.execReadMarkerWindow tag p s
  | .readPallet tag p => Sys2Proof.Machine.execReadPallet tag p s
  | .readJobParts tag p => Sys2Proof.Machine.execReadJobParts tag p s
  | .openBatch tag p => Sys2Proof.Machine.execOpenBatch tag p s
  | .addLeg tag p => Sys2Proof.Machine.execAddLeg tag p s
  | .commitBatch tag p => Sys2Proof.Machine.execCommitBatch tag p s
  | .nextLeg tag p => Sys2Proof.Machine.execNextLeg tag p s
  | .lifted tag p => Sys2Proof.Machine.execLifted tag p s
  | .setDown tag p => Sys2Proof.Machine.execSetDown tag p s
  | .acceptLoad tag p => Sys2Proof.Machine.execAcceptLoad tag p s
  | .legFault tag p => Sys2Proof.Machine.execLegFault tag p s
  | .cancelLeg tag p => Sys2Proof.Machine.execCancelLeg tag p s
  | .breakHook tag p => Sys2Proof.Machine.execBreakHook tag p s
  | .nextTrip tag p => Sys2Proof.Machine.execNextTrip tag p s
  | .cartArrived tag p => Sys2Proof.Machine.execCartArrived tag p s
  | .readLeg tag p => Sys2Proof.Machine.execReadLeg tag p s
  | .readBatch tag p => Sys2Proof.Machine.execReadBatch tag p s
  | .readCrane tag p => Sys2Proof.Machine.execReadCrane tag p s
  | .craneReport tag p => Sys2Proof.Machine.execCraneReport tag p s
  | .readRunway tag p => Sys2Proof.Machine.execReadRunway tag p s
  | .setGrade tag p => Sys2Proof.Machine.execSetGrade tag p s
  | .setSlot tag p => Sys2Proof.Machine.execSetSlot tag p s
  | .setTable tag p => Sys2Proof.Machine.execSetTable tag p s
  | .setCrane tag p => Sys2Proof.Machine.execSetCrane tag p s
  | .setCart tag p => Sys2Proof.Machine.execSetCart tag p s
  | .setScrapBin tag p => Sys2Proof.Machine.execSetScrapBin tag p s
  | .setRunway tag p => Sys2Proof.Machine.execSetRunway tag p s
  | .readHallMap tag p => Sys2Proof.Machine.execReadHallMap tag p s
  | .restart tag p => Sys2Proof.Machine.execRestart tag p s
  | .restartReset decay => Sys2Proof.Machine.execRestartReset decay s
  | .readAlarms tag p => Sys2Proof.Machine.execReadAlarms tag p s
  | .clearAlarms tag p => Sys2Proof.Machine.execClearAlarms tag p s
  | .setAlertMask tag p => Sys2Proof.Machine.execSetAlertMask tag p s
  | .writeStart => Sys2Proof.Machine.execWriteStart s
  | .writeEnd result => Sys2Proof.Machine.execWriteEnd result s
  | .deferredComplete index => Sys2Proof.Machine.execDeferredComplete index s
  | .pfwAssert => Sys2Proof.Machine.execPfwAssert s
  | .pfwRelease => Sys2Proof.Machine.execPfwRelease s
  | .powerOn decay => Sys2Proof.Machine.execPowerOn decay s
  | .rstAssert fate => Sys2Proof.Machine.execRstAssert fate s
  | .rstRelease decay => Sys2Proof.Machine.execRstRelease decay s
  | .startupEnd => Sys2Proof.Machine.execStartupEnd s
  | .powerLoss fate => Sys2Proof.Machine.execPowerLoss fate s

end Sys2Proof.Machine
end

