-- ==== Sys2Proof/Machine/Frames.lean ====
section
/-! DEFINITION. The bytes of the frames the part sends (R162, R168, R174): POLL and ANSWER. -/

namespace Sys2Proof.Machine

open Sys2Proof

/-- A number in the bytes its width gives it, little-endian, two's complement where it is negative (R174). -/
def numBytes (w : Nat) (v : Int) : List Byte :=
  match w with
  | 1 => put1 (v % 256).toNat
  | 2 => put2 (v % 65536).toNat
  | _ => putSigned v

/-- The bytes of one field of an answer (R174). -/
def Token.bytes (t : Token) : List Byte :=
  match t with
  | .num w v => numBytes w v
  | .handle h => putHandle h
  | .choice v => put1 v
  | .text t => putText t
  | .place p => putPlace p

/-- The permit byte: 0 STOP, 1 GO (section 9.6). -/
def Permit.num (p : Permit) : Nat :=
  match p with
  | .stop => 0
  | .go => 1

/-- The payload of an ANSWER frame: the answer code, the permit for a CRANE station, the fields (R168). -/
def Answer.payload (a : Answer) : List Byte :=
  put1 a.code.num
    ++ (match a.permit with
        | some p => put1 p.num
        | none => [])
    ++ (a.fields.map Token.bytes).flatten

/-- The bytes of a frame the part sends (section 9.6). DESIGN CHOICE: notes/assumptions/20.md. -/
def TxFrame.bytes (f : TxFrame) : List Byte :=
  match f with
  | .poll address => sealed (put1 address ++ [0x01#8, 0x00#8, 0x00#8])
  | .answer a => sealed (put1 a.address ++ 0x04#8 :: a.tag :: put1 a.payload.length ++ a.payload)

end Sys2Proof.Machine
end

