-- ==== Sys2Proof/Safety.lean ====
section
/-! DEFINITION. What counts as a safe run, and what it means that a step changes only some fields of the
state: the terms that claims are stated in. -/

namespace Sys2Proof.Machine

open Sys2Proof

/-- The outcome of a step is no fault: the part goes on, or the event cannot happen in this state. -/
def Result.safe : Result → Bool
  | .next _ => true
  | .fault _ => false
  | .refused _ => true

/-- The next step of a state is no fault. -/
def State.safe (s : State) : Bool := Result.safe (step s)

/-- The fields of the state, by name. -/
inductive Field where
  | phase | rst | pfw | restartPending | stations | round | roundPos | poll | lastFrame | deferred |
  plates | seqCounter | slots | beds | cart | hall | searchQueue | scan | tables | jobs | drafts |
  parts | pallets | windows | legs | batches | commitCounter | cranes | store | headerFloor | queue |
  inFlight | flags | pending
  deriving DecidableEq, Repr

/-- A field has the same value in two states. -/
def Field.kept (f : Field) (s t : State) : Prop :=
  match f with
  | .phase => t.phase = s.phase
  | .rst => t.rst = s.rst
  | .pfw => t.pfw = s.pfw
  | .restartPending => t.restartPending = s.restartPending
  | .stations => t.stations = s.stations
  | .round => t.round = s.round
  | .roundPos => t.roundPos = s.roundPos
  | .poll => t.poll = s.poll
  | .lastFrame => t.lastFrame = s.lastFrame
  | .deferred => t.deferred = s.deferred
  | .plates => t.plates = s.plates
  | .seqCounter => t.seqCounter = s.seqCounter
  | .slots => t.slots = s.slots
  | .beds => t.beds = s.beds
  | .cart => t.cart = s.cart
  | .hall => t.hall = s.hall
  | .searchQueue => t.searchQueue = s.searchQueue
  | .scan => t.scan = s.scan
  | .tables => t.tables = s.tables
  | .jobs => t.jobs = s.jobs
  | .drafts => t.drafts = s.drafts
  | .parts => t.parts = s.parts
  | .pallets => t.pallets = s.pallets
  | .windows => t.windows = s.windows
  | .legs => t.legs = s.legs
  | .batches => t.batches = s.batches
  | .commitCounter => t.commitCounter = s.commitCounter
  | .cranes => t.cranes = s.cranes
  | .store => t.store = s.store
  | .headerFloor => t.headerFloor = s.headerFloor
  | .queue => t.queue = s.queue
  | .inFlight => t.inFlight = s.inFlight
  | .flags => t.flags = s.flags
  | .pending => t.pending = s.pending

/-- From `s` to `t` no field changes but those of the list: a frame. -/
def OnlyChanges (l : List Field) (s t : State) : Prop := ∀ f, f ∉ l → f.kept s t


/-! ## The line, as claims speak of it -/

/-- The part polls station `a`, at attempt `n` of its entry (R163, R165, R178). -/
def Polled (s : State) (a n : Nat) (st : Station) : Prop :=
  s.phase = .running ∧ s.restartPending = false ∧ s.poll = some ⟨a, n⟩ ∧ s.station? a = some st

/-- A REQUEST of row `r` from the polled station `a` passes the Link Controller's last two checks: the station's
kind is permitted, and for a deferred request its slot is not IN_FLIGHT (R167, checks 3 and 4). -/
def Asks (r : Req) (s : State) (a : Nat) (st : Station) : Prop :=
  (∃ n, Polled s a n st) ∧ st.kind ∈ r.kinds ∧ (r.deferred = true → ∀ t, st.slot ≠ .inFlight t)

/-- The permit of an ANSWER to a station: for a CRANE station, the one that stands (R157, R168). -/
def permitFor (t : State) (st : Station) : Option Permit :=
  if st.kind = .crane then some (t.permit (st.unit.getD 0)) else none

/-- The station table after an ANSWER to station `a`: its miss count 0, SILENT clear, its slot as named; the
poll over; every other station as before (R165, R166). -/
def Heard (s t : State) (a : Nat) (st : Station) (slot : AnsSlot) : Prop :=
  t.poll = none
    ∧ t.station? a = some { st with misses := 0, silent := false, slot := slot }
    ∧ ∀ b, b ≠ a → t.station? b = s.station? b

/-- The ANSWER frame sent to station `a` (R168). -/
def Sends (t : State) (a : Nat) (st : Station) (tag : Byte) (code : AnsCode) (fields : List Token) : Prop :=
  t.lastFrame = some (.answer ⟨a, tag, code, permitFor t st, fields⟩)

/-- A final answer in the ANSWER frame, the station's slot as it was (R168, R169). -/
def Immediate (s t : State) (a : Nat) (st : Station) (tag : Byte) (code : AnsCode) (fields : List Token) :
    Prop :=
  Heard s t a st st.slot ∧ Sends t a st tag code fields ∧ t.deferred = s.deferred

/-- A deferred request complete at once: answered WORKING, its final answer in the slot (R14, R169). -/
def AtOnce (r : Req) (s t : State) (a : Nat) (st : Station) (tag : Byte) (code : AnsCode)
    (fields : List Token) : Prop :=
  Heard s t a st (.held tag r.code code fields) ∧ Sends t a st tag .working [] ∧ t.deferred = s.deferred

/-- A deferred request in flight that waits on writes of images that begin from now on (R13, R14). -/
def waitsOn (r : Req) (a : Nat) (tag : Byte) (images : List ImageId) (code : AnsCode) (fields : List Token) :
    Deferred where
  station := some a
  tag := tag
  request := r.code
  waits := images.map fun i => ⟨i, false⟩
  failed := false
  code := code
  fields := fields

/-- A deferred request taken: answered WORKING, the slot IN_FLIGHT, its final answer to come when the images
are written (R14, R169). -/
def Awaits (r : Req) (s t : State) (a : Nat) (st : Station) (tag : Byte) (images : List ImageId)
    (code : AnsCode) (fields : List Token) : Prop :=
  Heard s t a st (.inFlight tag) ∧ Sends t a st tag .working []
    ∧ t.deferred = s.deferred ++ [waitsOn r a tag images code fields]

/-- What answering a request can change. -/
abbrev lineFields : List Field := [.stations, .poll, .lastFrame, .deferred]

/-- A write queue after images are handed over in order: one that already waits keeps its place (R176). -/
def joining (queue images : List ImageId) : List ImageId :=
  images.foldl (fun q i => if i ∈ q then q else q ++ [i]) queue

/-- Whether a payload is exactly filled by the request's fields. -/
def Payload.exact {α : Type} (p : Payload α) : Bool :=
  match p with
  | .malformed => false
  | .fields _ => true

/-- What a request is on the line: its row of the request code table, its tag, and whether its payload is
exactly filled by its fields. -/
structure Asked where
  row : Req
  tag : Byte
  exact : Bool
  deriving DecidableEq, Repr

/-- The request that a command is, if it is one of the request code table (section 9.6). -/
def asked (i : Instr) : Option Asked :=
  match i with
  | .poll => none
  | .replyTimeout => none
  | .badFrame => none
  | .wrongAddressFrame => none
  | .idleFrame => none
  | .unknownRequestCode _ _ => none
  | .fetchResult tag p => some ⟨reqFetchResult, tag, p.exact⟩
  | .readStation tag p => some ⟨reqReadStation, tag, p.exact⟩
  | .enrolStation tag p => some ⟨reqEnrolStation, tag, p.exact⟩
  | .removeStation tag p => some ⟨reqRemoveStation, tag, p.exact⟩
  | .registerPlate tag p => some ⟨reqRegisterPlate, tag, p.exact⟩
  | .readPlate tag p => some ⟨reqReadPlate, tag, p.exact⟩
  | .amendPlate tag p => some ⟨reqAmendPlate, tag, p.exact⟩
  | .holdPlate tag p => some ⟨reqHoldPlate, tag, p.exact⟩
  | .releasePlate tag p => some ⟨reqReleasePlate, tag, p.exact⟩
  | .retirePlate tag p => some ⟨reqRetirePlate, tag, p.exact⟩
  | .readSlot tag p => some ⟨reqReadSlot, tag, p.exact⟩
  | .findRemnant tag p => some ⟨reqFindRemnant, tag, p.exact⟩
  | .scanReachEntry => none
  | .readSearchQueue tag p => some ⟨reqReadSearchQueue, tag, p.exact⟩
  | .stageParts tag p => some ⟨reqStageParts, tag, p.exact⟩
  | .admitJob tag p => some ⟨reqAdmitJob, tag, p.exact⟩
  | .startJob tag p => some ⟨reqStartJob, tag, p.exact⟩
  | .partCut tag p => some ⟨reqPartCut, tag, p.exact⟩
  | .pauseJob tag p => some ⟨reqPauseJob, tag, p.exact⟩
  | .resumeJob tag p => some ⟨reqResumeJob, tag, p.exact⟩
  | .endJob tag p => some ⟨reqEndJob, tag, p.exact⟩
  | .abortJob tag p => some ⟨reqAbortJob, tag, p.exact⟩
  | .clearBed tag p => some ⟨reqClearBed, tag, p.exact⟩
  | .readTable tag p => some ⟨reqReadTable, tag, p.exact⟩
  | .nextMark tag p => some ⟨reqNextMark, tag, p.exact⟩
  | .markMade tag p => some ⟨reqMarkMade, tag, p.exact⟩
  | .markFailed tag p => some ⟨reqMarkFailed, tag, p.exact⟩
  | .confirmManualMark tag p => some ⟨reqConfirmManualMark, tag, p.exact⟩
  | .scrapPart tag p => some ⟨reqScrapPart, tag, p.exact⟩
  | .sortPart tag p => some ⟨reqSortPart, tag, p.exact⟩
  | .dispatchPallet tag p => some ⟨reqDispatchPallet, tag, p.exact⟩
  | .readPart tag p => some ⟨reqReadPart, tag, p.exact⟩
  | .readMarkerWindow tag p => some ⟨reqReadMarkerWindow, tag, p.exact⟩
  | .readPallet tag p => some ⟨reqReadPallet, tag, p.exact⟩
  | .readJobParts tag p => some ⟨reqReadJobParts, tag, p.exact⟩
  | .openBatch tag p => some ⟨reqOpenBatch, tag, p.exact⟩
  | .addLeg tag p => some ⟨reqAddLeg, tag, p.exact⟩
  | .commitBatch tag p => some ⟨reqCommitBatch, tag, p.exact⟩
  | .nextLeg tag p => some ⟨reqNextLeg, tag, p.exact⟩
  | .lifted tag p => some ⟨reqLifted, tag, p.exact⟩
  | .setDown tag p => some ⟨reqSetDown, tag, p.exact⟩
  | .acceptLoad tag p => some ⟨reqAcceptLoad, tag, p.exact⟩
  | .legFault tag p => some ⟨reqLegFault, tag, p.exact⟩
  | .cancelLeg tag p => some ⟨reqCancelLeg, tag, p.exact⟩
  | .breakHook tag p => some ⟨reqBreakHook, tag, p.exact⟩
  | .nextTrip tag p => some ⟨reqNextTrip, tag, p.exact⟩
  | .cartArrived tag p => some ⟨reqCartArrived, tag, p.exact⟩
  | .readLeg tag p => some ⟨reqReadLeg, tag, p.exact⟩
  | .readBatch tag p => some ⟨reqReadBatch, tag, p.exact⟩
  | .readCrane tag p => some ⟨reqReadCrane, tag, p.exact⟩
  | .craneReport tag p => some ⟨reqCraneReport, tag, p.exact⟩
  | .readRunway tag p => some ⟨reqReadRunway, tag, p.exact⟩
  | .setGrade tag p => some ⟨reqSetGrade, tag, p.exact⟩
  | .setSlot tag p => some ⟨reqSetSlot, tag, p.exact⟩
  | .setTable tag p => some ⟨reqSetTable, tag, p.exact⟩
  | .setCrane tag p => some ⟨reqSetCrane, tag, p.exact⟩
  | .setCart tag p => some ⟨reqSetCart, tag, p.exact⟩
  | .setScrapBin tag p => some ⟨reqSetScrapBin, tag, p.exact⟩
  | .setRunway tag p => some ⟨reqSetRunway, tag, p.exact⟩
  | .readHallMap tag p => some ⟨reqReadHallMap, tag, p.exact⟩
  | .restart tag p => some ⟨reqRestart, tag, p.exact⟩
  | .restartReset _ => none
  | .readAlarms tag p => some ⟨reqReadAlarms, tag, p.exact⟩
  | .clearAlarms tag p => some ⟨reqClearAlarms, tag, p.exact⟩
  | .setAlertMask tag p => some ⟨reqSetAlertMask, tag, p.exact⟩
  | .writeStart => none
  | .writeEnd _ => none
  | .deferredComplete _ => none
  | .pfwAssert => none
  | .pfwRelease => none
  | .powerOn _ => none
  | .rstAssert _ => none
  | .rstRelease _ => none
  | .startupEnd => none
  | .powerLoss _ => none

/-- The answer codes that refuse a request. -/
def refusals : List AnsCode :=
  [.busy, .notPermitted, .badRequest, .noSuch, .wrongState, .full, .duplicate, .gone, .tooDeep, .blocked,
    .overload, .wrongPlace, .inUse, .powerDown]

/-! ## Checks in their order, as claims speak of them -/

/-- The code of the first check of a list that does not hold. -/
def FirstFails : List (Prop × AnsCode) → AnsCode → Prop
  | [], _ => False
  | (ok, e) :: rest, code => (¬ok ∧ code = e) ∨ (ok ∧ FirstFails rest code)

/-- Every check of a list holds. -/
def AllHold : List (Prop × AnsCode) → Prop
  | [] => True
  | (ok, _) :: rest => ok ∧ AllHold rest

/-- A request is answered with the code of the first of its checks that does not hold, and changes nothing beyond the
line (R14, R169). -/
def RefusedInOrder (c : Instr) (s : State) (a : Nat) (st : Station) (tag : Byte) (checks : List (Prop × AnsCode)) :
    Prop :=
  ∀ code, FirstFails checks code →
    ∃ t, exec c s = .next t ∧ Immediate s t a st tag code [] ∧ OnlyChanges lineFields s t

/-- The enrolled addresses whose station passes a test, ascending. -/
def enrolledWith (s : State) (p : Station → Bool) : List Nat :=
  (List.range 33).filter fun a => (s.station? a).any p

/-- The location a plate takes at a place (R7, R42): on top of a slot's stack, on a bed, the cart, or nowhere. -/
def landing (s : State) (p : Place) : Location :=
  match p with
  | .slot k => .slot k (s.slot k).stack.length
  | .bed t b => .bed t b
  | .hook c => .hook c
  | .cart => .cart
  | _ => .nowhere

/-! ## Searches and jobs, as claims speak of them -/

/-- A panel holds the required rectangle of a search, unrotated or where allowed rotated (R61). -/
def SearchRec.holds (q : SearchRec) (p : Panel) : Prop :=
  (q.length ≤ p.length ∧ q.width ≤ p.width) ∨ (q.rotation = true ∧ q.width ≤ p.length ∧ q.length ≤ p.width)

/-- The search of station `b` is withdrawn (R66, R59): the other waiting searches keep their order, and a scan of
another station goes on; where the scan was its own, or the unit stood IDLE, the head of what waits starts from entry
0. -/
def Withdrawn (s t : State) (b : Nat) : Prop :=
  ∀ waiting, waiting = s.searchQueue.filter (fun q => q.station != b) →
    ((∃ c, s.scan = some c ∧ c.search.station ≠ b) → t.scan = s.scan ∧ t.searchQueue = waiting)
      ∧ ((∀ c, s.scan = some c → c.search.station = b) →
        (waiting = [] → t.scan = none ∧ t.searchQueue = [])
          ∧ ∀ q rest, waiting = q :: rest → t.scan = some ⟨q, 0, []⟩ ∧ t.searchQueue = rest)

/-- The area of a panel beyond the required rectangle (R61). -/
def SearchRec.over (q : SearchRec) (p : Panel) : Nat := p.length * p.width - q.length * q.width

/-- At this moment entry `i` offers candidate `c` to a search (R60, R61, R62): its plate is eligible, and `c` is
made of the fitting panel of least waste, of lower index among equals. -/
def Offers (s : State) (q : SearchRec) (i : Nat) (c : Candidate) : Prop :=
  ∃ (e : Entry PlateRec) (r : PlateRec) (k level n : Nat) (p : Panel) (panels : List Panel),
    s.plates.get? i = some e ∧ e.record = some r
      ∧ r.st.disposition = .stock ∧ r.job = none ∧ r.leg = none
      ∧ r.st.held = false ∧ r.st.massDoubt = false ∧ r.st.doubtful = false
      ∧ r.st.location = .slot k level ∧ r.st.panels = some panels
      ∧ (s.grade r.ident.grade).family &&& q.specMask = q.specFamily &&& q.specMask
      ∧ q.thickness ≤ r.ident.thickness ∧ r.ident.thickness ≤ q.thickness + q.tolerance
      ∧ panels[n]? = some p ∧ q.holds p
      ∧ (∀ m d, panels[m]? = some d → q.holds d → q.over p < q.over d ∨ (q.over p = q.over d ∧ n ≤ m))
      ∧ c = { plate := ⟨i, e.gen⟩, panel := n
              rotated := !decide (q.length ≤ p.length ∧ q.width ≤ p.width)
              depth := (s.slot k).stack.length - level - 1
              waste := q.over p, band := q.over p / 1000000
              origin := r.ident.origin, seq := r.ident.seq }

/-- A working list after entry `i` is reached (R60, R63): with the offered candidate ranked in, or as it was. -/
def Reached (s : State) (q : SearchRec) (i : Nat) (l w : List Candidate) : Prop :=
  (∃ c, Offers s q i c ∧ w = rankIn q.wanted l c) ∨ ((∀ c, ¬Offers s q i c) ∧ w = l)

/-- The lowest nest index whose part is UNCUT, or the length of the part list (R83). -/
def resumePoint (s : State) (parts : List Handle) : Nat :=
  parts.findIdx fun h => (s.part? h).any fun p => p.cut == .uncut

/-- What a claim says of a leg that was just made: its kind, bay, plate, destination, priority, state, batch and
position. -/
abbrev LegShape := LegKind × Bay × Option Handle × Place × Nat × LegState × Handle × Nat

/-- The shape of the leg a handle names. -/
def shapeOf (s : State) (h : Handle) : Option LegShape :=
  (s.leg? h).map fun l => (l.kind, l.bay, l.plate, l.destination, l.priority, l.state, l.batch, l.position)

/-! ## Entries that new records take, as claims speak of them -/

/-- New records take the lowest entries that are free to take, in order, each with the generation that its entry gives:
the entry's own where it is FREE, else the next after the record that stood there (R2, R3, R99, R125). -/
def TakesLowest {α : Type} {n : Nat} (pool : Pool α n) (free : Entry α → Prop) (made : List Handle) : Prop :=
  (made.Pairwise fun g h => g.idx < h.idx)
    ∧ (∀ g ∈ made, ∃ e, pool.get? g.idx = some e ∧ free e
      ∧ g.gen = if e.record.isNone then e.gen else (e.gen + 1) % 64)
    ∧ ∀ g ∈ made, ∀ k < g.idx, ∀ e, pool.get? k = some e → free e → ∃ x ∈ made, x.idx = k

/-- A plate entry is FREE or holds a RETIRED record (R3). -/
def PlateFree (e : Entry PlateRec) : Prop := ∀ r, e.record = some r → r.st.disposition ≠ .stock

/-- A leg entry is FREE, or holds a settled leg whose batch is neither OPEN nor COMMITTED (R125). -/
def LegFree (s : State) (e : Entry Leg) : Prop :=
  ∀ l, e.record = some l → l.state.unfinished = false
    ∧ ∀ b, s.batch? l.batch = some b → b.state ≠ .opened ∧ b.state ≠ .committed

/-- A batch entry is FREE or holds a settled batch (R125). -/
def BatchFree (e : Entry Batch) : Prop := ∀ b, e.record = some b → b.state ≠ .opened ∧ b.state ≠ .committed

/-- From `s` to `t` a batch and its legs take the lowest entries free to take, and every other entry of the two tables
stays as it was (R125). -/
def BatchTakesLowest (s t : State) (hb : Handle) (legs : List Handle) : Prop :=
  TakesLowest s.batches BatchFree [hb] ∧ TakesLowest s.legs (LegFree s) legs
    ∧ (∀ k, k ≠ hb.idx → t.batches.get? k = s.batches.get? k)
    ∧ ∀ k, (∀ g ∈ legs, g.idx ≠ k) → t.legs.get? k = s.legs.get? k

/-! ## Legs, cranes and runways, as claims speak of them -/

/-- The claim `q` of crane `c` keeps clear of the claim of every other crane of its runway (R153). -/
def Apart (s : State) (c : Nat) (q : Claim) : Prop :=
  ∀ d ≤ 5, d ≠ c → s.inService d = true → (s.craneCfg d).runway = (s.craneCfg c).runway →
    ∀ o, (s.crane d).claim = some o →
      if (s.craneCfg d).order < (s.craneCfg c).order then o.hi < q.lo else q.hi < o.lo

/-- The idle claim of crane `c` at a position (R152). -/
def idleAt (s : State) (c p : Nat) : Claim := ⟨(p : Int) - (s.craneCfg c).hw, (p : Int) + (s.craneCfg c).hw⟩

/-- The claim of a crane covers a claim. -/
def Covers (k : Crane) (q : Claim) : Prop := ∃ o, k.claim = some o ∧ o.lo ≤ q.lo ∧ q.hi ≤ o.hi

/-- Crane `c` loses its leg (R131, R158): it becomes IDLE, an OFFLINE one stays OFFLINE. Its claim shrinks to the
idle claim at its position: at once where that lies inside, else where it is grantable, and if not the crane is
STOPPED. The claim of a SILENT crane is frozen. -/
def Freed (s t : State) (c : Nat) : Prop :=
  (t.crane c).leg = none ∧ (t.crane c).position = (s.crane c).position
    ∧ (t.crane c).state = (if (s.crane c).state = .offline then .offline else .idle)
    ∧ (s.craneSilent c = true ∨ (s.crane c).position = none →
        (t.crane c).claim = (s.crane c).claim ∧ (t.crane c).stopped = (s.crane c).stopped)
    ∧ (∀ p, s.craneSilent c = false → (s.crane c).position = some p →
        (Covers (s.crane c) (idleAt s c p) →
          (t.crane c).claim = some (idleAt s c p) ∧ (t.crane c).stopped = (s.crane c).stopped)
        ∧ (¬Covers (s.crane c) (idleAt s c p) → Apart s c (idleAt s c p) →
          (t.crane c).claim = some (idleAt s c p) ∧ (t.crane c).stopped = false)
        ∧ (¬Covers (s.crane c) (idleAt s c p) → ¬Apart s c (idleAt s c p) →
          (t.crane c).claim = (s.crane c).claim ∧ (t.crane c).stopped = true))
    ∧ ∀ d, d ≠ c → t.crane d = s.crane d

/-- The places after a load is set down at `place` and leg `h` leaves the incoming list of `target` (R42, R44,
R50, R51): a plate joins on top, a skeleton set on a bed is marked there. -/
def Lands (s t : State) (put : Option Handle) (place : Place) (h : Handle) (target : Option Place) : Prop :=
  (∀ k, k ≤ 95 → t.slot k =
      ⟨(s.slot k).stack ++ (if place = .slot k then put.toList else []),
        if target = some (.slot k) then (s.slot k).incoming.erase h else (s.slot k).incoming,
        (s.slot k).overCap⟩)
    ∧ (∀ b d, b ≤ 7 → d ≤ 1 → t.bed b d =
      ⟨(s.bed b d).plates ++ (if place = .bed b d then put.toList else []),
        (s.bed b d).skeleton || (place == .bed b d && put.isNone)⟩)
    ∧ t.cart =
      ⟨s.cart.plates ++ (if place = .cart then put.toList else []), s.cart.side,
        if target = some .cart then s.cart.incoming.erase h else s.cart.incoming⟩

/-- A place that holds plates or skeletons, in range. -/
def InRange (p : Place) : Prop :=
  match p with
  | .slot k => k ≤ 95
  | .bed b d => b ≤ 7 ∧ d ≤ 1
  | .cart => True
  | .scrapBin => True
  | _ => False

/-- Leg `h` stands in one state with no crane, a QUEUED one with no resolved destination (R44), and every other leg
as it was. DESIGN CHOICE: notes/assumptions/13.md. -/
def LegBecomes (s t : State) (h : Handle) (l : Leg) (v : LegState) : Prop :=
  t.leg? h = some { l with state := v, crane := none, target := if v = .queued then none else l.target }
    ∧ ∀ g, g ≠ h → t.leg? g = s.leg? g

/-- The ENDED job `j` waits for its carrying leg `l`, with a return batch that stands OPEN (R94). -/
def WaitsFor (s : State) (j : Job) (l : Leg) : Prop :=
  j.state = .ended ∧ j.fetchBatch = some l.batch ∧ (l.kind = .fetch ∨ l.kind = .transferOut)
    ∧ ∃ rb ret, j.clearBatch = some rb ∧ s.batch? rb = some ret ∧ ret.state = .opened

/-- No job waits with an OPEN return batch for a leg of this batch (R94). -/
def Unawaited (s : State) (l : Leg) : Prop :=
  ∀ b jh j, s.batch? l.batch = some b → b.origin = .job jh → s.job? jh = some j → ¬WaitsFor s j l

/-- Nothing keeps a leg from QUEUED: no stop in its batch marked it to end (R126), and no aborted job waits for it
(R94). -/
def ReturnsFreely (s : State) (l : Leg) : Prop := l.ending = false ∧ Unawaited s l

/-- What follows where leg `h`, for which an aborted job waits, leaves its crane other than DONE, or is cancelled, or
fails (R94, R126, R95, R120): it ends in state `how`. Where its plate lies on the cart (`kept`) the return batch is
committed, and the job waits for it; else the return batch and its leg are CANCELLED, the job is CLEARED, and its
SCRAPPED parts retire. The leg's own batch is CANCELLED where no other leg of it is unfinished. -/
def AwaitEnds (s t : State) (h : Handle) (l : Leg) (how : LegState) (kept : Prop) : Prop :=
  ∀ b jh j rb ret, s.batch? l.batch = some b → h ∈ b.legs → b.origin = .job jh → s.job? jh = some j →
    WaitsFor s j l → j.clearBatch = some rb → s.batch? rb = some ret → rb ≠ l.batch → (∀ g ∈ ret.legs, g ∉ b.legs) →
    (∃ m, t.leg? h = some m ∧ m.state = how ∧ m.crane = none)
      ∧ (∀ g, g ≠ jh → t.job? g = s.job? g)
      ∧ (b.state = .committed → (∀ g ∈ b.legs, g ≠ h → ∀ x, s.leg? g = some x → x.state.unfinished = false) →
        t.batch? l.batch = some { b with state := .cancelled })
      ∧ (kept →
        t.batch? rb = some { ret with state := .committed, seq := some s.commitCounter }
          ∧ t.commitCounter = min (s.commitCounter + 1) 4294967295
          ∧ (∀ g ∈ ret.legs, t.leg? g = s.leg? g)
          ∧ t.job? jh = some j ∧ t.parts = s.parts)
      ∧ (¬kept →
        t.batch? rb = some { ret with state := .cancelled }
          ∧ t.commitCounter = s.commitCounter
          ∧ (∀ g ∈ ret.legs, ∀ x, s.leg? g = some x → t.leg? g = some { x with state := .cancelled })
          ∧ t.job? jh = some { j with state := .cleared, role := none }
          ∧ ∀ g p, s.part? g = some p → t.part? g = if g ∈ j.parts ∧ p.cut = .scrapped then none else some p)

/-- What a leg that became CANCELLED or FAILED does to its COMMITTED batch and to the batch's job, where no aborted job
waits for the leg (R126, R80): the QUEUED legs later in the batch become CANCELLED, a leg on a hook is marked to end
(notes/assumptions/12.md); the batch is CANCELLED when no leg of it is left unfinished, else it stays COMMITTED; an
ADMITTED job whose carrying leg is lost so has fetch lost set, and any other job stays. -/
def StopEnds (s t : State) (h : Handle) (l : Leg) : Prop :=
  ∀ b, s.batch? l.batch = some b → b.state = .committed → h ∈ b.legs →
    (∀ g ∈ b.legs, g ≠ h → ∀ x, s.leg? g = some x → t.leg? g = some
        (if x.state = .queued ∧ l.position < x.position then { x with state := .cancelled }
          else if x.state.onHook = true then { x with ending := true }
          else x))
      ∧ (∀ g, g ∉ b.legs → t.leg? g = s.leg? g)
      ∧ (∀ g, g ≠ l.batch → t.batch? g = s.batch? g)
      ∧ ((∀ g ∈ b.legs, ∀ x, t.leg? g = some x → x.state.unfinished = false) →
          t.batch? l.batch = some { b with state := .cancelled })
      ∧ ((∃ g ∈ b.legs, ∃ x, t.leg? g = some x ∧ x.state.unfinished = true) → t.batch? l.batch = some b)
      ∧ (∀ o, b.origin = .station o → t.jobs = s.jobs)
      ∧ ∀ jh j, b.origin = .job jh → s.job? jh = some j →
          let lost : Prop :=
            j.state = .admitted ∧ j.fetchBatch = some l.batch
              ∧ ∃ g ∈ b.legs, ∃ x, t.leg? g = some x ∧ (x.kind = .fetch ∨ x.kind = .transferOut)
                ∧ (x.state = .cancelled ∨ x.state = .failed)
          (lost → t.job? jh = some { j with fetchLost := true })
            ∧ (¬lost → t.job? jh = some j)
            ∧ ∀ g, g ≠ jh → t.job? g = s.job? g

/-- A leg that a stop in its batch marked to end (R126, notes/assumptions/12.md), and that no aborted job waits for,
is CANCELLED where it would return to QUEUED. -/
def MarkedEnds (s t : State) (h : Handle) (l : Leg) : Prop :=
  l.ending = true → Unawaited s l →
    t.leg? h = some { l with state := .cancelled, crane := none } ∧ StopEnds s t h l

/-- The fetch batch `fb` after an unpierced abort (R93 step 5, R126, R144), while no new leg or batch has taken the
entry: its QUEUED and ASSIGNED legs are CANCELLED, those on a hook go on, marked to end (notes/assumptions/12.md), and
the batch is CANCELLED unless one is on a hook; a batch with none to cancel stays. Where an ASSIGNED leg is the only
one in a crane's hands, its crane is freed, it leaves the incoming list, and its plate's carrying leg goes; where none
is ASSIGNED, no crane and no place is touched. `u` is the state with the asking station heard. -/
def FetchCancelled (s u t : State) (fb : Handle) (x : Batch) : Prop :=
  let stopped (g : Handle) : Prop :=
    g ∈ x.legs ∧ ∃ l, s.leg? g = some l ∧ (l.state = .queued ∨ l.state = .assigned)
  let hooked (g : Handle) : Prop := g ∈ x.legs ∧ ∃ l, s.leg? g = some l ∧ l.state.onHook = true
  (∀ g l m, stopped g → s.leg? g = some l → t.leg? g = some m →
      m = { l with state := .cancelled, crane := m.crane } ∧ (l.state = .assigned ∨ l.crane = none → m.crane = none))
    ∧ (∀ g l, hooked g → s.leg? g = some l →
      ((∃ e, stopped e) → t.leg? g = some { l with ending := true })
        ∧ ((∀ e, ¬stopped e) → t.leg? g = some l))
    ∧ ((∃ e, stopped e) → (∀ e, ¬hooked e) → ∀ y, t.batch? fb = some y → y = { x with state := .cancelled })
    ∧ ((∃ e, hooked e) ∨ (∀ e, ¬stopped e) → t.batch? fb = some x)
    ∧ ((∀ g ∈ x.legs, ∀ l, s.leg? g = some l → l.state ≠ .assigned) →
      t.cranes = s.cranes ∧ t.slots = s.slots ∧ t.cart = s.cart)
    ∧ ∀ g l, g ∈ x.legs → s.leg? g = some l → l.state = .assigned →
      (∀ e ∈ x.legs, e ≠ g → ∀ y, s.leg? e = some y → y.state.inHand = false) →
      (∀ c ≤ 5, l.crane = some c → Freed u t c)
        ∧ Lands s t none .nowhere g l.target
        ∧ ∀ p r, l.plate = some p → s.plate? p = some r → ∃ q, t.plate? p = some q
          ∧ q = { r with leg := none, job := q.job }

/-- What leg `h`, now DONE, does to its batch `b` (R126): DONE when every other leg is DONE, CANCELLED when all are
settled and one of them is not DONE, COMMITTED while one is unfinished. -/
def DoneSettles (s t : State) (h hb : Handle) (b : Batch) : Prop :=
  ((∀ g ∈ b.legs, g ≠ h → ∃ x, s.leg? g = some x ∧ x.state = .done) → t.batch? hb = some { b with state := .done })
    ∧ ((∀ g ∈ b.legs, g ≠ h → ∀ x, s.leg? g = some x → x.state.unfinished = false) →
        (∃ g ∈ b.legs, g ≠ h ∧ ∀ x, s.leg? g = some x → x.state ≠ .done) →
        t.batch? hb = some { b with state := .cancelled })
    ∧ ((∃ g ∈ b.legs, g ≠ h ∧ ∃ x, s.leg? g = some x ∧ x.state.unfinished = true) → t.batch? hb = some b)

/-! ## Answers, as claims speak of them (R174) -/

/-- An optional field: a presence byte, then the field. -/
def given {α : Type} (o : Option α) (f : α → List Token) : List Token :=
  (o.map fun a => Token.choice 1 :: f a).getD [.choice 0]

/-- A flag or a yes-or-no: 0 set or yes, 1 clear or no, as they are listed (R174); with no list, log 44. -/
def yes (b : Bool) : Token := .choice (if b then 0 else 1)

/-- A choice from a named set: its number from 0 in the order the set is listed. -/
def nth {α : Type} [BEq α] (l : List α) (a : α) : Token := .choice (l.idxOf a)

/-- A list: a count byte, then its entries. -/
def counted (l : List (List Token)) : List Token := .num 1 l.length :: l.flatten

/-- How many bytes fields take on the line. -/
def bytesOf (l : List Token) : Nat := (l.map Token.bytes).flatten.length

/-- A list in an answer that may be too long for one frame: the total count of its entries, then those from the start
index that fit in a payload of 120 bytes beside the `rest` of it, `head` bytes of code and permit among it (R174;
notes/assumptions/17.md). -/
def Pages (head : Nat) (rest : List Token) (start : Option Nat) (entries : List (List Token))
    (listed : List Token) : Prop :=
  ∃ shown after, entries.drop (start.getD 0) = shown ++ after ∧ listed = .num 1 entries.length :: shown.flatten
    ∧ (shown ≠ [] → head + bytesOf rest + bytesOf listed ≤ 120)
    ∧ ∀ e, after.head? = some e → 120 < head + bytesOf rest + bytesOf listed + bytesOf e

/-! ## The walk of Next Leg, as claims speak of it (R133 to R136) -/

/-- The claim of crane `c`, at position `p`, for a leg and its destination (R152). -/
def claimFor (s : State) (c p : Nat) (l : Leg) (dst : Place) : Claim :=
  ⟨(min p (min (s.placePos l.bay (s.legSource l)) (s.placePos l.bay dst)) : Nat) - ((s.craneCfg c).hw : Int),
    (max p (max (s.placePos l.bay (s.legSource l)) (s.placePos l.bay dst)) : Nat) + ((s.craneCfg c).hw : Int)⟩

/-- A claim shares a decimetre with a span. -/
def Touches (q : Claim) (a : Nat × Nat) : Prop := q.lo ≤ a.2 ∧ (a.1 : Int) ≤ q.hi

/-- The first test of R135 that a leg fails for crane `c` at position `p`: its hold-up, and whether R136 raises the
skip count. -/
def Fails (s : State) (c p : Nat) (h : Handle) (l : Leg) (why : HoldUp) (skip : Bool) : Prop :=
  match s.destinationFor l with
  | none => why = .full ∧ skip = false
  | some dst =>
    if (s.craneCfg c).swl < (s.craneCfg c).tare + s.liftMass l then why = .overload ∧ skip = false
    else if s.liftThickness l < (s.craneCfg c).minThickness then why = .noWork ∧ skip = false
    else
      (¬Apart s c (claimFor s c p l dst) ∨ ∃ e ∈ s.spans l.bay, e.1 ≠ h ∧ Touches (claimFor s c p l dst) e.2)
        ∧ why = .noWork ∧ skip = true

/-- A leg is passed over (R136): it shows why; where the skip count rises, it stops at 8, and the leg that reaches 8
becomes STARVING and raises LEG_STARVING. -/
def PassedOver (s t : State) (h : Handle) (l : Leg) (why : HoldUp) (skip : Bool) : Prop :=
  (∀ n, n = (if skip then min (l.skips + 1) 8 else l.skips) →
      t.leg? h = some { l with holdUp := some why, skips := n, starving := l.starving || (skip && n == 8) }
        ∧ t.flags = (if l.starving = false ∧ skip = true ∧ n = 8 then s.flags ||| Alarm.legStarving.bit
            else s.flags))
    ∧ (∀ g, g ≠ h → t.leg? g = s.leg? g)
    ∧ OnlyChanges [.legs, .flags] s t

/-- A leg is assigned to crane `c` in one action (R135, R24, R44, R154). -/
def GivenTo (s t : State) (c : Nat) (h : Handle) (l : Leg) (dst : Place) (q : Claim) : Prop :=
  t.leg? h = some { l with
      state := .assigned, holdUp := none, crane := some c, source := some (s.legSource l), target := some dst
      expected := some ((s.craneCfg c).tare + s.liftMass l), checkLoad := none }
    ∧ (∀ g, g ≠ h → t.leg? g = s.leg? g)
    ∧ t.crane c = { s.crane c with state := .assigned, leg := some h, claim := some q }
    ∧ (∀ d, d ≠ c → t.crane d = s.crane d)
    ∧ (∀ k, k ≤ 95 → t.slot k = { s.slot k with
        incoming := (s.slot k).incoming ++ if dst = .slot k then [h] else [] })
    ∧ t.cart = { s.cart with incoming := s.cart.incoming ++ if dst = .cart then [h] else [] }
    ∧ (∀ g r, s.plate? g = some r → t.plate? g = some (if l.plate = some g then { r with leg := some h } else r))
    ∧ OnlyChanges [.legs, .slots, .cart, .plates, .cranes] s t

/-- A leg put to the tests of R135: passed over, or given to the crane. -/
def TestedFor (s t : State) (c p : Nat) (h : Handle) (passed : Bool) : Prop :=
  ∃ l, s.leg? h = some l
    ∧ ((passed = false ∧ ∃ why skip, Fails s c p h l why skip ∧ PassedOver s t h l why skip)
      ∨ (passed = true ∧ (∀ why skip, ¬Fails s c p h l why skip)
        ∧ ∃ dst, s.destinationFor l = some dst ∧ GivenTo s t c h l dst (claimFor s c p l dst)))

/-- A leg under more than six plates is FAILED with hold-up TOO_DEEP, and the QUEUED legs later in its batch become
CANCELLED (R133, R126); the batch is CANCELLED when no leg of it is left unfinished; an ADMITTED job whose carrying
leg is lost so has fetch lost set (R80). Where an aborted job waits for the leg, its return batch is cancelled and the
job CLEARED (R94). -/
def TooDeep (s t : State) (h : Handle) (l : Leg) : Prop :=
  (∃ v, t.leg? h = some { l with holdUp := some .tooDeep, state := v, crane := none } ∧ (Unawaited s l → v = .failed))
    ∧ AwaitEnds s t h l .failed False
    ∧ OnlyChanges [.legs, .batches, .jobs, .parts] s t
    ∧ (Unawaited s l → StopEnds s t h l ∧ OnlyChanges [.legs, .batches, .jobs] s t)

/-- Dig expansion (R133): a DIG leg for each plate above, from the top of the stack down, directly ahead of the leg in
its batch, with the leg's bay, priority, skip count and STARVING; the legs of the batch take the positions of its new
list. What the list becomes is said for a list of distinct legs that are all there. -/
def Dug (s t : State) (h : Handle) (l : Leg) (above made : List Handle) : Prop :=
  made.length = above.length
    ∧ (∀ (i : Nat) (g q : Handle), made[i]? = some g → above.reverse[i]? = some q → ∃ n, t.leg? g = some
        { bay := l.bay, kind := .dig, batch := l.batch, position := n, plate := some q, sourceBed := none
          skeletonMass := none, skeletonThickness := none, destination := .choose, priority := l.priority
          skips := l.skips, starving := l.starving, state := .queued, holdUp := none, crane := none
          source := none, target := none, expected := none, checkLoad := none, ending := false })
    ∧ (∀ b front back, s.batch? l.batch = some b → b.legs = front ++ h :: back → b.legs.Nodup →
        (∀ g ∈ b.legs, ∃ x, s.leg? g = some x) →
        t.batch? l.batch = some { b with legs := front ++ made ++ h :: back }
          ∧ (∀ (i : Nat) (g : Handle) (x : Leg), (front ++ made ++ h :: back)[i]? = some g → t.leg? g = some x →
              x.position = i)
          ∧ (∀ g ∈ b.legs, ∀ x, s.leg? g = some x → x.state.unfinished = true →
              ∃ n, t.leg? g = some { x with position := n })
          ∧ ∀ g x, g ∉ b.legs → s.leg? g = some x → x.state.unfinished = true → t.leg? g = some x)
    ∧ (∀ g, g ≠ l.batch → t.batch? g = s.batch? g)
    ∧ OnlyChanges [.legs, .batches] s t

/-- A leg of the walk considered for crane `c` at position `p` (R133, R134): one that is not eligible when its turn
comes is left (notes/assumptions/27.md); one under no plate is put to the tests; one under plates is FAILED, passed
over, or dug out, and then the top plate's leg is put to the tests in its place. -/
def Considered (s t : State) (c p : Nat) (h : Handle) (passed : Bool) : Prop :=
  ((∀ l, s.leg? h = some l → s.eligible l = false) ∧ passed = false ∧ t = s)
    ∨ ∃ l above, s.leg? h = some l ∧ s.eligible l = true ∧ above = s.above l
      ∧ (let blocked : Prop :=
            ∃ g ∈ above, ∀ r, s.plate? g = some r →
              r.st.held = true ∨ r.st.doubtful = true ∨ s.namedByLeg g = true
          let cramped : Prop :=
            14 < (s.batchLegs (some l.batch)).length + above.length ∨ s.freeLegs < above.length
          if above = [] then TestedFor s t c p h passed
          else if 6 < above.length then TooDeep s t h l ∧ passed = false
          else
            (blocked → PassedOver s t h l .blocked true ∧ passed = false)
              ∧ (¬blocked → cramped → PassedOver s t h l .full true ∧ passed = false)
              ∧ (¬blocked → ¬cramped →
                  ∃ m made top, Dug s m h l above made ∧ made.head? = some top ∧ TestedFor m t c p top passed))

/-- The walk over legs for crane `c` at position `p` (R134): each is considered in turn, and the first that passes
ends it. -/
def Walked (c p : Nat) : List Handle → State → State → Bool → Prop
  | [], s, t, passed => t = s ∧ passed = false
  | h :: hs, s, t, passed =>
    (Considered s t c p h true ∧ passed = true) ∨ ∃ m, Considered s m c p h false ∧ Walked c p hs m t passed

/-- The last plate of a slot's stack has left it (R42, R54): the rest stays as it was, and an over-capacity mark
goes when the stack is within both bounds. -/
def Unstacked (s t : State) (k : Nat) (rest : List Handle) : Prop :=
  (t.slot k).stack = rest ∧ (t.slot k).incoming = (s.slot k).incoming
    ∧ (t.slot k).overCap = ((s.slot k).overCap
        && (decide ((s.slotCfg k).capacity < rest.length) || decide ((s.slotCfg k).limit < t.stackMass k)))

/-! ## The Record Store and start-up, as claims speak of them -/

def PlateId.fits (v : PlateId) : Bool :=
  optFits handleFits v.parent && fits1 v.depth && textFits v.heat && fits1 v.grade && fits2 v.thickness
    && fits2 v.length && fits2 v.width && fits1 v.headTrim && fits1 v.tailTrim && fits1 v.sideATrim
    && fits1 v.sideBTrim && fits4 v.seq

def Location.fits (l : Location) : Bool :=
  match l with
  | .slot k level => fits1 k && fits1 level
  | .bed t b => fits1 t && fits1 b
  | .hook c => fits1 c
  | .cart => true
  | .nowhere => true

def PlateSt.fits (v : PlateSt) : Bool :=
  v.location.fits && optFits (fun l => l.length ≤ Config.maxPanels && l.all Panel.fits) v.panels
    && optFits fits4 v.area

def Grade.fits (g : Grade) : Bool :=
  g.label.length ≤ 8 && fits1 g.family && fits2 g.density && fits2 g.minLength && fits2 g.minWidth
    && fits1 g.clearance

def SlotCfg.fits (c : SlotCfg) : Bool := fits2 c.position && fits1 c.capacity && fits4 c.limit

def TableCfg.fits (c : TableCfg) : Bool := fits2 c.bed0 && fits2 c.bed1

def CraneCfg.fits (c : CraneCfg) : Bool :=
  fits1 c.order && fits4 c.swl && fits4 c.tare && fits2 c.hw && fits2 c.minThickness

def PerBay.fits (p : PerBay) : Bool := fits2 p.onA && fits2 p.onB

def Station.fits (st : Station) : Bool :=
  fits1 st.weight && optFits fits1 st.unit && (st.kind != .crane || st.unit.isSome)

/-- The record that an image keeps is there, and each of its fields fits the bytes the image gives it. -/
def Fits (s : State) (i : ImageId) : Prop :=
  match i with
  | .genWord n => ∃ e r, s.plates.get? n = some e ∧ e.record = some r ∧ fits1 e.gen = true
  | .identity n => ∃ e r, s.plates.get? n = some e ∧ e.record = some r ∧ fits1 e.gen = true ∧ r.ident.fits = true
  | .state n => ∃ e r, s.plates.get? n = some e ∧ e.record = some r ∧ fits1 e.gen = true ∧ r.st.fits = true
  | .header => s.headerFloor ≤ 4294967296
  | .group .grades => s.hall.grades.entries.all Grade.fits = true
  | .group .slots => s.hall.slots.entries.all SlotCfg.fits = true
  | .group .tables => s.hall.tables.entries.all TableCfg.fits = true
  | .group .cranes => s.hall.cranes.entries.all CraneCfg.fits = true
  | .group .cart => s.hall.cart.fits = true
  | .group .bins => s.hall.bins.fits = true
  | .group .runways => s.hall.runways.fits = true
  | .group .stations => ∀ a st, s.station? a = some st → st.fits = true
  | .group .alarms => True

/-- A read of an image made of these words finds the record that the image keeps, sound (R13, R175, R176). -/
def Holds (s : State) (i : ImageId) (ws : List (BitVec 64)) : Prop :=
  let m := Image.fresh ws
  match i with
  | .genWord n => ∃ e r, s.plates.get? n = some e ∧ e.record = some r ∧ m.read take1 = .sound e.gen
  | .identity n =>
    ∃ e r, s.plates.get? n = some e ∧ e.record = some r ∧ m.read takeIdentity = .sound (e.gen, r.ident)
  | .state n => ∃ e r, s.plates.get? n = some e ∧ e.record = some r ∧ m.read takeState = .sound (e.gen, r.st)
  | .header => m.read take8 = .sound s.headerFloor
  | .group .grades => m.read (takeTable 64 takeGrade) = .sound s.hall.grades
  | .group .slots => m.read (takeTable 96 takeSlotCfg) = .sound s.hall.slots
  | .group .tables => m.read (takeTable 8 takeTableCfg) = .sound s.hall.tables
  | .group .cranes => m.read (takeTable 6 takeCraneCfg) = .sound s.hall.cranes
  | .group .cart => m.read takePerBay = .sound s.hall.cart
  | .group .bins => m.read takePerBay = .sound s.hall.bins
  | .group .runways => m.read takePerBay = .sound s.hall.runways
  | .group .stations =>
    m.read (takeList takeStationCfg) = .sound ((enrolledWith s fun _ => true).filterMap fun a =>
      (s.station? a).map fun st => ⟨a, st.kind, st.unit, st.weight⟩)
  | .group .alarms => m.read takeAlarmCfg = .sound s.hall.alarms

/-- Word `k` of an image, if a write has reached it. -/
def Image.cell? (m : Image) (k : Nat) : Option Cell := (m[k]?).join

/-- Word `k` of an image, before any bit flips, when a write of the words `ws` over `old` has left some words as they
were (R175, R178). -/
def wordAfter (old : Image) (ws : List (BitVec 64)) (left : List Nat) (k : Nat) : Option Cell :=
  if ∀ j < ws.length, j ∈ left then old.cell? k
  else if k < ws.length ∧ k ∈ left then old.cell? k
  else (ws[k]?).map Cell.fresh

/-- The image `m` is what a write of the words `ws` over `old` makes with this fate: each word new or as it was, and
the named bits flipped (R175, R178). -/
def Reaches (old : Image) (ws : List (BitVec 64)) (fate : WriteFate) (m : Image) : Prop :=
  ∀ k, match wordAfter old ws fate.left k with
    | none => m.cell? k = none
    | some c => ∃ d, m.cell? k = some d ∧ d.data = c.data
        ∧ ∀ b < 72, d.flipped.getLsbD b = (c.flipped.getLsbD b != (fate.flips.count (k, b) % 2 == 1))

/-- From array `x` to array `y` the image `i` becomes one that passes `p`, and every other image is as it was. -/
def Replaced (x y : Store) (i : ImageId) (p : Image → Prop) : Prop :=
  p (y.image i) ∧ ∀ j, j ≠ i → y.image j = x.image j

/-- At most one bit of a word has flipped. -/
def Cell.oneFlip (c : Cell) : Prop :=
  ∀ b d, c.flipped.getLsbD b = true → c.flipped.getLsbD d = true → b = d

/-- Every volatile collection is empty (R178, R182): no poll and no round, no request in flight, no search, no job,
draft, part, leg or batch, both verdicts absent and the gantry at bed 0, empty windows, pallets and incoming
lists, no skeleton, the cart between its sides, every crane OFFLINE, the commit counter at 0. -/
def CollectionsEmpty (t : State) : Prop :=
  t.round = [] ∧ t.poll = none ∧ t.deferred = [] ∧ t.restartPending = false ∧ t.inFlight = none
    ∧ t.searchQueue = [] ∧ t.scan = none
    ∧ (∀ i, i ≤ 7 → t.tables.get? i = some ⟨0, none, none⟩ ∧ t.window i = ⟨[], none⟩)
    ∧ (∀ i, i ≤ 15 → t.jobs.get? i = some ⟨0, none⟩ ∧ t.pallet i = [])
    ∧ (∀ i, i ≤ 31 → t.drafts.get? i = some []) ∧ (∀ i, i ≤ 2047 → t.parts.get? i = some ⟨0, none⟩)
    ∧ (∀ i, i ≤ 47 → t.legs.get? i = some ⟨0, none⟩) ∧ (∀ i, i ≤ 23 → t.batches.get? i = some ⟨0, none⟩)
    ∧ t.commitCounter = 0 ∧ (∀ c, t.crane c = ⟨.offline, none, none, none, false⟩)
    ∧ (∀ k, (t.slot k).incoming = []) ∧ (∀ b d, (t.bed b d).skeleton = false)
    ∧ t.cart.side = none ∧ t.cart.incoming = []

/-- A command that begins start-up in state `s`, on the array `x` (R178): power-on without RST, the release of RST,
the reset of an answered Restart once no write is in flight. -/
def StartsUp (c : Instr) (s : State) (x : Store) : Prop :=
  (∃ d, c = .powerOn d ∧ s.phase = .off ∧ s.rst = false ∧ x = s.store.decay d)
    ∨ (∃ d, c = .rstRelease d ∧ s.phase = .inReset ∧ x = s.store.decay d)
    ∨ (∃ d, c = .restartReset d ∧ s.restartPending = true ∧ s.inFlight = none ∧ x = s.store.decay d)

/-- The images of a plate entry name a record of generation `g` (R181): the identity image is good, and agrees with
the generation word where that is good. -/
def StoredPlate.Names (p : StoredPlate) (g : Nat) (ident : PlateId) : Prop :=
  p.identity.value = some (g, ident) ∧ ∀ w, p.genWord.value = some w → w = g

/-- Entry `k` of the array holds a STOCK DERIVED plate that names `h` as its parent (R182, step 2): as stored, or
STOCK because its state image is lost. -/
def Derives (x : Store) (h : Handle) : Prop :=
  ∃ k p g ident, x.readPlates.get? k = some p ∧ p.Names g ident ∧ ident.origin = .derived ∧ ident.parent = some h
    ∧ ∀ st, p.state.value = some (g, st) → st.disposition = .stock

/-! ## Invariants -/

/-- A station list binds every CRANE station to a crane. -/
def bindsCranes (l : List StationCfg) : Prop := ∀ c ∈ l, c.kind = .crane → c.unit ≠ none

/-- The claims of a runway lie apart, in the order of its cranes (R153); a crane with a claim is in service
(R131, R151); every CRANE station, enrolled or stored, is bound to a crane (R163). -/
structure State.ClaimsApart (s : State) : Prop where
  apart : ∀ c d p q, c ≠ d → (s.crane c).claim = some p → (s.crane d).claim = some q →
    (s.craneCfg c).runway = (s.craneCfg d).runway →
    (p.hi < q.lo ∨ q.hi < p.lo) ∧ ((s.craneCfg c).order < (s.craneCfg d).order → p.hi < q.lo)
  served : ∀ c, (s.crane c).claim ≠ none → s.inService c = true
  bound : ∀ a st, s.station? a = some st → st.kind = .crane → st.unit ≠ none
  stored : ∀ l, s.store.readStations.value = some l → bindsCranes l

/-- While the part runs, every flag whose cause stands is set (R183): STATION_SILENT while a station is SILENT,
POWER_WARNING while PFW is asserted, OVER_CAPACITY while a slot is marked. -/
structure State.FlagsStand (s : State) : Prop where
  silent : s.phase = .startup ∨ s.phase = .running → (∃ a st, s.station? a = some st ∧ st.silent = true) →
    flagIn s.flags .stationSilent = true
  warning : s.phase = .startup ∨ s.phase = .running → s.pfw = true → flagIn s.flags .powerWarning = true
  marked : s.phase = .startup ∨ s.phase = .running → (∃ k, (s.slot k).overCap = true) →
    flagIn s.flags .overCapacity = true

/-- The bounds of the queues: no image waits twice (R176); at most four searches wait, and none while no scan is
in flight (R56, R59); at most four parts are in a marker window (R104); a miss count is at most 8 (R166). -/
structure State.QueuesBounded (s : State) : Prop where
  images : s.queue.Nodup
  searches : s.searchQueue.length ≤ 4
  scanning : s.scan = none → s.searchQueue = []
  windows : ∀ t, (s.window t).parts.length ≤ 4
  misses : ∀ a st, s.station? a = some st → st.misses ≤ 8

end Sys2Proof.Machine
end

