-- ==== Sys2Proof/Certificates/Slice0/Obligations.lean ====
section
/-! DEFINITION. The statements for the provers: what the rules of spec/ say that the commands of the CH-1024 do,
over every state. The terms they use of the line (`Asks`, `Immediate`, `Awaits`, …) and of frames
(`OnlyChanges`) stand in Sys2Proof/Safety.lean. -/

open Sys2Proof Sys2Proof.Machine

/-! ## The step and the line (chapter 9) -/

/-- A step runs the command at the front of the queue on the state with the queue's rest. On an empty queue the
block idles: that is the model's choice (notes/assumptions/3.md). -/
def Obligations.StepRunsFrontCommand : Prop :=
  (∀ (c : Instr) (rest : List Instr) (s : State),
      step { s with pending := c :: rest } = exec c { s with pending := rest })
    ∧ ∀ s : State, s.pending = [] → step s = .next s

/-- POLL (R164, R165): with a poll due, the next entry of the round that still names a station is polled, and an
entry whose station was removed is passed over; past the last entry a new round is built from the station table:
the first half of the stations by address, those of weight 2, the rest. -/
def Obligations.PollServesTheRound : Prop :=
  ∀ s : State, s.phase = .running → s.restartPending = false → s.poll = none →
    (∀ (k a : Nat) (rest : List (Option Nat)),
        s.round.drop s.roundPos = List.replicate k none ++ some a :: rest →
        ∃ t, exec .poll s = .next t
          ∧ t.poll = some ⟨a, 1⟩ ∧ t.lastFrame = some (.poll a) ∧ t.roundPos = s.roundPos + k + 1
          ∧ OnlyChanges [.poll, .lastFrame, .roundPos] s t)
    ∧ (∀ (l w rest : List Nat) (a : Nat),
        l = enrolledWith s (fun _ => true) → w = enrolledWith s (fun st => st.weight == 2) →
        (∀ e ∈ s.round.drop s.roundPos, e = none) →
        l.take ((l.length + 1) / 2) ++ w ++ l.drop ((l.length + 1) / 2) = a :: rest →
        ∃ t, exec .poll s = .next t
          ∧ t.round = (a :: rest).map some ∧ t.roundPos = 1
          ∧ t.poll = some ⟨a, 1⟩ ∧ t.lastFrame = some (.poll a)
          ∧ OnlyChanges [.poll, .lastFrame, .round, .roundPos] s t)
    ∧ (s.station? 1 ≠ none → ∃ t, exec .poll s = .next t)

/-- How a poll ends without a request (R165, R166). A failed attempt is REPLY_TIMEOUT, BAD_FRAME or
WRONG_ADDRESS_FRAME: a station not SILENT is polled again up to the third attempt; then, or at once for a SILENT
one, the poll ends in a miss: the miss count rises by one, up to 8, and at 8 the station becomes SILENT and
STATION_SILENT is raised. A bad or wrong-address frame raises LINK_ERROR. IDLE_FRAME is a valid reply: the miss
count becomes 0, SILENT is cleared, the poll ends, and nothing is answered. -/
def Obligations.PollsEnd : Prop :=
  (∀ (c : Instr) (s : State) (a n : Nat) (st : Station),
      c = .replyTimeout ∨ c = .badFrame ∨ c = .wrongAddressFrame → Polled s a n st →
      ∃ t, exec c s = .next t
        ∧ (st.silent = false ∧ n < 3 →
            t.poll = some ⟨a, n + 1⟩ ∧ t.lastFrame = some (.poll a) ∧ t.stations = s.stations
              ∧ t.flags = s.flags ||| (if c = .replyTimeout then 0#12 else Alarm.linkError.bit))
        ∧ (st.silent = true ∨ 3 ≤ n →
            t.poll = none ∧ t.lastFrame = s.lastFrame
              ∧ t.station? a = some { st with
                  misses := min (st.misses + 1) 8
                  silent := st.silent || decide (8 ≤ st.misses + 1) }
              ∧ (∀ b, b ≠ a → t.station? b = s.station? b)
              ∧ t.flags = s.flags ||| (if c = .replyTimeout then 0#12 else Alarm.linkError.bit)
                  ||| (if st.silent = false ∧ 8 ≤ st.misses + 1 then Alarm.stationSilent.bit else 0#12))
        ∧ OnlyChanges [.poll, .lastFrame, .stations, .flags] s t)
    ∧ (∀ (s : State) (a n : Nat) (st : Station), Polled s a n st →
      ∃ t, exec .idleFrame s = .next t ∧ Heard s t a st st.slot ∧ OnlyChanges [.poll, .stations] s t)

/-- The Link Controller's checks, in their order, over every request of the request code table (R167): a payload
not exactly filled, a kind not permitted, a slot IN_FLIGHT for a deferred request; and before them a code that
the table does not hold. Each refusal changes nothing beyond the line. -/
def Obligations.LinkChecksInOrder : Prop :=
  (∀ (c : Instr) (q : Asked) (s : State) (a n : Nat) (st : Station),
      asked c = some q → Polled s a n st →
      (q.exact = false →
        ∃ t, exec c s = .next t ∧ Immediate s t a st q.tag .badRequest [] ∧ OnlyChanges lineFields s t)
      ∧ (q.exact = true → st.kind ∉ q.row.kinds →
        ∃ t, exec c s = .next t ∧ Immediate s t a st q.tag .notPermitted [] ∧ OnlyChanges lineFields s t)
      ∧ (q.exact = true → st.kind ∈ q.row.kinds → q.row.deferred = true → (∃ g, st.slot = .inFlight g) →
        ∃ t, exec c s = .next t ∧ Immediate s t a st q.tag .busy [] ∧ OnlyChanges lineFields s t))
    ∧ ∀ (tag : Byte) (code : Nat) (s : State) (a n : Nat) (st : Station), Polled s a n st →
      ∃ t, exec (.unknownRequestCode tag code) s = .next t ∧ Immediate s t a st tag .badRequest []
        ∧ OnlyChanges lineFields s t

/-- Every request of the polled station is answered with one ANSWER frame to that station, which echoes the tag
and carries a CRANE station's permit; the poll is over, and the station is heard (R165, R168). -/
def Obligations.EveryRequestAnswered : Prop :=
  ∀ (c : Instr) (q : Asked) (s : State) (a n : Nat) (st : Station),
    asked c = some q → Polled s a n st →
    ∃ t code fields, exec c s = .next t
      ∧ Sends t a st q.tag code fields
      ∧ t.poll = none
      ∧ ∃ slot, t.station? a = some { st with misses := 0, silent := false, slot := slot }

/-- A request answered with a refusal code changes nothing but the line: no record, no image, and no slot
(R14, R167, R169). Fetch Result, which may answer with the code of a held answer, and Open Batch, which discards
the station's OPEN batch first (R127), are apart. -/
def Obligations.RefusalsChangeNothing : Prop :=
  ∀ (c : Instr) (q : Asked) (s t : State) (a n : Nat) (st : Station) (code : AnsCode) (fields : List Token),
    asked c = some q → q.row ≠ reqFetchResult → q.row ≠ reqOpenBatch → Polled s a n st →
    exec c s = .next t → Sends t a st q.tag code fields → code ∈ refusals →
    Immediate s t a st q.tag code fields ∧ OnlyChanges [.stations, .poll, .lastFrame] s t

/-- Fetch Result (R170): WORKING with the tag in flight and the slot unchanged; NO_RESULT on an EMPTY slot; the
held code with the held tag, request code and fields, and the slot EMPTY. The ANSWER echoes Fetch Result's own
tag. It is served whatever PFW is. -/
def Obligations.FetchResultGivesTheSlot : Prop :=
  ∀ (s : State) (a : Nat) (st : Station) (tag : Byte), Asks reqFetchResult s a st →
    ∃ t, exec (.fetchResult tag (.fields ())) s = .next t
      ∧ (∀ g, st.slot = .inFlight g → Immediate s t a st tag .working [.num 1 g.toNat])
      ∧ (st.slot = .empty → Immediate s t a st tag .noResult [])
      ∧ (∀ g request code fields, st.slot = .held g request code fields →
          Heard s t a st .empty ∧ t.deferred = s.deferred
            ∧ Sends t a st tag code (.num 1 g.toNat :: .choice request :: fields))
      ∧ OnlyChanges lineFields s t

/-- The reads of the tables and collections. Each is immediate, changes nothing but the line, leaves the slot alone,
and answers DONE with what stands when it is taken, field by field in the order of its rule, or the code its rule gives
a number out of range or a handle that names nothing (R17, R49, R70, R97, R121, R122, R123, R150, R161, R173, R174,
R179). The model's choices: Read Hall Map lists the cart's group as two entries, one for each bay, A first (log 15);
the widths and numbers of fields (log 16); how a long list pages and which list of an answer does (logs 17, 18); a bed
without a job that holds a skeleton alone reads OCCUPIED (log 33); a batch lists the legs its handles still name (log
35); positions count from 0 (log 41); the spans of a runway stand in walk order (log 43); a flag is 0 where set, also
where its definition lists no order (log 44); an EMPTY slot shows no tag (log 45); an IDLE search unit shows no field
of a scan (log 47); its queue is one list of pairs of an address and a tag (log 55); the next part is named though the
window is full, and none for an ADMITTED job (log 48); a disposition, use, location, placement or origin is a byte for
its form, then that form's fields alone (log 49); several plates of a bed stand by plate index from start-up, later
ones last (log 50); a slot's incoming legs stand in the order of their assignment (log 51). -/
def Obligations.ReadsAnswerAndChangeNothing : Prop :=
  ∀ (s u : State) (a : Nat) (st : Station) (tag : Byte) (head : Nat), u = s.heard a →
    head = (if st.kind = .crane then 2 else 1) →
    let answers (c : Instr) (code : AnsCode) (fields : List Token) : Prop :=
      ∃ t, exec c s = .next t ∧ Immediate s t a st tag code fields ∧ OnlyChanges lineFields s t
    let handles (l : List Handle) : List (List Token) := l.map fun g => [.handle g]
    let claim (o : Option Claim) : List Token := given o fun q => [.num 2 q.lo, .num 2 q.hi]
    let placed (p : Placement) : List Token :=
      match p with
      | .onBed => [.choice 0]
      | .pallet n => [.choice 1, .num 1 n]
      | .nowhere => [.choice 2]
    let marked (m : MarkState) : Token := nth [MarkState.planned, .issued, .marked, .failed] m
    let cut (m : CutState) : Token := nth [CutState.uncut, .cut, .scrapped] m
    let ended (v : Verdict) : Token := nth [Verdict.pass, .fail, .aborted] v
    let inBay (bay : Bay) : Token := nth [Bay.a, .b] bay
    let legKind (k : LegKind) : Token :=
      nth [LegKind.fetch, .ret, .clearRemnant, .clearSkeleton, .dig, .transferOut, .transferIn, .manual] k
    let legState (v : LegState) : Token :=
      nth [LegState.queued, .assigned, .lifted, .check, .done, .cancelled, .failed] v
    let heldUp (o : Option HoldUp) : List Token :=
      given o fun w => [nth [HoldUp.blocked, .full, .overload, .noWork, .tooDeep] w]
    let kind (k : StationKind) : Token := nth [StationKind.supervisor, .table, .marker, .crane, .cart, .terminal] k
    let slotCfg (c : SlotCfg) : List Token :=
      [inBay c.bay, .num 2 c.position, nth [Purpose.stock, .remnant, .intake] c.purpose, .num 1 c.capacity,
        .num 4 c.limit]
    let craneCfg (c : CraneCfg) : List Token :=
      [inBay c.runway, .num 1 c.order, .num 4 c.swl, .num 4 c.tare, .num 2 c.hw, .num 2 c.minThickness]
    let job (o : Option (Handle × Job)) : List Token := given o fun e =>
      [.handle e.1, .num 4 e.2.nest, .handle e.2.plate,
          nth [JobState.admitted, .loaded, .burning, .paused, .ended, .cleared] e.2.state]
        ++ given e.2.role (fun r => [nth [Role.active, .staged] r])
        ++ [.num 1 e.2.parts.length, .num 1 e.2.resume, yes e.2.pierced, yes e.2.fetchLost]
        ++ given e.2.pauseCause (fun w => [nth [PauseCause.arcLoss, .collision, .operator] w])
        ++ given e.2.verdict (fun v => [ended v])
        ++ given e.2.fetchBatch (fun h => [.handle h]) ++ given e.2.clearBatch (fun h => [.handle h])
    let bed (b d : Nat) : Token := .choice (match s.bedJob b d with
      | none => if (s.bed b d).plates = [] ∧ (s.bed b d).skeleton = false then 0 else 1
      | some e => 2 + [JobState.admitted, .loaded, .burning, .paused, .ended].idxOf e.2.state)
    (∀ n, Asks reqReadStation s a st →
        (n = 0 ∨ 32 < n → answers (.readStation tag (.fields n)) .badRequest [])
        ∧ (1 ≤ n → n ≤ 32 → u.station? n = none → answers (.readStation tag (.fields n)) .done [.choice 0])
        ∧ ∀ x, 1 ≤ n → n ≤ 32 → u.station? n = some x →
            answers (.readStation tag (.fields n)) .done
              (.choice 1 :: kind x.kind :: given x.unit (fun v => [.num 1 v])
                ++ [.num 1 x.weight, .num 1 x.misses, yes x.silent]
                ++ (match x.slot with
                  | .empty => [.choice 0]
                  | .inFlight g => [.choice 1, .num 1 g.toNat]
                  | .held g _ _ _ => [.choice 2, .num 1 g.toNat])
                ++ counted (((List.range s.round.length).filter fun i => s.round[i]? == some (some n)).map fun i =>
                    [.num 1 i])))
    ∧ (∀ h, Asks reqReadPlate s a st →
        (s.plate? h = none → answers (.readPlate tag (.fields h)) .noSuch [])
        ∧ ∀ r, s.plate? h = some r → answers (.readPlate tag (.fields h)) .done
            ([.handle h, nth [Origin.mill, .derived] r.ident.origin] ++ given r.ident.parent (fun g => [.handle g])
              ++ [.num 1 r.ident.depth, .text r.ident.heat, .num 1 r.ident.grade, .num 2 r.ident.thickness,
                .num 2 r.ident.length, .num 2 r.ident.width, .num 1 r.ident.headTrim, .num 1 r.ident.tailTrim,
                .num 1 r.ident.sideATrim, .num 1 r.ident.sideBTrim, .num 4 r.ident.seq]
              ++ (match r.st.disposition with
                | .stock => [.choice 0]
                | .retired w => [.choice 1, nth [RetireReason.consumed, .scrapped, .shipped] w])
              ++ (match r.st.location with
                | .slot k level => [.place (.slot k), .num 1 level]
                | .bed b d => [.place (.bed b d)]
                | .hook c => [.place (.hook c)]
                | .cart => [.place .cart]
                | .nowhere => [.place .nowhere])
              ++ given r.st.panels (fun l => counted (l.map fun p =>
                  [.num 2 p.x, .num 2 p.y, .num 2 p.length, .num 2 p.width]))
              ++ given r.st.area (fun n => [.num 4 n])
              ++ [yes r.st.held, yes r.st.massDoubt, yes r.st.doubtful]
              ++ (match r.leg, r.job with
                | some l, _ => [.choice 2, .handle l]
                | none, some j => [.choice 1, .handle j]
                | none, none => [.choice 0])
              ++ given r.mass (fun m => [.num 4 m])
              ++ (match r.st.location with
                | .slot k level => [.choice 1, .num 1 ((s.slot k).stack.length - level - 1 : Nat)]
                | _ => [.choice 0])))
    ∧ (∀ i start, Asks reqReadSlot s a st →
        (95 < i → answers (.readSlot tag (.fields ⟨i, start⟩)) .badRequest [])
        ∧ ∀ tail, i ≤ 95 →
            tail = [.num 1 (s.slot i).stack.length, .num 4 (s.stackMass i), .num 1 (s.slot i).incoming.length,
                .num 4 (s.incomingMass i)] ++ counted (handles (s.slot i).incoming) ++ [yes (s.slot i).overCap] →
            ∃ listed, Pages head (slotCfg (s.slotCfg i) ++ tail) start (handles (s.slot i).stack) listed
              ∧ answers (.readSlot tag (.fields ⟨i, start⟩)) .done (slotCfg (s.slotCfg i) ++ listed ++ tail))
    ∧ (Asks reqReadSearchQueue s a st → answers (.readSearchQueue tag (.fields ())) .done
        ((match s.scan with
            | none => [.choice 0]
            | some c => [.choice 1, .num 1 c.search.station, .num 1 c.search.tag.toNat, .num 1 c.search.wanted,
                .num 2 c.position, .num 1 c.working.length])
          ++ counted (s.searchQueue.map fun q => [.num 1 q.station, .num 1 q.tag.toNat])))
    ∧ (∀ i start, Asks reqReadTable s a st →
        (7 < i → answers (.readTable tag (.fields ⟨i, start⟩)) .badRequest [])
        ∧ ∀ q front jobs, i ≤ 7 → s.tables.get? i = some q →
            front = .num 1 q.gantry :: given q.verdictN (fun v => [ended v.verdict, .num 4 v.nest])
              ++ given q.verdictN1 (fun v => [ended v.verdict, .num 4 v.nest]) →
            jobs = job (s.bedJob i 0) ++ job (s.bedJob i 1) →
            ∃ listed0 listed1,
              Pages head (front ++ [bed i 0, bed i 1, .num 1 0] ++ jobs) start (handles (s.bed i 0).plates) listed0
              ∧ Pages head (front ++ [bed i 0, bed i 1] ++ listed0 ++ jobs) start (handles (s.bed i 1).plates) listed1
              ∧ answers (.readTable tag (.fields ⟨i, start⟩)) .done
                  (front ++ bed i 0 :: listed0 ++ bed i 1 :: listed1 ++ jobs))
    ∧ (∀ h, Asks reqReadPart s a st →
        (s.part? h = none → answers (.readPart tag (.fields h)) .noSuch [])
        ∧ ∀ p (line : List Handle), s.part? h = some p →
            line = (match p.placement with
              | .pallet n => s.pallet n
              | _ => (s.window (p.job.idx / 2)).parts) →
            answers (.readPart tag (.fields h)) .done
              ([.handle h, .handle p.job, .num 1 p.index, .text p.hull, .text p.block, .num 4 p.number, .num 4 p.area,
                  .text p.heat, .num 1 p.grade, .num 2 p.thickness, marked p.mark, cut p.cut]
                ++ placed p.placement ++ [yes p.manual]
                ++ if h ∈ line then [.choice 1, .num 1 (line.idxOf h)] else [.choice 0]))
    ∧ (∀ i, Asks reqReadMarkerWindow s a st →
        (7 < i → answers (.readMarkerWindow tag (.fields i)) .badRequest [])
        ∧ (i ≤ 7 → answers (.readMarkerWindow tag (.fields i)) .done
            (given (s.activeJob i) (fun e => [.handle e.1])
              ++ counted ((s.window i).parts.map fun h =>
                  [.handle h, .num 1 (((s.part? h).map Part.index).getD 0),
                    cut (((s.part? h).map Part.cut).getD .uncut)])
              ++ given (s.window i).last (fun c => [.handle c.part, nth [MarkOutcome.made, .failed] c.outcome])
              ++ given ((s.activeJob i).bind fun e =>
                  if e.2.state ∈ [JobState.loaded, .burning, .paused] then s.nextPart e.2.parts else none)
                (fun n => [.num 1 n.2.index]))))
    ∧ (∀ i start, Asks reqReadPallet s a st →
        (15 < i → answers (.readPallet tag (.fields ⟨i, start⟩)) .badRequest [])
        ∧ ∀ tail, i ≤ 15 →
            tail = [.num 1 (s.pallet i).length,
              .num 1 ((s.pallet i).countP fun h => (s.part? h).any fun p => p.mark != .marked)] →
            ∃ listed, Pages head tail start (handles (s.pallet i)) listed
              ∧ answers (.readPallet tag (.fields ⟨i, start⟩)) .done (listed ++ tail))
    ∧ (∀ h start, Asks reqReadJobParts s a st →
        (s.job? h = none → answers (.readJobParts tag (.fields ⟨h, start⟩)) .noSuch [])
        ∧ ∀ j tail, s.job? h = some j →
            tail = [.num 1 (j.parts.countP fun g => (s.part? g).any fun p =>
                p.cut == .cut && (p.mark == .planned || p.mark == .failed)),
              yes (j.parts.all fun g => (s.part? g).all fun p => !(p.cut == .cut && p.placement == .onBed))] →
            ∃ listed, Pages head tail start (j.parts.map fun g => .handle g :: given (s.part? g) fun p =>
                [marked p.mark, cut p.cut] ++ placed p.placement ++ [yes p.manual]) listed
              ∧ answers (.readJobParts tag (.fields ⟨h, start⟩)) .done (listed ++ tail))
    ∧ (∀ h, Asks reqReadLeg s a st →
        (s.leg? h = none → answers (.readLeg tag (.fields h)) .noSuch [])
        ∧ ∀ l, s.leg? h = some l → answers (.readLeg tag (.fields h)) .done
            ([.handle h, inBay l.bay, legKind l.kind, .handle l.batch, .num 1 l.position]
              ++ given l.plate (fun p => [.handle p]) ++ given l.sourceBed (fun e => [.place (.bed e.1 e.2)])
              ++ given l.skeletonMass (fun m => [.num 4 m]) ++ given l.skeletonThickness (fun d => [.num 2 d])
              ++ [.place l.destination, .num 1 l.priority, .num 1 l.skips, yes l.starving, legState l.state]
              ++ heldUp l.holdUp ++ given l.crane (fun c => [.num 1 c]) ++ given l.source (fun p => [.place p])
              ++ given l.target (fun p => [.place p]) ++ given l.expected (fun e => [.num 4 e])))
    ∧ (∀ h start, Asks reqReadBatch s a st →
        (s.batch? h = none → answers (.readBatch tag (.fields ⟨h, start⟩)) .noSuch [])
        ∧ ∀ b front back, s.batch? h = some b →
            front = .handle h :: (match b.origin with
              | .job j => [.choice 0, .handle j]
              | .station n => [.choice 1, .num 1 n]) →
            back = nth [BatchState.opened, .committed, .done, .cancelled] b.state
              :: given b.seq (fun n => [.num 4 n]) →
            ∃ listed, Pages head (front ++ back) start (b.legs.filterMap fun g => (s.leg? g).map fun l =>
                [.handle g, legKind l.kind, legState l.state] ++ given l.plate (fun p => [.handle p])
                  ++ heldUp l.holdUp) listed
              ∧ answers (.readBatch tag (.fields ⟨h, start⟩)) .done (front ++ listed ++ back))
    ∧ (∀ c, Asks reqReadCrane s a st →
        (5 < c → answers (.readCrane tag (.fields c)) .badRequest [])
        ∧ (c ≤ 5 → answers (.readCrane tag (.fields c)) .done
            (craneCfg (s.craneCfg c)
              ++ [yes (u.inService c), nth [CraneState.offline, .idle, .assigned, .loaded, .check] (s.crane c).state]
              ++ given (s.crane c).leg (fun h => [.handle h]) ++ [yes (u.craneSilent c)]
              ++ given (s.crane c).position (fun p => [.num 2 p]) ++ claim (s.crane c).claim
              ++ [yes (s.crane c).stopped])))
    ∧ (∀ i start, Asks reqReadRunway s a st →
        (2 ≤ i → answers (.readRunway tag (.fields ⟨i, start⟩)) .badRequest [])
        ∧ ∀ bay, (i = 0 ∧ bay = .a) ∨ (i = 1 ∧ bay = .b) → ∃ (cranes : List Nat) (listed front : List Token),
            cranes.Nodup ∧ (∀ c, c ∈ cranes ↔ c ≤ 5 ∧ u.inService c = true ∧ (s.craneCfg c).runway = bay)
              ∧ cranes.Pairwise (fun c d => (s.craneCfg c).order ≤ (s.craneCfg d).order)
              ∧ front = .num 2 (match bay with
                  | .a => s.hall.runways.onA
                  | .b => s.hall.runways.onB) :: counted (cranes.map fun c =>
                    [.num 1 c, .num 2 (s.craneCfg c).hw] ++ given (s.crane c).position (fun p => [.num 2 p])
                      ++ claim (s.crane c).claim ++ [yes (s.crane c).stopped, yes (u.craneSilent c)])
              ∧ Pages head front start ((u.spans bay).map fun e => [.handle e.1, .num 2 e.2.1, .num 2 e.2.2]) listed
              ∧ answers (.readRunway tag (.fields ⟨i, start⟩)) .done (front ++ listed))
    ∧ ∀ i start, Asks reqReadHallMap s a st →
        let lists (n : Nat) (entries : List (List Token)) : Prop :=
          i = n → ∃ listed, Pages head [] start entries listed
            ∧ answers (.readHallMap tag (.fields ⟨i, start⟩)) .done listed
        let eachBay (p : PerBay) : List (List Token) := [[.num 2 p.onA], [.num 2 p.onB]]
        (9 ≤ i → answers (.readHallMap tag (.fields ⟨i, start⟩)) .badRequest [])
        ∧ lists 0 (s.hall.grades.entries.map fun g =>
            [.text g.label, .num 1 g.family, .num 2 g.density, .num 2 g.minLength, .num 2 g.minWidth,
              .num 1 g.clearance])
        ∧ lists 1 (s.hall.slots.entries.map slotCfg)
        ∧ lists 2 (s.hall.tables.entries.map fun e => [.num 2 e.bed0, .num 2 e.bed1])
        ∧ lists 3 (s.hall.cranes.entries.map craneCfg)
        ∧ lists 4 (eachBay s.hall.cart) ∧ lists 5 (eachBay s.hall.bins) ∧ lists 6 (eachBay s.hall.runways)
        ∧ lists 7 ((enrolledWith s fun _ => true).filterMap fun b => (s.station? b).map fun x =>
            [.num 1 b, kind x.kind] ++ given x.unit (fun v => [.num 1 v]) ++ [.num 1 x.weight])
        ∧ lists 8 [[.num 2 s.hall.alarms.mask.toNat, .choice (if s.hall.alarms.enable then 1 else 0)]]

/-- Read Alarms and Clear Alarms (R183, R184), and ALERT (R186). Read Alarms carries the flags, the mask, the enable,
ALERT, and the SILENT stations in ascending order, and touches nothing. Clear Alarms clears every flag named, sets
again those whose cause still stands, leaves the others, and carries the flags as they then stand; a set with any of
bits 12 to 15 is answered BAD_REQUEST and changes nothing. Neither looks at PFW but as the cause of POWER_WARNING. The
level of ALERT, in every state and so after every change: deasserted in reset and without supply; else asserted exactly
while the enable is on and a set flag is in the mask. The enable is 1 for on (R184); that a byte of 0 says that ALERT
is asserted is notes/assumptions/44.md. -/
def Obligations.AlarmsReadAndCleared : Prop :=
  (∀ (s : State) (a : Nat) (st : Station) (tag : Byte),
    (Asks reqReadAlarms s a st →
      ∃ t, exec (.readAlarms tag (.fields ())) s = .next t
        ∧ Immediate s t a st tag .done
            ([.num 2 s.flags.toNat, .num 2 s.hall.alarms.mask.toNat,
                .choice (if s.hall.alarms.enable then 1 else 0),
                .choice (if s.hall.alarms.enable ∧ s.flags &&& s.hall.alarms.mask ≠ 0#12 then 0 else 1),
                .num 1 (enrolledWith t fun x => x.silent).length]
              ++ (enrolledWith t fun x => x.silent).map fun b => .num 1 b)
        ∧ OnlyChanges lineFields s t)
    ∧ ∀ v : Nat, Asks reqClearAlarms s a st →
      if v < 4096 then
        ∃ t, exec (.clearAlarms tag (.fields v)) s = .next t
          ∧ (∀ f : Alarm, flagIn t.flags f =
              if v.testBit f.number then
                match f with
                | .stationSilent => (enrolledWith t fun x => x.silent) != []
                | .powerWarning => s.pfw
                | .overCapacity => s.slots.entries.any fun k => k.overCap
                | _ => false
              else flagIn s.flags f)
          ∧ Immediate s t a st tag .done [.num 2 t.flags.toNat]
          ∧ OnlyChanges (lineFields ++ [.flags]) s t
      else ∃ t, exec (.clearAlarms tag (.fields v)) s = .next t
        ∧ Immediate s t a st tag .badRequest [] ∧ OnlyChanges lineFields s t)
    ∧ ∀ s : State,
      (s.phase = .off ∨ s.phase = .inReset → s.alert = false)
        ∧ (s.phase = .startup ∨ s.phase = .running →
          (s.alert = true ↔ s.hall.alarms.enable = true
            ∧ ∃ f : Alarm, flagIn s.flags f = true ∧ flagIn s.hall.alarms.mask f = true))

/-! ## Enrolment (section 9.5) -/

/-- Enrol Station (R171, R169, R66). Its checks in order: PFW; the address, kind, unit and weight; another station of
the same kind and unit; a crane that has a leg and would be bound otherwise. Taken: the entry takes kind, unit and
weight, with miss count 0, SILENT clear and slot EMPTY; the address's draft, OPEN batch and search go, the other
waiting searches as they were, and the answers its requests in flight would have had; a crane it was bound to and is
not bound to now goes out of service; the station table image is queued and awaited, also where the entry comes out
unchanged (notes/assumptions/28.md). -/
def Obligations.EnrolStationTakes : Prop :=
  ∀ (s : State) (a : Nat) (st : Station) (tag : Byte) (f : EnrolF), Asks reqEnrolStation s a st →
    let fits (kind : StationKind) : Prop :=
      (match kind with
        | .table => ∃ u, f.unit = some u ∧ u ≤ 7
        | .marker => ∃ u, f.unit = some u ∧ u ≤ 7
        | .crane => ∃ u, f.unit = some u ∧ u ≤ 5
        | _ => f.unit = none)
      ∧ (if kind = .crane then f.weight = 2 else f.weight = 1 ∨ f.weight = 2)
    let alone (kind : StationKind) : Prop :=
      kind ∈ [StationKind.table, .marker, .crane, .cart] →
        ∀ b x, b ≠ f.address → s.station? b = some x → ¬(x.kind = kind ∧ x.unit = f.unit)
    let loose (kind : StationKind) : Prop :=
      ∀ x c, s.station? f.address = some x → x.kind = .crane → x.unit = some c →
        (s.crane c).leg = none ∨ (kind = .crane ∧ f.unit = some c)
    let checks : List (Prop × AnsCode) :=
      [(s.pfw = false, .powerDown),
        (2 ≤ f.address ∧ f.address ≤ 32 ∧ f.address ≠ a ∧ ∃ kind, StationKind.ofNum f.kind = some kind ∧ fits kind,
          .badRequest),
        (∀ kind, StationKind.ofNum f.kind = some kind → alone kind, .inUse),
        (∀ kind, StationKind.ofNum f.kind = some kind → loose kind, .inUse)]
    RefusedInOrder (.enrolStation tag (.fields f)) s a st tag checks
    ∧ ∀ kind, AllHold checks → StationKind.ofNum f.kind = some kind →
      ∃ t, exec (.enrolStation tag (.fields f)) s = .next t
        ∧ t.poll = none
        ∧ t.station? f.address = some ⟨kind, f.unit, f.weight, 0, false, .empty⟩
        ∧ t.station? a = some { st with misses := 0, silent := false, slot := .inFlight tag }
        ∧ (∀ b, b ≠ a → b ≠ f.address → t.station? b = s.station? b)
        ∧ Sends t a st tag .working []
        ∧ t.deferred = (s.deferred.map fun d =>
              if d.station = some f.address then { d with station := none } else d)
            ++ [waitsOn reqEnrolStation a tag [.group .stations] .done []]
        ∧ t.queue = joining s.queue [.group .stations]
        ∧ t.drafts.get? (f.address - 1) = some []
        ∧ (∀ i, i ≠ f.address - 1 → t.drafts.get? i = s.drafts.get? i)
        ∧ t.legs = (s.discardOpen f.address).legs ∧ t.batches = (s.discardOpen f.address).batches
        ∧ Withdrawn s t f.address
        ∧ (∀ x c, s.station? f.address = some x → x.kind = .crane → x.unit = some c → c ≤ 5 →
            ¬(kind = .crane ∧ f.unit = some c) → t.crane c = ⟨.offline, none, none, none, false⟩)
        ∧ (∀ c, (∀ x, s.station? f.address = some x → x.kind = .crane → x.unit = some c →
            kind = .crane ∧ f.unit = some c) → t.crane c = s.crane c)
        ∧ OnlyChanges (lineFields ++ [.legs, .batches, .drafts, .searchQueue, .scan, .cranes, .queue]) s t

/-- Remove Station (R172, R164, R66). Its checks in order: PFW; the address; an address not enrolled; a crane that has
a leg. Taken: the entry leaves the table and the rest of the round; what it had goes as at re-enrolment; its crane goes
out of service; the station table image is queued and awaited. That its places in the round stay as empty ones is
notes/assumptions/25.md. -/
def Obligations.RemoveStationTakes : Prop :=
  ∀ (s : State) (a : Nat) (st : Station) (tag : Byte) (b : Nat), Asks reqRemoveStation s a st →
    let checks : List (Prop × AnsCode) :=
      [(s.pfw = false, .powerDown), (2 ≤ b ∧ b ≤ 32 ∧ b ≠ a, .badRequest), (∃ x, s.station? b = some x, .noSuch),
        (∀ x c, s.station? b = some x → x.kind = .crane → x.unit = some c → (s.crane c).leg = none, .inUse)]
    RefusedInOrder (.removeStation tag (.fields b)) s a st tag checks
    ∧ ∀ x, AllHold checks → s.station? b = some x →
      ∃ t, exec (.removeStation tag (.fields b)) s = .next t
        ∧ t.poll = none
        ∧ t.station? b = none
        ∧ t.station? a = some { st with misses := 0, silent := false, slot := .inFlight tag }
        ∧ (∀ d, d ≠ a → d ≠ b → t.station? d = s.station? d)
        ∧ t.round = s.round.map (fun e => if e = some b then none else e)
        ∧ Sends t a st tag .working []
        ∧ t.deferred = (s.deferred.map fun d => if d.station = some b then { d with station := none } else d)
            ++ [waitsOn reqRemoveStation a tag [.group .stations] .done []]
        ∧ t.queue = joining s.queue [.group .stations]
        ∧ t.drafts.get? (b - 1) = some []
        ∧ (∀ i, i ≠ b - 1 → t.drafts.get? i = s.drafts.get? i)
        ∧ t.legs = (s.discardOpen b).legs ∧ t.batches = (s.discardOpen b).batches
        ∧ Withdrawn s t b
        ∧ (∀ c, x.kind = .crane → x.unit = some c → c ≤ 5 → t.crane c = ⟨.offline, none, none, none, false⟩)
        ∧ (∀ c, ¬(x.kind = .crane ∧ x.unit = some c) → t.crane c = s.crane c)
        ∧ OnlyChanges (lineFields ++ [.round, .legs, .batches, .drafts, .searchQueue, .scan, .cranes, .queue]) s t

/-! ## Plates and places (chapters 1 to 3) -/

/-- Register Plate (R2, R3, R4, R15, R16). Its checks in order: PFW; each field in its range; the usable rectangle; an
entry by R3 and a counter not exhausted; room in the slot for the mass by the formula. Taken: the lowest entry that is
FREE or RETIRED takes a MILL record with the fields as given, one panel, full piece area, mass by the formula, flags
clear and use FREE, on top of the slot's stack; the generation by R2, the sequence number by R4; its three images are
queued in order and awaited, and the final answer carries the handle and the level. -/
def Obligations.RegisterPlateCreates : Prop :=
  ∀ (s : State) (a : Nat) (st : Station) (tag : Byte) (f : RegisterF) (length width mass : Nat),
    Asks reqRegisterPlate s a st →
    length = f.length - f.headTrim - f.tailTrim → width = f.width - f.sideATrim - f.sideBTrim →
    mass = massOf (f.length * f.width) f.thickness (s.density f.grade) →
    let checks : List (Prop × AnsCode) :=
      [(s.pfw = false, .powerDown),
        (textIn 1 12 f.heat = true ∧ f.grade ≤ 63 ∧ 30 ≤ f.thickness ∧ f.thickness ≤ 1500
            ∧ 500 ≤ f.length ∧ f.length ≤ 24000 ∧ 300 ≤ f.width ∧ f.width ≤ 5000
            ∧ 10 ≤ f.headTrim ∧ f.headTrim ≤ 250 ∧ 10 ≤ f.tailTrim ∧ f.tailTrim ≤ 250
            ∧ 15 ≤ f.sideATrim ∧ f.sideATrim ≤ 250 ∧ 15 ≤ f.sideBTrim ∧ f.sideBTrim ≤ 250 ∧ f.slot ≤ 95, .badRequest),
        (300 ≤ length ∧ 200 ≤ width, .badRequest),
        ((∃ i e, s.plates.get? i = some e ∧ ∀ r, e.record = some r → r.st.disposition ≠ .stock)
            ∧ s.seqCounter < 4294967296, .full),
        (s.hasRoom f.slot (some mass) = true, .full)]
    RefusedInOrder (.registerPlate tag (.fields f)) s a st tag checks
    ∧ ∀ (i : Nat) (e : Entry PlateRec), AllHold checks →
      s.plates.get? i = some e → (∀ r, e.record = some r → r.st.disposition ≠ .stock) →
      (∀ j < i, ∀ d, s.plates.get? j = some d → ∃ r, d.record = some r ∧ r.st.disposition = .stock) →
      ∃ t g, exec (.registerPlate tag (.fields f)) s = .next t
        ∧ g = (if e.record = none then e.gen else (e.gen + 1) % 64)
        ∧ t.plates.get? i = some ⟨g, some
            { ident :=
                { origin := .mill, parent := none, depth := 0, heat := f.heat, grade := f.grade
                  thickness := f.thickness, length := f.length, width := f.width
                  headTrim := f.headTrim, tailTrim := f.tailTrim
                  sideATrim := f.sideATrim, sideBTrim := f.sideBTrim, seq := s.seqCounter }
              st :=
                { disposition := .stock
                  location := .slot f.slot (s.slot f.slot).stack.length
                  panels := some [⟨0, 0, length, width⟩]
                  area := some (f.length * f.width)
                  held := false, massDoubt := false, doubtful := false }
              job := none, leg := none
              mass := some mass }⟩
        ∧ (∀ j, j ≠ i → t.plates.get? j = s.plates.get? j)
        ∧ t.seqCounter = s.seqCounter + 1
        ∧ t.slot f.slot = { s.slot f.slot with stack := (s.slot f.slot).stack ++ [⟨i, g⟩] }
        ∧ (∀ k, k ≠ f.slot → t.slot k = s.slot k)
        ∧ t.queue = joining s.queue [.genWord i, .identity i, .state i]
        ∧ Awaits reqRegisterPlate s t a st tag [.genWord i, .identity i, .state i] .done
            [.handle ⟨i, g⟩, .num 1 (s.slot f.slot).stack.length]
        ∧ OnlyChanges (lineFields ++ [.plates, .seqCounter, .slots, .queue]) s t

/-- Amend Plate (R18, R19). Its checks in order: PFW and a handle that names a record; STOCK and FREE; panels, piece
area and location; a plate on a hook given no location; a bed given with a job, another plate or a skeleton (the
skeleton, and the form of places: notes/assumptions/33.md, 40.md); room. Taken: panels, piece area and mass are
replaced, MASS_DOUBT and DOUBTFUL cleared, HELD kept; a location that differs moves the plate, the plates above it come
down one level, and their images follow its own; places, plates and marks not concerned stay. A request that changes
nothing is complete at once (R14; that this holds of Amend Plate is notes/assumptions/10.md). -/
def Obligations.AmendPlateSets : Prop :=
  ∀ (s : State) (a : Nat) (st : Station) (tag : Byte) (f : AmendF), Asks reqAmendPlate s a st →
    RefusedInOrder (.amendPlate tag (.fields f)) s a st tag
      [(s.pfw = false, .powerDown), (∃ r, s.plate? f.plate = some r, .noSuch)]
    ∧ ∀ (r new : PlateRec) (area mass : Nat), s.pfw = false → s.plate? f.plate = some r →
      area = (match r.ident.origin with
        | .mill => r.ident.length * r.ident.width
        | .derived => f.area.getD ((f.panels.map fun p => p.length * p.width).sum)) →
      mass = massOf area r.ident.thickness (s.density r.ident.grade) →
      new = { r with
        st := { r.st with panels := some f.panels, area := some area, massDoubt := false, doubtful := false }
        mass := some mass } →
      let stays (k : Nat) : Prop :=
        s.stackMass k - (if r.st.doubtful then 0 else r.mass.getD 0) + mass + s.incomingMass k ≤ (s.slotCfg k).limit
      let checks : List (Prop × AnsCode) :=
        [(r.st.disposition = .stock ∧ r.job = none ∧ r.leg = none, .wrongState),
          (panelsValid f.panels (r.ident.length - r.ident.headTrim - r.ident.tailTrim)
              (r.ident.width - r.ident.sideATrim - r.ident.sideBTrim) = true
            ∧ (∀ n, f.area = some n → r.ident.origin = .derived
              ∧ (f.panels.map fun p => p.length * p.width).sum ≤ n ∧ n ≤ r.ident.length * r.ident.width)
            ∧ (∀ p, f.location = some p → match p with
              | .slot k => k ≤ 95
              | .bed t b => t ≤ 7 ∧ b ≤ 1
              | .cart => True
              | .nowhere => True
              | _ => False), .badRequest),
          (∀ c, r.st.location = .hook c → f.location ≠ none, .wrongState),
          (∀ t b, f.location = some (.bed t b) →
            s.bedJob t b = none ∧ (s.bed t b).skeleton = false ∧ ∀ g ∈ (s.bed t b).plates, g = f.plate, .wrongState),
          (match f.location with
            | none => ∀ k n, r.st.location = .slot k n → stays k
            | some (.slot k) =>
              (r.st.location.place = .slot k → stays k)
                ∧ (r.st.location.place ≠ .slot k → s.hasRoom k (some mass) = true)
            | some .cart => r.st.location = .cart ∨ (s.cart.plates = [] ∧ s.cart.incoming = [])
            | _ => True, .full)]
      RefusedInOrder (.amendPlate tag (.fields f)) s a st tag checks
      ∧ (AllHold checks → f.location = none ∨ f.location = some r.st.location.place →
        ∃ t, exec (.amendPlate tag (.fields f)) s = .next t
          ∧ t.plate? f.plate = some new
          ∧ (∀ g, g ≠ f.plate → t.plate? g = s.plate? g)
          ∧ (if new.st = r.st then AtOnce reqAmendPlate s t a st tag .done [] ∧ t.queue = s.queue
            else Awaits reqAmendPlate s t a st tag [.state f.plate.idx] .done []
              ∧ t.queue = joining s.queue [.state f.plate.idx])
          ∧ OnlyChanges (lineFields ++ [.plates, .queue]) s t)
      ∧ ∀ (p : Place) (above : List Handle), AllHold checks → f.location = some p → p ≠ r.st.location.place →
        (∀ j b, r.st.location = .bed j b → b ≤ 1) →
        above = (match r.st.location with
          | .slot k _ => (s.slot k).stack.drop ((s.slot k).stack.idxOf f.plate + 1)
          | _ => []) →
        ∃ t, exec (.amendPlate tag (.fields f)) s = .next t
          ∧ t.plate? f.plate = some { new with st := { new.st with location := landing s p } }
          ∧ (∀ g, g ≠ f.plate → g ∉ above → t.plate? g = s.plate? g)
          ∧ (∀ k n i g q, r.st.location = .slot k n → (s.slot k).stack.Nodup → above[i]? = some g →
              s.plate? g = some q → t.plate? g = some { q with
                st := { q.st with location := .slot k ((s.slot k).stack.idxOf f.plate + i) } })
          ∧ (∀ k, p = .slot k → t.slot k = { s.slot k with stack := (s.slot k).stack ++ [f.plate] })
          ∧ (∀ k n, r.st.location = .slot k n → Unstacked s t k ((s.slot k).stack.erase f.plate))
          ∧ (∀ k, p ≠ .slot k → r.st.location.place ≠ .slot k → t.slot k = s.slot k)
          ∧ (∀ j b, p = .bed j b → t.bed j b = { s.bed j b with plates := (s.bed j b).plates ++ [f.plate] })
          ∧ (∀ j b, r.st.location = .bed j b →
              t.bed j b = { s.bed j b with plates := (s.bed j b).plates.erase f.plate })
          ∧ (∀ j b, b ≤ 1 → p ≠ .bed j b → r.st.location ≠ .bed j b → t.bed j b = s.bed j b)
          ∧ t.cart = { s.cart with plates :=
              if p = .cart then s.cart.plates ++ [f.plate]
              else if r.st.location = .cart then s.cart.plates.erase f.plate else s.cart.plates }
          ∧ (∀ images, images = .state f.plate.idx :: above.map (fun g => ImageId.state g.idx) →
              Awaits reqAmendPlate s t a st tag images .done [] ∧ t.queue = joining s.queue images)
          ∧ OnlyChanges (lineFields ++ [.plates, .slots, .beds, .cart, .queue]) s t

/-- A plate leaves a slot's stack from any level (R42, R47): the stack closes up, every plate that lay above it
stands one level lower in its record with its state image queued, the others keep theirs, and a slot marked over
capacity is examined again (R54). -/
def Obligations.StackClosesUp : Prop :=
  ∀ (s : State) (h : Handle) (r : PlateRec) (k n : Nat),
    s.plate? h = some r → r.st.location = .slot k n → k ≤ 95 → (s.slot k).stack.Nodup → h ∈ (s.slot k).stack →
    (∀ g ∈ (s.slot k).stack, ∃ q, s.plate? g = some q) →
    ((s.leavePlace h).slot k).stack = (s.slot k).stack.erase h
      ∧ (∀ i g, ((s.slot k).stack.erase h)[i]? = some g → (s.slot k).stack.idxOf h ≤ i →
          (∀ q, s.plate? g = some q →
            (s.leavePlace h).plate? g = some { q with st := { q.st with location := .slot k i } })
          ∧ ImageId.state g.idx ∈ (s.leavePlace h).queue)
      ∧ (∀ i g, ((s.slot k).stack.erase h)[i]? = some g → i < (s.slot k).stack.idxOf h →
          (s.leavePlace h).plate? g = s.plate? g)
      ∧ (s.leavePlace h).plate? h = s.plate? h
      ∧ ((s.slot k).overCap = false → ((s.leavePlace h).slot k).overCap = false)
      ∧ (((s.leavePlace h).slot k).overCap = true →
          (s.slotCfg k).capacity < ((s.leavePlace h).slot k).stack.length
            ∨ (s.slotCfg k).limit < (s.leavePlace h).stackMass k)
      ∧ OnlyChanges [.plates, .slots, .queue] s (s.leavePlace h)

/-- Hold Plate sets HELD and Release Plate clears it, in any use (R20, R21, R14): POWER_DOWN, NO_SUCH,
WRONG_STATE and BLOCKED in that order; a flag that already stands is complete at once; else the state image is
queued and awaited. -/
def Obligations.HeldSetAndCleared : Prop :=
  ∀ (s : State) (a : Nat) (st : Station) (tag : Byte) (h : Handle) (v : Bool) (c : Instr) (row : Req),
    (c = .holdPlate tag (.fields h) ∧ row = reqHoldPlate ∧ v = true)
      ∨ (c = .releasePlate tag (.fields h) ∧ row = reqReleasePlate ∧ v = false) →
    Asks row s a st →
    let refused (code : AnsCode) : Prop :=
      ∃ t, exec c s = .next t ∧ Immediate s t a st tag code [] ∧ OnlyChanges lineFields s t
    (s.pfw = true → refused .powerDown)
    ∧ (s.pfw = false → s.plate? h = none → refused .noSuch)
    ∧ ∀ r, s.pfw = false → s.plate? h = some r →
        (r.st.disposition ≠ .stock → refused .wrongState)
        ∧ (r.st.disposition = .stock → r.st.doubtful = true → refused .blocked)
        ∧ (r.st.disposition = .stock → r.st.doubtful = false → r.st.held = v →
            ∃ t, exec c s = .next t ∧ AtOnce row s t a st tag .done [] ∧ OnlyChanges lineFields s t)
        ∧ (r.st.disposition = .stock → r.st.doubtful = false → r.st.held ≠ v →
            ∃ t, exec c s = .next t
              ∧ t.plate? h = some { r with st := { r.st with held := v } }
              ∧ (∀ g, g ≠ h → t.plate? g = s.plate? g)
              ∧ t.queue = joining s.queue [.state h.idx]
              ∧ Awaits row s t a st tag [.state h.idx] .done []
              ∧ OnlyChanges (lineFields ++ [.plates, .queue]) s t)

/-- Retire Plate (R22, R6). Its checks in order: PFW; a reason other than SCRAPPED or SHIPPED; a handle that names no
record; a plate not STOCK or not FREE; one not on top of its stack; one that an unfinished leg names. Taken: the record
becomes RETIRED with the reason, takes location NONE, loses its mass and keeps panels, piece area and flags; it leaves
its place, where in a slot it was the top, so that no other plate's record changes, and no other place; its state image
is queued and awaited. That the reason on the line is 1 for SCRAPPED and 2 for SHIPPED is the model's reading of R174
(section 9.6), by the list of the three reasons in section 1.1: log 16. -/
def Obligations.RetirePlateRetires : Prop :=
  ∀ (s : State) (a : Nat) (st : Station) (tag : Byte) (h : Handle) (reason : Nat), Asks reqRetirePlate s a st →
    RefusedInOrder (.retirePlate tag (.fields ⟨h, reason⟩)) s a st tag
      [(s.pfw = false, .powerDown), (reason = 1 ∨ reason = 2, .badRequest), (∃ r, s.plate? h = some r, .noSuch)]
    ∧ ∀ (why : RetireReason) (r : PlateRec), s.pfw = false →
      (reason = 1 ∧ why = .scrapped) ∨ (reason = 2 ∧ why = .shipped) → s.plate? h = some r →
      let checks : List (Prop × AnsCode) :=
        [(r.st.disposition = .stock ∧ r.job = none ∧ r.leg = none, .wrongState),
          (∀ k n, r.st.location = .slot k n → (s.slot k).stack.length ≤ n + 1, .wrongState),
          (∀ g l, s.leg? g = some l → l.state.unfinished = true → l.plate ≠ some h, .wrongState)]
      RefusedInOrder (.retirePlate tag (.fields ⟨h, reason⟩)) s a st tag checks
      ∧ (AllHold checks →
        (∀ k n, r.st.location = .slot k n → (s.slot k).stack[n]? = some h ∧ (s.slot k).stack.Nodup) →
        (∀ j b, r.st.location = .bed j b → b ≤ 1) →
        ∃ t, exec (.retirePlate tag (.fields ⟨h, reason⟩)) s = .next t
          ∧ t.plate? h = some { r with
              st := { r.st with disposition := .retired why, location := .nowhere }
              job := none, leg := none, mass := none }
          ∧ (∀ g, g ≠ h → t.plate? g = s.plate? g)
          ∧ (∀ k n, r.st.location = .slot k n → Unstacked s t k (s.slot k).stack.dropLast)
          ∧ (∀ k, r.st.location.place ≠ .slot k → t.slot k = s.slot k)
          ∧ (∀ j b, r.st.location = .bed j b → t.bed j b = { s.bed j b with plates := (s.bed j b).plates.erase h })
          ∧ (∀ j b, b ≤ 1 → r.st.location ≠ .bed j b → t.bed j b = s.bed j b)
          ∧ t.cart = { s.cart with plates :=
              if r.st.location = .cart then s.cart.plates.erase h else s.cart.plates }
          ∧ t.queue = joining s.queue [.state h.idx]
          ∧ Awaits reqRetirePlate s t a st tag [.state h.idx] .done []
          ∧ OnlyChanges (lineFields ++ [.plates, .slots, .beds, .cart, .queue]) s t)

/-- While PFW is asserted (R14, R171, R172, R177, R179, R185): fifteen requests that change a stored image whenever
they change anything are answered POWER_DOWN before their own checks, and change nothing. End Job and Abort Job look at
PFW among their checks, which are in order (R86, R91): End Job, its outcome, PFW, a job of the station's table, BURNING
or PAUSED, for PASS every part CUT, two free legs and a batch; Abort Job, a job, its state, for a pierced one PFW, and
the legs and the batch that it takes. That the outcome on the line is 0 for PASS and 1 for FAIL is log 16. -/
def Obligations.PowerDownRefuses : Prop :=
  (∀ (c : Instr) (q : Asked) (s : State) (a : Nat) (st : Station),
      asked c = some q → q.exact = true → Asks q.row s a st → s.pfw = true →
      q.row ∈ [reqEnrolStation, reqRemoveStation, reqRegisterPlate, reqAmendPlate, reqHoldPlate, reqReleasePlate,
        reqRetirePlate, reqSetGrade, reqSetSlot, reqSetTable, reqSetCrane, reqSetCart, reqSetScrapBin,
        reqSetRunway, reqSetAlertMask] →
      ∃ t, exec c s = .next t ∧ Immediate s t a st q.tag .powerDown [] ∧ OnlyChanges lineFields s t)
    ∧ ∀ (s : State) (a : Nat) (st : Station) (tag : Byte) (h : Handle),
      let pierced (j : Job) : Prop := j.state = .burning ∨ j.state = .paused
      let returns (j : Job) : Prop :=
        (∃ g ∈ s.batchLegs j.fetchBatch, ∃ l, s.leg? g = some l ∧ (l.kind = .fetch ∨ l.kind = .transferOut)
            ∧ (l.state = .lifted ∨ l.state = .check))
          ∨ ∃ r, s.plate? j.plate = some r ∧ (r.st.location = .bed (h.idx / 2) (h.idx % 2) ∨ r.st.location = .cart)
            ∧ r.st.doubtful = false
      (∀ v, Asks reqEndJob s a st → RefusedInOrder (.endJob tag (.fields ⟨h, v⟩)) s a st tag
        [(v ≤ 1, .badRequest), (s.pfw = false, .powerDown),
          (∃ j, s.job? h = some j ∧ h.idx / 2 = st.unit.getD 0, .noSuch),
          (∀ j, s.job? h = some j → pierced j, .wrongState),
          (∀ j, v = 0 → s.job? h = some j → ∀ g ∈ j.parts, ∃ p, s.part? g = some p ∧ p.cut = .cut, .wrongState),
          (2 ≤ s.freeLegs ∧ s.hasFreeBatch = true, .full)])
      ∧ (Asks reqAbortJob s a st → RefusedInOrder (.abortJob tag (.fields h)) s a st tag
        [(∃ j, s.job? h = some j, .noSuch),
          (∀ j, s.job? h = some j → j.state = .admitted ∨ j.state = .loaded ∨ pierced j, .wrongState),
          (∀ j, s.job? h = some j → pierced j → s.pfw = false, .powerDown),
          (∀ j, s.job? h = some j →
            (pierced j → 2 ≤ s.freeLegs ∧ s.hasFreeBatch = true)
              ∧ (¬pierced j → returns j → 1 ≤ s.freeLegs ∧ s.hasFreeBatch = true), .full)])

/-- Mass, tolerance and load (R32, R38, R39): the mass is the exact mass rounded to the nearest unit, a half rounded
up; a measured load is clamped to 0 and 4,000,000; the lift agrees exactly when the clamped load differs from the
expected one, either way, by at most three per cent, its fraction dropped, plus 2000. A list of panels is valid by R30.
And the panels of a derivation (R33, R34, R35): the tail piece runs the full width beyond the envelope and the
clearance, the side piece lies beside the envelope, and each is kept when its sizes are positive and at least the
grade's minimums; from the valid panels of a plate and an envelope that its panel holds, the four best pieces are left,
or all where there are no more, in their order, all within the usable rectangle and none sharing area with another: the
larger area is kept, among equals the lower x, then the lower y. -/
def Obligations.DerivationArithmetic : Prop :=
  ((∀ area thickness density : Nat,
        2 * (area * thickness * density) < 1000000000 * (2 * massOf area thickness density + 1)
          ∧ 1000000000 * (2 * massOf area thickness density) ≤ 2 * (area * thickness * density) + 1000000000)
      ∧ (∀ v : Int, (v < 0 → clampLoad v = 0) ∧ (4000000 < v → clampLoad v = 4000000)
          ∧ (0 ≤ v → v ≤ 4000000 → (clampLoad v : Int) = v))
      ∧ ∀ expected load : Nat,
          loadAgrees expected load = true
            ↔ ((expected : Int) - load).natAbs ≤ expected * 3 / 100 + 2000)
    ∧ (∀ (l : List Panel) (length width : Nat), panelsValid l length width = true ↔
      1 ≤ l.length ∧ l.length ≤ 4
        ∧ (∀ p ∈ l, 1 ≤ p.length ∧ 1 ≤ p.width ∧ p.x + p.length ≤ length ∧ p.y + p.width ≤ width)
        ∧ l.Pairwise fun p q =>
            p.x + p.length ≤ q.x ∨ q.x + q.length ≤ p.x ∨ p.y + p.width ≤ q.y ∨ q.y + q.width ≤ p.y)
    ∧ (∀ (p : Panel) (o : Orientation) (l w e d : Nat) (g : Grade),
      (o = .along ∧ e = l ∧ d = w) ∨ (o = .rotated ∧ e = w ∧ d = l) →
      envExtent o l w = (e, d)
        ∧ (envFits p (e, d) = true ↔ e ≤ p.length ∧ d ≤ p.width)
        ∧ tailPiece p (e, d) g =
          (if 1 ≤ p.width ∧ g.minWidth ≤ p.width ∧ e + g.clearance + max 1 g.minLength ≤ p.length then
            [⟨p.x + e + g.clearance, p.y, p.length - e - g.clearance, p.width⟩] else [])
        ∧ sidePiece p (e, d) g =
          (if 1 ≤ e ∧ g.minLength ≤ e ∧ d + g.clearance + max 1 g.minWidth ≤ p.width then
            [⟨p.x, p.y + d + g.clearance, e, p.width - d - g.clearance⟩] else []))
    ∧ (∀ (panels : List Panel) (i : Nat) (p : Panel) (o : Orientation) (l w length width : Nat) (g : Grade),
      panelsValid panels length width = true → panels[i]? = some p → envFits p (envExtent o l w) = true →
      let left := derivedPanels panels i (envExtent o l w) g
      let pieces := panels.eraseIdx i ++ tailPiece p (envExtent o l w) g ++ sidePiece p (envExtent o l w) g
      left.length = min 4 pieces.length
        ∧ (∀ q ∈ left, q.within length width = true)
        ∧ panelsApart left = true
        ∧ left.Sublist pieces
        ∧ ∀ q ∈ left, ∀ d ∈ pieces, d ∉ left →
            d.length * d.width < q.length * q.width
              ∨ (d.length * d.width = q.length * q.width ∧ (q.x < d.x ∨ (q.x = d.x ∧ q.y < d.y))))

/-! ## Searches (chapter 4) -/

/-- Find Remnant (R57, R58, R59): a field out of range is BAD_REQUEST, four searches waiting is FULL; else the
search joins the queue at the tail, its slot is IN_FLIGHT with the answer WORKING, and an idle unit starts the
head of the queue. Of the rotation byte, 0 is yes and 1 no (R174, section 4.1). It is served whatever PFW is. -/
def Obligations.FindRemnantQueues : Prop :=
  ∀ (s : State) (a : Nat) (st : Station) (tag : Byte) (f : FindF) (q : SearchRec),
    Asks reqFindRemnant s a st →
    q = ⟨a, tag, f.specFamily, f.specMask, f.thickness, f.tolerance, f.length, f.width, f.rotation == 0,
      f.wanted⟩ →
    let refused (code : AnsCode) : Prop :=
      ∃ t, exec (.findRemnant tag (.fields f)) s = .next t ∧ Immediate s t a st tag code []
        ∧ OnlyChanges lineFields s t
    let ranges : Prop :=
      f.specFamily ≤ 255 ∧ f.specMask ≤ 255 ∧ 30 ≤ f.thickness ∧ f.thickness ≤ 1500 ∧ f.tolerance ≤ 50
        ∧ 1 ≤ f.length ∧ f.length ≤ 23980 ∧ 1 ≤ f.width ∧ f.width ≤ 4970 ∧ f.rotation ≤ 1
        ∧ 1 ≤ f.wanted ∧ f.wanted ≤ 4
    (¬ranges → refused .badRequest)
    ∧ (ranges → 4 ≤ s.searchQueue.length → refused .full)
    ∧ (ranges → s.searchQueue.length < 4 →
        ∃ t, exec (.findRemnant tag (.fields f)) s = .next t
          ∧ Heard s t a st (.inFlight tag) ∧ Sends t a st tag .working [] ∧ t.deferred = s.deferred
          ∧ (∀ c, s.scan = some c → t.scan = some c ∧ t.searchQueue = s.searchQueue ++ [q])
          ∧ (s.scan = none → ∀ head rest, s.searchQueue ++ [q] = head :: rest →
              t.scan = some ⟨head, 0, []⟩ ∧ t.searchQueue = rest)
          ∧ OnlyChanges (lineFields ++ [.searchQueue, .scan]) s t)

/-- The scan reaches its next entry (R59, R60, R65): before entry 1023 the position advances by one with the working
list of that entry; after it the result stands HELD in the slot that is IN_FLIGHT for the search, and the head of the
queue starts, or the unit is IDLE. Nothing else changes. The result gives each candidate as R68 lists it, a rotated one
with the byte 0 for yes, 1 for no (R174 numbers them as R68 lists them). That the scan goes on after Restart is
answered is notes/assumptions/22.md. The ranking (R63) puts DERIVED before MILL, then lower band, burial depth, waste,
sequence number; and a candidate ranked into a ranked list leaves the best of all of them, up to the wanted count. -/
def Obligations.ScanRanksEntries : Prop :=
  (∀ (s : State) (c : Scan), s.phase = .running → s.scan = some c →
      ∃ t w, exec .scanReachEntry s = .next t
        ∧ Reached s c.search c.position c.working w
        ∧ (c.position < 1023 →
            t.scan = some { c with position := c.position + 1, working := w }
              ∧ OnlyChanges [.scan] s t)
        ∧ (1023 ≤ c.position →
            (∀ (st : Station) (result : List Token), s.station? c.search.station = some st →
              result = .num 1 w.length :: (w.map fun d => [Token.handle d.plate, .num 1 d.panel,
                .choice (if d.rotated then 0 else 1), .num 1 d.depth, .num 4 d.waste]).flatten →
              t.station? c.search.station = some (if st.slot = .inFlight c.search.tag then
                { st with slot := .held c.search.tag 0x28 .done result } else st))
            ∧ (∀ b, b ≠ c.search.station → t.station? b = s.station? b)
            ∧ (s.searchQueue = [] → t.scan = none ∧ t.searchQueue = [])
            ∧ (∀ q rest, s.searchQueue = q :: rest → t.scan = some ⟨q, 0, []⟩ ∧ t.searchQueue = rest)
            ∧ OnlyChanges [.stations, .scan, .searchQueue] s t))
    ∧ ((∀ c d : Candidate, c.ranksBefore d = true ↔
        (c.origin = .derived ∧ d.origin = .mill)
          ∨ (c.origin = d.origin ∧ (c.band < d.band
            ∨ (c.band = d.band ∧ (c.depth < d.depth
              ∨ (c.depth = d.depth ∧ (c.waste < d.waste ∨ (c.waste = d.waste ∧ c.seq < d.seq))))))))
      ∧ ∀ (wanted : Nat) (l : List Candidate) (c : Candidate),
          l.Pairwise (fun x y => x.ranksBefore y = true) → (∀ d ∈ l, d.seq ≠ c.seq) → l.length ≤ wanted →
          let w := rankIn wanted l c
          w.Pairwise (fun x y => x.ranksBefore y = true)
            ∧ w.length = min wanted (l.length + 1)
            ∧ (∀ x ∈ w, x = c ∨ x ∈ l)
            ∧ ∀ x, x = c ∨ x ∈ l → x ∉ w → ∀ y ∈ w, y.ranksBefore x = true)

/-! ## Tables and jobs (chapter 5) -/

/-- Stage Parts (R76): a field or a count out of range is BAD_REQUEST; else the entries follow the draft, or start it
afresh, unless it would exceed 64 entries, which is FULL and leaves it. That the start-afresh byte is 0 for set and 1
for clear, as R174 numbers a flag, is notes/assumptions/44.md. -/
def Obligations.StagePartsAppends : Prop :=
  ∀ (s : State) (a : Nat) (st : Station) (tag : Byte) (f : StageF),
    Asks reqStageParts s a st →
    let ranges : Prop :=
      f.afresh ≤ 1 ∧ 1 ≤ f.parts.length ∧ f.parts.length ≤ 6
        ∧ ∀ d ∈ f.parts, textIn 1 4 d.hull = true ∧ textIn 1 5 d.block = true
          ∧ 1 ≤ d.number ∧ d.number ≤ 99999 ∧ 1 ≤ d.area ∧ d.area ≤ 120000000
    let draft := (if f.afresh = 0 then [] else s.draft a) ++ f.parts
    (ranges → draft.length ≤ 64 →
      ∃ t, exec (.stageParts tag (.fields f)) s = .next t
        ∧ t.draft a = draft ∧ (∀ i, i ≠ a - 1 → t.drafts.get? i = s.drafts.get? i)
        ∧ Immediate s t a st tag .done [.num 1 draft.length]
        ∧ OnlyChanges (lineFields ++ [.drafts]) s t)
    ∧ (ranges → 64 < draft.length →
      ∃ t, exec (.stageParts tag (.fields f)) s = .next t ∧ Immediate s t a st tag .full []
        ∧ OnlyChanges lineFields s t)
    ∧ (¬ranges →
      ∃ t, exec (.stageParts tag (.fields f)) s = .next t ∧ Immediate s t a st tag .badRequest []
        ∧ OnlyChanges lineFields s t)

/-- Admit Job (R77, R78, R79, R23, R100). Its checks in order: fields in range and a draft that is not empty; the bed
EMPTY or holding only the plate (one with a skeleton alone: notes/assumptions/33.md); the plate found; STOCK, FREE and
named by no unfinished leg; not HELD and not DOUBTFUL; of the grade and thickness, where it can be fetched; not too
deep; a panel that holds the envelope; room for the parts; no duplicate mark; legs and a batch for the fetch, unless
the plate lies on the bed. Taken: the plate is reserved, one PLANNED, UNCUT part is made for each draft entry in order,
in the lowest FREE entries (R99), the job stands in the bed's entry with its role, the fetch batch is committed unless
the plate lies on the bed, it and its legs in the lowest entries (R125), and the draft is emptied. The verdicts of the
table, the other parts, and the other entries of legs and batches stay. -/
def Obligations.AdmitJobTakes : Prop :=
  ∀ (s : State) (a : Nat) (st : Station) (tag : Byte) (f : AdmitF), Asks reqAdmitJob s a st →
    let draft := s.draft a
    let lies (r : PlateRec) : Prop := r.st.location = .bed f.table f.bed
    let legs (r : PlateRec) : Nat :=
      match r.st.location with
      | .slot k _ => if (s.slotCfg k).bay = tableBay f.table then 1 else 2
      | .bed t _ => if tableBay t = tableBay f.table then 1 else 2
      | _ => 1
    let plateIs (p : PlateRec → Prop) : Prop := ∀ r, s.plate? f.plate = some r → p r
    let same (d e : DraftEntry) : Prop := d.hull = e.hull ∧ d.block = e.block ∧ d.number = e.number
    let checks : List (Prop × AnsCode) :=
      [(f.orientation ≤ 1 ∧ f.table ≤ 7 ∧ f.bed ≤ 1 ∧ f.nest ≤ 4294967295 ∧ f.panel ≤ 3
          ∧ 1 ≤ f.envLength ∧ f.envLength ≤ 23980 ∧ 1 ≤ f.envWidth ∧ f.envWidth ≤ 4970
          ∧ f.specFamily ≤ 255 ∧ f.specMask ≤ 255 ∧ 30 ≤ f.thickness ∧ f.thickness ≤ 1500 ∧ f.tolerance ≤ 50
          ∧ draft ≠ [], .badRequest),
        (s.bedJob f.table f.bed = none ∧ ((s.bed f.table f.bed).plates = [f.plate]
          ∨ ((s.bed f.table f.bed).plates = [] ∧ (s.bed f.table f.bed).skeleton = false)), .wrongState),
        (∃ r, s.plate? f.plate = some r, .noSuch),
        (plateIs (fun r => r.st.disposition = .stock ∧ r.job = none ∧ r.leg = none)
          ∧ ∀ g l, s.leg? g = some l → l.state.unfinished = true → l.plate ≠ some f.plate, .gone),
        (plateIs fun r => r.st.held = false ∧ r.st.doubtful = false, .blocked),
        (plateIs fun r => (s.grade r.ident.grade).family &&& f.specMask = f.specFamily &&& f.specMask
          ∧ f.thickness ≤ r.ident.thickness ∧ r.ident.thickness ≤ f.thickness + f.tolerance
          ∧ (match r.st.location with
            | .hook _ => False
            | .nowhere => False
            | _ => True), .gone),
        (plateIs fun r => ∀ k n, r.st.location = .slot k n → (s.slot k).stack.length - n - 1 ≤ 6, .tooDeep),
        (plateIs fun r => ∃ p, (r.st.panels.getD [])[f.panel]? = some p
          ∧ (if f.orientation = 0 then f.envLength ≤ p.length ∧ f.envWidth ≤ p.width
            else f.envWidth ≤ p.length ∧ f.envLength ≤ p.width), .badRequest),
        (draft.length ≤ s.parts.count partEntryFree, .full),
        ((∀ d ∈ draft, ∀ g p, s.part? g = some p →
            ¬(p.hull = d.hull ∧ p.block = d.block ∧ p.number = d.number)) ∧ draft.Pairwise fun d e => ¬same d e,
          .duplicate),
        (plateIs fun r => ¬lies r → legs r ≤ s.freeLegs ∧ s.hasFreeBatch = true, .full)]
    RefusedInOrder (.admitJob tag (.fields f)) s a st tag checks
    ∧ ∀ (o : Orientation) (r : PlateRec) (e : Entry Job) (jh : Handle) (live : Bool), AllHold checks →
      (f.orientation = 0 ∧ o = .along) ∨ (f.orientation = 1 ∧ o = .rotated) → s.plate? f.plate = some r →
      s.jobs.get? (2 * f.table + f.bed) = some e →
      jh = ⟨2 * f.table + f.bed, if e.record = none then e.gen else (e.gen + 1) % 64⟩ →
      live = (s.bedLive f.table 0 || s.bedLive f.table 1) →
      ∃ (t : State) (parts : List Handle) (fetch : Option Handle),
        exec (.admitJob tag (.fields f)) s = .next t
        ∧ t.plate? f.plate = some { r with job := some jh }
        ∧ (∀ g, g ≠ f.plate → t.plate? g = s.plate? g)
        ∧ t.job? jh = some
            { nest := f.nest, plate := f.plate, panel := f.panel, orientation := o
              envLength := f.envLength, envWidth := f.envWidth
              specFamily := f.specFamily, specMask := f.specMask, thickness := f.thickness
              tolerance := f.tolerance, parts := parts, resume := 0, pierced := false
              state := if r.st.location = .bed f.table f.bed then .loaded else .admitted
              role := some (if live then .staged else .active)
              pauseCause := none, fetchLost := false, fetchBatch := fetch, clearBatch := none, verdict := none }
        ∧ (∀ i, i ≠ jh.idx → t.jobs.get? i = s.jobs.get? i)
        ∧ parts.length = draft.length ∧ parts.Nodup
        ∧ (∀ (i : Nat) (h : Handle) (d : DraftEntry), parts[i]? = some h → draft[i]? = some d →
            t.part? h = some
              { job := jh, index := i, hull := d.hull, block := d.block, number := d.number, area := d.area
                heat := r.ident.heat, grade := r.ident.grade, thickness := r.ident.thickness
                mark := .planned, cut := .uncut, placement := .onBed, manual := false })
        ∧ (∀ h q, s.part? h = some q → t.part? h = some q)
        ∧ TakesLowest s.parts (fun x => x.record = none) parts
        ∧ (∀ k, (∀ g ∈ parts, g.idx ≠ k) → t.parts.get? k = s.parts.get? k)
        ∧ t.tableSeq f.table =
            { s.tableSeq f.table with gantry := if live then (s.tableSeq f.table).gantry else f.bed }
        ∧ (∀ k, k ≠ f.table → t.tables.get? k = s.tables.get? k)
        ∧ (lies r → fetch = none ∧ t.legs = s.legs ∧ t.batches = s.batches
            ∧ t.commitCounter = s.commitCounter)
        ∧ (¬lies r → ∃ hb b, fetch = some hb ∧ t.batch? hb = some b
            ∧ b.origin = .job jh ∧ b.state = .committed ∧ b.seq = some s.commitCounter
            ∧ t.commitCounter = min (s.commitCounter + 1) 4294967295
            ∧ BatchTakesLowest s t hb b.legs
            ∧ b.legs.map (shapeOf t) =
                (match s.locationBay r.st.location with
                  | some bay =>
                    if bay = tableBay f.table then
                      [some (.fetch, tableBay f.table, some f.plate, .bed f.table f.bed,
                        if live then 1 else 2, .queued, hb, 0)]
                    else
                      [some (.transferOut, bay, some f.plate, .cart, if live then 1 else 2, .queued, hb, 0),
                        some (.fetch, tableBay f.table, some f.plate, .bed f.table f.bed,
                          if live then 1 else 2, .queued, hb, 1)]
                  | none =>
                    [some (.fetch, tableBay f.table, some f.plate, .bed f.table f.bed,
                      if live then 1 else 2, .queued, hb, 0)]))
        ∧ t.draft a = []
        ∧ Immediate s t a st tag .done
            (.handle jh :: match fetch with
              | none => [.choice 0]
              | some hb => [.choice 1, .handle hb])
        ∧ OnlyChanges (lineFields ++ [.plates, .parts, .tables, .legs, .batches, .commitCounter, .jobs, .drafts])
            s t

/-- The torch's requests about a job of the station's own table; a job of another table is NO_SUCH (R81). Start Job,
Pause Job and Resume Job (R82, R84, R85): a LOADED, ACTIVE job whose plate no unfinished leg names becomes BURNING and
pierced; a BURNING job becomes PAUSED with its cause; a PAUSED one BURNING; the repeats are answered DONE with no
change; any other state is WRONG_STATE. Start and Resume carry the resume point. Part Cut (R83, R102, R103): an UNCUT
part of a BURNING or PAUSED job becomes CUT, the resume point is the lowest index still UNCUT, and UNMARKED_CUT is
raised when its mark is PLANNED or FAILED; a CUT part is answered DONE with no change, a SCRAPPED one WRONG_STATE; a
job in another state WRONG_STATE, an index past the list BAD_REQUEST. That Pause Job looks at the handle, the state and
then the cause, and answers a cause out of its range BAD_REQUEST, is notes/assumptions/34.md. -/
def Obligations.TorchRequests : Prop :=
  ∀ (s : State) (a : Nat) (st : Station) (tag : Byte) (h : Handle),
    let takes (c : Instr) (fields : List Token) (j : Job) : Prop :=
      ∃ t, exec c s = .next t
        ∧ t.job? h = some j ∧ (∀ g, g ≠ h → t.job? g = s.job? g)
        ∧ Immediate s t a st tag .done fields ∧ OnlyChanges (lineFields ++ [.jobs]) s t
    let refused (c : Instr) (code : AnsCode) : Prop :=
      ∃ t, exec c s = .next t ∧ Immediate s t a st tag code [] ∧ OnlyChanges lineFields s t
    let own (j : Job) : Prop := s.job? h = some j ∧ h.idx / 2 = st.unit.getD 0
    (∀ c row, Asks row s a st → (¬∃ j, own j) →
      (c = .startJob tag (.fields h) ∧ row = reqStartJob)
        ∨ (∃ w, c = .pauseJob tag (.fields ⟨h, w⟩) ∧ row = reqPauseJob)
        ∨ (c = .resumeJob tag (.fields h) ∧ row = reqResumeJob)
        ∨ (∃ i, c = .partCut tag (.fields ⟨h, i⟩) ∧ row = reqPartCut) → refused c .noSuch)
    ∧ (∀ j, own j → Asks reqStartJob s a st →
        if j.state = .loaded ∧ j.role = some .active ∧ s.namedByLeg j.plate = false then
          takes (.startJob tag (.fields h)) [.num 1 j.resume] { j with state := .burning, pierced := true }
        else refused (.startJob tag (.fields h)) .wrongState)
    ∧ (∀ j w cause, own j → Asks reqPauseJob s a st → PauseCause.ofNum w = some cause →
        (j.state = .burning → takes (.pauseJob tag (.fields ⟨h, w⟩)) []
          { j with state := .paused, pauseCause := some cause })
        ∧ (j.state = .paused → takes (.pauseJob tag (.fields ⟨h, w⟩)) [] j)
        ∧ (j.state ≠ .burning → j.state ≠ .paused →
            refused (.pauseJob tag (.fields ⟨h, w⟩)) .wrongState))
    ∧ (∀ j w, own j → Asks reqPauseJob s a st → PauseCause.ofNum w = none →
        refused (.pauseJob tag (.fields ⟨h, w⟩))
          (if j.state = .burning ∨ j.state = .paused then .badRequest else .wrongState))
    ∧ (∀ j, own j → Asks reqResumeJob s a st →
        (j.state = .burning ∨ j.state = .paused →
          takes (.resumeJob tag (.fields h)) [.num 1 j.resume] { j with state := .burning })
        ∧ (j.state ≠ .burning → j.state ≠ .paused → refused (.resumeJob tag (.fields h)) .wrongState))
    ∧ ∀ (i : Nat) (j : Job), own j → Asks reqPartCut s a st →
        let torch : Prop := j.state = .burning ∨ j.state = .paused
        (¬torch → refused (.partCut tag (.fields ⟨h, i⟩)) .wrongState)
        ∧ (torch → j.parts.length ≤ i → refused (.partCut tag (.fields ⟨h, i⟩)) .badRequest)
        ∧ ∀ g p, torch → j.parts[i]? = some g → s.part? g = some p → p.job = h →
            (p.cut = .scrapped → refused (.partCut tag (.fields ⟨h, i⟩)) .wrongState)
            ∧ (p.cut = .cut →
                ∃ t, exec (.partCut tag (.fields ⟨h, i⟩)) s = .next t
                  ∧ Immediate s t a st tag .done [.num 1 j.resume] ∧ OnlyChanges lineFields s t)
            ∧ (p.cut = .uncut →
                ∃ t, exec (.partCut tag (.fields ⟨h, i⟩)) s = .next t
                  ∧ t.part? g = some { p with cut := .cut }
                  ∧ (∀ x, x ≠ g → t.part? x = s.part? x)
                  ∧ t.job? h = some { j with resume := resumePoint t j.parts }
                  ∧ (∀ x, x ≠ h → t.job? x = s.job? x)
                  ∧ t.flags = (if p.mark = .planned ∨ p.mark = .failed then s.flags ||| Alarm.unmarkedCut.bit
                      else s.flags)
                  ∧ Immediate s t a st tag .done [.num 1 (resumePoint t j.parts)]
                  ∧ OnlyChanges (lineFields ++ [.parts, .jobs, .flags]) s t)

/-- A job end, by End Job or by Abort Job of a pierced job (R25, R36, R37, R86 to R92): the UNCUT parts of an outcome
other than PASS become SCRAPPED; at most one remnant is created on the bed, in the lowest plate entry that is FREE or
RETIRED, with the entry's generation (R2, R3); the plate is retired as CONSUMED and the skeleton mark set; the verdicts
shift; the clear batch is committed with the skeleton mass, the net areas of the CUT parts taken off; an ACTIVE job's
window is emptied, its parts FAILED; the job is ENDED with no role, and a STAGED job of the other bed is promoted with
its own record, the QUEUED legs of its fetch batch raised to priority 2; where none is promoted the gantry bed stays;
no other unfinished leg is touched; the images are queued in order and awaited. That End Job carries 0 for PASS and 1
for FAIL is log 16. -/
def Obligations.JobEnds : Prop :=
  ∀ (s : State) (a : Nat) (st : Station) (tag : Byte) (c : Instr) (row : Req) (v : Verdict) (h : Handle)
    (j : Job) (r : PlateRec) (tbl bd : Nat) (left : List Panel) (sum : Nat),
    (c = .endJob tag (.fields ⟨h, 0⟩) ∧ row = reqEndJob ∧ v = .pass)
      ∨ (c = .endJob tag (.fields ⟨h, 1⟩) ∧ row = reqEndJob ∧ v = .fail)
      ∨ (c = .abortJob tag (.fields h) ∧ row = reqAbortJob ∧ v = .aborted) →
    Asks row s a st → s.pfw = false → s.job? h = some j → tbl = h.idx / 2 → bd = h.idx % 2 →
    (row = reqEndJob → tbl = st.unit.getD 0) → j.state = .burning ∨ j.state = .paused →
    (v = .pass → ∀ g ∈ j.parts, ∃ p, s.part? g = some p ∧ p.cut = .cut) →
    2 ≤ s.freeLegs → s.hasFreeBatch = true →
    s.plate? j.plate = some r → r.st.disposition = .stock → r.st.location = .bed tbl bd →
    left = derivedPanels (r.st.panels.getD []) j.panel (envExtent j.orientation j.envLength j.envWidth)
      (s.grade r.ident.grade) →
    sum = (left.map fun p => p.length * p.width).sum →
    let gone : Nat := (j.parts.map fun g => (s.part? g).elim 0 fun p => if p.cut = .cut then p.area else 0).sum
    ∃ (t : State) (remnant : Option Handle) (hb : Handle) (b : Batch) (skeleton resume : Nat)
      (images : List ImageId),
      exec c s = .next t
      ∧ (remnant = none ↔ left = [] ∨ 4 ≤ r.ident.depth ∨ s.canCreatePlate = false)
      ∧ (∀ g, remnant = some g → t.seqCounter = s.seqCounter + 1 ∧ t.plate? g = some
          { ident := { r.ident with
              origin := .derived, parent := some j.plate, depth := r.ident.depth + 1, seq := s.seqCounter }
            st :=
              { disposition := .stock, location := .bed tbl bd, panels := some left, area := some sum
                held := r.st.held, massDoubt := r.st.massDoubt, doubtful := false }
            job := none, leg := none
            mass := some (massOf sum r.ident.thickness (s.density r.ident.grade)) })
      ∧ (remnant = none → t.seqCounter = s.seqCounter)
      ∧ TakesLowest s.plates PlateFree remnant.toList
      ∧ t.plate? j.plate = some { r with
          st := { r.st with disposition := .retired .consumed, location := .nowhere }
          job := none, leg := none, mass := none }
      ∧ (∀ g q, g ≠ j.plate → s.plate? g = some q → q.st.disposition = .stock → t.plate? g = some q)
      ∧ (t.bed tbl bd).skeleton = true
      ∧ (t.bed tbl bd).plates = ((s.bed tbl bd).plates ++ remnant.toList).erase j.plate
      ∧ skeleton = massOf ((r.st.area.getD 0 : Int) - (if remnant = none then 0 else sum)
          - gone).toNat r.ident.thickness (s.density r.ident.grade)
      ∧ (t.tableSeq tbl).verdictN = some ⟨v, j.nest⟩ ∧ (t.tableSeq tbl).verdictN1 = (s.tableSeq tbl).verdictN
      ∧ t.job? h = some { j with
          state := .ended, verdict := some v, role := none, clearBatch := some hb, resume := resume }
      ∧ (v = .pass → resume = j.resume)
      ∧ (v ≠ .pass → (∀ g ∈ j.parts, ∀ p, s.part? g = some p → p.job = h) →
          (∃ g ∈ j.parts, ∃ p, s.part? g = some p ∧ p.cut = .uncut) → resume = j.parts.length)
      ∧ (∀ g, g ≠ h → (∀ oh oj, j.role = some .active → s.bedJob tbl (1 - bd) = some (oh, oj) →
            oj.role = some .staged → g ≠ oh) →
          (∀ x ∈ j.parts, ∀ p, s.part? x = some p → p.job ≠ g) → t.job? g = s.job? g)
      ∧ t.batch? hb = some b ∧ b.origin = .job h ∧ b.state = .committed ∧ b.seq = some s.commitCounter
      ∧ b.legs.map (shapeOf t) =
          (remnant.toList.map fun g => some (.clearRemnant, tableBay tbl, some g, .choose, 2, .queued, hb, 0))
            ++ [some (.clearSkeleton, tableBay tbl, none, .scrapBin, 2, .queued, hb, remnant.toList.length)]
      ∧ TakesLowest s.batches BatchFree [hb] ∧ TakesLowest s.legs (LegFree s) b.legs
      ∧ (∀ g l, b.legs.getLast? = some g → t.leg? g = some l →
          l.sourceBed = some (tbl, bd) ∧ l.skeletonMass = some skeleton
            ∧ l.skeletonThickness = some r.ident.thickness)
      ∧ (∀ g p, s.part? g = some p → ∃ q, t.part? g = some q
          ∧ q.cut = (if v ≠ .pass ∧ g ∈ j.parts ∧ p.cut = .uncut then .scrapped else p.cut)
          ∧ q.mark = (if j.role = some .active ∧ g ∈ (s.window tbl).parts then .failed else p.mark)
          ∧ q = { p with cut := q.cut, mark := q.mark })
      ∧ (j.role = some .active → t.window tbl = ⟨[], none⟩)
      ∧ (j.role ≠ some .active → t.windows = s.windows ∧ t.flags = s.flags)
      ∧ (j.role = some .active → t.flags = s.flags |||
          (if (s.window tbl).parts.any (fun g => (s.part? g).any fun p => p.cut == .cut) then
            Alarm.unmarkedCut.bit else 0#12))
      ∧ (∀ oh oj, j.role = some .active → s.bedJob tbl (1 - bd) = some (oh, oj) → oj.role = some .staged →
          (t.tableSeq tbl).gantry = 1 - bd
            ∧ (∃ n, t.job? oh = some { oj with role := some .active, resume := n }
              ∧ ((∀ g ∈ j.parts, ∀ p, s.part? g = some p → p.job ≠ oh) → n = oj.resume))
            ∧ ∀ fb x g l, oj.fetchBatch = some fb → s.batch? fb = some x → x.state = .committed → g ∈ x.legs →
              s.leg? g = some l → l.state.unfinished = true →
              t.leg? g = some (if l.state = .queued then { l with priority := 2 } else l))
      ∧ (∀ g l, s.leg? g = some l → l.state.unfinished = true →
          (j.role = some .active → ∀ oh oj, s.bedJob tbl (1 - bd) = some (oh, oj) → oj.role = some .staged →
            g ∉ s.batchLegs oj.fetchBatch) → t.leg? g = some l)
      ∧ ((∀ oh oj, j.role = some .active → s.bedJob tbl (1 - bd) = some (oh, oj) → oj.role ≠ some .staged) →
          (t.tableSeq tbl).gantry = (s.tableSeq tbl).gantry)
      ∧ images = (remnant.toList.flatMap fun g => [.genWord g.idx, .identity g.idx, .state g.idx])
          ++ [.state j.plate.idx]
      ∧ t.queue = joining s.queue images
      ∧ Awaits row s t a st tag images .done
          (.choice (match v with
              | .pass => 0
              | .fail => 1
              | .aborted => 2)
            :: (match remnant with
              | none => [.choice 0]
              | some g => [.choice 1, .handle g]) ++ [.num 4 skeleton])
      ∧ OnlyChanges (lineFields ++ [.plates, .seqCounter, .slots, .beds, .cart, .queue, .parts, .jobs, .tables,
          .legs, .batches, .commitCounter, .windows, .flags]) s t

/-- An Abort Job taken for an unpierced job (R93, R94, R95, R120): the plate is released, the UNCUT parts are SCRAPPED,
an ACTIVE job's window is emptied, its parts FAILED, and UNMARKED_CUT is raised only for one that is CUT (R110); the
verdicts shift with ABORTED, the QUEUED and ASSIGNED legs of the fetch batch are CANCELLED, the batch settled and the
crane of an ASSIGNED leg freed (`FetchCancelled`), and the job is finished by where its plate is: held ENDED with an
OPEN return batch while a carrying leg is on a hook, ENDED with a committed one when the plate lies on the job's bed or
on the cart and is not DOUBTFUL, else CLEARED with its parts retired. A STAGED job of the other bed is promoted as at a
job end, and where none is the gantry bed stays (R89). The RETURN leg has priority 1, unless the promoted job's fetch
batch is named by the handle that the new batch took. It is complete at once, whatever PFW is. -/
def Obligations.AbortBeforeThePierce : Prop :=
  ∀ (s u : State) (a : Nat) (st : Station) (tag : Byte) (h : Handle) (j : Job) (tbl : Nat) (hook back : Bool),
    Asks reqAbortJob s a st → u = s.heard a → s.job? h = some j → j.state = .admitted ∨ j.state = .loaded →
    tbl = h.idx / 2 →
    hook = (s.batchLegs j.fetchBatch).any (fun g => (s.leg? g).any fun l =>
      (l.kind == .fetch || l.kind == .transferOut) && (l.state == .lifted || l.state == .check)) →
    back = (s.plate? j.plate).any (fun r =>
      (r.st.location == .bed tbl (h.idx % 2) || r.st.location == .cart) && !r.st.doubtful) →
    (hook = true ∨ back = true → 1 ≤ s.freeLegs ∧ s.hasFreeBatch = true) →
    ∃ t, exec (.abortJob tag (.fields h)) s = .next t
      ∧ (∀ r, s.plate? j.plate = some r → ∃ q, t.plate? j.plate = some q
          ∧ q.st = r.st ∧ q.job = (if r.job = some h then none else r.job))
      ∧ (t.tableSeq tbl).verdictN = some ⟨.aborted, j.nest⟩
      ∧ (t.tableSeq tbl).verdictN1 = (s.tableSeq tbl).verdictN
      ∧ (j.role = some .active → t.window tbl = ⟨[], none⟩)
      ∧ (∀ g ∈ s.batchLegs j.fetchBatch, ∀ l m, s.leg? g = some l → l.state = .queued ∨ l.state = .assigned →
          t.leg? g = some m → m.state = .cancelled)
      ∧ (∀ fb x, j.fetchBatch = some fb → s.batch? fb = some x → x.state = .committed →
          (∀ g ∈ x.legs, ∀ l, s.leg? g = some l → l.batch = fb) → FetchCancelled s u t fb x)
      ∧ ((∀ g ∈ s.batchLegs j.fetchBatch, ∀ l, s.leg? g = some l → j.fetchBatch = some l.batch) →
          ∀ g l, s.leg? g = some l → l.state.unfinished = true → g ∉ s.batchLegs j.fetchBatch →
          (∀ oh oj, j.role = some .active → s.bedJob tbl (1 - h.idx % 2) = some (oh, oj) →
            oj.role = some .staged → g ∉ s.batchLegs oj.fetchBatch) → t.leg? g = some l)
      ∧ (hook = false → back = false →
          ∃ n, t.job? h = some { j with
            state := .cleared, role := none, verdict := some .aborted, resume := n })
      ∧ (∀ g p, s.part? g = some p →
          let after : Part := { p with
            cut := if g ∈ j.parts ∧ p.cut = .uncut then .scrapped else p.cut
            mark := if j.role = some .active ∧ g ∈ (s.window tbl).parts then .failed else p.mark }
          t.part? g = if (hook = false ∧ back = false) ∧ g ∈ j.parts ∧ p.cut ≠ .cut then none else some after)
      ∧ t.flags = s.flags |||
          (if j.role = some .active ∧ (s.window tbl).parts.any (fun g => (s.part? g).any fun p => p.cut == .cut) then
            Alarm.unmarkedCut.bit else 0#12)
      ∧ (hook = true ∨ back = true →
          ∃ n hb b g priority, t.job? h = some { j with
              state := .ended, role := none, verdict := some .aborted, clearBatch := some hb, resume := n }
            ∧ t.batch? hb = some b ∧ b.origin = .job h ∧ b.legs = [g]
            ∧ (hook = true → b.state = .opened)
            ∧ (hook = false → b.state = .committed ∧ b.seq = some s.commitCounter)
            ∧ shapeOf t g = some (.ret, tableBay tbl, some j.plate, .choose, priority, .queued, hb, 0)
            ∧ ((∀ oh oj, j.role = some .active → s.bedJob tbl (1 - h.idx % 2) = some (oh, oj) →
                oj.role = some .staged → g ∉ t.batchLegs oj.fetchBatch) → priority = 1))
      ∧ (∀ oh oj, j.role = some .active → s.bedJob tbl (1 - h.idx % 2) = some (oh, oj) →
          oj.role = some .staged →
          (t.tableSeq tbl).gantry = 1 - h.idx % 2
            ∧ (∃ n, t.job? oh = some { oj with role := some .active, resume := n }
              ∧ ((∀ g ∈ j.parts, ∀ p, s.part? g = some p → p.job ≠ oh) → n = oj.resume))
            ∧ ((∀ g ∈ s.batchLegs j.fetchBatch, ∀ l, s.leg? g = some l → j.fetchBatch = some l.batch) →
              oj.fetchBatch ≠ j.fetchBatch →
              ∀ fb x g l, oj.fetchBatch = some fb → s.batch? fb = some x → x.state = .committed → g ∈ x.legs →
                g ∉ s.batchLegs j.fetchBatch → s.leg? g = some l → l.state.unfinished = true →
                t.leg? g = some (if l.state = .queued then { l with priority := 2 } else l)))
      ∧ ((∀ oh oj, j.role = some .active → s.bedJob tbl (1 - h.idx % 2) = some (oh, oj) →
            oj.role ≠ some .staged) → (t.tableSeq tbl).gantry = (s.tableSeq tbl).gantry)
      ∧ AtOnce reqAbortJob s t a st tag .done []
      ∧ OnlyChanges (lineFields ++ [.slots, .cart, .plates, .cranes, .legs, .batches, .commitCounter, .jobs,
          .parts, .tables, .windows, .flags]) s t

/-- Clear Bed (R96, R95, R120). Its checks in order: the table and bed; a job ENDED whose clear or return batch is not
OPEN and has no leg left unfinished; a bed with no plate; every CUT part sorted. Taken: the skeleton mark is cleared,
the job becomes CLEARED, and the parts of its list that are SCRAPPED retire; no other part, and no other job, is
touched. -/
def Obligations.ClearBedClears : Prop :=
  ∀ (s : State) (a : Nat) (st : Station) (tag : Byte) (tbl bd : Nat), Asks reqClearBed s a st →
    let checks : List (Prop × AnsCode) :=
      [(tbl ≤ 7 ∧ bd ≤ 1, .badRequest),
        (∃ h j, s.bedJob tbl bd = some (h, j) ∧ j.state = .ended
          ∧ ∀ hb b, j.clearBatch = some hb → s.batch? hb = some b →
            b.state ≠ .opened ∧ (b.state = .committed → ∀ g ∈ b.legs, ∀ l, s.leg? g = some l →
              l.state ≠ .queued ∧ l.state ≠ .assigned ∧ l.state ≠ .lifted ∧ l.state ≠ .check), .wrongState),
        ((s.bed tbl bd).plates = [], .wrongState),
        (∀ h j, s.bedJob tbl bd = some (h, j) →
          ∀ g ∈ j.parts, ∀ p, s.part? g = some p → ¬(p.cut = .cut ∧ p.placement = .onBed), .wrongState)]
    RefusedInOrder (.clearBed tag (.fields ⟨tbl, bd⟩)) s a st tag checks
    ∧ ∀ h j, AllHold checks → s.bedJob tbl bd = some (h, j) →
      ∃ t, exec (.clearBed tag (.fields ⟨tbl, bd⟩)) s = .next t
        ∧ t.bed tbl bd = ⟨[], false⟩
        ∧ (∀ k, k ≠ 2 * tbl + bd → t.beds.get? k = s.beds.get? k)
        ∧ t.job? h = some { j with state := .cleared, role := none }
        ∧ (∀ g, g ≠ h → t.job? g = s.job? g)
        ∧ (∀ g p, s.part? g = some p →
            t.part? g = if g ∈ j.parts ∧ p.cut = .scrapped then none else some p)
        ∧ Immediate s t a st tag .done []
        ∧ OnlyChanges (lineFields ++ [.beds, .jobs, .parts]) s t

/-! ## Parts, marks and pallets (chapter 6) -/

/-- Next Mark (R105, R106): without an ACTIVE job in LOADED, BURNING or PAUSED, or without a PLANNED and UNCUT
part of it, NO_RESULT; a window of four parts is FULL; else the part of the lowest nest index becomes ISSUED and
joins the window at the tail, the last confirmation as it was, and the answer carries its handle, nest index,
mark triple, heat code, grade number and label, and thickness. -/
def Obligations.NextMarkIssues : Prop :=
  ∀ (s : State) (a : Nat) (st : Station) (tag : Byte) (u : Nat), Asks reqNextMark s a st →
    u = st.unit.getD 0 →
    let refused (code : AnsCode) : Prop :=
      ∃ t, exec (.nextMark tag (.fields ())) s = .next t ∧ Immediate s t a st tag code []
        ∧ OnlyChanges lineFields s t
    let marks (j : Job) : Prop :=
      ∃ h b, s.bedJob u b = some (h, j) ∧ b ≤ 1 ∧ j.role = some .active
        ∧ (j.state = .loaded ∨ j.state = .burning ∨ j.state = .paused)
    let next (p : Part) : Prop := p.mark = .planned ∧ p.cut = .uncut
    ((∀ j, ¬marks j) → refused .noResult)
    ∧ ∀ j, marks j → (∀ b h i, b ≤ 1 → s.bedJob u b = some (h, i) → i.role = some .active → i = j) →
        ((∀ g ∈ j.parts, ∀ p, s.part? g = some p → ¬next p) → refused .noResult)
        ∧ ∀ (i : Nat) (h : Handle) (p : Part), j.parts[i]? = some h → s.part? h = some p → next p →
            (∀ (k : Nat) (g : Handle) (q : Part), k < i → j.parts[k]? = some g → s.part? g = some q → ¬next q) →
            (4 ≤ (s.window u).parts.length → refused .full)
            ∧ ((s.window u).parts.length < 4 → u ≤ 7 →
              ∃ t, exec (.nextMark tag (.fields ())) s = .next t
                ∧ t.part? h = some { p with mark := .issued }
                ∧ (∀ g, g ≠ h → t.part? g = s.part? g)
                ∧ t.window u = { s.window u with parts := (s.window u).parts ++ [h] }
                ∧ (∀ k, k ≠ u → t.window k = s.window k)
                ∧ Immediate s t a st tag .done
                    [.handle h, .num 1 p.index, .text p.hull, .text p.block, .num 4 p.number, .text p.heat,
                      .num 1 p.grade, .text (s.grade p.grade).label, .num 2 p.thickness]
                ∧ OnlyChanges (lineFields ++ [.parts, .windows]) s t)

/-- Mark Made and Mark Failed (R107, R108, R109): NO_SUCH for a handle that names no part; the head of the window of
the station's table is confirmed, leaves the window, and becomes the last confirmation, and a part that is CUT and
FAILED raises UNMARKED_CUT; a repeat of the last confirmation is answered DONE and changes nothing, with an empty
payload (notes/assumptions/26.md); anything else is WRONG_STATE. Confirm Manual Mark (R111): NO_SUCH; WRONG_STATE for
a SCRAPPED part; a PLANNED or FAILED part becomes MARKED with manual set; a MARKED one is answered DONE with no
change; an ISSUED one is WRONG_STATE. -/
def Obligations.MarksConfirmed : Prop :=
  (∀ (s : State) (a : Nat) (st : Station) (tag : Byte) (h : Handle) (o : MarkOutcome) (c : Instr) (row : Req)
      (u : Nat),
      (c = .markMade tag (.fields h) ∧ row = reqMarkMade ∧ o = .made)
        ∨ (c = .markFailed tag (.fields h) ∧ row = reqMarkFailed ∧ o = .failed) →
      Asks row s a st → u = st.unit.getD 0 → u ≤ 7 →
      let refused (code : AnsCode) : Prop :=
        ∃ t, exec c s = .next t ∧ Immediate s t a st tag code [] ∧ OnlyChanges lineFields s t
      (s.part? h = none → refused .noSuch)
      ∧ ∀ p, s.part? h = some p →
          (∀ rest, (s.window u).parts = h :: rest →
            ∃ t, exec c s = .next t
              ∧ t.part? h = some { p with mark := if o = .made then .marked else .failed }
              ∧ (∀ g, g ≠ h → t.part? g = s.part? g)
              ∧ t.window u = ⟨rest, some ⟨h, o⟩⟩
              ∧ (∀ k, k ≠ u → t.window k = s.window k)
              ∧ t.flags = (if o = .failed ∧ p.cut = .cut then s.flags ||| Alarm.unmarkedCut.bit else s.flags)
              ∧ Immediate s t a st tag .done [.num 1 rest.length]
              ∧ OnlyChanges (lineFields ++ [.parts, .windows, .flags]) s t)
          ∧ ((s.window u).parts.head? ≠ some h → (s.window u).last = some ⟨h, o⟩ →
            ∃ t, exec c s = .next t ∧ Immediate s t a st tag .done [] ∧ OnlyChanges lineFields s t)
          ∧ ((s.window u).parts.head? ≠ some h → (s.window u).last ≠ some ⟨h, o⟩ → refused .wrongState))
    ∧ (∀ (s : State) (a : Nat) (st : Station) (tag : Byte) (h : Handle), Asks reqConfirmManualMark s a st →
      let refused (code : AnsCode) : Prop :=
        ∃ t, exec (.confirmManualMark tag (.fields h)) s = .next t ∧ Immediate s t a st tag code []
          ∧ OnlyChanges lineFields s t
      (s.part? h = none → refused .noSuch)
      ∧ ∀ p, s.part? h = some p →
          (p.cut = .scrapped → refused .wrongState)
          ∧ (p.cut ≠ .scrapped → p.mark = .issued → refused .wrongState)
          ∧ (p.cut ≠ .scrapped → p.mark = .marked →
              ∃ t, exec (.confirmManualMark tag (.fields h)) s = .next t
                ∧ Immediate s t a st tag .done [] ∧ OnlyChanges lineFields s t)
          ∧ (p.cut ≠ .scrapped → p.mark = .planned ∨ p.mark = .failed →
              ∃ t, exec (.confirmManualMark tag (.fields h)) s = .next t
                ∧ t.part? h = some { p with mark := .marked, manual := true }
                ∧ (∀ g, g ≠ h → t.part? g = s.part? g)
                ∧ Immediate s t a st tag .done [] ∧ OnlyChanges (lineFields ++ [.parts]) s t))

/-- Scrap Part (R112, R113): NO_SUCH; a SCRAPPED part is answered DONE with no change; else the part becomes
SCRAPPED, takes placement NONE and leaves its pallet, the parts behind it moving up; its job's resume point is
recomputed; and it retires at once when its job is CLEARED or names no record. -/
def Obligations.ScrapPartScraps : Prop :=
  ∀ (s : State) (a : Nat) (st : Station) (tag : Byte) (h : Handle), Asks reqScrapPart s a st →
    (s.part? h = none →
      ∃ t, exec (.scrapPart tag (.fields h)) s = .next t ∧ Immediate s t a st tag .noSuch []
        ∧ OnlyChanges lineFields s t)
    ∧ ∀ p, s.part? h = some p →
        (p.cut = .scrapped →
          ∃ t, exec (.scrapPart tag (.fields h)) s = .next t ∧ Immediate s t a st tag .done []
            ∧ OnlyChanges lineFields s t)
        ∧ (p.cut ≠ .scrapped →
          ∃ t, exec (.scrapPart tag (.fields h)) s = .next t
            ∧ (∀ gone : Bool, gone = (match s.job? p.job with
                | some j => j.state == .cleared
                | none => true) →
              t.part? h = if gone then none else some { p with cut := .scrapped, placement := .nowhere })
            ∧ (∀ g, g ≠ h → t.part? g = s.part? g)
            ∧ (∀ n, n ≤ 15 → t.pallet n = if p.placement = .pallet n then (s.pallet n).erase h else s.pallet n)
            ∧ (∀ j, s.job? p.job = some j → t.job? p.job = some { j with resume := resumePoint t j.parts })
            ∧ (∀ g, g ≠ p.job → t.job? g = s.job? g)
            ∧ Immediate s t a st tag .done []
            ∧ OnlyChanges (lineFields ++ [.parts, .pallets, .jobs]) s t)

/-- Sort Part (R116, R117): its checks in order, and a part that passes joins the pallet at the tail with
placement PALLET, whatever its mark state; the answer carries the number of parts on the pallet. -/
def Obligations.SortPartSorts : Prop :=
  ∀ (s : State) (a : Nat) (st : Station) (tag : Byte) (h : Handle) (n : Nat), Asks reqSortPart s a st →
    let refused (code : AnsCode) : Prop :=
      ∃ t, exec (.sortPart tag (.fields ⟨h, n⟩)) s = .next t ∧ Immediate s t a st tag code []
        ∧ OnlyChanges lineFields s t
    let ended (p : Part) : Prop := ∃ j, s.job? p.job = some j ∧ j.state = .ended
    (15 < n → refused .badRequest)
    ∧ (n ≤ 15 → s.part? h = none → refused .noSuch)
    ∧ ∀ p, n ≤ 15 → s.part? h = some p →
        (¬(p.cut = .cut ∧ p.placement = .onBed) → refused .wrongState)
        ∧ (p.cut = .cut → p.placement = .onBed → ¬ended p → refused .wrongState)
        ∧ (p.cut = .cut → p.placement = .onBed → ended p → 200 ≤ (s.pallet n).length → refused .full)
        ∧ (p.cut = .cut → p.placement = .onBed → ended p → (s.pallet n).length < 200 →
          ∃ t, exec (.sortPart tag (.fields ⟨h, n⟩)) s = .next t
            ∧ t.part? h = some { p with placement := .pallet n }
            ∧ (∀ g, g ≠ h → t.part? g = s.part? g)
            ∧ t.pallet n = s.pallet n ++ [h]
            ∧ (∀ m, m ≠ n → t.pallet m = s.pallet m)
            ∧ Immediate s t a st tag .done [.num 1 ((s.pallet n).length + 1)]
            ∧ OnlyChanges (lineFields ++ [.parts, .pallets]) s t)

/-- Dispatch Pallet (R118, R119): a pallet number above 15 is BAD_REQUEST; while some part on the pallet is not
MARKED the answer is WRONG_STATE with their number and the first eight of them, and the pallet is left; else
every part on it retires and the list is empty, and the answer carries their number. No job is touched. -/
def Obligations.DispatchPalletRetires : Prop :=
  ∀ (s : State) (a : Nat) (st : Station) (tag : Byte) (n : Nat) (unmarked : List Handle),
    Asks reqDispatchPallet s a st →
    unmarked = (s.pallet n).filter (fun g => (s.part? g).any fun p => p.mark != .marked) →
    (15 < n →
      ∃ t, exec (.dispatchPallet tag (.fields n)) s = .next t ∧ Immediate s t a st tag .badRequest []
        ∧ OnlyChanges lineFields s t)
    ∧ (n ≤ 15 → unmarked ≠ [] →
      ∃ t, exec (.dispatchPallet tag (.fields n)) s = .next t
        ∧ Immediate s t a st tag .wrongState
            (.num 1 unmarked.length :: .num 1 (min 8 unmarked.length)
              :: (unmarked.take 8).map fun g => Token.handle g)
        ∧ OnlyChanges lineFields s t)
    ∧ (n ≤ 15 → unmarked = [] →
      ∃ t, exec (.dispatchPallet tag (.fields n)) s = .next t
        ∧ t.pallet n = [] ∧ (∀ m, m ≠ n → t.pallet m = s.pallet m)
        ∧ (∀ g ∈ s.pallet n, t.part? g = none)
        ∧ (∀ g ∈ s.pallet n, ∀ p, s.part? g = some p →
            t.parts.get? g.idx = some ⟨(g.gen + 1) % 64, none⟩)
        ∧ (∀ g p, g ∉ s.pallet n → s.part? g = some p → t.part? g = some p)
        ∧ Immediate s t a st tag .done [.num 1 (s.pallet n).length]
        ∧ OnlyChanges (lineFields ++ [.parts, .pallets]) s t)

/-! ## Legs and batches (chapter 7) -/

/-- Open Batch (R125, R127): an OPEN batch of the station is discarded first, its legs and its record FREE with
their generations advanced; then the lowest batch entry that is FREE or settled takes a new OPEN batch of the
station with no legs, or the answer is FULL. Every other batch that is OPEN or COMMITTED stays, whoever it is of, and
every leg of it. It is served whatever PFW is. -/
def Obligations.OpenBatchOpens : Prop :=
  ∀ (s : State) (a : Nat) (st : Station) (tag : Byte), Asks reqOpenBatch s a st →
    let settled (e : Entry Batch) : Prop :=
      ∀ b, e.record = some b → b.state ≠ .opened ∧ b.state ≠ .committed
    let mine (b : Batch) : Prop := b.state = .opened ∧ b.origin = .station a
    ((∀ hb b, s.batch? hb = some b → ¬mine b) →
      (∀ i e, s.batches.get? i = some e → settled e →
        (∀ k < i, ∀ d, s.batches.get? k = some d → ¬settled d) →
        ∃ t g, exec (.openBatch tag (.fields ())) s = .next t
          ∧ g = (if e.record = none then e.gen else (e.gen + 1) % 64)
          ∧ t.batches.get? i = some ⟨g, some ⟨.station a, [], .opened, none⟩⟩
          ∧ (∀ k, k ≠ i → t.batches.get? k = s.batches.get? k)
          ∧ Immediate s t a st tag .done [.handle ⟨i, g⟩]
          ∧ OnlyChanges (lineFields ++ [.batches]) s t)
      ∧ ((∀ i e, s.batches.get? i = some e → ¬settled e) →
        ∃ t, exec (.openBatch tag (.fields ())) s = .next t
          ∧ Immediate s t a st tag .full [] ∧ OnlyChanges lineFields s t))
    ∧ ∀ hb b, s.batch? hb = some b → mine b → (∀ hc d, s.batch? hc = some d → mine d → hc = hb) →
        ∃ t hn, exec (.openBatch tag (.fields ())) s = .next t
          ∧ t.batch? hn = some ⟨.station a, [], .opened, none⟩
          ∧ t.batch? hb = none
          ∧ (∃ e, s.batches.get? hn.idx = some e ∧ (hn.idx = hb.idx ∨ settled e)
            ∧ hn.gen = (if hn.idx ≠ hb.idx ∧ e.record = none then e.gen else (e.gen + 1) % 64))
          ∧ (∀ k < hn.idx, k ≠ hb.idx ∧ ∀ e, s.batches.get? k = some e → ¬settled e)
          ∧ (hn.idx ≠ hb.idx → t.batches.get? hb.idx = some ⟨(hb.gen + 1) % 64, none⟩)
          ∧ (∀ g ∈ b.legs, t.leg? g = none)
          ∧ (∀ g ∈ b.legs, ∀ l, s.leg? g = some l → t.legs.get? g.idx = some ⟨(g.gen + 1) % 64, none⟩)
          ∧ (∀ g l, g ∉ b.legs → s.leg? g = some l → t.leg? g = some l)
          ∧ (∀ hc d, hc ≠ hb → s.batch? hc = some d → d.state = .opened ∨ d.state = .committed →
              t.batch? hc = some d)
          ∧ (∀ k, k ≠ hb.idx → k ≠ hn.idx → t.batches.get? k = s.batches.get? k)
          ∧ Immediate s t a st tag .done [.handle hn]
          ∧ OnlyChanges (lineFields ++ [.legs, .batches]) s t

/-- Add Leg (R128). Its checks in order: the bay, destination and priority; an OPEN batch of the station; the plate
found; STOCK, of no job and named by no unfinished leg; fewer than 8 legs and a free leg (the forms of place that are
BAD_REQUEST: notes/assumptions/40.md). Taken: a QUEUED MANUAL leg at the tail of the station's OPEN batch, with the
plate, target bay, destination and priority given, skip count 0 and STARVING clear; the answer carries its handle and
the batch's leg count. The leg takes the lowest free entry of the pool, FREE or holding a settled leg whose batch is
neither OPEN nor COMMITTED, and the generation rises where it held one (R125). No plate is touched, and PFW plays no
part. That an OPEN batch's leg holds the target bay in its bay field is notes/assumptions/14.md. -/
def Obligations.AddLegAppends : Prop :=
  ∀ (s : State) (a : Nat) (st : Station) (tag : Byte) (f : AddLegF), Asks reqAddLeg s a st →
    let batchOk (p : Batch → Prop) : Prop := ∀ hb b, s.openBatchOf a = some hb → s.batch? hb = some b → p b
    let checks : List (Prop × AnsCode) :=
      [(f.bay ≤ 1 ∧ (f.destination = .choose ∨ ∃ k, f.destination = .slot k ∧ k ≤ 95) ∧ f.priority ≤ 3, .badRequest),
        (∃ hb b, s.openBatchOf a = some hb ∧ s.batch? hb = some b, .wrongState),
        (∃ r, s.plate? f.plate = some r, .noSuch),
        ((∀ r, s.plate? f.plate = some r → r.st.disposition = .stock ∧ r.job = none)
          ∧ ∀ g l, s.leg? g = some l → l.state.unfinished = true → l.plate ≠ some f.plate, .wrongState),
        (batchOk (fun b => b.legs.length < 8) ∧ 1 ≤ s.freeLegs, .full)]
    let free (e : Entry Leg) : Prop :=
      ∀ x, e.record = some x → x.state.unfinished = false
        ∧ ∀ y, s.batch? x.batch = some y → y.state ≠ .opened ∧ y.state ≠ .committed
    RefusedInOrder (.addLeg tag (.fields f)) s a st tag checks
    ∧ ∀ (bay : Bay) (hb : Handle) (b : Batch), AllHold checks → (f.bay = 0 ∧ bay = .a) ∨ (f.bay = 1 ∧ bay = .b) →
      s.openBatchOf a = some hb → s.batch? hb = some b →
      ∃ t lh, exec (.addLeg tag (.fields f)) s = .next t
        ∧ t.leg? lh = some
            { bay := bay, kind := .manual, batch := hb, position := b.legs.length, plate := some f.plate
              sourceBed := none, skeletonMass := none, skeletonThickness := none
              destination := f.destination, priority := f.priority, skips := 0, starving := false
              state := .queued, holdUp := none, crane := none, source := none, target := none
              expected := none, checkLoad := none, ending := false }
        ∧ (∀ g, g.idx ≠ lh.idx → t.leg? g = s.leg? g)
        ∧ (∃ e, s.legs.get? lh.idx = some e ∧ free e
            ∧ lh.gen = (if e.record = none then e.gen else (e.gen + 1) % 64))
        ∧ (∀ k < lh.idx, ∀ e, s.legs.get? k = some e → ¬free e)
        ∧ t.batch? hb = some { b with legs := b.legs ++ [lh] }
        ∧ (∀ g, g ≠ hb → t.batch? g = s.batch? g)
        ∧ Immediate s t a st tag .done [.handle lh, .num 1 (b.legs.length + 1)]
        ∧ OnlyChanges (lineFields ++ [.legs, .batches]) s t

/-- Commit Batch (R129, R130). Without an OPEN batch that holds a leg, WRONG_STATE. Else its checks, each made of every
leg before the next (notes/assumptions/31.md), and the answer of a failing one carries the position of the first leg
that fails it (counted from 0, notes/assumptions/41.md): the plate found; STOCK in a slot, on a bed or on the cart; not
DOUBTFUL; a destination slot of the target bay and not the plate's own; in each bay where it is lifted a crane that
bears it; last, 14 legs and the free legs that the expansion needs. Taken: the batch is COMMITTED with the next commit
sequence number; a leg whose plate lies in the other bay becomes a TRANSFER_OUT to the cart, followed directly by a
TRANSFER_IN with its destination; the others stay as they are; positions follow the list. That a leg's bay field is the
target bay until then is notes/assumptions/14.md. -/
def Obligations.CommitBatchCommits : Prop :=
  ∀ (s : State) (a : Nat) (st : Station) (tag : Byte), Asks reqCommitBatch s a st →
    let answers (code : AnsCode) (fields : List Token) : Prop :=
      ∃ t, exec (.commitBatch tag (.fields ())) s = .next t ∧ Immediate s t a st tag code fields
        ∧ OnlyChanges lineFields s t
    let carries (l : Leg) (r : PlateRec) : Prop := ∃ p, l.plate = some p ∧ s.plate? p = some r
    let liesIn (r : PlateRec) (bay : Bay) : Prop :=
      match r.st.location with
      | .slot k _ => (s.slotCfg k).bay = bay
      | .bed t _ => tableBay t = bay
      | _ => False
    let checks : List (Leg → AnsCode → Prop) :=
      [fun l code => ((∀ r, ¬carries l r) ∧ code = .noSuch)
          ∨ ∃ r, carries l r ∧ code = .wrongState ∧ (r.st.disposition ≠ .stock ∨ match r.st.location with
            | .hook _ => True
            | .nowhere => True
            | _ => False),
        fun l code => code = .blocked ∧ ∃ r, carries l r ∧ r.st.doubtful = true,
        fun l code => code = .badRequest ∧ ∃ r k, carries l r ∧ l.destination = .slot k
          ∧ ((s.slotCfg k).bay ≠ l.bay ∨ r.st.location.place = .slot k),
        fun l code => code = .overload ∧ ∃ r bay, carries l r ∧ (bay = l.bay ∨ liesIn r bay)
          ∧ ∀ c ≤ 5, (s.craneCfg c).runway = bay → (s.craneCfg c).swl < (s.craneCfg c).tare + r.mass.getD 0]
    (s.openBatchOf a = none → answers .wrongState [])
    ∧ ∀ (hb : Handle) (b : Batch) (legs : List Leg) (extra : Nat),
      s.openBatchOf a = some hb → s.batch? hb = some b → legs = b.legs.filterMap s.leg? →
      extra = legs.countP (fun l => (s.crossBay l).isSome) →
      (∀ l bay, s.crossBay l = some bay ↔ bay ≠ l.bay ∧ ∃ r, carries l r ∧ liesIn r bay)
      ∧ (legs = [] → answers .wrongState [])
      ∧ (∀ earlier check later front l rest code, checks = earlier ++ check :: later → legs = front ++ l :: rest →
        (∀ c ∈ earlier, ∀ x ∈ legs, ∀ e, ¬c x e) → (∀ x ∈ front, ∀ e, ¬check x e) → check l code →
        answers code [.num 1 l.position])
      ∧ (legs ≠ [] → (∀ c ∈ checks, ∀ x ∈ legs, ∀ e, ¬c x e) → 14 < legs.length + extra ∨ s.freeLegs < extra →
        answers .full [])
      ∧ (legs ≠ [] → (∀ c ∈ checks, ∀ x ∈ legs, ∀ e, ¬c x e) → legs.length + extra ≤ 14 → extra ≤ s.freeLegs →
        b.legs.Nodup → (∀ g ∈ b.legs, ∃ l, s.leg? g = some l ∧ l.batch = hb ∧ l.state = .queued) →
        ∃ (t : State) (list : List Handle), exec (.commitBatch tag (.fields ())) s = .next t
          ∧ t.batch? hb = some { b with legs := list, state := .committed, seq := some s.commitCounter }
          ∧ t.commitCounter = min (s.commitCounter + 1) 4294967295
          ∧ (∀ g, g ≠ hb → t.batch? g = s.batch? g)
          ∧ list.length = b.legs.length + extra ∧ list.Nodup
          ∧ list.filter (fun g => b.legs.contains g) = b.legs
          ∧ (∀ (i : Nat) (g : Handle) (l : Leg), list[i]? = some g → g ∈ b.legs → s.leg? g = some l →
              (s.crossBay l = none → t.leg? g = some { l with position := i })
              ∧ ∀ bay, s.crossBay l = some bay →
                  t.leg? g = some { l with kind := .transferOut, bay := bay, destination := .cart, position := i }
                  ∧ ∃ n, list[i + 1]? = some n ∧ n ∉ b.legs
                      ∧ shapeOf t n = some
                          (.transferIn, l.bay, l.plate, l.destination, l.priority, .queued, hb, i + 1))
          ∧ (∀ g l, g ∉ b.legs → s.leg? g = some l → l.state.unfinished = true → t.leg? g = some l)
          ∧ Immediate s t a st tag .done
              (.num 1 list.length :: list.flatMap fun g =>
                [.handle g, .choice ((t.leg? g).elim 0 fun l => l.kind.num)])
          ∧ OnlyChanges (lineFields ++ [.legs, .batches, .commitCounter]) s t)

/-- Room and destinations. The stack mass and the incoming mass (R43, R44); a slot has room (R45) for a plate of a
mass, or for a DOUBTFUL one, whose mass is not counted; the runway position of a place (R52). The destination choice
(R53): the first group of the leg's kind and its plate's origin with a slot of the bay that has room and is not the
source; in it the least runway distance from the source, the lower number among equals; none where no group has one.
And test 1 of R135: the place that a leg would go to, chosen or fixed, where it can. -/
def Obligations.RoomAndDestinationChosen : Prop :=
  ∀ s : State,
    let weighs (h : Handle) : Nat := ((s.plate? h).bind fun r => r.mass).getD 0
    let sound (h : Handle) : Bool := (s.plate? h).any fun r => !r.st.doubtful
    let carried (g : Handle) : Option Handle := (s.leg? g).bind fun l => l.plate
    (∀ k, s.stackMass k = (((s.slot k).stack.filter sound).map weighs).sum)
    ∧ (∀ k, s.incomingMass k = (((s.slot k).incoming.filterMap carried).map weighs).sum)
    ∧ (∀ k mass, s.hasRoom k mass = true ↔
        (s.slot k).stack.length + (s.slot k).incoming.length < (s.slotCfg k).capacity
          ∧ (∀ m, mass = some m → s.stackMass k + s.incomingMass k + m ≤ (s.slotCfg k).limit)
          ∧ (s.slot k).overCap = false)
    ∧ (∀ bay, (∀ k, s.placePos bay (.slot k) = (s.slotCfg k).position)
        ∧ (∀ t e, s.hall.tables.get? t = some e →
            s.placePos bay (.bed t 0) = e.bed0 ∧ s.placePos bay (.bed t 1) = e.bed1)
        ∧ s.placePos bay .cart = (if bay = .a then s.hall.cart.onA else s.hall.cart.onB)
        ∧ s.placePos bay .scrapBin = (if bay = .a then s.hall.bins.onA else s.hall.bins.onB))
    ∧ ∀ (l : Leg),
        ((∀ p, l.plate = some p → s.plate? p = none) → s.choiceFor l = none)
        ∧ (l.destination = .scrapBin → s.destinationFor l = some .scrapBin)
        ∧ (∀ t d, l.destination = .bed t d → s.destinationFor l =
            if (s.bed t d).plates = [] ∧ (s.bed t d).skeleton = false then some (.bed t d) else none)
        ∧ (l.destination = .cart → s.destinationFor l =
            if s.cart.plates = [] ∧ s.cart.incoming = [] then some .cart else none)
        ∧ (l.destination = .choose → s.destinationFor l = s.choiceFor l)
        ∧ ∀ (p : Handle) (r : PlateRec) (mass : Option Nat) (groups : List (List Purpose)),
          l.plate = some p → s.plate? p = some r → l.sourceBed = none →
          mass = (if r.st.doubtful then none else some (r.mass.getD 0)) →
          groups = (match l.kind, r.ident.origin with
            | .clearRemnant, _ => [[.remnant], [.stock]]
            | .transferIn, _ => [[.remnant], [.stock]]
            | .dig, _ => [[.stock, .remnant]]
            | .ret, .derived => [[.remnant], [.stock]]
            | .manual, .derived => [[.remnant], [.stock]]
            | .ret, .mill => [[.stock], [.remnant]]
            | .manual, .mill => [[.stock], [.remnant]]
            | _, _ => []) →
          let candidate (group : List Purpose) (k : Nat) : Prop :=
            k ≤ 95 ∧ (s.slotCfg k).bay = l.bay ∧ (s.slotCfg k).purpose ∈ group ∧ r.st.location.place ≠ .slot k
              ∧ s.hasRoom k mass = true
          let far (k : Nat) : Nat :=
            ((s.placePos l.bay r.st.location.place : Int) - (s.slotCfg k).position).natAbs
          (∀ k, l.destination = .slot k → s.destinationFor l =
              if s.hasRoom k mass = true then some (.slot k) else none)
            ∧ ((∀ g ∈ groups, ∀ k, ¬candidate g k) → s.choiceFor l = none)
            ∧ ∀ front g rest k, groups = front ++ g :: rest → (∀ e ∈ front, ∀ j, ¬candidate e j) → candidate g k →
                (∀ j, candidate g j → far k < far j ∨ (far k = far j ∧ k ≤ j)) → s.choiceFor l = some (.slot k)

/-- The walk of Next Leg. Which legs it takes (R132): of each COMMITTED batch the first unfinished leg, where it is of
the bay and eligible: QUEUED, its plate not DOUBTFUL and within the bay's reach, for a TRANSFER_OUT the cart empty at
the bay's side, for a CLEAR_SKELETON the mark set and its job sorted. In which order (R134): STARVING before the
others, the higher priority, the lower commit sequence, the lower batch entry, the lower position; for priorities in
their range. And the needed spans of its STARVING legs, in that order (R159, R53): between the source and the
destination, or at the source alone where no slot is chosen. -/
def Obligations.WalkTakesEligibleLegs : Prop :=
  ∀ (s : State),
    let reach (r : PlateRec) (bay : Bay) : Prop :=
      match r.st.location with
      | .slot k _ => (s.slotCfg k).bay = bay
      | .bed t _ => tableBay t = bay
      | .cart => s.cart.side = some bay
      | _ => False
    let eligible (l : Leg) : Prop :=
      l.state = .queued
        ∧ (∀ p, l.plate = some p → ∃ r, s.plate? p = some r ∧ r.st.doubtful = false ∧ reach r l.bay)
        ∧ (l.kind = .transferOut → s.cart.plates = [] ∧ s.cart.incoming = [] ∧ s.cart.side = some l.bay)
        ∧ (l.kind = .clearSkeleton → ∃ t d b jh j, l.sourceBed = some (t, d) ∧ (s.bed t d).skeleton = true
          ∧ s.batch? l.batch = some b ∧ b.origin = .job jh ∧ s.job? jh = some j
          ∧ ∀ g ∈ j.parts, ∀ p, s.part? g = some p → ¬(p.cut = .cut ∧ p.placement = .onBed))
    let sequence (l : Leg) : Nat := ((s.batch? l.batch).bind fun b => b.seq).getD 0
    let source (l : Leg) : Place :=
      match l.sourceBed, l.plate.bind s.plate? with
      | some e, _ => .bed e.1 e.2
      | none, some r => r.st.location.place
      | none, none => .nowhere
    let span (l : Leg) : Nat × Nat :=
      let start := s.placePos l.bay (source l)
      match if l.destination = .choose then s.choiceFor l else some l.destination with
      | some p => (min start (s.placePos l.bay p), max start (s.placePos l.bay p))
      | none => (start, start)
    (∀ l, s.eligible l = true ↔ eligible l)
    ∧ ∀ bay,
      (∀ h l, (h, l) ∈ s.walk bay ↔ ∃ hb b front rest, s.batch? hb = some b ∧ b.state = .committed
        ∧ b.legs = front ++ h :: rest ∧ (∀ g ∈ front, ∀ y, s.leg? g = some y → y.state.unfinished = false)
        ∧ s.leg? h = some l ∧ l.bay = bay ∧ eligible l)
      ∧ ((∀ e ∈ s.walk bay, e.2.priority ≤ 3) → (s.walk bay).Pairwise fun x y =>
          (x.2.starving = true ∧ y.2.starving = false)
            ∨ (x.2.starving = y.2.starving ∧ (y.2.priority < x.2.priority
              ∨ (x.2.priority = y.2.priority ∧ (sequence x.2 < sequence y.2
                ∨ (sequence x.2 = sequence y.2 ∧ (x.2.batch.idx < y.2.batch.idx
                  ∨ (x.2.batch.idx = y.2.batch.idx ∧ x.2.position ≤ y.2.position))))))))
      ∧ s.spans bay = ((s.walk bay).filter (·.2.starving)).map fun e => (e.1, span e.2)

/-- Next Leg by the state of the crane (R134), and the assignment of the first leg of the walk (R135, R24, R44, R154):
OFFLINE, STOPPED, or with a crane of the runway not placed, NO_WORK; ASSIGNED, its leg again; LOADED and CHECK,
WRONG_STATE with its leg. An IDLE crane whose walk begins with a leg under no plate, which passes the five tests, is
assigned it in one action; where the walk holds one leg that fails, the leg shows why, and the first three tests raise
no skip count (R136). The walk as a whole is `Walked`: dig expansion, the tests, the skip counts and STARVING, and the
first leg that passes (R133 to R136). Where none passes, the answer is PARK for a crane that stands in the span of a
STARVING leg and can be given a position clear of it, else NO_WORK (R137, R160). That a leg which is no longer eligible
when its turn comes is left, and that a dug leg is tried once, are notes/assumptions/27.md; the whole leg table of a
batch stopped by TOO_DEEP rests on notes/assumptions/12.md. First the source of a leg, the mass and thickness it lifts
(R38, R135), and the plates above its own; what `walk`, `spans`, `destinationFor`, `hasRoom` and `placePos` give stands
in Obligations.WalkTakesEligibleLegs and Obligations.RoomAndDestinationChosen. How the order's alternatives stand on
the wire is notes/assumptions/49.md; that each runway position stands right after its own place is
notes/assumptions/53.md, and that a repeat in ASSIGNED carries the positions as they are configured now is
notes/assumptions/52.md. `u` is the state with the asking station heard. -/
def Obligations.NextLegAssigns : Prop :=
  (∀ (v : State) (l : Leg),
    v.legSource l = (match l.sourceBed, l.plate.bind v.plate? with
        | some e, _ => .bed e.1 e.2
        | none, some r => r.st.location.place
        | none, none => .nowhere)
      ∧ (∀ p, l.plate = some p → v.liftMass l = ((v.plate? p).bind fun r => r.mass).getD 0)
      ∧ (l.plate = none → v.liftMass l = l.skeletonMass.getD 0)
      ∧ v.liftThickness l = (match l.plate.bind v.plate? with
        | some r => r.ident.thickness
        | none => l.skeletonThickness.getD 0)
      ∧ (∀ k p low high, l.plate = some p → v.legSource l = .slot k → (v.slot k).stack = low ++ p :: high →
        p ∉ low → v.above l = high)
      ∧ (l.plate = none ∨ (∀ k, v.legSource l ≠ .slot k) → v.above l = []))
  ∧ ∀ (s u : State) (a : Nat) (st : Station) (tag : Byte) (c : Nat), Asks reqNextLeg s a st →
    c = st.unit.getD 0 → c ≤ 5 → u = s.heard a →
    let gives (code : AnsCode) (fields : List Token) : Prop :=
      ∃ t, exec (.nextLeg tag (.fields ())) s = .next t ∧ Immediate s t a st tag code fields
        ∧ OnlyChanges lineFields s t
    let order (h : Handle) (l : Leg) (src dst : Place) (mass : Nat) : List Token :=
      [.handle h, .choice l.kind.num]
        ++ (match l.plate, l.sourceBed with
            | some p, _ => [.handle p]
            | none, some (t, d) => [.place (.bed t d), .num 4 (l.skeletonMass.getD 0)]
            | none, none => [])
        ++ [.place src, .num 2 (s.placePos l.bay src), .place dst, .num 2 (s.placePos l.bay dst), .num 4 mass]
    ((s.crane c).state = .offline → gives .noWork [])
    ∧ (∀ h l src dst mass, (s.crane c).state = .assigned → (s.crane c).leg = some h → s.leg? h = some l →
        l.source = some src → l.target = some dst → l.expected = some mass →
        gives .done (order h l src dst mass))
    ∧ (∀ h, (s.crane c).state = .loaded ∨ (s.crane c).state = .check → (s.crane c).leg = some h →
        gives .wrongState [.handle h])
    ∧ ((s.crane c).state = .idle →
        (s.crane c).stopped = true ∨ (s.crane c).position = none
          ∨ (∃ d ≤ 5, u.inService d = true ∧ (s.craneCfg d).runway = (s.craneCfg c).runway
            ∧ (s.crane d).position = none) → gives .noWork [])
    ∧ ((s.crane c).state = .idle → u.walk (s.craneCfg c).runway = [] → gives .noWork [])
    ∧ (∀ (h : Handle) (l : Leg) (rest : List (Handle × Leg)) (p : Nat) (q : Claim) (src dst : Place)
          (mass : Nat) (r : PlateRec),
        (s.crane c).state = .idle → (s.crane c).stopped = false → (s.crane c).position = some p →
        (∀ d ≤ 5, u.inService d = true → (s.craneCfg d).runway = (s.craneCfg c).runway →
          (s.crane d).position ≠ none) →
        u.walk (s.craneCfg c).runway = (h, l) :: rest → s.leg? h = some l → u.above l = [] →
        src = u.legSource l → u.destinationFor l = some dst →
        mass = (s.craneCfg c).tare + u.liftMass l → mass ≤ (s.craneCfg c).swl →
        (s.craneCfg c).minThickness ≤ u.liftThickness l →
        q = ⟨(min p (min (s.placePos l.bay src) (s.placePos l.bay dst)) : Nat) - ((s.craneCfg c).hw : Int),
          (max p (max (s.placePos l.bay src) (s.placePos l.bay dst)) : Nat) + ((s.craneCfg c).hw : Int)⟩ →
        (∀ d ≤ 5, d ≠ c → u.inService d = true → (s.craneCfg d).runway = (s.craneCfg c).runway →
          ∀ o, (s.crane d).claim = some o →
            if (s.craneCfg d).order < (s.craneCfg c).order then o.hi < q.lo else q.hi < o.lo) →
        (∀ e ∈ u.spans l.bay, e.1 ≠ h → q.hi < e.2.1 ∨ (e.2.2 : Int) < q.lo) →
        ∃ t, exec (.nextLeg tag (.fields ())) s = .next t
          ∧ t.leg? h = some { l with
              state := .assigned, holdUp := none, crane := some c, source := some src, target := some dst
              expected := some mass, checkLoad := none }
          ∧ (∀ g, g ≠ h → t.leg? g = s.leg? g)
          ∧ t.crane c = { s.crane c with state := .assigned, leg := some h, claim := some q }
          ∧ (∀ d, d ≠ c → t.crane d = s.crane d)
          ∧ (∀ k, dst = .slot k → k ≤ 95 → (t.slot k).incoming = (s.slot k).incoming ++ [h])
          ∧ (dst = .cart → t.cart.incoming = s.cart.incoming ++ [h])
          ∧ (∀ g, l.plate = some g → s.plate? g = some r → t.plate? g = some { r with leg := some h })
          ∧ Immediate s t a st tag .done (order h l src dst mass)
          ∧ OnlyChanges (lineFields ++ [.legs, .slots, .cart, .plates, .cranes]) s t)
    ∧ (∀ (h : Handle) (l : Leg) (p : Nat) (why : HoldUp),
        (s.crane c).state = .idle → (s.crane c).stopped = false → (s.crane c).position = some p →
        (∀ d ≤ 5, u.inService d = true → (s.craneCfg d).runway = (s.craneCfg c).runway →
          (s.crane d).position ≠ none) →
        u.walk (s.craneCfg c).runway = [(h, l)] → s.leg? h = some l → u.above l = [] → l.starving = false →
        (u.destinationFor l = none ∧ why = .full)
          ∨ (∃ dst, u.destinationFor l = some dst
              ∧ (s.craneCfg c).swl < (s.craneCfg c).tare + u.liftMass l ∧ why = .overload)
          ∨ (∃ dst, u.destinationFor l = some dst
              ∧ (s.craneCfg c).tare + u.liftMass l ≤ (s.craneCfg c).swl
              ∧ u.liftThickness l < (s.craneCfg c).minThickness ∧ why = .noWork) →
        ∃ t, exec (.nextLeg tag (.fields ())) s = .next t
          ∧ t.leg? h = some { l with holdUp := some why }
          ∧ (∀ g, g ≠ h → t.leg? g = s.leg? g)
          ∧ Immediate s t a st tag .noWork []
          ∧ OnlyChanges (lineFields ++ [.legs]) s t)
    ∧ (∀ p : Nat, (s.crane c).state = .idle → (s.crane c).stopped = false → (s.crane c).position = some p →
        (∀ d ≤ 5, u.inService d = true → (s.craneCfg d).runway = (s.craneCfg c).runway →
          (s.crane d).position ≠ none) →
        ∃ (m : State) (passed : Bool) (t : State),
          Walked c p ((u.walk (s.craneCfg c).runway).map (·.1)) u m passed
            ∧ exec (.nextLeg tag (.fields ())) s = .next t ∧ OnlyChanges lineFields m t
            ∧ (passed = true → ∃ h l src dst mass, (m.crane c).leg = some h ∧ m.leg? h = some l
                ∧ l.source = some src ∧ l.target = some dst ∧ l.expected = some mass
                ∧ Immediate s t a st tag .done (order h l src dst mass))
            ∧ (passed = false →
                let standsIn (e : Handle × (Nat × Nat)) : Prop :=
                  ∃ q, (m.crane c).claim = some q ∧ Touches q e.2
                let starving := m.spans (s.craneCfg c).runway
                ((∀ e ∈ starving, ¬standsIn e) → Immediate s t a st tag .noWork [])
                ∧ ∀ front e rest, starving = front ++ e :: rest → (∀ x ∈ front, ¬standsIn x) → standsIn e →
                  ∀ (widest : Nat) (park : Int),
                    (∀ d ≤ 5, u.inService d = true → (s.craneCfg d).runway = (s.craneCfg c).runway →
                      (s.craneCfg d).hw ≤ widest) →
                    (∃ d ≤ 5, u.inService d = true ∧ (s.craneCfg d).runway = (s.craneCfg c).runway
                      ∧ (s.craneCfg d).hw = widest) →
                    park = (if 2 * p ≤ e.2.1 + e.2.2 then (e.2.1 : Int) - widest - (s.craneCfg c).hw - 1
                      else (e.2.2 : Int) + widest + (s.craneCfg c).hw + 1) →
                    (0 ≤ park ∧ park ≤ (match (s.craneCfg c).runway with
                        | .a => s.hall.runways.onA
                        | .b => s.hall.runways.onB)
                      ∧ Apart m c ⟨min (p : Int) park - (s.craneCfg c).hw, max (p : Int) park + (s.craneCfg c).hw⟩ →
                        Immediate s t a st tag .park [.num 2 park])
                    ∧ (¬(0 ≤ park ∧ park ≤ (match (s.craneCfg c).runway with
                        | .a => s.hall.runways.onA
                        | .b => s.hall.runways.onB)
                      ∧ Apart m c ⟨min (p : Int) park - (s.craneCfg c).hw, max (p : Int) park + (s.craneCfg c).hw⟩) →
                        Immediate s t a st tag .noWork [])))

/-! ## Lift, set-down and the ends of legs (sections 7.6 and 7.7) -/

/-- Lifted taken (R139, R24, R39, R42): the plate leaves its source and is on the hook, or the skeleton mark goes;
a load within the tolerance makes the leg LIFTED and the crane LOADED, another makes both CHECK, puts the plate in
MASS_DOUBT and raises LOAD_MISMATCH. A plate leg waits for its plate's state image; a skeleton leg is complete at
once. That a CHECK leg keeps the load of its first report is notes/assumptions/11.md. -/
def Obligations.LiftedTakes : Prop :=
  ∀ (s : State) (a : Nat) (st : Station) (tag : Byte) (f : LiftedF) (c e load : Nat) (l : Leg) (agrees : Bool),
    Asks reqLifted s a st → c = st.unit.getD 0 → c ≤ 5 → s.leg? f.leg = some l → l.crane = some c →
    l.state = .assigned → l.expected = some e → load = (min (max f.load 0) 4000000).toNat →
    agrees = decide (load ≤ e + (e * 3 / 100 + 2000) ∧ e ≤ load + (e * 3 / 100 + 2000)) →
    let code : AnsCode := if agrees then .done else .mismatch
    let fields : List Token :=
      if agrees then [] else [.num 4 load, .num 4 e, .num 4 ((e * 3 / 100 + 2000 : Nat) : Int)]
    let judged (t : State) : Prop :=
      t.leg? f.leg = some { l with
          state := if agrees then .lifted else .check
          checkLoad := if agrees then none else some load }
        ∧ (∀ g, g ≠ f.leg → t.leg? g = s.leg? g)
        ∧ t.crane c = { s.crane c with state := if agrees then .loaded else .check }
        ∧ (∀ d, d ≠ c → t.crane d = s.crane d)
        ∧ t.flags = (if agrees then s.flags else s.flags ||| Alarm.loadMismatch.bit)
    (∀ (p : Handle) (r : PlateRec) (src : Place), l.plate = some p → s.pfw = false → s.plate? p = some r →
      l.source = some src →
      (match src with
        | .slot k => ∃ level below, r.st.location = .slot k level ∧ (s.slot k).stack = below ++ [p] ∧ p ∉ below
        | .bed b d => r.st.location = .bed b d ∧ p ∈ (s.bed b d).plates
        | .cart => r.st.location = .cart ∧ p ∈ s.cart.plates ∧ s.cart.side = some l.bay
        | _ => False) →
      ∃ t, exec (.lifted tag (.fields f)) s = .next t ∧ judged t
        ∧ t.plate? p = some { r with st := { r.st with
            location := .hook c, massDoubt := r.st.massDoubt || !agrees } }
        ∧ (∀ g, g ≠ p → t.plate? g = s.plate? g)
        ∧ (match src with
          | .slot k => Unstacked s t k (s.slot k).stack.dropLast ∧ (∀ j, j ≠ k → t.slot j = s.slot j)
              ∧ t.beds = s.beds ∧ t.cart = s.cart
          | .bed b d => t.bed b d = { s.bed b d with plates := (s.bed b d).plates.erase p }
              ∧ (∀ i, i ≠ 2 * b + d → t.beds.get? i = s.beds.get? i) ∧ t.slots = s.slots ∧ t.cart = s.cart
          | _ => t.cart = { s.cart with plates := s.cart.plates.erase p } ∧ t.slots = s.slots ∧ t.beds = s.beds)
        ∧ Awaits reqLifted s t a st tag [.state p.idx] code fields
        ∧ t.queue = joining s.queue [.state p.idx]
        ∧ OnlyChanges (lineFields ++ [.legs, .cranes, .flags, .plates, .slots, .beds, .cart, .queue]) s t)
    ∧ (∀ b d, l.plate = none → l.sourceBed = some (b, d) → (s.bed b d).skeleton = true →
      ∃ t, exec (.lifted tag (.fields f)) s = .next t ∧ judged t
        ∧ t.bed b d = { s.bed b d with skeleton := false }
        ∧ (∀ i, i ≠ 2 * b + d → t.beds.get? i = s.beds.get? i)
        ∧ AtOnce reqLifted s t a st tag code fields
        ∧ OnlyChanges (lineFields ++ [.legs, .cranes, .flags, .beds]) s t)

/-- Set Down of a LIFTED leg at its resolved destination (R141): the plate joins the slot, a bare bed or the cart on
the leg's side, the skeleton leaves at the scrap bin; the leg is DONE, off the incoming list and off the plate, and
the crane is freed. A bed with a plate or a skeleton on it, a cart away from the side, and a slot that now lies in the
other bay (R48) are WRONG_PLACE. A plate leg waits for its plate's state image; a skeleton leg is complete at once.
That the set-down which ends SILENT shrinks the claim at once is notes/assumptions/42.md, here and where a leg
returns. -/
def Obligations.SetDownCompletes : Prop :=
  ∀ (s u : State) (a : Nat) (st : Station) (tag : Byte) (f : SetDownF) (c : Nat) (l : Leg),
    Asks reqSetDown s a st → u = s.heard a → c = st.unit.getD 0 → InRange f.place →
    s.leg? f.leg = some l → l.crane = some c → l.state = .lifted → l.target = some f.place →
    (∀ (p : Handle) (r : PlateRec), l.plate = some p → s.pfw = false → s.plate? p = some r →
      r.st.location = .hook c → f.place ≠ .scrapBin →
      ((∃ b d, f.place = .bed b d ∧ ((s.bed b d).plates ≠ [] ∨ (s.bed b d).skeleton = true))
          ∨ (f.place = .cart ∧ s.cart.side ≠ some l.bay)
          ∨ (∃ k, f.place = .slot k ∧ (s.slotCfg k).bay ≠ l.bay) →
        ∃ t, exec (.setDown tag (.fields f)) s = .next t ∧ Immediate s t a st tag .wrongPlace []
          ∧ OnlyChanges lineFields s t)
      ∧ ((∀ b d, f.place = .bed b d → (s.bed b d).plates = [] ∧ (s.bed b d).skeleton = false) →
        (f.place = .cart → s.cart.side = some l.bay) →
        (∀ k, f.place = .slot k → (s.slotCfg k).bay = l.bay) →
        ∃ t, exec (.setDown tag (.fields f)) s = .next t
          ∧ t.plate? p = some { r with st := { r.st with location := landing s f.place }, leg := none }
          ∧ (∀ g, g ≠ p → t.plate? g = s.plate? g)
          ∧ Lands s t (some p) f.place f.leg l.target
          ∧ LegBecomes s t f.leg l .done ∧ Freed u t c
          ∧ Awaits reqSetDown s t a st tag [.state p.idx] .done []
          ∧ t.queue = joining s.queue [.state p.idx]
          ∧ OnlyChanges (lineFields ++ [.plates, .slots, .beds, .cart, .queue, .legs, .cranes, .batches,
              .commitCounter, .jobs, .parts]) s t))
    ∧ (l.plate = none → f.place = .scrapBin →
      ∃ t, exec (.setDown tag (.fields f)) s = .next t
        ∧ LegBecomes s t f.leg l .done ∧ Freed u t c
        ∧ AtOnce reqSetDown s t a st tag .done []
        ∧ OnlyChanges (lineFields ++ [.legs, .cranes, .batches, .commitCounter, .jobs, .parts]) s t)

/-- What a DONE leg tells (R126, R80, R94, R95), by a Set Down at a slot of the leg's bay, a bare bed, the cart on the
leg's side or the scrap bin: a COMMITTED batch is DONE when its last leg is, and CANCELLED when all its legs are
settled but not all DONE, its ENDED job then left as it was; a FETCH makes its ADMITTED job LOADED; the last leg of a
clear or return batch makes its ENDED job CLEARED, and its scrapped parts retire; the carrying leg of an aborted job
commits the return batch held OPEN for it. A TRANSFER_OUT set on the cart leaves its job, not ENDED, as it was, and so
does a leg of a batch the job does not name. A batch of a station tells no job. -/
def Obligations.DoneLegsAreTold : Prop :=
  ∀ (s : State) (a : Nat) (st : Station) (tag : Byte) (f : SetDownF) (l : Leg) (b : Batch),
    Asks reqSetDown s a st → InRange f.place → s.leg? f.leg = some l → l.crane = some (st.unit.getD 0) →
    l.state = .lifted → l.target = some f.place → s.pfw = false → (f.place = .cart → s.cart.side = some l.bay) →
    (∀ k, f.place = .slot k → (s.slotCfg k).bay = l.bay) →
    (∀ t d, f.place = .bed t d → (s.bed t d).plates = [] ∧ (s.bed t d).skeleton = false) →
    s.batch? l.batch = some b → b.state = .committed → f.leg ∈ b.legs →
    ∃ t, exec (.setDown tag (.fields f)) s = .next t
      ∧ DoneSettles s t f.leg l.batch b
      ∧ (∀ o, b.origin = .station o → t.jobs = s.jobs ∧ t.parts = s.parts)
      ∧ ∀ jh j, b.origin = .job jh → s.job? jh = some j →
          (∀ g, g ≠ jh → t.job? g = s.job? g)
          ∧ (j.fetchBatch = some l.batch → l.kind = .fetch → j.state = .admitted →
              t.job? jh = some { j with state := .loaded } ∧ t.parts = s.parts)
          ∧ (l.kind ≠ .fetch → j.state ≠ .ended → t.job? jh = some j ∧ t.parts = s.parts)
          ∧ (j.fetchBatch ≠ some l.batch → j.clearBatch ≠ some l.batch → t.job? jh = some j ∧ t.parts = s.parts)
          ∧ (j.clearBatch = some l.batch → j.state = .ended →
              (∀ g ∈ b.legs, g ≠ f.leg → ∃ x, s.leg? g = some x ∧ x.state = .done) →
              t.job? jh = some { j with state := .cleared, role := none }
                ∧ (∀ g ∈ j.parts, ∀ p, s.part? g = some p → p.cut = .scrapped → t.part? g = none)
                ∧ (∀ g p, s.part? g = some p → p.cut ≠ .scrapped → t.part? g = some p))
          ∧ (j.clearBatch = some l.batch → j.fetchBatch ≠ some l.batch →
              ¬(∀ g ∈ b.legs, g ≠ f.leg → ∃ x, s.leg? g = some x ∧ x.state = .done) →
              t.job? jh = some j ∧ t.parts = s.parts)
          ∧ (∀ rb ret, j.fetchBatch = some l.batch → (l.kind = .fetch ∨ l.kind = .transferOut) →
              j.state = .ended → j.clearBatch = some rb → rb ≠ l.batch → s.batch? rb = some ret →
              ret.state = .opened →
              t.batch? rb = some { ret with state := .committed, seq := some s.commitCounter }
                ∧ t.commitCounter = min (s.commitCounter + 1) 4294967295 ∧ t.job? jh = some j)

/-- Set Down that returns a leg to QUEUED: the set-back of a CHECK leg at its source (R140), and a plate leg diverted
to a slot of its bay with room (R142). The plate joins there, or the skeleton mark is set again; the leg leaves the
incoming list and the plate, the crane is freed, and the leg has no resolved destination (R44); that its resolved
source and expected load stand is notes/assumptions/13.md. A leg for which an aborted job waits is CANCELLED instead,
and the return batch is committed where its plate lies on the cart, else cancelled and the job CLEARED (R94). A leg
that a stop in its batch marked to end is CANCELLED too, and its batch settled (R126; notes/assumptions/12.md). A CHECK
leg elsewhere, or at a source that cannot take its load back (a slot of the other bay among them, R48), and a plate
diverted to a bed, the cart, the scrap bin or a slot of the other bay, is WRONG_PLACE. The claim of a crane just heard
again is notes/assumptions/42.md. -/
def Obligations.SetDownReturns : Prop :=
  ∀ (s u : State) (a : Nat) (st : Station) (tag : Byte) (f : SetDownF) (c : Nat) (l : Leg),
    Asks reqSetDown s a st → u = s.heard a → c = st.unit.getD 0 → InRange f.place →
    s.leg? f.leg = some l → l.crane = some c →
    let wrongPlace : Prop :=
      ∃ t, exec (.setDown tag (.fields f)) s = .next t ∧ Immediate s t a st tag .wrongPlace []
        ∧ OnlyChanges lineFields s t
    (∀ (p : Handle) (r : PlateRec), l.plate = some p → s.pfw = false → s.plate? p = some r →
      r.st.location = .hook c →
      (l.state = .check ∧ l.source = some f.place
          ∧ (match f.place with
            | .slot k => (s.slotCfg k).bay = l.bay ∧ s.hasRoom k r.roomMass = true
            | .bed b d => (s.bed b d).plates = [] ∧ (s.bed b d).skeleton = false
                ∧ ∀ g x, s.leg? g = some x → x.state.inHand = true → x.target ≠ some (.bed b d)
            | .cart => s.cart.plates = [] ∧ s.cart.incoming = [] ∧ s.cart.side = some l.bay
            | _ => False))
        ∨ (l.state = .lifted ∧ l.target ≠ some f.place
          ∧ ∃ k, f.place = .slot k ∧ (s.slotCfg k).bay = l.bay ∧ s.hasRoom k r.roomMass = true) →
      ∃ t, exec (.setDown tag (.fields f)) s = .next t
        ∧ t.plate? p = some { r with st := { r.st with location := landing s f.place }, leg := none }
        ∧ (∀ g, g ≠ p → t.plate? g = s.plate? g)
        ∧ Lands s t (some p) f.place f.leg l.target
        ∧ Freed u t c
        ∧ Awaits reqSetDown s t a st tag [.state p.idx] .done []
        ∧ t.queue = joining s.queue [.state p.idx]
        ∧ (ReturnsFreely s l → LegBecomes s t f.leg l .queued
          ∧ OnlyChanges (lineFields ++ [.plates, .slots, .beds, .cart, .queue, .legs, .cranes]) s t)
        ∧ MarkedEnds s t f.leg l
        ∧ AwaitEnds s t f.leg l .cancelled (f.place = .cart)
        ∧ OnlyChanges (lineFields ++ [.plates, .slots, .beds, .cart, .queue, .legs, .cranes, .batches,
            .commitCounter, .jobs, .parts]) s t)
    ∧ (∀ b d, l.plate = none → l.state = .check → f.place = .bed b d →
      l.source = some f.place → (s.bed b d).plates = [] → (s.bed b d).skeleton = false →
      (∀ g x, s.leg? g = some x → x.state.inHand = true → x.target ≠ some (.bed b d)) →
      ∃ t, exec (.setDown tag (.fields f)) s = .next t
        ∧ Lands s t none f.place f.leg l.target ∧ Freed u t c
        ∧ AtOnce reqSetDown s t a st tag .done []
        ∧ (ReturnsFreely s l → LegBecomes s t f.leg l .queued
          ∧ OnlyChanges (lineFields ++ [.slots, .beds, .cart, .legs, .cranes]) s t)
        ∧ MarkedEnds s t f.leg l
        ∧ AwaitEnds s t f.leg l .cancelled False
        ∧ OnlyChanges (lineFields ++ [.slots, .beds, .cart, .legs, .cranes, .batches, .jobs, .parts]) s t)
    ∧ (l.plate = none ∨ s.pfw = false → l.state = .check → l.source ≠ some f.place → wrongPlace)
    ∧ (l.plate = none ∨ s.pfw = false → l.state = .check → l.source = some f.place →
        (match f.place with
          | .slot k => (s.slotCfg k).bay ≠ l.bay ∨ s.hasRoom k (s.legRoomMass l) = false
          | .bed b d => (s.bed b d).plates ≠ [] ∨ (s.bed b d).skeleton = true
              ∨ ∃ g x, s.leg? g = some x ∧ x.state.inHand = true ∧ x.target = some (.bed b d)
          | .cart => s.cart.plates ≠ [] ∨ s.cart.incoming ≠ [] ∨ s.cart.side ≠ some l.bay
          | _ => True) → wrongPlace)
    ∧ (l.plate = none ∨ s.pfw = false → l.state = .lifted → l.target ≠ some f.place →
        l.plate = none ∨ (∀ k, f.place = .slot k →
          (s.slotCfg k).bay ≠ l.bay ∨ s.hasRoom k (s.legRoomMass l) = false) → wrongPlace)

/-- The checks of Set Down ahead of its judgement, of Lifted and of Break Hook, each in its order (R141, R138, R146),
and legs in no state for a request: Accept Load of a leg not in CHECK, Leg Fault of a leg that is another crane's or
not ASSIGNED, Cancel Leg of a leg on a hook, settled, or of an OPEN batch (R140, R143, R144): WRONG_STATE, and
NO_SUCH for a handle that names no leg. A repeated Lifted gets the answer the first one got and changes nothing; the
load a MISMATCH answer repeats is notes/assumptions/11.md, and a place form that a request does not list is BAD_REQUEST
by notes/assumptions/40.md. -/
def Obligations.LegReportsRefused : Prop :=
  ∀ (s : State) (a : Nat) (st : Station) (tag : Byte) (h : Handle),
    let refused (c : Instr) (code : AnsCode) : Prop :=
      ∃ t, exec c s = .next t ∧ Immediate s t a st tag code [] ∧ OnlyChanges lineFields s t
    (∀ p, Asks reqSetDown s a st →
      (¬InRange p → refused (.setDown tag (.fields ⟨h, p⟩)) .badRequest)
      ∧ (InRange p → s.leg? h = none → refused (.setDown tag (.fields ⟨h, p⟩)) .noSuch)
      ∧ ∀ l, InRange p → s.leg? h = some l →
          (l.crane ≠ some (st.unit.getD 0) → refused (.setDown tag (.fields ⟨h, p⟩)) .wrongState)
          ∧ (l.crane = some (st.unit.getD 0) → l.plate ≠ none → s.pfw = true →
              refused (.setDown tag (.fields ⟨h, p⟩)) .powerDown)
          ∧ (l.crane = some (st.unit.getD 0) → l.plate = none ∨ s.pfw = false → l.state.onHook = false →
              refused (.setDown tag (.fields ⟨h, p⟩)) .wrongState))
    ∧ (Asks reqAcceptLoad s a st →
      (s.leg? h = none → refused (.acceptLoad tag (.fields h)) .noSuch)
      ∧ ∀ l, s.leg? h = some l → l.state ≠ .check → refused (.acceptLoad tag (.fields h)) .wrongState)
    ∧ (Asks reqLegFault s a st →
      (s.leg? h = none → refused (.legFault tag (.fields h)) .noSuch)
      ∧ ∀ l, s.leg? h = some l → l.crane ≠ some (st.unit.getD 0) ∨ l.state ≠ .assigned →
          refused (.legFault tag (.fields h)) .wrongState)
    ∧ (Asks reqCancelLeg s a st →
      (s.leg? h = none → refused (.cancelLeg tag (.fields h)) .noSuch)
      ∧ ∀ l, s.leg? h = some l →
          (l.state ≠ .queued ∧ l.state ≠ .assigned)
            ∨ (l.state = .queued ∧ ∃ b, s.batch? l.batch = some b ∧ b.state = .opened) →
          refused (.cancelLeg tag (.fields h)) .wrongState)
    ∧ (∀ load : Int, Asks reqLifted s a st →
      (s.leg? h = none → refused (.lifted tag (.fields ⟨h, load⟩)) .noSuch)
      ∧ ∀ l, s.leg? h = some l →
          (l.crane ≠ some (st.unit.getD 0) → refused (.lifted tag (.fields ⟨h, load⟩)) .wrongState)
          ∧ (l.crane = some (st.unit.getD 0) → l.state = .lifted →
              ∃ t, exec (.lifted tag (.fields ⟨h, load⟩)) s = .next t
                ∧ AtOnce reqLifted s t a st tag .done [] ∧ OnlyChanges lineFields s t)
          ∧ (∀ first e : Nat, l.crane = some (st.unit.getD 0) → l.state = .check → l.checkLoad = some first →
              l.expected = some e →
              ∃ t, exec (.lifted tag (.fields ⟨h, load⟩)) s = .next t
                ∧ AtOnce reqLifted s t a st tag .mismatch
                    [.num 4 first, .num 4 e, .num 4 ((e * 3 / 100 + 2000 : Nat) : Int)]
                ∧ OnlyChanges lineFields s t)
          ∧ (l.crane = some (st.unit.getD 0) → l.state ≠ .lifted → l.state ≠ .check → l.state ≠ .assigned →
              refused (.lifted tag (.fields ⟨h, load⟩)) .wrongState)
          ∧ (l.crane = some (st.unit.getD 0) → l.state = .assigned → l.plate ≠ none → s.pfw = true →
              refused (.lifted tag (.fields ⟨h, load⟩)) .powerDown)
          ∧ (∀ p src, l.crane = some (st.unit.getD 0) → l.state = .assigned → l.plate = some p → s.pfw = false →
              l.source = some src →
              (match src with
                | .slot k => (s.slot k).stack.getLast? ≠ some p
                | .bed b d => p ∉ (s.bed b d).plates
                | .cart => p ∉ s.cart.plates ∨ s.cart.side ≠ some l.bay
                | _ => True) → refused (.lifted tag (.fields ⟨h, load⟩)) .blocked)
          ∧ ∀ b d, l.crane = some (st.unit.getD 0) → l.state = .assigned → l.plate = none →
              l.sourceBed = some (b, d) → (s.bed b d).skeleton = false →
              refused (.lifted tag (.fields ⟨h, load⟩)) .blocked)
    ∧ ∀ f : BreakHookF, Asks reqBreakHook s a st →
        let listed : Prop :=
          match f.place with
          | .slot k => k ≤ 95
          | .bed b d => b ≤ 7 ∧ d ≤ 1
          | .cart => True
          | .nowhere => True
          | .scrapBin => True
          | _ => False
        let out : Prop := (s.heard a).craneSilent f.crane = true ∨ (s.crane f.crane).state = .offline
        (5 < f.crane ∨ ¬listed → refused (.breakHook tag (.fields f)) .badRequest)
        ∧ (f.crane ≤ 5 → listed → ¬out → refused (.breakHook tag (.fields f)) .wrongState)
        ∧ (∀ p, f.crane ≤ 5 → listed → out → f.plate = some p →
            (s.pfw = true → refused (.breakHook tag (.fields f)) .powerDown)
            ∧ (s.pfw = false → s.plate? p = none → refused (.breakHook tag (.fields f)) .noSuch)
            ∧ ∀ r, s.pfw = false → s.plate? p = some r →
                (r.st.location ≠ .hook f.crane → refused (.breakHook tag (.fields f)) .wrongState)
                ∧ (r.st.location = .hook f.crane →
                    (match f.place with
                      | .slot k => s.hasRoom k none = false
                      | .bed b d => (s.bed b d).plates ≠ [] ∨ (s.bed b d).skeleton = true ∨ s.bedJob b d ≠ none
                      | .cart => s.cart.plates ≠ [] ∨ s.cart.incoming ≠ []
                      | .nowhere => False
                      | _ => True) → refused (.breakHook tag (.fields f)) .wrongPlace))
        ∧ (f.crane ≤ 5 → listed → out → f.plate = none →
            ((∀ g l, (s.crane f.crane).leg = some g → s.leg? g = some l →
                l.kind ≠ .clearSkeleton ∨ l.state.onHook = false) →
              refused (.breakHook tag (.fields f)) .wrongState)
            ∧ ∀ g l, (s.crane f.crane).leg = some g → s.leg? g = some l → l.kind = .clearSkeleton →
                l.state.onHook = true → f.place ≠ .scrapBin →
                (∀ b d, f.place = .bed b d → l.sourceBed ≠ some (b, d)) →
                refused (.breakHook tag (.fields f)) .wrongPlace)

/-- Accept Load (R140), and an ASSIGNED leg that returns to QUEUED by Leg Fault or Cancel Leg (R143, R144). Accept Load
makes a CHECK leg LIFTED and its crane LOADED, and leaves MASS_DOUBT on the plate. The other two take the leg off the
incoming list of its destination and off its plate, free its crane, leave it with no resolved destination (R44), and
keep its skip count and STARVING; that its resolved source and expected load stand is notes/assumptions/13.md, and the
claim of a crane that this request shows heard again notes/assumptions/42.md. A leg for which an aborted job waits is
CANCELLED instead, and the return batch finished (R94); so is one marked to end (R126, notes/assumptions/12.md). None
of the three looks at PFW. -/
def Obligations.LegsAcceptedAndReturned : Prop :=
  ∀ (s u : State) (a : Nat) (st : Station) (tag : Byte) (h : Handle) (l : Leg) (c : Nat),
    u = s.heard a → s.leg? h = some l → l.crane = some c → c ≤ 5 →
    (Asks reqAcceptLoad s a st → l.state = .check →
      ∃ t, exec (.acceptLoad tag (.fields h)) s = .next t
        ∧ t.leg? h = some { l with state := .lifted } ∧ (∀ g, g ≠ h → t.leg? g = s.leg? g)
        ∧ t.crane c = { s.crane c with state := .loaded } ∧ (∀ d, d ≠ c → t.crane d = s.crane d)
        ∧ Immediate s t a st tag .done []
        ∧ OnlyChanges (lineFields ++ [.legs, .cranes]) s t)
    ∧ ∀ (i : Instr), (i = .legFault tag (.fields h) ∧ Asks reqLegFault s a st ∧ c = st.unit.getD 0)
        ∨ (i = .cancelLeg tag (.fields h) ∧ Asks reqCancelLeg s a st) →
      l.state = .assigned →
      ∃ t, exec i s = .next t
        ∧ Freed u t c
        ∧ Lands s t none .nowhere h l.target
        ∧ (∀ p r, l.plate = some p → s.plate? p = some r → t.plate? p = some { r with leg := none })
        ∧ (∀ g, l.plate ≠ some g → t.plate? g = s.plate? g)
        ∧ Immediate s t a st tag .done []
        ∧ (ReturnsFreely s l → LegBecomes s t h l .queued
          ∧ OnlyChanges (lineFields ++ [.legs, .cranes, .plates, .slots, .cart]) s t)
        ∧ MarkedEnds s t h l
        ∧ AwaitEnds s t h l .cancelled (∃ p r, l.plate = some p ∧ s.plate? p = some r ∧ r.st.location = .cart)
        ∧ OnlyChanges (lineFields ++ [.legs, .cranes, .plates, .slots, .cart, .batches, .commitCounter, .jobs,
            .parts]) s t

/-- Cancel Leg of a QUEUED leg of a COMMITTED batch (R144, R126): the leg and the QUEUED legs later in its batch are
CANCELLED; a batch with no leg left unfinished is CANCELLED, else it stays COMMITTED; an ADMITTED job whose carrying
leg is lost so has fetch lost set (R80); an ENDED job stays as it is when a leg of its clear or return batch is lost
(R96), and where it waits for the leg with an OPEN return batch is finished (R94). No plate and no crane is touched.
The mark that a leg on a hook gets, and the batch that stays COMMITTED for an earlier QUEUED leg, are
notes/assumptions/12.md. -/
def Obligations.CancelLegCancels : Prop :=
  ∀ (s : State) (a : Nat) (st : Station) (tag : Byte) (h : Handle) (l : Leg) (b : Batch),
    Asks reqCancelLeg s a st → s.leg? h = some l → l.state = .queued → s.batch? l.batch = some b →
    b.state = .committed → h ∈ b.legs →
    ∃ t, exec (.cancelLeg tag (.fields h)) s = .next t
      ∧ (Unawaited s l →
        t.leg? h = some { l with state := .cancelled, crane := none }
          ∧ (∀ g ∈ b.legs, g ≠ h → ∀ x, s.leg? g = some x → x.state.onHook = false →
            t.leg? g = some (if x.state = .queued ∧ l.position < x.position then { x with state := .cancelled }
              else x))
          ∧ (∀ g x, s.leg? g = some x → x.state.onHook = true → ∃ y, t.leg? g = some { x with ending := y })
          ∧ (∀ g, g ∉ b.legs → t.leg? g = s.leg? g)
          ∧ (∀ g, g ≠ l.batch → t.batch? g = s.batch? g)
          ∧ ((∀ g ∈ b.legs, ∀ x, t.leg? g = some x → x.state.unfinished = false) →
              t.batch? l.batch = some { b with state := .cancelled })
          ∧ ((∃ g ∈ b.legs, ∃ x, t.leg? g = some x ∧ x.state.unfinished = true) → t.batch? l.batch = some b)
          ∧ OnlyChanges (lineFields ++ [.legs, .batches, .jobs]) s t)
      ∧ (∀ o, b.origin = .station o → t.jobs = s.jobs)
      ∧ (∀ jh j, b.origin = .job jh → s.job? jh = some j →
          (j.state = .admitted → j.fetchBatch = some l.batch →
            (∃ g ∈ b.legs, ∃ x, t.leg? g = some x ∧ (x.kind = .fetch ∨ x.kind = .transferOut)
              ∧ x.state = .cancelled) →
            t.job? jh = some { j with fetchLost := true })
          ∧ (j.state ≠ .admitted ∨ j.fetchBatch ≠ some l.batch → ¬WaitsFor s j l → t.job? jh = some j)
          ∧ ∀ g, g ≠ jh → t.job? g = s.job? g)
      ∧ AwaitEnds s t h l .cancelled False
      ∧ Immediate s t a st tag .done []
      ∧ OnlyChanges (lineFields ++ [.legs, .batches, .jobs, .parts]) s t

/-- Break Hook taken (R146, R147, R24): the plate on the hook of a SILENT or OFFLINE crane goes to a place with room
for a DOUBTFUL plate, or NONE, and becomes DOUBTFUL. Its leg, if it has one, is CANCELLED and leaves the crane; an
ADMITTED job whose carrying leg is lost so has fetch lost set (R80), and an aborted job that waits for the leg has its
return batch cancelled and becomes CLEARED (R94). After start-up the plate has no leg, and is relocated alone. A
skeleton set at the scrap bin makes its leg DONE, and where that was the last leg of the batch the batch is DONE, its
ENDED job CLEARED and the job's SCRAPPED parts retired (R95); set back on its source bed, CANCELLED, its ENDED job left
as it was (R96). A leg that is CANCELLED takes the QUEUED legs later in its batch with it, and the batch is CANCELLED
when none is left unfinished (R126). -/
def Obligations.BreakHookRecovers : Prop :=
  ∀ (s u : State) (a : Nat) (st : Station) (tag : Byte) (f : BreakHookF),
    Asks reqBreakHook s a st → u = s.heard a → f.crane ≤ 5 →
    u.craneSilent f.crane = true ∨ (s.crane f.crane).state = .offline →
    (∀ (p : Handle) (r : PlateRec), f.plate = some p → s.pfw = false → s.plate? p = some r →
      r.st.location = .hook f.crane →
      (match f.place with
        | .slot k => k ≤ 95 ∧ s.hasRoom k none = true
        | .bed b d => b ≤ 7 ∧ d ≤ 1 ∧ (s.bed b d).plates = [] ∧ (s.bed b d).skeleton = false
            ∧ s.bedJob b d = none
        | .cart => s.cart.plates = [] ∧ s.cart.incoming = []
        | .nowhere => True
        | _ => False) →
      (∀ h, r.leg = some h → ∃ l, s.leg? h = some l ∧ l.plate = some p ∧ l.crane = some f.crane
        ∧ l.state.onHook = true) →
      ∃ t, exec (.breakHook tag (.fields f)) s = .next t
        ∧ t.plate? p = some { r with
            st := { r.st with location := landing s f.place, doubtful := true }, leg := none }
        ∧ (∀ g, g ≠ p → t.plate? g = s.plate? g)
        ∧ (r.leg = none → Lands s t (some p) f.place p none
          ∧ OnlyChanges (lineFields ++ [.plates, .slots, .beds, .cart, .queue]) s t)
        ∧ (∀ h l, r.leg = some h → s.leg? h = some l →
          Lands s t (some p) f.place h l.target ∧ Freed u t f.crane
            ∧ t.leg? h = some { l with state := .cancelled, crane := none }
            ∧ (Unawaited s l →
              (∀ b, s.batch? l.batch = some b → ∀ g, g ≠ h → g ∉ b.legs → t.leg? g = s.leg? g)
                ∧ (∀ g, g ≠ l.batch → t.batch? g = s.batch? g)
                ∧ t.parts = s.parts
                ∧ StopEnds s t h l)
            ∧ (∀ b jh j, s.batch? l.batch = some b → h ∈ b.legs → b.origin = .job jh → s.job? jh = some j →
                (j.state = .admitted → j.fetchBatch = some l.batch → l.kind = .fetch ∨ l.kind = .transferOut →
                  t.job? jh = some { j with fetchLost := true })
                ∧ (j.state ≠ .admitted ∨ j.fetchBatch ≠ some l.batch → ¬WaitsFor s j l → t.job? jh = some j)
                ∧ ∀ g, g ≠ jh → t.job? g = s.job? g)
            ∧ AwaitEnds s t h l .cancelled False)
        ∧ Awaits reqBreakHook s t a st tag [.state p.idx] .done []
        ∧ t.queue = joining s.queue [.state p.idx]
        ∧ OnlyChanges (lineFields ++ [.plates, .slots, .beds, .cart, .queue, .legs, .cranes, .batches, .jobs,
            .parts]) s t)
    ∧ ∀ (h : Handle) (l : Leg), f.plate = none → (s.crane f.crane).leg = some h → s.leg? h = some l →
      l.kind = .clearSkeleton → l.state.onHook = true → l.plate = none → l.crane = some f.crane →
      (f.place = .scrapBin →
        ∃ t, exec (.breakHook tag (.fields f)) s = .next t
          ∧ LegBecomes s t h l .done ∧ Freed u t f.crane
          ∧ (∀ b, s.batch? l.batch = some b → b.state = .committed → h ∈ b.legs →
            DoneSettles s t h l.batch b ∧ (∀ g, g ≠ l.batch → t.batch? g = s.batch? g)
              ∧ ∀ jh j, b.origin = .job jh → s.job? jh = some j →
                  let last : Prop :=
                    j.clearBatch = some l.batch ∧ j.state = .ended
                      ∧ ∀ g ∈ b.legs, g ≠ h → ∃ x, s.leg? g = some x ∧ x.state = .done
                  (last → t.job? jh = some { j with state := .cleared, role := none }
                      ∧ ∀ g p, s.part? g = some p →
                        t.part? g = if g ∈ j.parts ∧ p.cut = .scrapped then none else some p)
                    ∧ (¬last → t.job? jh = some j ∧ t.parts = s.parts)
                    ∧ ∀ g, g ≠ jh → t.job? g = s.job? g)
          ∧ AtOnce reqBreakHook s t a st tag .done []
          ∧ OnlyChanges (lineFields ++ [.legs, .cranes, .slots, .cart, .batches, .commitCounter, .jobs, .parts]) s t)
      ∧ (∀ b d, f.place = .bed b d → b ≤ 7 → d ≤ 1 → l.sourceBed = some (b, d) →
        (∀ x jh j, s.batch? l.batch = some x → x.origin = .job jh → s.job? jh = some j → j.state = .ended) →
        ∃ t, exec (.breakHook tag (.fields f)) s = .next t
          ∧ t.bed b d = { s.bed b d with skeleton := true }
          ∧ (∀ i, i ≠ 2 * b + d → t.beds.get? i = s.beds.get? i)
          ∧ t.leg? h = some { l with state := .cancelled, crane := none } ∧ Freed u t f.crane
          ∧ StopEnds s t h l
          ∧ AtOnce reqBreakHook s t a st tag .done []
          ∧ OnlyChanges (lineFields ++ [.beds, .legs, .cranes, .slots, .cart, .batches]) s t)

/-! ## The cart and the runways (section 7.8, chapter 8) -/

/-- Next Trip (R148): STAY while a leg in a crane's hands has the cart as source or destination; with one plate on the
cart, the bay of the waiting leg that names it is wanted; with the cart empty and none incoming, the bay of the first
waiting TRANSFER_OUT in walk order whose plate is not DOUBTFUL. GO when the cart is not at the wanted side, which then
becomes absent; STAY otherwise. A leg waits when it is QUEUED and the first unfinished leg of a COMMITTED batch. Cart
Arrived (R149): the cart's side becomes the named one, whatever it was, and legs that wait for the cart at that side,
empty or with their plate on it, have it from that moment; another side is BAD_REQUEST. That GO is the byte 0 with the
side after it, and STAY the byte 1 alone, is notes/assumptions/49.md. -/
def Obligations.CartSentAndArrives : Prop :=
  (∀ (s : State) (a : Nat) (st : Station) (tag : Byte), Asks reqNextTrip s a st →
    let stays : Prop :=
      ∃ t, exec (.nextTrip tag (.fields ())) s = .next t ∧ Immediate s t a st tag .done [.choice 1]
        ∧ OnlyChanges lineFields s t
    let wants (bay : Bay) : Prop :=
      if s.cart.side = some bay then stays
      else
        ∃ t, exec (.nextTrip tag (.fields ())) s = .next t ∧ t.cart = { s.cart with side := none }
          ∧ Immediate s t a st tag .done [.choice 0, .choice (match bay with
              | .a => 0
              | .b => 1)]
          ∧ OnlyChanges (lineFields ++ [.cart]) s t
    let waiting (g : Handle) (x : Leg) : Prop :=
      ∃ hb b front rest, s.batch? hb = some b ∧ b.state = .committed ∧ b.legs = front ++ g :: rest
        ∧ (∀ e ∈ front, ∀ y, s.leg? e = some y → y.state.unfinished = false)
        ∧ s.leg? g = some x ∧ x.state = .queued
    let out (g : Handle) (x : Leg) : Prop :=
      waiting g x ∧ x.kind = .transferOut
        ∧ ∃ p r, x.plate = some p ∧ s.plate? p = some r ∧ r.st.doubtful = false
    let inUse : Prop :=
      ∃ g x, s.leg? g = some x ∧ x.state.inHand = true ∧ (x.source = some .cart ∨ x.target = some .cart)
    (inUse → stays)
    ∧ (∀ p, ¬inUse → s.cart.plates = [p] →
        (∀ g x, waiting g x → x.plate = some p → (∀ e y, waiting e y → y.plate = some p → y.bay = x.bay) →
          wants x.bay)
        ∧ ((∀ g x, waiting g x → x.plate ≠ some p) → stays))
    ∧ (¬inUse → s.cart.plates = [] → s.cart.incoming = [] →
        (∀ g x, out g x →
          (∀ e y, out e y → y.bay = x.bay ∨ keysBefore (s.walkKeys x) (s.walkKeys y) = true) → wants x.bay)
        ∧ ((∀ g x, ¬out g x) → stays))
    ∧ (2 ≤ s.cart.plates.length ∨ (s.cart.plates = [] ∧ s.cart.incoming ≠ []) → stays))
  ∧ ∀ (s : State) (a : Nat) (st : Station) (tag : Byte) (v : Nat), Asks reqCartArrived s a st →
    (∀ bay, (v = 0 ∧ bay = Bay.a) ∨ (v = 1 ∧ bay = Bay.b) →
      ∃ t, exec (.cartArrived tag (.fields v)) s = .next t
        ∧ t.cart = { s.cart with side := some bay }
        ∧ t.reaches bay .cart = true ∧ t.reaches bay.other .cart = false
        ∧ t.cartReady bay = s.cartHasRoom ∧ t.cartReady bay.other = false
        ∧ Immediate s t a st tag .done []
        ∧ OnlyChanges (lineFields ++ [.cart]) s t
        ∧ (s.cart.side = some bay → OnlyChanges lineFields s t))
    ∧ (2 ≤ v → ∃ t, exec (.cartArrived tag (.fields v)) s = .next t
        ∧ Immediate s t a st tag .badRequest [] ∧ OnlyChanges lineFields s t)

/-- Crane Report (R155, R156, R157, R152): the position is clamped to the runway; an OFFLINE crane comes online
where its idle claim is grantable, and is STOPPED with ZONE_BREACH raised where not; an IDLE crane takes its idle
claim where grantable, else keeps its claim and is STOPPED; a crane with a leg keeps its claim and is STOPPED while
its idle claim at the position lies outside. For a crane that is not OFFLINE, ZONE_BREACH is raised where STOPPED was
clear; for an OFFLINE one, whatever STOPPED was (notes/assumptions/39.md). The answer carries the clamped position,
the claim, and the permit that stands: GO with a claim and STOPPED clear. -/
def Obligations.CraneReportJudged : Prop :=
  ∀ (s u : State) (a : Nat) (st : Station) (tag : Byte) (v : Int) (c p : Nat) (k : Crane),
    Asks reqCraneReport s a st → u = s.heard a → c = st.unit.getD 0 → c ≤ 5 → k = s.crane c →
    p = (min (max v 0) (match (s.craneCfg c).runway with
      | .a => s.hall.runways.onA
      | .b => s.hall.runways.onB : Nat)).toNat →
    ∃ t, exec (.craneReport tag (.fields v)) s = .next t
      ∧ (k.state = .offline → Apart u c (idleAt s c p) →
          t.crane c = { k with state := .idle, position := some p, claim := some (idleAt s c p), stopped := false }
            ∧ t.flags = s.flags)
      ∧ (k.state = .offline → ¬Apart u c (idleAt s c p) →
          t.crane c = { k with stopped := true } ∧ t.flags = s.flags ||| Alarm.zoneBreach.bit)
      ∧ (k.state = .idle → Apart u c (idleAt s c p) →
          t.crane c = { k with position := some p, claim := some (idleAt s c p), stopped := false }
            ∧ t.flags = s.flags)
      ∧ (k.state = .idle → ¬Apart u c (idleAt s c p) →
          t.crane c = { k with position := some p, stopped := true }
            ∧ t.flags = (if k.stopped then s.flags else s.flags ||| Alarm.zoneBreach.bit))
      ∧ (k.state ∈ [CraneState.assigned, .loaded, .check] → Covers k (idleAt s c p) →
          t.crane c = { k with position := some p, stopped := false } ∧ t.flags = s.flags)
      ∧ (k.state ∈ [CraneState.assigned, .loaded, .check] → ¬Covers k (idleAt s c p) →
          t.crane c = { k with position := some p, stopped := true }
            ∧ t.flags = (if k.stopped then s.flags else s.flags ||| Alarm.zoneBreach.bit))
      ∧ (∀ d, d ≠ c → t.crane d = s.crane d)
      ∧ Immediate s t a st tag .done (.num 2 p :: match (t.crane c).claim with
          | none => [.choice 0]
          | some q => [.choice 1, .num 2 q.lo, .num 2 q.hi])
      ∧ t.permit c = (if (t.crane c).claim = none ∨ (t.crane c).stopped = true then .stop else .go)
      ∧ OnlyChanges (lineFields ++ [.cranes, .flags]) s t

/-! ## The Hall Map (section 10.3) and the alarm settings (section 11.3) -/

/-- Set Grade, Set Table, Set Cart, Set Scrap Bin, Set Runway and Set Alert Mask taken (R27, R179, R185): the new
contents stand at once, the group's image is queued, and the answer waits for it; a request that changes no field
is complete at once. Set Cart names a bay and the cart's position on its runway (notes/assumptions/15.md). -/
def Obligations.SettingsReplaced : Prop :=
  ∀ (s : State) (a : Nat) (st : Station) (tag : Byte), s.pfw = false →
    let sets (c : Instr) (r : Req) (g : Group) (same : Prop) (new : HallMap) : Prop :=
      Asks r s a st →
        (same → ∃ t, exec c s = .next t ∧ AtOnce r s t a st tag .done [] ∧ OnlyChanges lineFields s t)
        ∧ (¬same → ∃ t, exec c s = .next t ∧ t.hall = new
            ∧ Awaits r s t a st tag [.group g] .done [] ∧ t.queue = joining s.queue [.group g]
            ∧ OnlyChanges (lineFields ++ [.hall, .queue]) s t)
    (∀ (f : SetGradeF) (old new : Grade), f.grade ≤ 63 → 1 ≤ f.label.length → f.label.length ≤ 8 →
      textOk f.label = true → f.family ≤ 255 → 1000 ≤ f.density → f.density ≤ 9999 → 300 ≤ f.minLength →
      f.minLength ≤ 6000 → 200 ≤ f.minWidth → f.minWidth ≤ 3000 → f.clearance ≤ 50 → old = s.grade f.grade →
      new = ⟨f.label, f.family, f.density, f.minLength, f.minWidth, f.clearance⟩ →
      ((old.density = new.density ∧ old.family = new.family ∧ old.clearance = new.clearance)
        ∨ ∀ h r, s.plate? h = some r → r.st.disposition = .stock → r.ident.grade ≠ f.grade) →
      sets (.setGrade tag (.fields f)) reqSetGrade .grades (old = new)
        { s.hall with grades := s.hall.grades.set f.grade new })
    ∧ (∀ (f : SetTableF), f.table ≤ 7 → f.bed0 ≤ 4000 → f.bed1 ≤ 4000 →
      sets (.setTable tag (.fields f)) reqSetTable .tables (s.hall.tables.get? f.table = some ⟨f.bed0, f.bed1⟩)
        { s.hall with tables := s.hall.tables.set f.table ⟨f.bed0, f.bed1⟩ })
    ∧ (∀ (v : Nat), v ≤ 4000 →
      sets (.setCart tag (.fields ⟨0, v⟩)) reqSetCart .cart (s.hall.cart.onA = v)
        { s.hall with cart := { s.hall.cart with onA := v } }
      ∧ sets (.setCart tag (.fields ⟨1, v⟩)) reqSetCart .cart (s.hall.cart.onB = v)
        { s.hall with cart := { s.hall.cart with onB := v } })
    ∧ (∀ (v : Nat), v ≤ 4000 →
      sets (.setScrapBin tag (.fields ⟨0, v⟩)) reqSetScrapBin .bins (s.hall.bins.onA = v)
        { s.hall with bins := { s.hall.bins with onA := v } }
      ∧ sets (.setScrapBin tag (.fields ⟨1, v⟩)) reqSetScrapBin .bins (s.hall.bins.onB = v)
        { s.hall with bins := { s.hall.bins with onB := v } })
    ∧ (∀ (v : Nat), 1 ≤ v → v ≤ 4000 →
      sets (.setRunway tag (.fields ⟨0, v⟩)) reqSetRunway .runways (s.hall.runways.onA = v)
        { s.hall with runways := { s.hall.runways with onA := v } }
      ∧ sets (.setRunway tag (.fields ⟨1, v⟩)) reqSetRunway .runways (s.hall.runways.onB = v)
        { s.hall with runways := { s.hall.runways with onB := v } })
    ∧ ∀ (v : Nat) (on : Bool), v < 4096 →
      sets (.setAlertMask tag (.fields ⟨v, if on then 1 else 0⟩)) reqSetAlertMask .alarms
        (s.hall.alarms = ⟨BitVec.ofNat 12 v, on⟩)
        { s.hall with alarms := ⟨BitVec.ofNat 12 v, on⟩ }

/-- The refusals of the Set requests with PFW clear (R179, R180, R185): BAD_REQUEST for a number beyond its range, and
for a label that is empty, too long or outside the alphabet; IN_USE for a grade in use whose density, family or
clearance would change, and for a slot whose contents the new bounds or bay would not fit. Set Crane's IN_USE stands
in Obligations.SetCraneApplies. Set Cart names a bay and a position (notes/assumptions/15.md). -/
def Obligations.SettingsRefused : Prop :=
  ∀ (s : State) (a : Nat) (st : Station) (tag : Byte),
    let refused (c : Instr) (r : Req) (code : AnsCode) : Prop :=
      Asks r s a st →
        ∃ t, exec c s = .next t ∧ Immediate s t a st tag code [] ∧ OnlyChanges lineFields s t
    s.pfw = false →
      (∀ f : SetGradeF, 63 < f.grade ∨ f.label.length = 0 ∨ 8 < f.label.length
          ∨ (∃ ch ∈ f.label, ¬((65 ≤ ch.toNat ∧ ch.toNat ≤ 90) ∨ (48 ≤ ch.toNat ∧ ch.toNat ≤ 57) ∨ ch.toNat = 45))
          ∨ f.density < 1000 ∨ 9999 < f.density ∨ f.minLength < 300 ∨ 6000 < f.minLength ∨ f.minWidth < 200
          ∨ 3000 < f.minWidth ∨ 50 < f.clearance → refused (.setGrade tag (.fields f)) reqSetGrade .badRequest)
      ∧ (∀ f : SetSlotF, 95 < f.slot ∨ 1 < f.bay ∨ 4000 < f.position ∨ 2 < f.purpose ∨ f.capacity < 1
          ∨ 12 < f.capacity ∨ f.limit < 1 ∨ 4000000 < f.limit →
          refused (.setSlot tag (.fields f)) reqSetSlot .badRequest)
      ∧ (∀ f : SetTableF, 7 < f.table ∨ 4000 < f.bed0 ∨ 4000 < f.bed1 →
          refused (.setTable tag (.fields f)) reqSetTable .badRequest)
      ∧ (∀ f : SetCraneF, 5 < f.crane ∨ 1 < f.runway ∨ 2 < f.order ∨ f.swl < 1 ∨ 4000000 < f.swl ∨ f.tare < 1
          ∨ 1000000 < f.tare ∨ f.hw < 1 ∨ 500 < f.hw ∨ f.minThickness < 30 ∨ 1500 < f.minThickness →
          refused (.setCrane tag (.fields f)) reqSetCrane .badRequest)
      ∧ (∀ f : SetBayF, 1 < f.bay ∨ 4000 < f.value →
          refused (.setCart tag (.fields f)) reqSetCart .badRequest)
      ∧ (∀ f : SetBayF, 1 < f.bay ∨ 4000 < f.value →
          refused (.setScrapBin tag (.fields f)) reqSetScrapBin .badRequest)
      ∧ (∀ f : SetBayF, 1 < f.bay ∨ f.value < 1 ∨ 4000 < f.value →
          refused (.setRunway tag (.fields f)) reqSetRunway .badRequest)
      ∧ (∀ f : AlertF, 4096 ≤ f.mask ∨ 2 ≤ f.enable →
          refused (.setAlertMask tag (.fields f)) reqSetAlertMask .badRequest)
      ∧ (∀ (f : SetGradeF) (h : Handle) (r : PlateRec), f.inRanges = true → s.plate? h = some r →
          r.st.disposition = .stock → r.ident.grade = f.grade →
          (s.grade f.grade).density ≠ f.density ∨ (s.grade f.grade).family ≠ f.family
            ∨ (s.grade f.grade).clearance ≠ f.clearance →
          refused (.setGrade tag (.fields f)) reqSetGrade .inUse)
      ∧ (∀ (f : SetSlotF) (v : SlotCfg), f.entry = some v →
          v.capacity < (s.slot f.slot).stack.length + (s.slot f.slot).incoming.length
            ∨ v.limit < s.stackMass f.slot + s.incomingMass f.slot
            ∨ (v.bay ≠ (s.slotCfg f.slot).bay
              ∧ ((s.slot f.slot).stack ≠ [] ∨ (s.slot f.slot).incoming ≠ [])) →
          refused (.setSlot tag (.fields f)) reqSetSlot .inUse)

/-- Set Slot taken (R55, R179, R180): the new configuration stands at once, the stack and the incoming list as
they were; an over-capacity mark goes, since the refusals leave the load of the slot within the new bounds. -/
def Obligations.SetSlotApplies : Prop :=
  ∀ (s : State) (a : Nat) (st : Station) (tag : Byte) (f : SetSlotF) (new : SlotCfg),
    Asks reqSetSlot s a st → s.pfw = false → f.slot ≤ 95 →
    (f.bay = 0 ∧ new.bay = .a) ∨ (f.bay = 1 ∧ new.bay = .b) →
    (f.purpose = 0 ∧ new.purpose = .stock) ∨ (f.purpose = 1 ∧ new.purpose = .remnant)
      ∨ (f.purpose = 2 ∧ new.purpose = .intake) →
    f.position ≤ 4000 → new.position = f.position → 1 ≤ f.capacity → f.capacity ≤ 12 →
    new.capacity = f.capacity → 1 ≤ f.limit → f.limit ≤ 4000000 → new.limit = f.limit →
    (s.slot f.slot).stack.length + (s.slot f.slot).incoming.length ≤ f.capacity →
    s.stackMass f.slot + s.incomingMass f.slot ≤ f.limit →
    new.bay = (s.slotCfg f.slot).bay ∨ ((s.slot f.slot).stack = [] ∧ (s.slot f.slot).incoming = []) →
    (s.slotCfg f.slot = new →
      ∃ t, exec (.setSlot tag (.fields f)) s = .next t ∧ AtOnce reqSetSlot s t a st tag .done []
        ∧ OnlyChanges lineFields s t)
    ∧ (s.slotCfg f.slot ≠ new →
      ∃ t, exec (.setSlot tag (.fields f)) s = .next t
        ∧ t.hall = { s.hall with slots := s.hall.slots.set f.slot new }
        ∧ t.slot f.slot = { s.slot f.slot with overCap := false }
        ∧ (∀ k, k ≠ f.slot → t.slot k = s.slot k)
        ∧ Awaits reqSetSlot s t a st tag [.group .slots] .done []
        ∧ t.queue = joining s.queue [.group .slots]
        ∧ OnlyChanges (lineFields ++ [.hall, .slots, .queue]) s t)

/-- Set Crane (R151, R179, R180): the new configuration stands at once; a crane that leaves its runway has no
position and no claim, and STOPPED clear; another crane that stands at the new place takes the former one, in the
same action. IN_USE while the crane or the one exchanged with it has a claim or a leg, and for SWL or tare while
the crane has a leg. A claim already granted keeps its bounds. -/
def Obligations.SetCraneApplies : Prop :=
  ∀ (s : State) (a : Nat) (st : Station) (tag : Byte) (f : SetCraneF) (old new : CraneCfg),
    Asks reqSetCrane s a st → s.pfw = false → f.crane ≤ 5 → old = s.craneCfg f.crane →
    new = ⟨if f.runway = 0 then .a else .b, f.order, f.swl, f.tare, f.hw, f.minThickness⟩ → f.runway ≤ 1 →
    f.order ≤ 2 → 1 ≤ f.swl → f.swl ≤ 4000000 → 1 ≤ f.tare → f.tare ≤ 1000000 → 1 ≤ f.hw → f.hw ≤ 500 →
    30 ≤ f.minThickness → f.minThickness ≤ 1500 →
    (∀ c d, c ≤ 5 → d ≤ 5 → (s.craneCfg c).runway = (s.craneCfg d).runway →
      (s.craneCfg c).order = (s.craneCfg d).order → c = d) →
    let busy (c : Nat) : Prop := (s.crane c).claim ≠ none ∨ (s.crane c).leg ≠ none
    let placed (c : Nat) : Prop := c ≤ 5 ∧ c ≠ f.crane ∧ (s.craneCfg c).runway = new.runway
      ∧ (s.craneCfg c).order = new.order
    let inUse : Prop :=
      ((old.runway ≠ new.runway ∨ old.order ≠ new.order) ∧ busy f.crane)
        ∨ ((old.swl ≠ new.swl ∨ old.tare ≠ new.tare) ∧ (s.crane f.crane).leg ≠ none)
        ∨ (∃ d, placed d ∧ busy d)
    (inUse → ∃ t, exec (.setCrane tag (.fields f)) s = .next t ∧ Immediate s t a st tag .inUse []
      ∧ OnlyChanges lineFields s t)
    ∧ (¬inUse → old = new → ∃ t, exec (.setCrane tag (.fields f)) s = .next t
      ∧ AtOnce reqSetCrane s t a st tag .done [] ∧ OnlyChanges lineFields s t)
    ∧ (¬inUse → old ≠ new → ∃ t, exec (.setCrane tag (.fields f)) s = .next t
      ∧ t.craneCfg f.crane = new
      ∧ (∀ d, placed d →
          t.craneCfg d = { s.craneCfg d with runway := old.runway, order := old.order })
      ∧ (∀ c, c ≠ f.crane → ¬placed c → t.craneCfg c = s.craneCfg c ∧ t.crane c = s.crane c)
      ∧ (∀ c, c = f.crane ∨ placed c →
          t.crane c = if old.runway = new.runway then s.crane c
            else { s.crane c with position := none, claim := none, stopped := false })
      ∧ t.hall = { s.hall with cranes := t.hall.cranes }
      ∧ Awaits reqSetCrane s t a st tag [.group .cranes] .done []
      ∧ t.queue = joining s.queue [.group .cranes]
      ∧ OnlyChanges (lineFields ++ [.hall, .cranes, .queue]) s t)

/-! ## The Record Store (section 10.2) -/

/-- The Record Store judges and writes images (R175, R176, R13, R14). An image no write has reached is absent; a word
with two flipped bits, or one that no write has reached beside others, makes it bad; so does a CRC that does not
match; otherwise it is good, and corrected when some word had a flipped bit. With no write in flight, PFW clear and
the queue not empty, the head image leaves the queue and its write takes words that read back as the record of that
moment, or for a FREE plate entry as its image as read and repaired (log 8). A write leaves words as they were, or
new, and bits flipped, as its fate says; an image read back good, with the words that were written, is done; a first
mismatch is written again with the same words (the model's reading, log 6), its words standing as the fate left them
(log 5); a second one fails, raises STORE_WRITE_FAULT and changes no record. A deferred request waits for each image
until a write of it that began after the change has ended; with no image left its final answer, DONE_UNSAVED in place
of DONE where a write failed, stands in the slot that is IN_FLIGHT for it. The model's choices: a write that cannot
begin, or a request that cannot complete, is refused as not enabled (log 1); the command names which request completes
(log 38); the fate of a write is its operand (log 4); the layout of the words is that of log 7. -/
def Obligations.WritesRunAndComplete : Prop :=
  (∀ m : Image,
      ((∀ c ∈ m, c = none) → m.judge = .absent)
      ∧ ((∃ c ∈ m, c ≠ none) → none ∈ m ∨ (∃ c, some c ∈ m ∧ ¬c.oneFlip) → m.judge = .bad)
      ∧ ∀ (cells : List Cell) (ws : List (BitVec 64)) (crc : BitVec 64), m = cells.map some →
        (∀ c ∈ cells, c.oneFlip) → cells.map Cell.data = ws ++ [crc] →
        (crc ≠ (crc16 (ws.flatMap wordBytes)).setWidth 64 → m.judge = .bad)
        ∧ (crc = (crc16 (ws.flatMap wordBytes)).setWidth 64 →
            ((∀ c ∈ cells, c.flipped = 0#72) → m.judge = .sound ws)
            ∧ ((∃ c ∈ cells, c.flipped ≠ 0#72) → m.judge = .corrected ws)))
    ∧ (∀ (s : State) (i : ImageId) (rest : List ImageId), s.phase = .startup ∨ s.phase = .running →
      s.restartPending = false → s.pfw = false → s.inFlight = none → s.queue = i :: rest →
      ∃ t w, exec .writeStart s = .next t ∧ t.queue = rest ∧ t.inFlight = some w
        ∧ w.image = i ∧ w.attempt = 1 ∧ (Fits s i → Holds s i w.words)
        ∧ (∀ n e, i = .genWord n ∨ i = .identity n ∨ i = .state n → s.plates.get? n = some e → e.record = none →
            ∀ cells : List Cell, s.store.image i = cells.map some → w.words = cells.map Cell.data)
        ∧ t.deferred = s.deferred.map (fun d =>
            { d with waits := d.waits.map fun x => if x.image = i then { x with begun := true } else x })
        ∧ OnlyChanges [.queue, .inFlight, .deferred] s t)
    ∧ (∀ s : State, s.pfw = true ∨ s.queue = [] ∨ s.inFlight ≠ none →
      exec .writeStart s = .refused (.notEnabled .writeNotDue))
    ∧ (∀ (s : State) (w : Write) (fate : WriteFate), s.phase = .startup ∨ s.phase = .running →
      s.inFlight = some w → w.image.ok = true →
      let ended (t : State) (failed : Bool) : Prop :=
        t.inFlight = none
          ∧ t.deferred = s.deferred.map (fun q =>
              { q with
                waits := q.waits.filter fun x => !(x.image == w.image && x.begun)
                failed := q.failed || (failed && q.waits.any fun x => x.image == w.image && x.begun) })
          ∧ t.flags = (if failed then s.flags ||| Alarm.storeWriteFault.bit else s.flags)
          ∧ OnlyChanges [.store, .inFlight, .deferred, .flags] s t
      ∃ t, exec (.writeEnd fate) s = .next t
        ∧ Replaced s.store t.store w.image (Reaches (s.store.image w.image) w.words fate)
        ∧ (∀ ws crc, w.words = ws ++ [crc] →
            ((t.store.image w.image).judge = .sound ws ∨ (t.store.image w.image).judge = .corrected ws →
              ended t false)
            ∧ ((t.store.image w.image).judge ≠ .sound ws → (t.store.image w.image).judge ≠ .corrected ws →
              (2 ≤ w.attempt → ended t true)
              ∧ (w.attempt < 2 → t.inFlight = some { w with attempt := w.attempt + 1 }
                  ∧ OnlyChanges [.store, .inFlight] s t)))
        ∧ (∀ ws, w.words = ws ++ [(crc16 (ws.flatMap wordBytes)).setWidth 64] → fate = ⟨[], []⟩ →
            t.store.image w.image = Image.fresh w.words ∧ ended t false))
    ∧ ∀ (s : State) (n : Nat) (d : Deferred), s.phase = .running → s.deferred[n]? = some d →
      (d.waits ≠ [] → exec (.deferredComplete n) s = .refused (.notEnabled .notComplete))
      ∧ (d.waits = [] → ∃ t, exec (.deferredComplete n) s = .next t
        ∧ t.deferred = s.deferred.eraseIdx n
        ∧ (∀ a st, d.station = some a → s.station? a = some st → st.slot = .inFlight d.tag →
            (∀ held, held = AnsSlot.held d.tag d.request
                (if d.failed = true ∧ d.code = .done then .doneUnsaved else d.code) d.fields →
              t.station? a = some { st with slot := held })
            ∧ ∀ b, b ≠ a → t.station? b = s.station? b)
        ∧ (d.station = none ∨ (∃ a st, d.station = some a ∧ s.station? a = some st
              ∧ st.slot ≠ .inFlight d.tag) → t.stations = s.stations)
        ∧ OnlyChanges [.stations, .deferred] s t)

/-! ## Pins, resets and start-up (sections 10.2 and 10.4) -/

/-- PFW, and what a reset leaves (R177, R178). PFW becoming asserted raises POWER_WARNING; its release changes nothing
else. Restart is answered DONE, and then nothing is polled and no new write begins. A reset by RST and a loss of power
end all activity at once, deassert ALERT (R186) and clear every volatile collection; the write in flight has reached
every word of its image, some of them, or none. In reset and without supply, RST is held or not and nothing else
changes. The model's choices: after Restart is answered, POLL and WRITE_START are refused (log 22); POWER_WARNING is
raised at the edge of PFW, and a pin in the level it is told changes nothing (log 23); the fields of a part in reset or
without supply are held cleared (log 24); the fate of the write is the command's operand (log 4). The release of RST in
reset begins start-up, as Obligations.ResetsAreFollowedByStartup states. -/
def Obligations.PinsAndResets : Prop :=
  (∀ s : State,
      (∃ t, exec .pfwAssert s = .next t ∧ t.pfw = true
        ∧ t.flags = (if s.pfw = false ∧ (s.phase = .startup ∨ s.phase = .running) then
            s.flags ||| Alarm.powerWarning.bit else s.flags)
        ∧ OnlyChanges [.pfw, .flags] s t)
      ∧ ∃ t, exec .pfwRelease s = .next t ∧ t.pfw = false ∧ OnlyChanges [.pfw] s t)
    ∧ (∀ (s : State) (a : Nat) (st : Station) (tag : Byte), Asks reqRestart s a st →
      ∃ t, exec (.restart tag (.fields ())) s = .next t ∧ t.restartPending = true
        ∧ Immediate s t a st tag .done [] ∧ OnlyChanges (lineFields ++ [.restartPending]) s t
        ∧ exec .poll t = .refused (.notEnabled .notRunning)
        ∧ exec .writeStart t = .refused (.notEnabled .writeNotDue))
    ∧ (∀ (s : State) (fate : WriteFate) (c : Instr) (ph : Phase),
      (c = .rstAssert fate ∧ ph = .inReset ∧ (s.phase = .startup ∨ s.phase = .running))
        ∨ (c = .powerLoss fate ∧ ph = .off ∧ s.phase ≠ .off) →
      ∃ t, exec c s = .next t ∧ t.phase = ph ∧ t.alert = false ∧ CollectionsEmpty t ∧ t.queue = []
        ∧ t.rst = (s.rst || decide (ph = .inReset)) ∧ t.pfw = s.pfw ∧ t.pending = s.pending
        ∧ (s.inFlight = none → t.store = s.store)
        ∧ ∀ w, s.inFlight = some w → w.image.ok = true →
            Replaced s.store t.store w.image (Reaches (s.store.image w.image) w.words fate))
    ∧ ∀ (s : State) (fate : WriteFate) (d : Decay),
      (s.phase = .off ∨ s.phase = .inReset →
        ∃ t, exec (.rstAssert fate) s = .next t ∧ t.rst = true ∧ OnlyChanges [.rst] s t)
      ∧ (s.phase ≠ .inReset →
        ∃ t, exec (.rstRelease d) s = .next t ∧ t.rst = false ∧ OnlyChanges [.rst] s t)

/-- Every reset is followed by start-up (R178, R182 steps 5 and 6, R163): every volatile collection is empty; the
station table holds exactly the stations of the stored group, or address 1 alone as a SUPERVISOR of weight 1 where its
image is bad or absent, each with no miss, not SILENT and its slot EMPTY; RESTARTED is set, POWER_WARNING stands with
PFW, no flag stands but those that start-up raises, and ALERT is asserted from then on as the flags, the mask and the
enable then loaded have it (R186). With RST held at power-on the part stays in reset, ALERT deasserted. Start-up ends
when its queue is empty and no write is in flight, and the part then runs. The model's choices: POWER_WARNING is set
while PFW stands as start-up begins (log 32); of two stored entries of one address the first counts (log 30); start-up
lasts until the last write in flight has ended, where R182 names the queue alone (log 54); STARTUP_END before its time
is refused as not enabled (log 1). -/
def Obligations.ResetsAreFollowedByStartup : Prop :=
  (∀ (c : Instr) (s : State) (x : Store), StartsUp c s x →
      ∃ t, exec c s = .next t ∧ t.phase = .startup ∧ CollectionsEmpty t ∧ t.store = x
        ∧ t.pfw = s.pfw ∧ t.pending = s.pending
        ∧ (∀ a kind unit weight, 1 ≤ a → a ≤ 32 → ∀ l, x.readStations.value = some l →
            (l.find? fun e => e.address == a) = some ⟨a, kind, unit, weight⟩ →
            t.station? a = some ⟨kind, unit, weight, 0, false, .empty⟩)
        ∧ (∀ a l, x.readStations.value = some l → (∀ e ∈ l, e.address ≠ a) → t.station? a = none)
        ∧ (x.readStations.value = none → t.station? 1 = some ⟨.supervisor, none, 1, 0, false, .empty⟩
            ∧ ∀ a, a ≠ 1 → t.station? a = none)
        ∧ (∀ a st, t.station? a = some st → 1 ≤ a ∧ a ≤ 32 ∧ st.misses = 0 ∧ st.silent = false ∧ st.slot = .empty)
        ∧ flagIn t.flags .restarted = true ∧ flagIn t.flags .powerWarning = s.pfw
        ∧ (∀ f ∈ [Alarm.storeWriteFault, .stationSilent, .linkError, .zoneBreach, .loadMismatch, .unmarkedCut,
            .legStarving], flagIn t.flags f = false)
        ∧ (t.alert = true ↔ t.hall.alarms.enable = true
            ∧ ∃ f : Alarm, flagIn t.flags f = true ∧ flagIn t.hall.alarms.mask f = true))
    ∧ (∀ (s : State) (d : Decay), s.phase = .off → s.rst = true →
      ∃ t, exec (.powerOn d) s = .next t ∧ t.phase = .inReset ∧ t.alert = false ∧ t.rst = true
        ∧ t.store = s.store.decay d)
    ∧ (∀ (s : State) (d : Decay), s.phase = .inReset → ∃ t, exec (.rstRelease d) s = .next t ∧ t.rst = false)
    ∧ (∀ s : State, s.phase = .startup → s.queue = [] → s.inFlight = none →
      ∃ t, exec .startupEnd s = .next t ∧ t.phase = .running ∧ OnlyChanges [.phase] s t)
    ∧ ∀ s : State, s.phase ≠ .startup ∨ s.queue ≠ [] ∨ s.inFlight ≠ none →
      exec .startupEnd s = .refused (.notEnabled .startupNotDone)

/-- What start-up makes of the array (R181, R182 steps 1, 2 and 4, R4, R26): each Hall Map group as stored, or its
factory defaults, queued unless its image was sound; each plate entry FREE, kept, or kept in doubt with its state
lost; a plate stored on a hook or a bed DOUBTFUL; the STOCK parent of a STOCK derived plate RETIRED; the counter
one past the header floor and every stored sequence number, and the header image queued with it. Which plate images are
queued: the corrected ones, the word of a kept record where it was not good, and the state image that was lost, whose
plate was made DOUBTFUL or RETIRED, or whose plate took another level in its stack (R182 step 3). The model's choices:
step 2 is judged on the records as it begins (log 9); an absent generation word counts as one that is not good, and
gives generation 0 (log 37); what words spell is the layout of log 7. -/
def Obligations.StartupReadsTheArray : Prop :=
  ∀ (c : Instr) (s : State) (x : Store), StartsUp c s x → ∃ t, exec c s = .next t
    ∧ t.hall = ⟨x.readGrades.value.getD HallMap.factory.grades, x.readSlots.value.getD HallMap.factory.slots,
        x.readTables.value.getD HallMap.factory.tables, x.readCranes.value.getD HallMap.factory.cranes,
        x.readCart.value.getD HallMap.factory.cart, x.readBins.value.getD HallMap.factory.bins,
        x.readRunways.value.getD HallMap.factory.runways, x.readAlarms.value.getD HallMap.factory.alarms⟩
    ∧ (∀ g, .group g ∈ t.queue ↔ x.groupCondition g ≠ .sound)
    ∧ (∀ (i : Nat) (p : StoredPlate), x.readPlates.get? i = some p →
        ((∀ g ident, ¬p.Names g ident) →
          t.plates.get? i = some ⟨match p.genWord.value with
            | some w => (w + 1) % 64
            | none => 0, none⟩)
        ∧ ∀ g ident, p.Names g ident → ∃ r, t.plates.get? i = some ⟨g, some r⟩
          ∧ r.ident = ident ∧ r.job = none ∧ r.leg = none
          ∧ ((∀ st, p.state.value ≠ some (g, st)) →
              r.st.panels = none ∧ r.st.area = none ∧ r.st.location = .nowhere ∧ r.st.held = false
                ∧ r.st.massDoubt = false ∧ r.st.doubtful = true ∧ r.mass = none ∧ .state i ∈ t.queue
                ∧ (¬Derives x ⟨i, g⟩ → r.st.disposition = .stock))
          ∧ (∀ st, p.state.value = some (g, st) →
              r.st.panels = st.panels ∧ r.st.area = st.area ∧ r.st.held = st.held
                ∧ r.st.massDoubt = st.massDoubt
                ∧ r.st.doubtful = (st.doubtful || (st.disposition == .stock && match st.location with
                    | .hook _ => true
                    | .bed _ _ => true
                    | _ => false))
                ∧ (¬Derives x ⟨i, g⟩ ∨ st.disposition ≠ .stock →
                    r.st.disposition = st.disposition
                      ∧ (st.disposition ≠ .stock ∨ (∀ k level, st.location ≠ .slot k level) →
                          r.st.location = st.location)
                      ∧ (∀ area, st.disposition = .stock → st.area = some area →
                          r.mass = some (massOf area ident.thickness (t.grade ident.grade).density))))
          ∧ (Derives x ⟨i, g⟩ → (∀ st, p.state.value = some (g, st) → st.disposition = .stock) →
              r.st.disposition = .retired .consumed ∧ r.st.location = .nowhere ∧ r.mass = none
                ∧ .state i ∈ t.queue))
    ∧ (∀ (i : Nat) (p : StoredPlate), x.readPlates.get? i = some p →
        (.genWord i ∈ t.queue ↔
          p.genWord.condition = .corrected ∨ (p.genWord.value = none ∧ ∃ g ident, p.Names g ident))
        ∧ (.identity i ∈ t.queue ↔ p.identity.condition = .corrected)
        ∧ ((∀ g ident, ¬p.Names g ident) → (.state i ∈ t.queue ↔ p.state.condition = .corrected))
        ∧ ∀ g ident, p.Names g ident →
          (.state i ∈ t.queue ↔ p.state.condition = .corrected ∨ (∀ st, p.state.value ≠ some (g, st))
            ∨ ∃ st, p.state.value = some (g, st) ∧ st.disposition = .stock
              ∧ ((st.doubtful = false ∧ match st.location with
                  | .hook _ => True
                  | .bed _ _ => True
                  | _ => False)
                ∨ Derives x ⟨i, g⟩
                ∨ ∃ r, t.plates.get? i = some ⟨g, some r⟩ ∧ r.st.location ≠ st.location)))
    ∧ (∃ top, t.seqCounter = min (top + 1) 4294967296
        ∧ x.readHeader.value.getD 0 ≤ top
        ∧ (∀ i p g ident, x.readPlates.get? i = some p → p.identity.value = some (g, ident) → ident.seq ≤ top)
        ∧ (top = x.readHeader.value.getD 0
          ∨ ∃ i p g ident, x.readPlates.get? i = some p ∧ p.identity.value = some (g, ident) ∧ ident.seq = top))
    ∧ t.headerFloor = t.seqCounter ∧ .header ∈ t.queue

/-- The places and the alarms that start-up leaves (R182 steps 1, 3 and 6, R54, R181): each slot's stack holds the
STOCK plates stored there, at the levels of their places in it, in the order of their stored levels and sequence
numbers; a plate that does not lie where it was stored has its state image queued; a slot over either bound is marked;
beds and cart hold the STOCK plates stored there; OVER_CAPACITY,
STORE_CORRECTED and RECORD_DOUBTFUL are set exactly for their causes. -/
def Obligations.StartupRebuildsPlaces : Prop :=
  ∀ (c : Instr) (s : State) (x : Store), StartsUp c s x → ∃ t, exec c s = .next t
    ∧ (∀ (k level : Nat) (h : Handle), k ≤ 95 → ((t.slot k).stack[level]? = some h ↔
        ∃ r, t.plate? h = some r ∧ r.st.disposition = .stock ∧ r.st.location = .slot k level))
    ∧ (∀ (k i j : Nat) (h g : Handle) (p q : StoredPlate) (lh lg : Nat) (sh sg : PlateSt) (nh ng : PlateId),
        k ≤ 95 → i < j → (t.slot k).stack[i]? = some h → (t.slot k).stack[j]? = some g →
        x.readPlates.get? h.idx = some p → p.state.value = some (h.gen, sh) → p.identity.value = some (h.gen, nh) →
        sh.location = .slot k lh →
        x.readPlates.get? g.idx = some q → q.state.value = some (g.gen, sg) → q.identity.value = some (g.gen, ng) →
        sg.location = .slot k lg →
        lh < lg ∨ (lh = lg ∧ nh.seq ≤ ng.seq))
    ∧ (∀ i p g st r, x.readPlates.get? i = some p → p.state.value = some (g, st) →
        t.plates.get? i = some ⟨g, some r⟩ → r.st.location ≠ st.location → .state i ∈ t.queue)
    ∧ (∀ k, k ≤ 95 → (t.slot k).overCap
        = (decide ((t.slotCfg k).capacity < (t.slot k).stack.length)
          || decide ((t.slotCfg k).limit < t.stackMass k)))
    ∧ (∀ b d h, b ≤ 7 → d ≤ 1 → (h ∈ (t.bed b d).plates ↔
        ∃ r, t.plate? h = some r ∧ r.st.disposition = .stock ∧ r.st.location = .bed b d))
    ∧ (∀ h, h ∈ t.cart.plates ↔ ∃ r, t.plate? h = some r ∧ r.st.disposition = .stock ∧ r.st.location = .cart)
    ∧ (flagIn t.flags .overCapacity = true ↔ ∃ k, k ≤ 95 ∧ (t.slot k).overCap = true)
    ∧ (flagIn t.flags .storeCorrected = true ↔
        (∃ g, x.groupCondition g = .corrected) ∨ x.readHeader.condition = .corrected
          ∨ ∃ i p, x.readPlates.get? i = some p ∧ (p.genWord.condition = .corrected
            ∨ p.identity.condition = .corrected ∨ p.state.condition = .corrected))
    ∧ (flagIn t.flags .recordDoubtful = true ↔
        (∃ g, x.groupCondition g = .bad)
          ∨ ∃ i p, x.readPlates.get? i = some p ∧ (p.genWord.condition = .bad ∨ p.identity.condition = .bad
            ∨ p.state.condition = .bad
            ∨ (p.state.condition = .absent ∧ ∃ g ident, p.Names g ident)))

/-! ## Invariants and the wire -/

/-- The claims of a runway stay apart: every step keeps that the claims of two cranes of one runway lie apart, in
the order of the cranes, and that a crane with a claim is in service (R131, R151, R153, R163). The clauses about
stored station tables say that no start-up can bring a CRANE station bound to no crane. -/
def Obligations.ClaimsKeptApart : Prop :=
  ∀ s t : State, s.ClaimsApart → step s = .next t → t.ClaimsApart

/-- While the part runs, every flag whose cause stands stays set (R183), and the bounds of the queues hold
(R56, R59, R104, R166, R176): every step keeps both. -/
def Obligations.FlagsAndQueuesKept : Prop :=
  (∀ s t : State, s.FlagsStand → step s = .next t → t.FlagsStand)
    ∧ ∀ s t : State, s.QueuesBounded → step s = .next t → t.QueuesBounded

/-- The state after reset meets the three invariants. It is the model's choice of a factory part whose start-up has
done steps 1 to 6 (notes/assumptions/2.md). -/
def Obligations.ResetMeetsInvariants : Prop :=
  State.reset.ClaimsApart ∧ State.reset.FlagsStand ∧ State.reset.QueuesBounded

/-- A request on the wire (R162, R167, R174): every well-formed request, with every operand at every value its
fields allow, is read back from the payload bytes that spell it; and its frame from the polled station is that
request, from another station a wrong-address frame. The order and widths of fields are the model's reading
(notes/assumptions/16.md). -/
def Obligations.RequestsReadBack : Prop :=
  ∀ (i : Instr) (tag : Byte) (code : Nat) (bytes : List Byte), i.wf = true →
    encodeRequest i = some (tag, code, bytes) →
    decodeRequest tag code bytes = i
      ∧ ∀ a b : Nat, a ≤ 255 → bytes.length ≤ 120 →
        frameCommand b (requestFrame a tag code bytes) = (if a = b then i else .wrongAddressFrame)
          ∧ frameCommand b (idleFrameBytes a) = (if a = b then .idleFrame else .wrongAddressFrame)
end

