-- ==== Sys2Proof/Laws/State.lean ====
section
/-! SUPPORT. What each plain update of the state leaves unchanged: one lemma per field per update, so that no
later proof unfolds a record update. -/

namespace Sys2Proof.Machine

open Sys2Proof

variable (s : State)

@[simp] theorem raise_phase (a : Alarm) : (s.raise a).phase = s.phase := rfl
@[simp] theorem raise_rst (a : Alarm) : (s.raise a).rst = s.rst := rfl
@[simp] theorem raise_pfw (a : Alarm) : (s.raise a).pfw = s.pfw := rfl
@[simp] theorem raise_restartPending (a : Alarm) : (s.raise a).restartPending = s.restartPending := rfl
@[simp] theorem raise_stations (a : Alarm) : (s.raise a).stations = s.stations := rfl
@[simp] theorem raise_round (a : Alarm) : (s.raise a).round = s.round := rfl
@[simp] theorem raise_roundPos (a : Alarm) : (s.raise a).roundPos = s.roundPos := rfl
@[simp] theorem raise_poll (a : Alarm) : (s.raise a).poll = s.poll := rfl
@[simp] theorem raise_lastFrame (a : Alarm) : (s.raise a).lastFrame = s.lastFrame := rfl
@[simp] theorem raise_deferred (a : Alarm) : (s.raise a).deferred = s.deferred := rfl
@[simp] theorem raise_plates (a : Alarm) : (s.raise a).plates = s.plates := rfl
@[simp] theorem raise_seqCounter (a : Alarm) : (s.raise a).seqCounter = s.seqCounter := rfl
@[simp] theorem raise_slots (a : Alarm) : (s.raise a).slots = s.slots := rfl
@[simp] theorem raise_beds (a : Alarm) : (s.raise a).beds = s.beds := rfl
@[simp] theorem raise_cart (a : Alarm) : (s.raise a).cart = s.cart := rfl
@[simp] theorem raise_hall (a : Alarm) : (s.raise a).hall = s.hall := rfl
@[simp] theorem raise_searchQueue (a : Alarm) : (s.raise a).searchQueue = s.searchQueue := rfl
@[simp] theorem raise_scan (a : Alarm) : (s.raise a).scan = s.scan := rfl
@[simp] theorem raise_tables (a : Alarm) : (s.raise a).tables = s.tables := rfl
@[simp] theorem raise_jobs (a : Alarm) : (s.raise a).jobs = s.jobs := rfl
@[simp] theorem raise_drafts (a : Alarm) : (s.raise a).drafts = s.drafts := rfl
@[simp] theorem raise_parts (a : Alarm) : (s.raise a).parts = s.parts := rfl
@[simp] theorem raise_pallets (a : Alarm) : (s.raise a).pallets = s.pallets := rfl
@[simp] theorem raise_windows (a : Alarm) : (s.raise a).windows = s.windows := rfl
@[simp] theorem raise_legs (a : Alarm) : (s.raise a).legs = s.legs := rfl
@[simp] theorem raise_batches (a : Alarm) : (s.raise a).batches = s.batches := rfl
@[simp] theorem raise_commitCounter (a : Alarm) : (s.raise a).commitCounter = s.commitCounter := rfl
@[simp] theorem raise_cranes (a : Alarm) : (s.raise a).cranes = s.cranes := rfl
@[simp] theorem raise_store (a : Alarm) : (s.raise a).store = s.store := rfl
@[simp] theorem raise_headerFloor (a : Alarm) : (s.raise a).headerFloor = s.headerFloor := rfl
@[simp] theorem raise_queue (a : Alarm) : (s.raise a).queue = s.queue := rfl
@[simp] theorem raise_inFlight (a : Alarm) : (s.raise a).inFlight = s.inFlight := rfl
@[simp] theorem raise_pending (a : Alarm) : (s.raise a).pending = s.pending := rfl

@[simp] theorem raiseIf_phase (c : Bool) (a : Alarm) : (s.raiseIf c a).phase = s.phase := by unfold State.raiseIf; split <;> rfl
@[simp] theorem raiseIf_rst (c : Bool) (a : Alarm) : (s.raiseIf c a).rst = s.rst := by unfold State.raiseIf; split <;> rfl
@[simp] theorem raiseIf_pfw (c : Bool) (a : Alarm) : (s.raiseIf c a).pfw = s.pfw := by unfold State.raiseIf; split <;> rfl
@[simp] theorem raiseIf_restartPending (c : Bool) (a : Alarm) : (s.raiseIf c a).restartPending = s.restartPending := by unfold State.raiseIf; split <;> rfl
@[simp] theorem raiseIf_stations (c : Bool) (a : Alarm) : (s.raiseIf c a).stations = s.stations := by unfold State.raiseIf; split <;> rfl
@[simp] theorem raiseIf_round (c : Bool) (a : Alarm) : (s.raiseIf c a).round = s.round := by unfold State.raiseIf; split <;> rfl
@[simp] theorem raiseIf_roundPos (c : Bool) (a : Alarm) : (s.raiseIf c a).roundPos = s.roundPos := by unfold State.raiseIf; split <;> rfl
@[simp] theorem raiseIf_poll (c : Bool) (a : Alarm) : (s.raiseIf c a).poll = s.poll := by unfold State.raiseIf; split <;> rfl
@[simp] theorem raiseIf_lastFrame (c : Bool) (a : Alarm) : (s.raiseIf c a).lastFrame = s.lastFrame := by unfold State.raiseIf; split <;> rfl
@[simp] theorem raiseIf_deferred (c : Bool) (a : Alarm) : (s.raiseIf c a).deferred = s.deferred := by unfold State.raiseIf; split <;> rfl
@[simp] theorem raiseIf_plates (c : Bool) (a : Alarm) : (s.raiseIf c a).plates = s.plates := by unfold State.raiseIf; split <;> rfl
@[simp] theorem raiseIf_seqCounter (c : Bool) (a : Alarm) : (s.raiseIf c a).seqCounter = s.seqCounter := by unfold State.raiseIf; split <;> rfl
@[simp] theorem raiseIf_slots (c : Bool) (a : Alarm) : (s.raiseIf c a).slots = s.slots := by unfold State.raiseIf; split <;> rfl
@[simp] theorem raiseIf_beds (c : Bool) (a : Alarm) : (s.raiseIf c a).beds = s.beds := by unfold State.raiseIf; split <;> rfl
@[simp] theorem raiseIf_cart (c : Bool) (a : Alarm) : (s.raiseIf c a).cart = s.cart := by unfold State.raiseIf; split <;> rfl
@[simp] theorem raiseIf_hall (c : Bool) (a : Alarm) : (s.raiseIf c a).hall = s.hall := by unfold State.raiseIf; split <;> rfl
@[simp] theorem raiseIf_searchQueue (c : Bool) (a : Alarm) : (s.raiseIf c a).searchQueue = s.searchQueue := by unfold State.raiseIf; split <;> rfl
@[simp] theorem raiseIf_scan (c : Bool) (a : Alarm) : (s.raiseIf c a).scan = s.scan := by unfold State.raiseIf; split <;> rfl
@[simp] theorem raiseIf_tables (c : Bool) (a : Alarm) : (s.raiseIf c a).tables = s.tables := by unfold State.raiseIf; split <;> rfl
@[simp] theorem raiseIf_jobs (c : Bool) (a : Alarm) : (s.raiseIf c a).jobs = s.jobs := by unfold State.raiseIf; split <;> rfl
@[simp] theorem raiseIf_drafts (c : Bool) (a : Alarm) : (s.raiseIf c a).drafts = s.drafts := by unfold State.raiseIf; split <;> rfl
@[simp] theorem raiseIf_parts (c : Bool) (a : Alarm) : (s.raiseIf c a).parts = s.parts := by unfold State.raiseIf; split <;> rfl
@[simp] theorem raiseIf_pallets (c : Bool) (a : Alarm) : (s.raiseIf c a).pallets = s.pallets := by unfold State.raiseIf; split <;> rfl
@[simp] theorem raiseIf_windows (c : Bool) (a : Alarm) : (s.raiseIf c a).windows = s.windows := by unfold State.raiseIf; split <;> rfl
@[simp] theorem raiseIf_legs (c : Bool) (a : Alarm) : (s.raiseIf c a).legs = s.legs := by unfold State.raiseIf; split <;> rfl
@[simp] theorem raiseIf_batches (c : Bool) (a : Alarm) : (s.raiseIf c a).batches = s.batches := by unfold State.raiseIf; split <;> rfl
@[simp] theorem raiseIf_commitCounter (c : Bool) (a : Alarm) : (s.raiseIf c a).commitCounter = s.commitCounter := by unfold State.raiseIf; split <;> rfl
@[simp] theorem raiseIf_cranes (c : Bool) (a : Alarm) : (s.raiseIf c a).cranes = s.cranes := by unfold State.raiseIf; split <;> rfl
@[simp] theorem raiseIf_store (c : Bool) (a : Alarm) : (s.raiseIf c a).store = s.store := by unfold State.raiseIf; split <;> rfl
@[simp] theorem raiseIf_headerFloor (c : Bool) (a : Alarm) : (s.raiseIf c a).headerFloor = s.headerFloor := by unfold State.raiseIf; split <;> rfl
@[simp] theorem raiseIf_queue (c : Bool) (a : Alarm) : (s.raiseIf c a).queue = s.queue := by unfold State.raiseIf; split <;> rfl
@[simp] theorem raiseIf_inFlight (c : Bool) (a : Alarm) : (s.raiseIf c a).inFlight = s.inFlight := by unfold State.raiseIf; split <;> rfl
@[simp] theorem raiseIf_pending (c : Bool) (a : Alarm) : (s.raiseIf c a).pending = s.pending := by unfold State.raiseIf; split <;> rfl

@[simp] theorem modifyStation_phase (a : Nat) (f : Station → Station) : (s.modifyStation a f).phase = s.phase := by unfold State.modifyStation; split <;> rfl
@[simp] theorem modifyStation_rst (a : Nat) (f : Station → Station) : (s.modifyStation a f).rst = s.rst := by unfold State.modifyStation; split <;> rfl
@[simp] theorem modifyStation_pfw (a : Nat) (f : Station → Station) : (s.modifyStation a f).pfw = s.pfw := by unfold State.modifyStation; split <;> rfl
@[simp] theorem modifyStation_restartPending (a : Nat) (f : Station → Station) : (s.modifyStation a f).restartPending = s.restartPending := by unfold State.modifyStation; split <;> rfl
@[simp] theorem modifyStation_round (a : Nat) (f : Station → Station) : (s.modifyStation a f).round = s.round := by unfold State.modifyStation; split <;> rfl
@[simp] theorem modifyStation_roundPos (a : Nat) (f : Station → Station) : (s.modifyStation a f).roundPos = s.roundPos := by unfold State.modifyStation; split <;> rfl
@[simp] theorem modifyStation_poll (a : Nat) (f : Station → Station) : (s.modifyStation a f).poll = s.poll := by unfold State.modifyStation; split <;> rfl
@[simp] theorem modifyStation_lastFrame (a : Nat) (f : Station → Station) : (s.modifyStation a f).lastFrame = s.lastFrame := by unfold State.modifyStation; split <;> rfl
@[simp] theorem modifyStation_deferred (a : Nat) (f : Station → Station) : (s.modifyStation a f).deferred = s.deferred := by unfold State.modifyStation; split <;> rfl
@[simp] theorem modifyStation_plates (a : Nat) (f : Station → Station) : (s.modifyStation a f).plates = s.plates := by unfold State.modifyStation; split <;> rfl
@[simp] theorem modifyStation_seqCounter (a : Nat) (f : Station → Station) : (s.modifyStation a f).seqCounter = s.seqCounter := by unfold State.modifyStation; split <;> rfl
@[simp] theorem modifyStation_slots (a : Nat) (f : Station → Station) : (s.modifyStation a f).slots = s.slots := by unfold State.modifyStation; split <;> rfl
@[simp] theorem modifyStation_beds (a : Nat) (f : Station → Station) : (s.modifyStation a f).beds = s.beds := by unfold State.modifyStation; split <;> rfl
@[simp] theorem modifyStation_cart (a : Nat) (f : Station → Station) : (s.modifyStation a f).cart = s.cart := by unfold State.modifyStation; split <;> rfl
@[simp] theorem modifyStation_hall (a : Nat) (f : Station → Station) : (s.modifyStation a f).hall = s.hall := by unfold State.modifyStation; split <;> rfl
@[simp] theorem modifyStation_searchQueue (a : Nat) (f : Station → Station) : (s.modifyStation a f).searchQueue = s.searchQueue := by unfold State.modifyStation; split <;> rfl
@[simp] theorem modifyStation_scan (a : Nat) (f : Station → Station) : (s.modifyStation a f).scan = s.scan := by unfold State.modifyStation; split <;> rfl
@[simp] theorem modifyStation_tables (a : Nat) (f : Station → Station) : (s.modifyStation a f).tables = s.tables := by unfold State.modifyStation; split <;> rfl
@[simp] theorem modifyStation_jobs (a : Nat) (f : Station → Station) : (s.modifyStation a f).jobs = s.jobs := by unfold State.modifyStation; split <;> rfl
@[simp] theorem modifyStation_drafts (a : Nat) (f : Station → Station) : (s.modifyStation a f).drafts = s.drafts := by unfold State.modifyStation; split <;> rfl
@[simp] theorem modifyStation_parts (a : Nat) (f : Station → Station) : (s.modifyStation a f).parts = s.parts := by unfold State.modifyStation; split <;> rfl
@[simp] theorem modifyStation_pallets (a : Nat) (f : Station → Station) : (s.modifyStation a f).pallets = s.pallets := by unfold State.modifyStation; split <;> rfl
@[simp] theorem modifyStation_windows (a : Nat) (f : Station → Station) : (s.modifyStation a f).windows = s.windows := by unfold State.modifyStation; split <;> rfl
@[simp] theorem modifyStation_legs (a : Nat) (f : Station → Station) : (s.modifyStation a f).legs = s.legs := by unfold State.modifyStation; split <;> rfl
@[simp] theorem modifyStation_batches (a : Nat) (f : Station → Station) : (s.modifyStation a f).batches = s.batches := by unfold State.modifyStation; split <;> rfl
@[simp] theorem modifyStation_commitCounter (a : Nat) (f : Station → Station) : (s.modifyStation a f).commitCounter = s.commitCounter := by unfold State.modifyStation; split <;> rfl
@[simp] theorem modifyStation_cranes (a : Nat) (f : Station → Station) : (s.modifyStation a f).cranes = s.cranes := by unfold State.modifyStation; split <;> rfl
@[simp] theorem modifyStation_store (a : Nat) (f : Station → Station) : (s.modifyStation a f).store = s.store := by unfold State.modifyStation; split <;> rfl
@[simp] theorem modifyStation_headerFloor (a : Nat) (f : Station → Station) : (s.modifyStation a f).headerFloor = s.headerFloor := by unfold State.modifyStation; split <;> rfl
@[simp] theorem modifyStation_queue (a : Nat) (f : Station → Station) : (s.modifyStation a f).queue = s.queue := by unfold State.modifyStation; split <;> rfl
@[simp] theorem modifyStation_inFlight (a : Nat) (f : Station → Station) : (s.modifyStation a f).inFlight = s.inFlight := by unfold State.modifyStation; split <;> rfl
@[simp] theorem modifyStation_flags (a : Nat) (f : Station → Station) : (s.modifyStation a f).flags = s.flags := by unfold State.modifyStation; split <;> rfl
@[simp] theorem modifyStation_pending (a : Nat) (f : Station → Station) : (s.modifyStation a f).pending = s.pending := by unfold State.modifyStation; split <;> rfl

@[simp] theorem putAnswer_phase (a : Nat) (v : AnsSlot) : (s.putAnswer a v).phase = s.phase := modifyStation_phase s a _
@[simp] theorem putAnswer_rst (a : Nat) (v : AnsSlot) : (s.putAnswer a v).rst = s.rst := modifyStation_rst s a _
@[simp] theorem putAnswer_pfw (a : Nat) (v : AnsSlot) : (s.putAnswer a v).pfw = s.pfw := modifyStation_pfw s a _
@[simp] theorem putAnswer_restartPending (a : Nat) (v : AnsSlot) : (s.putAnswer a v).restartPending = s.restartPending := modifyStation_restartPending s a _
@[simp] theorem putAnswer_round (a : Nat) (v : AnsSlot) : (s.putAnswer a v).round = s.round := modifyStation_round s a _
@[simp] theorem putAnswer_roundPos (a : Nat) (v : AnsSlot) : (s.putAnswer a v).roundPos = s.roundPos := modifyStation_roundPos s a _
@[simp] theorem putAnswer_poll (a : Nat) (v : AnsSlot) : (s.putAnswer a v).poll = s.poll := modifyStation_poll s a _
@[simp] theorem putAnswer_lastFrame (a : Nat) (v : AnsSlot) : (s.putAnswer a v).lastFrame = s.lastFrame := modifyStation_lastFrame s a _
@[simp] theorem putAnswer_deferred (a : Nat) (v : AnsSlot) : (s.putAnswer a v).deferred = s.deferred := modifyStation_deferred s a _
@[simp] theorem putAnswer_plates (a : Nat) (v : AnsSlot) : (s.putAnswer a v).plates = s.plates := modifyStation_plates s a _
@[simp] theorem putAnswer_seqCounter (a : Nat) (v : AnsSlot) : (s.putAnswer a v).seqCounter = s.seqCounter := modifyStation_seqCounter s a _
@[simp] theorem putAnswer_slots (a : Nat) (v : AnsSlot) : (s.putAnswer a v).slots = s.slots := modifyStation_slots s a _
@[simp] theorem putAnswer_beds (a : Nat) (v : AnsSlot) : (s.putAnswer a v).beds = s.beds := modifyStation_beds s a _
@[simp] theorem putAnswer_cart (a : Nat) (v : AnsSlot) : (s.putAnswer a v).cart = s.cart := modifyStation_cart s a _
@[simp] theorem putAnswer_hall (a : Nat) (v : AnsSlot) : (s.putAnswer a v).hall = s.hall := modifyStation_hall s a _
@[simp] theorem putAnswer_searchQueue (a : Nat) (v : AnsSlot) : (s.putAnswer a v).searchQueue = s.searchQueue := modifyStation_searchQueue s a _
@[simp] theorem putAnswer_scan (a : Nat) (v : AnsSlot) : (s.putAnswer a v).scan = s.scan := modifyStation_scan s a _
@[simp] theorem putAnswer_tables (a : Nat) (v : AnsSlot) : (s.putAnswer a v).tables = s.tables := modifyStation_tables s a _
@[simp] theorem putAnswer_jobs (a : Nat) (v : AnsSlot) : (s.putAnswer a v).jobs = s.jobs := modifyStation_jobs s a _
@[simp] theorem putAnswer_drafts (a : Nat) (v : AnsSlot) : (s.putAnswer a v).drafts = s.drafts := modifyStation_drafts s a _
@[simp] theorem putAnswer_parts (a : Nat) (v : AnsSlot) : (s.putAnswer a v).parts = s.parts := modifyStation_parts s a _
@[simp] theorem putAnswer_pallets (a : Nat) (v : AnsSlot) : (s.putAnswer a v).pallets = s.pallets := modifyStation_pallets s a _
@[simp] theorem putAnswer_windows (a : Nat) (v : AnsSlot) : (s.putAnswer a v).windows = s.windows := modifyStation_windows s a _
@[simp] theorem putAnswer_legs (a : Nat) (v : AnsSlot) : (s.putAnswer a v).legs = s.legs := modifyStation_legs s a _
@[simp] theorem putAnswer_batches (a : Nat) (v : AnsSlot) : (s.putAnswer a v).batches = s.batches := modifyStation_batches s a _
@[simp] theorem putAnswer_commitCounter (a : Nat) (v : AnsSlot) : (s.putAnswer a v).commitCounter = s.commitCounter := modifyStation_commitCounter s a _
@[simp] theorem putAnswer_cranes (a : Nat) (v : AnsSlot) : (s.putAnswer a v).cranes = s.cranes := modifyStation_cranes s a _
@[simp] theorem putAnswer_store (a : Nat) (v : AnsSlot) : (s.putAnswer a v).store = s.store := modifyStation_store s a _
@[simp] theorem putAnswer_headerFloor (a : Nat) (v : AnsSlot) : (s.putAnswer a v).headerFloor = s.headerFloor := modifyStation_headerFloor s a _
@[simp] theorem putAnswer_queue (a : Nat) (v : AnsSlot) : (s.putAnswer a v).queue = s.queue := modifyStation_queue s a _
@[simp] theorem putAnswer_inFlight (a : Nat) (v : AnsSlot) : (s.putAnswer a v).inFlight = s.inFlight := modifyStation_inFlight s a _
@[simp] theorem putAnswer_flags (a : Nat) (v : AnsSlot) : (s.putAnswer a v).flags = s.flags := modifyStation_flags s a _
@[simp] theorem putAnswer_pending (a : Nat) (v : AnsSlot) : (s.putAnswer a v).pending = s.pending := modifyStation_pending s a _

@[simp] theorem heard_phase (a : Nat) : (s.heard a).phase = s.phase := modifyStation_phase s a _
@[simp] theorem heard_rst (a : Nat) : (s.heard a).rst = s.rst := modifyStation_rst s a _
@[simp] theorem heard_pfw (a : Nat) : (s.heard a).pfw = s.pfw := modifyStation_pfw s a _
@[simp] theorem heard_restartPending (a : Nat) : (s.heard a).restartPending = s.restartPending := modifyStation_restartPending s a _
@[simp] theorem heard_round (a : Nat) : (s.heard a).round = s.round := modifyStation_round s a _
@[simp] theorem heard_roundPos (a : Nat) : (s.heard a).roundPos = s.roundPos := modifyStation_roundPos s a _
@[simp] theorem heard_lastFrame (a : Nat) : (s.heard a).lastFrame = s.lastFrame := modifyStation_lastFrame s a _
@[simp] theorem heard_deferred (a : Nat) : (s.heard a).deferred = s.deferred := modifyStation_deferred s a _
@[simp] theorem heard_plates (a : Nat) : (s.heard a).plates = s.plates := modifyStation_plates s a _
@[simp] theorem heard_seqCounter (a : Nat) : (s.heard a).seqCounter = s.seqCounter := modifyStation_seqCounter s a _
@[simp] theorem heard_slots (a : Nat) : (s.heard a).slots = s.slots := modifyStation_slots s a _
@[simp] theorem heard_beds (a : Nat) : (s.heard a).beds = s.beds := modifyStation_beds s a _
@[simp] theorem heard_cart (a : Nat) : (s.heard a).cart = s.cart := modifyStation_cart s a _
@[simp] theorem heard_hall (a : Nat) : (s.heard a).hall = s.hall := modifyStation_hall s a _
@[simp] theorem heard_searchQueue (a : Nat) : (s.heard a).searchQueue = s.searchQueue := modifyStation_searchQueue s a _
@[simp] theorem heard_scan (a : Nat) : (s.heard a).scan = s.scan := modifyStation_scan s a _
@[simp] theorem heard_tables (a : Nat) : (s.heard a).tables = s.tables := modifyStation_tables s a _
@[simp] theorem heard_jobs (a : Nat) : (s.heard a).jobs = s.jobs := modifyStation_jobs s a _
@[simp] theorem heard_drafts (a : Nat) : (s.heard a).drafts = s.drafts := modifyStation_drafts s a _
@[simp] theorem heard_parts (a : Nat) : (s.heard a).parts = s.parts := modifyStation_parts s a _
@[simp] theorem heard_pallets (a : Nat) : (s.heard a).pallets = s.pallets := modifyStation_pallets s a _
@[simp] theorem heard_windows (a : Nat) : (s.heard a).windows = s.windows := modifyStation_windows s a _
@[simp] theorem heard_legs (a : Nat) : (s.heard a).legs = s.legs := modifyStation_legs s a _
@[simp] theorem heard_batches (a : Nat) : (s.heard a).batches = s.batches := modifyStation_batches s a _
@[simp] theorem heard_commitCounter (a : Nat) : (s.heard a).commitCounter = s.commitCounter := modifyStation_commitCounter s a _
@[simp] theorem heard_cranes (a : Nat) : (s.heard a).cranes = s.cranes := modifyStation_cranes s a _
@[simp] theorem heard_store (a : Nat) : (s.heard a).store = s.store := modifyStation_store s a _
@[simp] theorem heard_headerFloor (a : Nat) : (s.heard a).headerFloor = s.headerFloor := modifyStation_headerFloor s a _
@[simp] theorem heard_queue (a : Nat) : (s.heard a).queue = s.queue := modifyStation_queue s a _
@[simp] theorem heard_inFlight (a : Nat) : (s.heard a).inFlight = s.inFlight := modifyStation_inFlight s a _
@[simp] theorem heard_flags (a : Nat) : (s.heard a).flags = s.flags := modifyStation_flags s a _
@[simp] theorem heard_pending (a : Nat) : (s.heard a).pending = s.pending := modifyStation_pending s a _

@[simp] theorem answer_phase (k : Asker) (c : AnsCode) (l : List Token) : (s.answer k c l).phase = s.phase := rfl
@[simp] theorem answer_rst (k : Asker) (c : AnsCode) (l : List Token) : (s.answer k c l).rst = s.rst := rfl
@[simp] theorem answer_pfw (k : Asker) (c : AnsCode) (l : List Token) : (s.answer k c l).pfw = s.pfw := rfl
@[simp] theorem answer_restartPending (k : Asker) (c : AnsCode) (l : List Token) : (s.answer k c l).restartPending = s.restartPending := rfl
@[simp] theorem answer_stations (k : Asker) (c : AnsCode) (l : List Token) : (s.answer k c l).stations = s.stations := rfl
@[simp] theorem answer_round (k : Asker) (c : AnsCode) (l : List Token) : (s.answer k c l).round = s.round := rfl
@[simp] theorem answer_roundPos (k : Asker) (c : AnsCode) (l : List Token) : (s.answer k c l).roundPos = s.roundPos := rfl
@[simp] theorem answer_poll (k : Asker) (c : AnsCode) (l : List Token) : (s.answer k c l).poll = s.poll := rfl
@[simp] theorem answer_deferred (k : Asker) (c : AnsCode) (l : List Token) : (s.answer k c l).deferred = s.deferred := rfl
@[simp] theorem answer_plates (k : Asker) (c : AnsCode) (l : List Token) : (s.answer k c l).plates = s.plates := rfl
@[simp] theorem answer_seqCounter (k : Asker) (c : AnsCode) (l : List Token) : (s.answer k c l).seqCounter = s.seqCounter := rfl
@[simp] theorem answer_slots (k : Asker) (c : AnsCode) (l : List Token) : (s.answer k c l).slots = s.slots := rfl
@[simp] theorem answer_beds (k : Asker) (c : AnsCode) (l : List Token) : (s.answer k c l).beds = s.beds := rfl
@[simp] theorem answer_cart (k : Asker) (c : AnsCode) (l : List Token) : (s.answer k c l).cart = s.cart := rfl
@[simp] theorem answer_hall (k : Asker) (c : AnsCode) (l : List Token) : (s.answer k c l).hall = s.hall := rfl
@[simp] theorem answer_searchQueue (k : Asker) (c : AnsCode) (l : List Token) : (s.answer k c l).searchQueue = s.searchQueue := rfl
@[simp] theorem answer_scan (k : Asker) (c : AnsCode) (l : List Token) : (s.answer k c l).scan = s.scan := rfl
@[simp] theorem answer_tables (k : Asker) (c : AnsCode) (l : List Token) : (s.answer k c l).tables = s.tables := rfl
@[simp] theorem answer_jobs (k : Asker) (c : AnsCode) (l : List Token) : (s.answer k c l).jobs = s.jobs := rfl
@[simp] theorem answer_drafts (k : Asker) (c : AnsCode) (l : List Token) : (s.answer k c l).drafts = s.drafts := rfl
@[simp] theorem answer_parts (k : Asker) (c : AnsCode) (l : List Token) : (s.answer k c l).parts = s.parts := rfl
@[simp] theorem answer_pallets (k : Asker) (c : AnsCode) (l : List Token) : (s.answer k c l).pallets = s.pallets := rfl
@[simp] theorem answer_windows (k : Asker) (c : AnsCode) (l : List Token) : (s.answer k c l).windows = s.windows := rfl
@[simp] theorem answer_legs (k : Asker) (c : AnsCode) (l : List Token) : (s.answer k c l).legs = s.legs := rfl
@[simp] theorem answer_batches (k : Asker) (c : AnsCode) (l : List Token) : (s.answer k c l).batches = s.batches := rfl
@[simp] theorem answer_commitCounter (k : Asker) (c : AnsCode) (l : List Token) : (s.answer k c l).commitCounter = s.commitCounter := rfl
@[simp] theorem answer_cranes (k : Asker) (c : AnsCode) (l : List Token) : (s.answer k c l).cranes = s.cranes := rfl
@[simp] theorem answer_store (k : Asker) (c : AnsCode) (l : List Token) : (s.answer k c l).store = s.store := rfl
@[simp] theorem answer_headerFloor (k : Asker) (c : AnsCode) (l : List Token) : (s.answer k c l).headerFloor = s.headerFloor := rfl
@[simp] theorem answer_queue (k : Asker) (c : AnsCode) (l : List Token) : (s.answer k c l).queue = s.queue := rfl
@[simp] theorem answer_inFlight (k : Asker) (c : AnsCode) (l : List Token) : (s.answer k c l).inFlight = s.inFlight := rfl
@[simp] theorem answer_flags (k : Asker) (c : AnsCode) (l : List Token) : (s.answer k c l).flags = s.flags := rfl
@[simp] theorem answer_pending (k : Asker) (c : AnsCode) (l : List Token) : (s.answer k c l).pending = s.pending := rfl

@[simp] theorem defer_phase (d : Deferred) : (s.defer d).phase = s.phase := rfl
@[simp] theorem defer_rst (d : Deferred) : (s.defer d).rst = s.rst := rfl
@[simp] theorem defer_pfw (d : Deferred) : (s.defer d).pfw = s.pfw := rfl
@[simp] theorem defer_restartPending (d : Deferred) : (s.defer d).restartPending = s.restartPending := rfl
@[simp] theorem defer_stations (d : Deferred) : (s.defer d).stations = s.stations := rfl
@[simp] theorem defer_round (d : Deferred) : (s.defer d).round = s.round := rfl
@[simp] theorem defer_roundPos (d : Deferred) : (s.defer d).roundPos = s.roundPos := rfl
@[simp] theorem defer_poll (d : Deferred) : (s.defer d).poll = s.poll := rfl
@[simp] theorem defer_lastFrame (d : Deferred) : (s.defer d).lastFrame = s.lastFrame := rfl
@[simp] theorem defer_plates (d : Deferred) : (s.defer d).plates = s.plates := rfl
@[simp] theorem defer_seqCounter (d : Deferred) : (s.defer d).seqCounter = s.seqCounter := rfl
@[simp] theorem defer_slots (d : Deferred) : (s.defer d).slots = s.slots := rfl
@[simp] theorem defer_beds (d : Deferred) : (s.defer d).beds = s.beds := rfl
@[simp] theorem defer_cart (d : Deferred) : (s.defer d).cart = s.cart := rfl
@[simp] theorem defer_hall (d : Deferred) : (s.defer d).hall = s.hall := rfl
@[simp] theorem defer_searchQueue (d : Deferred) : (s.defer d).searchQueue = s.searchQueue := rfl
@[simp] theorem defer_scan (d : Deferred) : (s.defer d).scan = s.scan := rfl
@[simp] theorem defer_tables (d : Deferred) : (s.defer d).tables = s.tables := rfl
@[simp] theorem defer_jobs (d : Deferred) : (s.defer d).jobs = s.jobs := rfl
@[simp] theorem defer_drafts (d : Deferred) : (s.defer d).drafts = s.drafts := rfl
@[simp] theorem defer_parts (d : Deferred) : (s.defer d).parts = s.parts := rfl
@[simp] theorem defer_pallets (d : Deferred) : (s.defer d).pallets = s.pallets := rfl
@[simp] theorem defer_windows (d : Deferred) : (s.defer d).windows = s.windows := rfl
@[simp] theorem defer_legs (d : Deferred) : (s.defer d).legs = s.legs := rfl
@[simp] theorem defer_batches (d : Deferred) : (s.defer d).batches = s.batches := rfl
@[simp] theorem defer_commitCounter (d : Deferred) : (s.defer d).commitCounter = s.commitCounter := rfl
@[simp] theorem defer_cranes (d : Deferred) : (s.defer d).cranes = s.cranes := rfl
@[simp] theorem defer_store (d : Deferred) : (s.defer d).store = s.store := rfl
@[simp] theorem defer_headerFloor (d : Deferred) : (s.defer d).headerFloor = s.headerFloor := rfl
@[simp] theorem defer_queue (d : Deferred) : (s.defer d).queue = s.queue := rfl
@[simp] theorem defer_inFlight (d : Deferred) : (s.defer d).inFlight = s.inFlight := rfl
@[simp] theorem defer_flags (d : Deferred) : (s.defer d).flags = s.flags := rfl
@[simp] theorem defer_pending (d : Deferred) : (s.defer d).pending = s.pending := rfl

@[simp] theorem enqueue_phase (i : ImageId) : (s.enqueue i).phase = s.phase := by unfold State.enqueue; split <;> rfl
@[simp] theorem enqueue_rst (i : ImageId) : (s.enqueue i).rst = s.rst := by unfold State.enqueue; split <;> rfl
@[simp] theorem enqueue_pfw (i : ImageId) : (s.enqueue i).pfw = s.pfw := by unfold State.enqueue; split <;> rfl
@[simp] theorem enqueue_restartPending (i : ImageId) : (s.enqueue i).restartPending = s.restartPending := by unfold State.enqueue; split <;> rfl
@[simp] theorem enqueue_stations (i : ImageId) : (s.enqueue i).stations = s.stations := by unfold State.enqueue; split <;> rfl
@[simp] theorem enqueue_round (i : ImageId) : (s.enqueue i).round = s.round := by unfold State.enqueue; split <;> rfl
@[simp] theorem enqueue_roundPos (i : ImageId) : (s.enqueue i).roundPos = s.roundPos := by unfold State.enqueue; split <;> rfl
@[simp] theorem enqueue_poll (i : ImageId) : (s.enqueue i).poll = s.poll := by unfold State.enqueue; split <;> rfl
@[simp] theorem enqueue_lastFrame (i : ImageId) : (s.enqueue i).lastFrame = s.lastFrame := by unfold State.enqueue; split <;> rfl
@[simp] theorem enqueue_deferred (i : ImageId) : (s.enqueue i).deferred = s.deferred := by unfold State.enqueue; split <;> rfl
@[simp] theorem enqueue_plates (i : ImageId) : (s.enqueue i).plates = s.plates := by unfold State.enqueue; split <;> rfl
@[simp] theorem enqueue_seqCounter (i : ImageId) : (s.enqueue i).seqCounter = s.seqCounter := by unfold State.enqueue; split <;> rfl
@[simp] theorem enqueue_slots (i : ImageId) : (s.enqueue i).slots = s.slots := by unfold State.enqueue; split <;> rfl
@[simp] theorem enqueue_beds (i : ImageId) : (s.enqueue i).beds = s.beds := by unfold State.enqueue; split <;> rfl
@[simp] theorem enqueue_cart (i : ImageId) : (s.enqueue i).cart = s.cart := by unfold State.enqueue; split <;> rfl
@[simp] theorem enqueue_hall (i : ImageId) : (s.enqueue i).hall = s.hall := by unfold State.enqueue; split <;> rfl
@[simp] theorem enqueue_searchQueue (i : ImageId) : (s.enqueue i).searchQueue = s.searchQueue := by unfold State.enqueue; split <;> rfl
@[simp] theorem enqueue_scan (i : ImageId) : (s.enqueue i).scan = s.scan := by unfold State.enqueue; split <;> rfl
@[simp] theorem enqueue_tables (i : ImageId) : (s.enqueue i).tables = s.tables := by unfold State.enqueue; split <;> rfl
@[simp] theorem enqueue_jobs (i : ImageId) : (s.enqueue i).jobs = s.jobs := by unfold State.enqueue; split <;> rfl
@[simp] theorem enqueue_drafts (i : ImageId) : (s.enqueue i).drafts = s.drafts := by unfold State.enqueue; split <;> rfl
@[simp] theorem enqueue_parts (i : ImageId) : (s.enqueue i).parts = s.parts := by unfold State.enqueue; split <;> rfl
@[simp] theorem enqueue_pallets (i : ImageId) : (s.enqueue i).pallets = s.pallets := by unfold State.enqueue; split <;> rfl
@[simp] theorem enqueue_windows (i : ImageId) : (s.enqueue i).windows = s.windows := by unfold State.enqueue; split <;> rfl
@[simp] theorem enqueue_legs (i : ImageId) : (s.enqueue i).legs = s.legs := by unfold State.enqueue; split <;> rfl
@[simp] theorem enqueue_batches (i : ImageId) : (s.enqueue i).batches = s.batches := by unfold State.enqueue; split <;> rfl
@[simp] theorem enqueue_commitCounter (i : ImageId) : (s.enqueue i).commitCounter = s.commitCounter := by unfold State.enqueue; split <;> rfl
@[simp] theorem enqueue_cranes (i : ImageId) : (s.enqueue i).cranes = s.cranes := by unfold State.enqueue; split <;> rfl
@[simp] theorem enqueue_store (i : ImageId) : (s.enqueue i).store = s.store := by unfold State.enqueue; split <;> rfl
@[simp] theorem enqueue_headerFloor (i : ImageId) : (s.enqueue i).headerFloor = s.headerFloor := by unfold State.enqueue; split <;> rfl
@[simp] theorem enqueue_inFlight (i : ImageId) : (s.enqueue i).inFlight = s.inFlight := by unfold State.enqueue; split <;> rfl
@[simp] theorem enqueue_flags (i : ImageId) : (s.enqueue i).flags = s.flags := by unfold State.enqueue; split <;> rfl
@[simp] theorem enqueue_pending (i : ImageId) : (s.enqueue i).pending = s.pending := by unfold State.enqueue; split <;> rfl

@[simp] theorem modifyPlate_phase (h : Handle) (f : PlateRec → PlateRec) : (s.modifyPlate h f).phase = s.phase := rfl
@[simp] theorem modifyPlate_rst (h : Handle) (f : PlateRec → PlateRec) : (s.modifyPlate h f).rst = s.rst := rfl
@[simp] theorem modifyPlate_pfw (h : Handle) (f : PlateRec → PlateRec) : (s.modifyPlate h f).pfw = s.pfw := rfl
@[simp] theorem modifyPlate_restartPending (h : Handle) (f : PlateRec → PlateRec) : (s.modifyPlate h f).restartPending = s.restartPending := rfl
@[simp] theorem modifyPlate_stations (h : Handle) (f : PlateRec → PlateRec) : (s.modifyPlate h f).stations = s.stations := rfl
@[simp] theorem modifyPlate_round (h : Handle) (f : PlateRec → PlateRec) : (s.modifyPlate h f).round = s.round := rfl
@[simp] theorem modifyPlate_roundPos (h : Handle) (f : PlateRec → PlateRec) : (s.modifyPlate h f).roundPos = s.roundPos := rfl
@[simp] theorem modifyPlate_poll (h : Handle) (f : PlateRec → PlateRec) : (s.modifyPlate h f).poll = s.poll := rfl
@[simp] theorem modifyPlate_lastFrame (h : Handle) (f : PlateRec → PlateRec) : (s.modifyPlate h f).lastFrame = s.lastFrame := rfl
@[simp] theorem modifyPlate_deferred (h : Handle) (f : PlateRec → PlateRec) : (s.modifyPlate h f).deferred = s.deferred := rfl
@[simp] theorem modifyPlate_seqCounter (h : Handle) (f : PlateRec → PlateRec) : (s.modifyPlate h f).seqCounter = s.seqCounter := rfl
@[simp] theorem modifyPlate_slots (h : Handle) (f : PlateRec → PlateRec) : (s.modifyPlate h f).slots = s.slots := rfl
@[simp] theorem modifyPlate_beds (h : Handle) (f : PlateRec → PlateRec) : (s.modifyPlate h f).beds = s.beds := rfl
@[simp] theorem modifyPlate_cart (h : Handle) (f : PlateRec → PlateRec) : (s.modifyPlate h f).cart = s.cart := rfl
@[simp] theorem modifyPlate_hall (h : Handle) (f : PlateRec → PlateRec) : (s.modifyPlate h f).hall = s.hall := rfl
@[simp] theorem modifyPlate_searchQueue (h : Handle) (f : PlateRec → PlateRec) : (s.modifyPlate h f).searchQueue = s.searchQueue := rfl
@[simp] theorem modifyPlate_scan (h : Handle) (f : PlateRec → PlateRec) : (s.modifyPlate h f).scan = s.scan := rfl
@[simp] theorem modifyPlate_tables (h : Handle) (f : PlateRec → PlateRec) : (s.modifyPlate h f).tables = s.tables := rfl
@[simp] theorem modifyPlate_jobs (h : Handle) (f : PlateRec → PlateRec) : (s.modifyPlate h f).jobs = s.jobs := rfl
@[simp] theorem modifyPlate_drafts (h : Handle) (f : PlateRec → PlateRec) : (s.modifyPlate h f).drafts = s.drafts := rfl
@[simp] theorem modifyPlate_parts (h : Handle) (f : PlateRec → PlateRec) : (s.modifyPlate h f).parts = s.parts := rfl
@[simp] theorem modifyPlate_pallets (h : Handle) (f : PlateRec → PlateRec) : (s.modifyPlate h f).pallets = s.pallets := rfl
@[simp] theorem modifyPlate_windows (h : Handle) (f : PlateRec → PlateRec) : (s.modifyPlate h f).windows = s.windows := rfl
@[simp] theorem modifyPlate_legs (h : Handle) (f : PlateRec → PlateRec) : (s.modifyPlate h f).legs = s.legs := rfl
@[simp] theorem modifyPlate_batches (h : Handle) (f : PlateRec → PlateRec) : (s.modifyPlate h f).batches = s.batches := rfl
@[simp] theorem modifyPlate_commitCounter (h : Handle) (f : PlateRec → PlateRec) : (s.modifyPlate h f).commitCounter = s.commitCounter := rfl
@[simp] theorem modifyPlate_cranes (h : Handle) (f : PlateRec → PlateRec) : (s.modifyPlate h f).cranes = s.cranes := rfl
@[simp] theorem modifyPlate_store (h : Handle) (f : PlateRec → PlateRec) : (s.modifyPlate h f).store = s.store := rfl
@[simp] theorem modifyPlate_headerFloor (h : Handle) (f : PlateRec → PlateRec) : (s.modifyPlate h f).headerFloor = s.headerFloor := rfl
@[simp] theorem modifyPlate_queue (h : Handle) (f : PlateRec → PlateRec) : (s.modifyPlate h f).queue = s.queue := rfl
@[simp] theorem modifyPlate_inFlight (h : Handle) (f : PlateRec → PlateRec) : (s.modifyPlate h f).inFlight = s.inFlight := rfl
@[simp] theorem modifyPlate_flags (h : Handle) (f : PlateRec → PlateRec) : (s.modifyPlate h f).flags = s.flags := rfl
@[simp] theorem modifyPlate_pending (h : Handle) (f : PlateRec → PlateRec) : (s.modifyPlate h f).pending = s.pending := rfl

@[simp] theorem putLocation_phase (h : Handle) (l : Location) : (s.putLocation h l).phase = s.phase := rfl
@[simp] theorem putLocation_rst (h : Handle) (l : Location) : (s.putLocation h l).rst = s.rst := rfl
@[simp] theorem putLocation_pfw (h : Handle) (l : Location) : (s.putLocation h l).pfw = s.pfw := rfl
@[simp] theorem putLocation_restartPending (h : Handle) (l : Location) : (s.putLocation h l).restartPending = s.restartPending := rfl
@[simp] theorem putLocation_stations (h : Handle) (l : Location) : (s.putLocation h l).stations = s.stations := rfl
@[simp] theorem putLocation_round (h : Handle) (l : Location) : (s.putLocation h l).round = s.round := rfl
@[simp] theorem putLocation_roundPos (h : Handle) (l : Location) : (s.putLocation h l).roundPos = s.roundPos := rfl
@[simp] theorem putLocation_poll (h : Handle) (l : Location) : (s.putLocation h l).poll = s.poll := rfl
@[simp] theorem putLocation_lastFrame (h : Handle) (l : Location) : (s.putLocation h l).lastFrame = s.lastFrame := rfl
@[simp] theorem putLocation_deferred (h : Handle) (l : Location) : (s.putLocation h l).deferred = s.deferred := rfl
@[simp] theorem putLocation_seqCounter (h : Handle) (l : Location) : (s.putLocation h l).seqCounter = s.seqCounter := rfl
@[simp] theorem putLocation_slots (h : Handle) (l : Location) : (s.putLocation h l).slots = s.slots := rfl
@[simp] theorem putLocation_beds (h : Handle) (l : Location) : (s.putLocation h l).beds = s.beds := rfl
@[simp] theorem putLocation_cart (h : Handle) (l : Location) : (s.putLocation h l).cart = s.cart := rfl
@[simp] theorem putLocation_hall (h : Handle) (l : Location) : (s.putLocation h l).hall = s.hall := rfl
@[simp] theorem putLocation_searchQueue (h : Handle) (l : Location) : (s.putLocation h l).searchQueue = s.searchQueue := rfl
@[simp] theorem putLocation_scan (h : Handle) (l : Location) : (s.putLocation h l).scan = s.scan := rfl
@[simp] theorem putLocation_tables (h : Handle) (l : Location) : (s.putLocation h l).tables = s.tables := rfl
@[simp] theorem putLocation_jobs (h : Handle) (l : Location) : (s.putLocation h l).jobs = s.jobs := rfl
@[simp] theorem putLocation_drafts (h : Handle) (l : Location) : (s.putLocation h l).drafts = s.drafts := rfl
@[simp] theorem putLocation_parts (h : Handle) (l : Location) : (s.putLocation h l).parts = s.parts := rfl
@[simp] theorem putLocation_pallets (h : Handle) (l : Location) : (s.putLocation h l).pallets = s.pallets := rfl
@[simp] theorem putLocation_windows (h : Handle) (l : Location) : (s.putLocation h l).windows = s.windows := rfl
@[simp] theorem putLocation_legs (h : Handle) (l : Location) : (s.putLocation h l).legs = s.legs := rfl
@[simp] theorem putLocation_batches (h : Handle) (l : Location) : (s.putLocation h l).batches = s.batches := rfl
@[simp] theorem putLocation_commitCounter (h : Handle) (l : Location) : (s.putLocation h l).commitCounter = s.commitCounter := rfl
@[simp] theorem putLocation_cranes (h : Handle) (l : Location) : (s.putLocation h l).cranes = s.cranes := rfl
@[simp] theorem putLocation_store (h : Handle) (l : Location) : (s.putLocation h l).store = s.store := rfl
@[simp] theorem putLocation_headerFloor (h : Handle) (l : Location) : (s.putLocation h l).headerFloor = s.headerFloor := rfl
@[simp] theorem putLocation_queue (h : Handle) (l : Location) : (s.putLocation h l).queue = s.queue := rfl
@[simp] theorem putLocation_inFlight (h : Handle) (l : Location) : (s.putLocation h l).inFlight = s.inFlight := rfl
@[simp] theorem putLocation_flags (h : Handle) (l : Location) : (s.putLocation h l).flags = s.flags := rfl
@[simp] theorem putLocation_pending (h : Handle) (l : Location) : (s.putLocation h l).pending = s.pending := rfl

@[simp] theorem modifyCrane_phase (c : Nat) (f : Crane → Crane) : (s.modifyCrane c f).phase = s.phase := rfl
@[simp] theorem modifyCrane_rst (c : Nat) (f : Crane → Crane) : (s.modifyCrane c f).rst = s.rst := rfl
@[simp] theorem modifyCrane_pfw (c : Nat) (f : Crane → Crane) : (s.modifyCrane c f).pfw = s.pfw := rfl
@[simp] theorem modifyCrane_restartPending (c : Nat) (f : Crane → Crane) : (s.modifyCrane c f).restartPending = s.restartPending := rfl
@[simp] theorem modifyCrane_stations (c : Nat) (f : Crane → Crane) : (s.modifyCrane c f).stations = s.stations := rfl
@[simp] theorem modifyCrane_round (c : Nat) (f : Crane → Crane) : (s.modifyCrane c f).round = s.round := rfl
@[simp] theorem modifyCrane_roundPos (c : Nat) (f : Crane → Crane) : (s.modifyCrane c f).roundPos = s.roundPos := rfl
@[simp] theorem modifyCrane_poll (c : Nat) (f : Crane → Crane) : (s.modifyCrane c f).poll = s.poll := rfl
@[simp] theorem modifyCrane_lastFrame (c : Nat) (f : Crane → Crane) : (s.modifyCrane c f).lastFrame = s.lastFrame := rfl
@[simp] theorem modifyCrane_deferred (c : Nat) (f : Crane → Crane) : (s.modifyCrane c f).deferred = s.deferred := rfl
@[simp] theorem modifyCrane_plates (c : Nat) (f : Crane → Crane) : (s.modifyCrane c f).plates = s.plates := rfl
@[simp] theorem modifyCrane_seqCounter (c : Nat) (f : Crane → Crane) : (s.modifyCrane c f).seqCounter = s.seqCounter := rfl
@[simp] theorem modifyCrane_slots (c : Nat) (f : Crane → Crane) : (s.modifyCrane c f).slots = s.slots := rfl
@[simp] theorem modifyCrane_beds (c : Nat) (f : Crane → Crane) : (s.modifyCrane c f).beds = s.beds := rfl
@[simp] theorem modifyCrane_cart (c : Nat) (f : Crane → Crane) : (s.modifyCrane c f).cart = s.cart := rfl
@[simp] theorem modifyCrane_hall (c : Nat) (f : Crane → Crane) : (s.modifyCrane c f).hall = s.hall := rfl
@[simp] theorem modifyCrane_searchQueue (c : Nat) (f : Crane → Crane) : (s.modifyCrane c f).searchQueue = s.searchQueue := rfl
@[simp] theorem modifyCrane_scan (c : Nat) (f : Crane → Crane) : (s.modifyCrane c f).scan = s.scan := rfl
@[simp] theorem modifyCrane_tables (c : Nat) (f : Crane → Crane) : (s.modifyCrane c f).tables = s.tables := rfl
@[simp] theorem modifyCrane_jobs (c : Nat) (f : Crane → Crane) : (s.modifyCrane c f).jobs = s.jobs := rfl
@[simp] theorem modifyCrane_drafts (c : Nat) (f : Crane → Crane) : (s.modifyCrane c f).drafts = s.drafts := rfl
@[simp] theorem modifyCrane_parts (c : Nat) (f : Crane → Crane) : (s.modifyCrane c f).parts = s.parts := rfl
@[simp] theorem modifyCrane_pallets (c : Nat) (f : Crane → Crane) : (s.modifyCrane c f).pallets = s.pallets := rfl
@[simp] theorem modifyCrane_windows (c : Nat) (f : Crane → Crane) : (s.modifyCrane c f).windows = s.windows := rfl
@[simp] theorem modifyCrane_legs (c : Nat) (f : Crane → Crane) : (s.modifyCrane c f).legs = s.legs := rfl
@[simp] theorem modifyCrane_batches (c : Nat) (f : Crane → Crane) : (s.modifyCrane c f).batches = s.batches := rfl
@[simp] theorem modifyCrane_commitCounter (c : Nat) (f : Crane → Crane) : (s.modifyCrane c f).commitCounter = s.commitCounter := rfl
@[simp] theorem modifyCrane_store (c : Nat) (f : Crane → Crane) : (s.modifyCrane c f).store = s.store := rfl
@[simp] theorem modifyCrane_headerFloor (c : Nat) (f : Crane → Crane) : (s.modifyCrane c f).headerFloor = s.headerFloor := rfl
@[simp] theorem modifyCrane_queue (c : Nat) (f : Crane → Crane) : (s.modifyCrane c f).queue = s.queue := rfl
@[simp] theorem modifyCrane_inFlight (c : Nat) (f : Crane → Crane) : (s.modifyCrane c f).inFlight = s.inFlight := rfl
@[simp] theorem modifyCrane_flags (c : Nat) (f : Crane → Crane) : (s.modifyCrane c f).flags = s.flags := rfl
@[simp] theorem modifyCrane_pending (c : Nat) (f : Crane → Crane) : (s.modifyCrane c f).pending = s.pending := rfl

@[simp] theorem modifySlot_phase (k : Nat) (f : Slot → Slot) : (s.modifySlot k f).phase = s.phase := rfl
@[simp] theorem modifySlot_rst (k : Nat) (f : Slot → Slot) : (s.modifySlot k f).rst = s.rst := rfl
@[simp] theorem modifySlot_pfw (k : Nat) (f : Slot → Slot) : (s.modifySlot k f).pfw = s.pfw := rfl
@[simp] theorem modifySlot_restartPending (k : Nat) (f : Slot → Slot) : (s.modifySlot k f).restartPending = s.restartPending := rfl
@[simp] theorem modifySlot_stations (k : Nat) (f : Slot → Slot) : (s.modifySlot k f).stations = s.stations := rfl
@[simp] theorem modifySlot_round (k : Nat) (f : Slot → Slot) : (s.modifySlot k f).round = s.round := rfl
@[simp] theorem modifySlot_roundPos (k : Nat) (f : Slot → Slot) : (s.modifySlot k f).roundPos = s.roundPos := rfl
@[simp] theorem modifySlot_poll (k : Nat) (f : Slot → Slot) : (s.modifySlot k f).poll = s.poll := rfl
@[simp] theorem modifySlot_lastFrame (k : Nat) (f : Slot → Slot) : (s.modifySlot k f).lastFrame = s.lastFrame := rfl
@[simp] theorem modifySlot_deferred (k : Nat) (f : Slot → Slot) : (s.modifySlot k f).deferred = s.deferred := rfl
@[simp] theorem modifySlot_plates (k : Nat) (f : Slot → Slot) : (s.modifySlot k f).plates = s.plates := rfl
@[simp] theorem modifySlot_seqCounter (k : Nat) (f : Slot → Slot) : (s.modifySlot k f).seqCounter = s.seqCounter := rfl
@[simp] theorem modifySlot_beds (k : Nat) (f : Slot → Slot) : (s.modifySlot k f).beds = s.beds := rfl
@[simp] theorem modifySlot_cart (k : Nat) (f : Slot → Slot) : (s.modifySlot k f).cart = s.cart := rfl
@[simp] theorem modifySlot_hall (k : Nat) (f : Slot → Slot) : (s.modifySlot k f).hall = s.hall := rfl
@[simp] theorem modifySlot_searchQueue (k : Nat) (f : Slot → Slot) : (s.modifySlot k f).searchQueue = s.searchQueue := rfl
@[simp] theorem modifySlot_scan (k : Nat) (f : Slot → Slot) : (s.modifySlot k f).scan = s.scan := rfl
@[simp] theorem modifySlot_tables (k : Nat) (f : Slot → Slot) : (s.modifySlot k f).tables = s.tables := rfl
@[simp] theorem modifySlot_jobs (k : Nat) (f : Slot → Slot) : (s.modifySlot k f).jobs = s.jobs := rfl
@[simp] theorem modifySlot_drafts (k : Nat) (f : Slot → Slot) : (s.modifySlot k f).drafts = s.drafts := rfl
@[simp] theorem modifySlot_parts (k : Nat) (f : Slot → Slot) : (s.modifySlot k f).parts = s.parts := rfl
@[simp] theorem modifySlot_pallets (k : Nat) (f : Slot → Slot) : (s.modifySlot k f).pallets = s.pallets := rfl
@[simp] theorem modifySlot_windows (k : Nat) (f : Slot → Slot) : (s.modifySlot k f).windows = s.windows := rfl
@[simp] theorem modifySlot_legs (k : Nat) (f : Slot → Slot) : (s.modifySlot k f).legs = s.legs := rfl
@[simp] theorem modifySlot_batches (k : Nat) (f : Slot → Slot) : (s.modifySlot k f).batches = s.batches := rfl
@[simp] theorem modifySlot_commitCounter (k : Nat) (f : Slot → Slot) : (s.modifySlot k f).commitCounter = s.commitCounter := rfl
@[simp] theorem modifySlot_cranes (k : Nat) (f : Slot → Slot) : (s.modifySlot k f).cranes = s.cranes := rfl
@[simp] theorem modifySlot_store (k : Nat) (f : Slot → Slot) : (s.modifySlot k f).store = s.store := rfl
@[simp] theorem modifySlot_headerFloor (k : Nat) (f : Slot → Slot) : (s.modifySlot k f).headerFloor = s.headerFloor := rfl
@[simp] theorem modifySlot_queue (k : Nat) (f : Slot → Slot) : (s.modifySlot k f).queue = s.queue := rfl
@[simp] theorem modifySlot_inFlight (k : Nat) (f : Slot → Slot) : (s.modifySlot k f).inFlight = s.inFlight := rfl
@[simp] theorem modifySlot_flags (k : Nat) (f : Slot → Slot) : (s.modifySlot k f).flags = s.flags := rfl
@[simp] theorem modifySlot_pending (k : Nat) (f : Slot → Slot) : (s.modifySlot k f).pending = s.pending := rfl

@[simp] theorem modifyBed_phase (t b : Nat) (f : Bed → Bed) : (s.modifyBed t b f).phase = s.phase := rfl
@[simp] theorem modifyBed_rst (t b : Nat) (f : Bed → Bed) : (s.modifyBed t b f).rst = s.rst := rfl
@[simp] theorem modifyBed_pfw (t b : Nat) (f : Bed → Bed) : (s.modifyBed t b f).pfw = s.pfw := rfl
@[simp] theorem modifyBed_restartPending (t b : Nat) (f : Bed → Bed) : (s.modifyBed t b f).restartPending = s.restartPending := rfl
@[simp] theorem modifyBed_stations (t b : Nat) (f : Bed → Bed) : (s.modifyBed t b f).stations = s.stations := rfl
@[simp] theorem modifyBed_round (t b : Nat) (f : Bed → Bed) : (s.modifyBed t b f).round = s.round := rfl
@[simp] theorem modifyBed_roundPos (t b : Nat) (f : Bed → Bed) : (s.modifyBed t b f).roundPos = s.roundPos := rfl
@[simp] theorem modifyBed_poll (t b : Nat) (f : Bed → Bed) : (s.modifyBed t b f).poll = s.poll := rfl
@[simp] theorem modifyBed_lastFrame (t b : Nat) (f : Bed → Bed) : (s.modifyBed t b f).lastFrame = s.lastFrame := rfl
@[simp] theorem modifyBed_deferred (t b : Nat) (f : Bed → Bed) : (s.modifyBed t b f).deferred = s.deferred := rfl
@[simp] theorem modifyBed_plates (t b : Nat) (f : Bed → Bed) : (s.modifyBed t b f).plates = s.plates := rfl
@[simp] theorem modifyBed_seqCounter (t b : Nat) (f : Bed → Bed) : (s.modifyBed t b f).seqCounter = s.seqCounter := rfl
@[simp] theorem modifyBed_slots (t b : Nat) (f : Bed → Bed) : (s.modifyBed t b f).slots = s.slots := rfl
@[simp] theorem modifyBed_cart (t b : Nat) (f : Bed → Bed) : (s.modifyBed t b f).cart = s.cart := rfl
@[simp] theorem modifyBed_hall (t b : Nat) (f : Bed → Bed) : (s.modifyBed t b f).hall = s.hall := rfl
@[simp] theorem modifyBed_searchQueue (t b : Nat) (f : Bed → Bed) : (s.modifyBed t b f).searchQueue = s.searchQueue := rfl
@[simp] theorem modifyBed_scan (t b : Nat) (f : Bed → Bed) : (s.modifyBed t b f).scan = s.scan := rfl
@[simp] theorem modifyBed_tables (t b : Nat) (f : Bed → Bed) : (s.modifyBed t b f).tables = s.tables := rfl
@[simp] theorem modifyBed_jobs (t b : Nat) (f : Bed → Bed) : (s.modifyBed t b f).jobs = s.jobs := rfl
@[simp] theorem modifyBed_drafts (t b : Nat) (f : Bed → Bed) : (s.modifyBed t b f).drafts = s.drafts := rfl
@[simp] theorem modifyBed_parts (t b : Nat) (f : Bed → Bed) : (s.modifyBed t b f).parts = s.parts := rfl
@[simp] theorem modifyBed_pallets (t b : Nat) (f : Bed → Bed) : (s.modifyBed t b f).pallets = s.pallets := rfl
@[simp] theorem modifyBed_windows (t b : Nat) (f : Bed → Bed) : (s.modifyBed t b f).windows = s.windows := rfl
@[simp] theorem modifyBed_legs (t b : Nat) (f : Bed → Bed) : (s.modifyBed t b f).legs = s.legs := rfl
@[simp] theorem modifyBed_batches (t b : Nat) (f : Bed → Bed) : (s.modifyBed t b f).batches = s.batches := rfl
@[simp] theorem modifyBed_commitCounter (t b : Nat) (f : Bed → Bed) : (s.modifyBed t b f).commitCounter = s.commitCounter := rfl
@[simp] theorem modifyBed_cranes (t b : Nat) (f : Bed → Bed) : (s.modifyBed t b f).cranes = s.cranes := rfl
@[simp] theorem modifyBed_store (t b : Nat) (f : Bed → Bed) : (s.modifyBed t b f).store = s.store := rfl
@[simp] theorem modifyBed_headerFloor (t b : Nat) (f : Bed → Bed) : (s.modifyBed t b f).headerFloor = s.headerFloor := rfl
@[simp] theorem modifyBed_queue (t b : Nat) (f : Bed → Bed) : (s.modifyBed t b f).queue = s.queue := rfl
@[simp] theorem modifyBed_inFlight (t b : Nat) (f : Bed → Bed) : (s.modifyBed t b f).inFlight = s.inFlight := rfl
@[simp] theorem modifyBed_flags (t b : Nat) (f : Bed → Bed) : (s.modifyBed t b f).flags = s.flags := rfl
@[simp] theorem modifyBed_pending (t b : Nat) (f : Bed → Bed) : (s.modifyBed t b f).pending = s.pending := rfl

@[simp] theorem modifyLeg_phase (h : Handle) (f : Leg → Leg) : (s.modifyLeg h f).phase = s.phase := rfl
@[simp] theorem modifyLeg_rst (h : Handle) (f : Leg → Leg) : (s.modifyLeg h f).rst = s.rst := rfl
@[simp] theorem modifyLeg_pfw (h : Handle) (f : Leg → Leg) : (s.modifyLeg h f).pfw = s.pfw := rfl
@[simp] theorem modifyLeg_restartPending (h : Handle) (f : Leg → Leg) : (s.modifyLeg h f).restartPending = s.restartPending := rfl
@[simp] theorem modifyLeg_stations (h : Handle) (f : Leg → Leg) : (s.modifyLeg h f).stations = s.stations := rfl
@[simp] theorem modifyLeg_round (h : Handle) (f : Leg → Leg) : (s.modifyLeg h f).round = s.round := rfl
@[simp] theorem modifyLeg_roundPos (h : Handle) (f : Leg → Leg) : (s.modifyLeg h f).roundPos = s.roundPos := rfl
@[simp] theorem modifyLeg_poll (h : Handle) (f : Leg → Leg) : (s.modifyLeg h f).poll = s.poll := rfl
@[simp] theorem modifyLeg_lastFrame (h : Handle) (f : Leg → Leg) : (s.modifyLeg h f).lastFrame = s.lastFrame := rfl
@[simp] theorem modifyLeg_deferred (h : Handle) (f : Leg → Leg) : (s.modifyLeg h f).deferred = s.deferred := rfl
@[simp] theorem modifyLeg_plates (h : Handle) (f : Leg → Leg) : (s.modifyLeg h f).plates = s.plates := rfl
@[simp] theorem modifyLeg_seqCounter (h : Handle) (f : Leg → Leg) : (s.modifyLeg h f).seqCounter = s.seqCounter := rfl
@[simp] theorem modifyLeg_slots (h : Handle) (f : Leg → Leg) : (s.modifyLeg h f).slots = s.slots := rfl
@[simp] theorem modifyLeg_beds (h : Handle) (f : Leg → Leg) : (s.modifyLeg h f).beds = s.beds := rfl
@[simp] theorem modifyLeg_cart (h : Handle) (f : Leg → Leg) : (s.modifyLeg h f).cart = s.cart := rfl
@[simp] theorem modifyLeg_hall (h : Handle) (f : Leg → Leg) : (s.modifyLeg h f).hall = s.hall := rfl
@[simp] theorem modifyLeg_searchQueue (h : Handle) (f : Leg → Leg) : (s.modifyLeg h f).searchQueue = s.searchQueue := rfl
@[simp] theorem modifyLeg_scan (h : Handle) (f : Leg → Leg) : (s.modifyLeg h f).scan = s.scan := rfl
@[simp] theorem modifyLeg_tables (h : Handle) (f : Leg → Leg) : (s.modifyLeg h f).tables = s.tables := rfl
@[simp] theorem modifyLeg_jobs (h : Handle) (f : Leg → Leg) : (s.modifyLeg h f).jobs = s.jobs := rfl
@[simp] theorem modifyLeg_drafts (h : Handle) (f : Leg → Leg) : (s.modifyLeg h f).drafts = s.drafts := rfl
@[simp] theorem modifyLeg_parts (h : Handle) (f : Leg → Leg) : (s.modifyLeg h f).parts = s.parts := rfl
@[simp] theorem modifyLeg_pallets (h : Handle) (f : Leg → Leg) : (s.modifyLeg h f).pallets = s.pallets := rfl
@[simp] theorem modifyLeg_windows (h : Handle) (f : Leg → Leg) : (s.modifyLeg h f).windows = s.windows := rfl
@[simp] theorem modifyLeg_batches (h : Handle) (f : Leg → Leg) : (s.modifyLeg h f).batches = s.batches := rfl
@[simp] theorem modifyLeg_commitCounter (h : Handle) (f : Leg → Leg) : (s.modifyLeg h f).commitCounter = s.commitCounter := rfl
@[simp] theorem modifyLeg_cranes (h : Handle) (f : Leg → Leg) : (s.modifyLeg h f).cranes = s.cranes := rfl
@[simp] theorem modifyLeg_store (h : Handle) (f : Leg → Leg) : (s.modifyLeg h f).store = s.store := rfl
@[simp] theorem modifyLeg_headerFloor (h : Handle) (f : Leg → Leg) : (s.modifyLeg h f).headerFloor = s.headerFloor := rfl
@[simp] theorem modifyLeg_queue (h : Handle) (f : Leg → Leg) : (s.modifyLeg h f).queue = s.queue := rfl
@[simp] theorem modifyLeg_inFlight (h : Handle) (f : Leg → Leg) : (s.modifyLeg h f).inFlight = s.inFlight := rfl
@[simp] theorem modifyLeg_flags (h : Handle) (f : Leg → Leg) : (s.modifyLeg h f).flags = s.flags := rfl
@[simp] theorem modifyLeg_pending (h : Handle) (f : Leg → Leg) : (s.modifyLeg h f).pending = s.pending := rfl

@[simp] theorem modifyBatch_phase (h : Handle) (f : Batch → Batch) : (s.modifyBatch h f).phase = s.phase := rfl
@[simp] theorem modifyBatch_rst (h : Handle) (f : Batch → Batch) : (s.modifyBatch h f).rst = s.rst := rfl
@[simp] theorem modifyBatch_pfw (h : Handle) (f : Batch → Batch) : (s.modifyBatch h f).pfw = s.pfw := rfl
@[simp] theorem modifyBatch_restartPending (h : Handle) (f : Batch → Batch) : (s.modifyBatch h f).restartPending = s.restartPending := rfl
@[simp] theorem modifyBatch_stations (h : Handle) (f : Batch → Batch) : (s.modifyBatch h f).stations = s.stations := rfl
@[simp] theorem modifyBatch_round (h : Handle) (f : Batch → Batch) : (s.modifyBatch h f).round = s.round := rfl
@[simp] theorem modifyBatch_roundPos (h : Handle) (f : Batch → Batch) : (s.modifyBatch h f).roundPos = s.roundPos := rfl
@[simp] theorem modifyBatch_poll (h : Handle) (f : Batch → Batch) : (s.modifyBatch h f).poll = s.poll := rfl
@[simp] theorem modifyBatch_lastFrame (h : Handle) (f : Batch → Batch) : (s.modifyBatch h f).lastFrame = s.lastFrame := rfl
@[simp] theorem modifyBatch_deferred (h : Handle) (f : Batch → Batch) : (s.modifyBatch h f).deferred = s.deferred := rfl
@[simp] theorem modifyBatch_plates (h : Handle) (f : Batch → Batch) : (s.modifyBatch h f).plates = s.plates := rfl
@[simp] theorem modifyBatch_seqCounter (h : Handle) (f : Batch → Batch) : (s.modifyBatch h f).seqCounter = s.seqCounter := rfl
@[simp] theorem modifyBatch_slots (h : Handle) (f : Batch → Batch) : (s.modifyBatch h f).slots = s.slots := rfl
@[simp] theorem modifyBatch_beds (h : Handle) (f : Batch → Batch) : (s.modifyBatch h f).beds = s.beds := rfl
@[simp] theorem modifyBatch_cart (h : Handle) (f : Batch → Batch) : (s.modifyBatch h f).cart = s.cart := rfl
@[simp] theorem modifyBatch_hall (h : Handle) (f : Batch → Batch) : (s.modifyBatch h f).hall = s.hall := rfl
@[simp] theorem modifyBatch_searchQueue (h : Handle) (f : Batch → Batch) : (s.modifyBatch h f).searchQueue = s.searchQueue := rfl
@[simp] theorem modifyBatch_scan (h : Handle) (f : Batch → Batch) : (s.modifyBatch h f).scan = s.scan := rfl
@[simp] theorem modifyBatch_tables (h : Handle) (f : Batch → Batch) : (s.modifyBatch h f).tables = s.tables := rfl
@[simp] theorem modifyBatch_jobs (h : Handle) (f : Batch → Batch) : (s.modifyBatch h f).jobs = s.jobs := rfl
@[simp] theorem modifyBatch_drafts (h : Handle) (f : Batch → Batch) : (s.modifyBatch h f).drafts = s.drafts := rfl
@[simp] theorem modifyBatch_parts (h : Handle) (f : Batch → Batch) : (s.modifyBatch h f).parts = s.parts := rfl
@[simp] theorem modifyBatch_pallets (h : Handle) (f : Batch → Batch) : (s.modifyBatch h f).pallets = s.pallets := rfl
@[simp] theorem modifyBatch_windows (h : Handle) (f : Batch → Batch) : (s.modifyBatch h f).windows = s.windows := rfl
@[simp] theorem modifyBatch_legs (h : Handle) (f : Batch → Batch) : (s.modifyBatch h f).legs = s.legs := rfl
@[simp] theorem modifyBatch_commitCounter (h : Handle) (f : Batch → Batch) : (s.modifyBatch h f).commitCounter = s.commitCounter := rfl
@[simp] theorem modifyBatch_cranes (h : Handle) (f : Batch → Batch) : (s.modifyBatch h f).cranes = s.cranes := rfl
@[simp] theorem modifyBatch_store (h : Handle) (f : Batch → Batch) : (s.modifyBatch h f).store = s.store := rfl
@[simp] theorem modifyBatch_headerFloor (h : Handle) (f : Batch → Batch) : (s.modifyBatch h f).headerFloor = s.headerFloor := rfl
@[simp] theorem modifyBatch_queue (h : Handle) (f : Batch → Batch) : (s.modifyBatch h f).queue = s.queue := rfl
@[simp] theorem modifyBatch_inFlight (h : Handle) (f : Batch → Batch) : (s.modifyBatch h f).inFlight = s.inFlight := rfl
@[simp] theorem modifyBatch_flags (h : Handle) (f : Batch → Batch) : (s.modifyBatch h f).flags = s.flags := rfl
@[simp] theorem modifyBatch_pending (h : Handle) (f : Batch → Batch) : (s.modifyBatch h f).pending = s.pending := rfl

@[simp] theorem modifyJob_phase (h : Handle) (f : Job → Job) : (s.modifyJob h f).phase = s.phase := rfl
@[simp] theorem modifyJob_rst (h : Handle) (f : Job → Job) : (s.modifyJob h f).rst = s.rst := rfl
@[simp] theorem modifyJob_pfw (h : Handle) (f : Job → Job) : (s.modifyJob h f).pfw = s.pfw := rfl
@[simp] theorem modifyJob_restartPending (h : Handle) (f : Job → Job) : (s.modifyJob h f).restartPending = s.restartPending := rfl
@[simp] theorem modifyJob_stations (h : Handle) (f : Job → Job) : (s.modifyJob h f).stations = s.stations := rfl
@[simp] theorem modifyJob_round (h : Handle) (f : Job → Job) : (s.modifyJob h f).round = s.round := rfl
@[simp] theorem modifyJob_roundPos (h : Handle) (f : Job → Job) : (s.modifyJob h f).roundPos = s.roundPos := rfl
@[simp] theorem modifyJob_poll (h : Handle) (f : Job → Job) : (s.modifyJob h f).poll = s.poll := rfl
@[simp] theorem modifyJob_lastFrame (h : Handle) (f : Job → Job) : (s.modifyJob h f).lastFrame = s.lastFrame := rfl
@[simp] theorem modifyJob_deferred (h : Handle) (f : Job → Job) : (s.modifyJob h f).deferred = s.deferred := rfl
@[simp] theorem modifyJob_plates (h : Handle) (f : Job → Job) : (s.modifyJob h f).plates = s.plates := rfl
@[simp] theorem modifyJob_seqCounter (h : Handle) (f : Job → Job) : (s.modifyJob h f).seqCounter = s.seqCounter := rfl
@[simp] theorem modifyJob_slots (h : Handle) (f : Job → Job) : (s.modifyJob h f).slots = s.slots := rfl
@[simp] theorem modifyJob_beds (h : Handle) (f : Job → Job) : (s.modifyJob h f).beds = s.beds := rfl
@[simp] theorem modifyJob_cart (h : Handle) (f : Job → Job) : (s.modifyJob h f).cart = s.cart := rfl
@[simp] theorem modifyJob_hall (h : Handle) (f : Job → Job) : (s.modifyJob h f).hall = s.hall := rfl
@[simp] theorem modifyJob_searchQueue (h : Handle) (f : Job → Job) : (s.modifyJob h f).searchQueue = s.searchQueue := rfl
@[simp] theorem modifyJob_scan (h : Handle) (f : Job → Job) : (s.modifyJob h f).scan = s.scan := rfl
@[simp] theorem modifyJob_tables (h : Handle) (f : Job → Job) : (s.modifyJob h f).tables = s.tables := rfl
@[simp] theorem modifyJob_drafts (h : Handle) (f : Job → Job) : (s.modifyJob h f).drafts = s.drafts := rfl
@[simp] theorem modifyJob_parts (h : Handle) (f : Job → Job) : (s.modifyJob h f).parts = s.parts := rfl
@[simp] theorem modifyJob_pallets (h : Handle) (f : Job → Job) : (s.modifyJob h f).pallets = s.pallets := rfl
@[simp] theorem modifyJob_windows (h : Handle) (f : Job → Job) : (s.modifyJob h f).windows = s.windows := rfl
@[simp] theorem modifyJob_legs (h : Handle) (f : Job → Job) : (s.modifyJob h f).legs = s.legs := rfl
@[simp] theorem modifyJob_batches (h : Handle) (f : Job → Job) : (s.modifyJob h f).batches = s.batches := rfl
@[simp] theorem modifyJob_commitCounter (h : Handle) (f : Job → Job) : (s.modifyJob h f).commitCounter = s.commitCounter := rfl
@[simp] theorem modifyJob_cranes (h : Handle) (f : Job → Job) : (s.modifyJob h f).cranes = s.cranes := rfl
@[simp] theorem modifyJob_store (h : Handle) (f : Job → Job) : (s.modifyJob h f).store = s.store := rfl
@[simp] theorem modifyJob_headerFloor (h : Handle) (f : Job → Job) : (s.modifyJob h f).headerFloor = s.headerFloor := rfl
@[simp] theorem modifyJob_queue (h : Handle) (f : Job → Job) : (s.modifyJob h f).queue = s.queue := rfl
@[simp] theorem modifyJob_inFlight (h : Handle) (f : Job → Job) : (s.modifyJob h f).inFlight = s.inFlight := rfl
@[simp] theorem modifyJob_flags (h : Handle) (f : Job → Job) : (s.modifyJob h f).flags = s.flags := rfl
@[simp] theorem modifyJob_pending (h : Handle) (f : Job → Job) : (s.modifyJob h f).pending = s.pending := rfl

@[simp] theorem modifyPart_phase (h : Handle) (f : Part → Part) : (s.modifyPart h f).phase = s.phase := rfl
@[simp] theorem modifyPart_rst (h : Handle) (f : Part → Part) : (s.modifyPart h f).rst = s.rst := rfl
@[simp] theorem modifyPart_pfw (h : Handle) (f : Part → Part) : (s.modifyPart h f).pfw = s.pfw := rfl
@[simp] theorem modifyPart_restartPending (h : Handle) (f : Part → Part) : (s.modifyPart h f).restartPending = s.restartPending := rfl
@[simp] theorem modifyPart_stations (h : Handle) (f : Part → Part) : (s.modifyPart h f).stations = s.stations := rfl
@[simp] theorem modifyPart_round (h : Handle) (f : Part → Part) : (s.modifyPart h f).round = s.round := rfl
@[simp] theorem modifyPart_roundPos (h : Handle) (f : Part → Part) : (s.modifyPart h f).roundPos = s.roundPos := rfl
@[simp] theorem modifyPart_poll (h : Handle) (f : Part → Part) : (s.modifyPart h f).poll = s.poll := rfl
@[simp] theorem modifyPart_lastFrame (h : Handle) (f : Part → Part) : (s.modifyPart h f).lastFrame = s.lastFrame := rfl
@[simp] theorem modifyPart_deferred (h : Handle) (f : Part → Part) : (s.modifyPart h f).deferred = s.deferred := rfl
@[simp] theorem modifyPart_plates (h : Handle) (f : Part → Part) : (s.modifyPart h f).plates = s.plates := rfl
@[simp] theorem modifyPart_seqCounter (h : Handle) (f : Part → Part) : (s.modifyPart h f).seqCounter = s.seqCounter := rfl
@[simp] theorem modifyPart_slots (h : Handle) (f : Part → Part) : (s.modifyPart h f).slots = s.slots := rfl
@[simp] theorem modifyPart_beds (h : Handle) (f : Part → Part) : (s.modifyPart h f).beds = s.beds := rfl
@[simp] theorem modifyPart_cart (h : Handle) (f : Part → Part) : (s.modifyPart h f).cart = s.cart := rfl
@[simp] theorem modifyPart_hall (h : Handle) (f : Part → Part) : (s.modifyPart h f).hall = s.hall := rfl
@[simp] theorem modifyPart_searchQueue (h : Handle) (f : Part → Part) : (s.modifyPart h f).searchQueue = s.searchQueue := rfl
@[simp] theorem modifyPart_scan (h : Handle) (f : Part → Part) : (s.modifyPart h f).scan = s.scan := rfl
@[simp] theorem modifyPart_tables (h : Handle) (f : Part → Part) : (s.modifyPart h f).tables = s.tables := rfl
@[simp] theorem modifyPart_jobs (h : Handle) (f : Part → Part) : (s.modifyPart h f).jobs = s.jobs := rfl
@[simp] theorem modifyPart_drafts (h : Handle) (f : Part → Part) : (s.modifyPart h f).drafts = s.drafts := rfl
@[simp] theorem modifyPart_pallets (h : Handle) (f : Part → Part) : (s.modifyPart h f).pallets = s.pallets := rfl
@[simp] theorem modifyPart_windows (h : Handle) (f : Part → Part) : (s.modifyPart h f).windows = s.windows := rfl
@[simp] theorem modifyPart_legs (h : Handle) (f : Part → Part) : (s.modifyPart h f).legs = s.legs := rfl
@[simp] theorem modifyPart_batches (h : Handle) (f : Part → Part) : (s.modifyPart h f).batches = s.batches := rfl
@[simp] theorem modifyPart_commitCounter (h : Handle) (f : Part → Part) : (s.modifyPart h f).commitCounter = s.commitCounter := rfl
@[simp] theorem modifyPart_cranes (h : Handle) (f : Part → Part) : (s.modifyPart h f).cranes = s.cranes := rfl
@[simp] theorem modifyPart_store (h : Handle) (f : Part → Part) : (s.modifyPart h f).store = s.store := rfl
@[simp] theorem modifyPart_headerFloor (h : Handle) (f : Part → Part) : (s.modifyPart h f).headerFloor = s.headerFloor := rfl
@[simp] theorem modifyPart_queue (h : Handle) (f : Part → Part) : (s.modifyPart h f).queue = s.queue := rfl
@[simp] theorem modifyPart_inFlight (h : Handle) (f : Part → Part) : (s.modifyPart h f).inFlight = s.inFlight := rfl
@[simp] theorem modifyPart_flags (h : Handle) (f : Part → Part) : (s.modifyPart h f).flags = s.flags := rfl
@[simp] theorem modifyPart_pending (h : Handle) (f : Part → Part) : (s.modifyPart h f).pending = s.pending := rfl

@[simp] theorem putWindow_phase (t : Nat) (w : Window) : (s.putWindow t w).phase = s.phase := rfl
@[simp] theorem putWindow_rst (t : Nat) (w : Window) : (s.putWindow t w).rst = s.rst := rfl
@[simp] theorem putWindow_pfw (t : Nat) (w : Window) : (s.putWindow t w).pfw = s.pfw := rfl
@[simp] theorem putWindow_restartPending (t : Nat) (w : Window) : (s.putWindow t w).restartPending = s.restartPending := rfl
@[simp] theorem putWindow_stations (t : Nat) (w : Window) : (s.putWindow t w).stations = s.stations := rfl
@[simp] theorem putWindow_round (t : Nat) (w : Window) : (s.putWindow t w).round = s.round := rfl
@[simp] theorem putWindow_roundPos (t : Nat) (w : Window) : (s.putWindow t w).roundPos = s.roundPos := rfl
@[simp] theorem putWindow_poll (t : Nat) (w : Window) : (s.putWindow t w).poll = s.poll := rfl
@[simp] theorem putWindow_lastFrame (t : Nat) (w : Window) : (s.putWindow t w).lastFrame = s.lastFrame := rfl
@[simp] theorem putWindow_deferred (t : Nat) (w : Window) : (s.putWindow t w).deferred = s.deferred := rfl
@[simp] theorem putWindow_plates (t : Nat) (w : Window) : (s.putWindow t w).plates = s.plates := rfl
@[simp] theorem putWindow_seqCounter (t : Nat) (w : Window) : (s.putWindow t w).seqCounter = s.seqCounter := rfl
@[simp] theorem putWindow_slots (t : Nat) (w : Window) : (s.putWindow t w).slots = s.slots := rfl
@[simp] theorem putWindow_beds (t : Nat) (w : Window) : (s.putWindow t w).beds = s.beds := rfl
@[simp] theorem putWindow_cart (t : Nat) (w : Window) : (s.putWindow t w).cart = s.cart := rfl
@[simp] theorem putWindow_hall (t : Nat) (w : Window) : (s.putWindow t w).hall = s.hall := rfl
@[simp] theorem putWindow_searchQueue (t : Nat) (w : Window) : (s.putWindow t w).searchQueue = s.searchQueue := rfl
@[simp] theorem putWindow_scan (t : Nat) (w : Window) : (s.putWindow t w).scan = s.scan := rfl
@[simp] theorem putWindow_tables (t : Nat) (w : Window) : (s.putWindow t w).tables = s.tables := rfl
@[simp] theorem putWindow_jobs (t : Nat) (w : Window) : (s.putWindow t w).jobs = s.jobs := rfl
@[simp] theorem putWindow_drafts (t : Nat) (w : Window) : (s.putWindow t w).drafts = s.drafts := rfl
@[simp] theorem putWindow_parts (t : Nat) (w : Window) : (s.putWindow t w).parts = s.parts := rfl
@[simp] theorem putWindow_pallets (t : Nat) (w : Window) : (s.putWindow t w).pallets = s.pallets := rfl
@[simp] theorem putWindow_legs (t : Nat) (w : Window) : (s.putWindow t w).legs = s.legs := rfl
@[simp] theorem putWindow_batches (t : Nat) (w : Window) : (s.putWindow t w).batches = s.batches := rfl
@[simp] theorem putWindow_commitCounter (t : Nat) (w : Window) : (s.putWindow t w).commitCounter = s.commitCounter := rfl
@[simp] theorem putWindow_cranes (t : Nat) (w : Window) : (s.putWindow t w).cranes = s.cranes := rfl
@[simp] theorem putWindow_store (t : Nat) (w : Window) : (s.putWindow t w).store = s.store := rfl
@[simp] theorem putWindow_headerFloor (t : Nat) (w : Window) : (s.putWindow t w).headerFloor = s.headerFloor := rfl
@[simp] theorem putWindow_queue (t : Nat) (w : Window) : (s.putWindow t w).queue = s.queue := rfl
@[simp] theorem putWindow_inFlight (t : Nat) (w : Window) : (s.putWindow t w).inFlight = s.inFlight := rfl
@[simp] theorem putWindow_flags (t : Nat) (w : Window) : (s.putWindow t w).flags = s.flags := rfl
@[simp] theorem putWindow_pending (t : Nat) (w : Window) : (s.putWindow t w).pending = s.pending := rfl

@[simp] theorem putPallet_phase (p : Nat) (l : List Handle) : (s.putPallet p l).phase = s.phase := rfl
@[simp] theorem putPallet_rst (p : Nat) (l : List Handle) : (s.putPallet p l).rst = s.rst := rfl
@[simp] theorem putPallet_pfw (p : Nat) (l : List Handle) : (s.putPallet p l).pfw = s.pfw := rfl
@[simp] theorem putPallet_restartPending (p : Nat) (l : List Handle) : (s.putPallet p l).restartPending = s.restartPending := rfl
@[simp] theorem putPallet_stations (p : Nat) (l : List Handle) : (s.putPallet p l).stations = s.stations := rfl
@[simp] theorem putPallet_round (p : Nat) (l : List Handle) : (s.putPallet p l).round = s.round := rfl
@[simp] theorem putPallet_roundPos (p : Nat) (l : List Handle) : (s.putPallet p l).roundPos = s.roundPos := rfl
@[simp] theorem putPallet_poll (p : Nat) (l : List Handle) : (s.putPallet p l).poll = s.poll := rfl
@[simp] theorem putPallet_lastFrame (p : Nat) (l : List Handle) : (s.putPallet p l).lastFrame = s.lastFrame := rfl
@[simp] theorem putPallet_deferred (p : Nat) (l : List Handle) : (s.putPallet p l).deferred = s.deferred := rfl
@[simp] theorem putPallet_plates (p : Nat) (l : List Handle) : (s.putPallet p l).plates = s.plates := rfl
@[simp] theorem putPallet_seqCounter (p : Nat) (l : List Handle) : (s.putPallet p l).seqCounter = s.seqCounter := rfl
@[simp] theorem putPallet_slots (p : Nat) (l : List Handle) : (s.putPallet p l).slots = s.slots := rfl
@[simp] theorem putPallet_beds (p : Nat) (l : List Handle) : (s.putPallet p l).beds = s.beds := rfl
@[simp] theorem putPallet_cart (p : Nat) (l : List Handle) : (s.putPallet p l).cart = s.cart := rfl
@[simp] theorem putPallet_hall (p : Nat) (l : List Handle) : (s.putPallet p l).hall = s.hall := rfl
@[simp] theorem putPallet_searchQueue (p : Nat) (l : List Handle) : (s.putPallet p l).searchQueue = s.searchQueue := rfl
@[simp] theorem putPallet_scan (p : Nat) (l : List Handle) : (s.putPallet p l).scan = s.scan := rfl
@[simp] theorem putPallet_tables (p : Nat) (l : List Handle) : (s.putPallet p l).tables = s.tables := rfl
@[simp] theorem putPallet_jobs (p : Nat) (l : List Handle) : (s.putPallet p l).jobs = s.jobs := rfl
@[simp] theorem putPallet_drafts (p : Nat) (l : List Handle) : (s.putPallet p l).drafts = s.drafts := rfl
@[simp] theorem putPallet_parts (p : Nat) (l : List Handle) : (s.putPallet p l).parts = s.parts := rfl
@[simp] theorem putPallet_windows (p : Nat) (l : List Handle) : (s.putPallet p l).windows = s.windows := rfl
@[simp] theorem putPallet_legs (p : Nat) (l : List Handle) : (s.putPallet p l).legs = s.legs := rfl
@[simp] theorem putPallet_batches (p : Nat) (l : List Handle) : (s.putPallet p l).batches = s.batches := rfl
@[simp] theorem putPallet_commitCounter (p : Nat) (l : List Handle) : (s.putPallet p l).commitCounter = s.commitCounter := rfl
@[simp] theorem putPallet_cranes (p : Nat) (l : List Handle) : (s.putPallet p l).cranes = s.cranes := rfl
@[simp] theorem putPallet_store (p : Nat) (l : List Handle) : (s.putPallet p l).store = s.store := rfl
@[simp] theorem putPallet_headerFloor (p : Nat) (l : List Handle) : (s.putPallet p l).headerFloor = s.headerFloor := rfl
@[simp] theorem putPallet_queue (p : Nat) (l : List Handle) : (s.putPallet p l).queue = s.queue := rfl
@[simp] theorem putPallet_inFlight (p : Nat) (l : List Handle) : (s.putPallet p l).inFlight = s.inFlight := rfl
@[simp] theorem putPallet_flags (p : Nat) (l : List Handle) : (s.putPallet p l).flags = s.flags := rfl
@[simp] theorem putPallet_pending (p : Nat) (l : List Handle) : (s.putPallet p l).pending = s.pending := rfl

@[simp] theorem putDraft_phase (a : Nat) (l : List DraftEntry) : (s.putDraft a l).phase = s.phase := rfl
@[simp] theorem putDraft_rst (a : Nat) (l : List DraftEntry) : (s.putDraft a l).rst = s.rst := rfl
@[simp] theorem putDraft_pfw (a : Nat) (l : List DraftEntry) : (s.putDraft a l).pfw = s.pfw := rfl
@[simp] theorem putDraft_restartPending (a : Nat) (l : List DraftEntry) : (s.putDraft a l).restartPending = s.restartPending := rfl
@[simp] theorem putDraft_stations (a : Nat) (l : List DraftEntry) : (s.putDraft a l).stations = s.stations := rfl
@[simp] theorem putDraft_round (a : Nat) (l : List DraftEntry) : (s.putDraft a l).round = s.round := rfl
@[simp] theorem putDraft_roundPos (a : Nat) (l : List DraftEntry) : (s.putDraft a l).roundPos = s.roundPos := rfl
@[simp] theorem putDraft_poll (a : Nat) (l : List DraftEntry) : (s.putDraft a l).poll = s.poll := rfl
@[simp] theorem putDraft_lastFrame (a : Nat) (l : List DraftEntry) : (s.putDraft a l).lastFrame = s.lastFrame := rfl
@[simp] theorem putDraft_deferred (a : Nat) (l : List DraftEntry) : (s.putDraft a l).deferred = s.deferred := rfl
@[simp] theorem putDraft_plates (a : Nat) (l : List DraftEntry) : (s.putDraft a l).plates = s.plates := rfl
@[simp] theorem putDraft_seqCounter (a : Nat) (l : List DraftEntry) : (s.putDraft a l).seqCounter = s.seqCounter := rfl
@[simp] theorem putDraft_slots (a : Nat) (l : List DraftEntry) : (s.putDraft a l).slots = s.slots := rfl
@[simp] theorem putDraft_beds (a : Nat) (l : List DraftEntry) : (s.putDraft a l).beds = s.beds := rfl
@[simp] theorem putDraft_cart (a : Nat) (l : List DraftEntry) : (s.putDraft a l).cart = s.cart := rfl
@[simp] theorem putDraft_hall (a : Nat) (l : List DraftEntry) : (s.putDraft a l).hall = s.hall := rfl
@[simp] theorem putDraft_searchQueue (a : Nat) (l : List DraftEntry) : (s.putDraft a l).searchQueue = s.searchQueue := rfl
@[simp] theorem putDraft_scan (a : Nat) (l : List DraftEntry) : (s.putDraft a l).scan = s.scan := rfl
@[simp] theorem putDraft_tables (a : Nat) (l : List DraftEntry) : (s.putDraft a l).tables = s.tables := rfl
@[simp] theorem putDraft_jobs (a : Nat) (l : List DraftEntry) : (s.putDraft a l).jobs = s.jobs := rfl
@[simp] theorem putDraft_parts (a : Nat) (l : List DraftEntry) : (s.putDraft a l).parts = s.parts := rfl
@[simp] theorem putDraft_pallets (a : Nat) (l : List DraftEntry) : (s.putDraft a l).pallets = s.pallets := rfl
@[simp] theorem putDraft_windows (a : Nat) (l : List DraftEntry) : (s.putDraft a l).windows = s.windows := rfl
@[simp] theorem putDraft_legs (a : Nat) (l : List DraftEntry) : (s.putDraft a l).legs = s.legs := rfl
@[simp] theorem putDraft_batches (a : Nat) (l : List DraftEntry) : (s.putDraft a l).batches = s.batches := rfl
@[simp] theorem putDraft_commitCounter (a : Nat) (l : List DraftEntry) : (s.putDraft a l).commitCounter = s.commitCounter := rfl
@[simp] theorem putDraft_cranes (a : Nat) (l : List DraftEntry) : (s.putDraft a l).cranes = s.cranes := rfl
@[simp] theorem putDraft_store (a : Nat) (l : List DraftEntry) : (s.putDraft a l).store = s.store := rfl
@[simp] theorem putDraft_headerFloor (a : Nat) (l : List DraftEntry) : (s.putDraft a l).headerFloor = s.headerFloor := rfl
@[simp] theorem putDraft_queue (a : Nat) (l : List DraftEntry) : (s.putDraft a l).queue = s.queue := rfl
@[simp] theorem putDraft_inFlight (a : Nat) (l : List DraftEntry) : (s.putDraft a l).inFlight = s.inFlight := rfl
@[simp] theorem putDraft_flags (a : Nat) (l : List DraftEntry) : (s.putDraft a l).flags = s.flags := rfl
@[simp] theorem putDraft_pending (a : Nat) (l : List DraftEntry) : (s.putDraft a l).pending = s.pending := rfl

@[simp] theorem modifyTable_phase (t : Nat) (f : TableSeq → TableSeq) : (s.modifyTable t f).phase = s.phase := rfl
@[simp] theorem modifyTable_rst (t : Nat) (f : TableSeq → TableSeq) : (s.modifyTable t f).rst = s.rst := rfl
@[simp] theorem modifyTable_pfw (t : Nat) (f : TableSeq → TableSeq) : (s.modifyTable t f).pfw = s.pfw := rfl
@[simp] theorem modifyTable_restartPending (t : Nat) (f : TableSeq → TableSeq) : (s.modifyTable t f).restartPending = s.restartPending := rfl
@[simp] theorem modifyTable_stations (t : Nat) (f : TableSeq → TableSeq) : (s.modifyTable t f).stations = s.stations := rfl
@[simp] theorem modifyTable_round (t : Nat) (f : TableSeq → TableSeq) : (s.modifyTable t f).round = s.round := rfl
@[simp] theorem modifyTable_roundPos (t : Nat) (f : TableSeq → TableSeq) : (s.modifyTable t f).roundPos = s.roundPos := rfl
@[simp] theorem modifyTable_poll (t : Nat) (f : TableSeq → TableSeq) : (s.modifyTable t f).poll = s.poll := rfl
@[simp] theorem modifyTable_lastFrame (t : Nat) (f : TableSeq → TableSeq) : (s.modifyTable t f).lastFrame = s.lastFrame := rfl
@[simp] theorem modifyTable_deferred (t : Nat) (f : TableSeq → TableSeq) : (s.modifyTable t f).deferred = s.deferred := rfl
@[simp] theorem modifyTable_plates (t : Nat) (f : TableSeq → TableSeq) : (s.modifyTable t f).plates = s.plates := rfl
@[simp] theorem modifyTable_seqCounter (t : Nat) (f : TableSeq → TableSeq) : (s.modifyTable t f).seqCounter = s.seqCounter := rfl
@[simp] theorem modifyTable_slots (t : Nat) (f : TableSeq → TableSeq) : (s.modifyTable t f).slots = s.slots := rfl
@[simp] theorem modifyTable_beds (t : Nat) (f : TableSeq → TableSeq) : (s.modifyTable t f).beds = s.beds := rfl
@[simp] theorem modifyTable_cart (t : Nat) (f : TableSeq → TableSeq) : (s.modifyTable t f).cart = s.cart := rfl
@[simp] theorem modifyTable_hall (t : Nat) (f : TableSeq → TableSeq) : (s.modifyTable t f).hall = s.hall := rfl
@[simp] theorem modifyTable_searchQueue (t : Nat) (f : TableSeq → TableSeq) : (s.modifyTable t f).searchQueue = s.searchQueue := rfl
@[simp] theorem modifyTable_scan (t : Nat) (f : TableSeq → TableSeq) : (s.modifyTable t f).scan = s.scan := rfl
@[simp] theorem modifyTable_jobs (t : Nat) (f : TableSeq → TableSeq) : (s.modifyTable t f).jobs = s.jobs := rfl
@[simp] theorem modifyTable_drafts (t : Nat) (f : TableSeq → TableSeq) : (s.modifyTable t f).drafts = s.drafts := rfl
@[simp] theorem modifyTable_parts (t : Nat) (f : TableSeq → TableSeq) : (s.modifyTable t f).parts = s.parts := rfl
@[simp] theorem modifyTable_pallets (t : Nat) (f : TableSeq → TableSeq) : (s.modifyTable t f).pallets = s.pallets := rfl
@[simp] theorem modifyTable_windows (t : Nat) (f : TableSeq → TableSeq) : (s.modifyTable t f).windows = s.windows := rfl
@[simp] theorem modifyTable_legs (t : Nat) (f : TableSeq → TableSeq) : (s.modifyTable t f).legs = s.legs := rfl
@[simp] theorem modifyTable_batches (t : Nat) (f : TableSeq → TableSeq) : (s.modifyTable t f).batches = s.batches := rfl
@[simp] theorem modifyTable_commitCounter (t : Nat) (f : TableSeq → TableSeq) : (s.modifyTable t f).commitCounter = s.commitCounter := rfl
@[simp] theorem modifyTable_cranes (t : Nat) (f : TableSeq → TableSeq) : (s.modifyTable t f).cranes = s.cranes := rfl
@[simp] theorem modifyTable_store (t : Nat) (f : TableSeq → TableSeq) : (s.modifyTable t f).store = s.store := rfl
@[simp] theorem modifyTable_headerFloor (t : Nat) (f : TableSeq → TableSeq) : (s.modifyTable t f).headerFloor = s.headerFloor := rfl
@[simp] theorem modifyTable_queue (t : Nat) (f : TableSeq → TableSeq) : (s.modifyTable t f).queue = s.queue := rfl
@[simp] theorem modifyTable_inFlight (t : Nat) (f : TableSeq → TableSeq) : (s.modifyTable t f).inFlight = s.inFlight := rfl
@[simp] theorem modifyTable_flags (t : Nat) (f : TableSeq → TableSeq) : (s.modifyTable t f).flags = s.flags := rfl
@[simp] theorem modifyTable_pending (t : Nat) (f : TableSeq → TableSeq) : (s.modifyTable t f).pending = s.pending := rfl

@[simp] theorem sendPoll_phase (a n : Nat) : (s.sendPoll a n).phase = s.phase := rfl
@[simp] theorem sendPoll_rst (a n : Nat) : (s.sendPoll a n).rst = s.rst := rfl
@[simp] theorem sendPoll_pfw (a n : Nat) : (s.sendPoll a n).pfw = s.pfw := rfl
@[simp] theorem sendPoll_restartPending (a n : Nat) : (s.sendPoll a n).restartPending = s.restartPending := rfl
@[simp] theorem sendPoll_stations (a n : Nat) : (s.sendPoll a n).stations = s.stations := rfl
@[simp] theorem sendPoll_round (a n : Nat) : (s.sendPoll a n).round = s.round := rfl
@[simp] theorem sendPoll_roundPos (a n : Nat) : (s.sendPoll a n).roundPos = s.roundPos := rfl
@[simp] theorem sendPoll_deferred (a n : Nat) : (s.sendPoll a n).deferred = s.deferred := rfl
@[simp] theorem sendPoll_plates (a n : Nat) : (s.sendPoll a n).plates = s.plates := rfl
@[simp] theorem sendPoll_seqCounter (a n : Nat) : (s.sendPoll a n).seqCounter = s.seqCounter := rfl
@[simp] theorem sendPoll_slots (a n : Nat) : (s.sendPoll a n).slots = s.slots := rfl
@[simp] theorem sendPoll_beds (a n : Nat) : (s.sendPoll a n).beds = s.beds := rfl
@[simp] theorem sendPoll_cart (a n : Nat) : (s.sendPoll a n).cart = s.cart := rfl
@[simp] theorem sendPoll_hall (a n : Nat) : (s.sendPoll a n).hall = s.hall := rfl
@[simp] theorem sendPoll_searchQueue (a n : Nat) : (s.sendPoll a n).searchQueue = s.searchQueue := rfl
@[simp] theorem sendPoll_scan (a n : Nat) : (s.sendPoll a n).scan = s.scan := rfl
@[simp] theorem sendPoll_tables (a n : Nat) : (s.sendPoll a n).tables = s.tables := rfl
@[simp] theorem sendPoll_jobs (a n : Nat) : (s.sendPoll a n).jobs = s.jobs := rfl
@[simp] theorem sendPoll_drafts (a n : Nat) : (s.sendPoll a n).drafts = s.drafts := rfl
@[simp] theorem sendPoll_parts (a n : Nat) : (s.sendPoll a n).parts = s.parts := rfl
@[simp] theorem sendPoll_pallets (a n : Nat) : (s.sendPoll a n).pallets = s.pallets := rfl
@[simp] theorem sendPoll_windows (a n : Nat) : (s.sendPoll a n).windows = s.windows := rfl
@[simp] theorem sendPoll_legs (a n : Nat) : (s.sendPoll a n).legs = s.legs := rfl
@[simp] theorem sendPoll_batches (a n : Nat) : (s.sendPoll a n).batches = s.batches := rfl
@[simp] theorem sendPoll_commitCounter (a n : Nat) : (s.sendPoll a n).commitCounter = s.commitCounter := rfl
@[simp] theorem sendPoll_cranes (a n : Nat) : (s.sendPoll a n).cranes = s.cranes := rfl
@[simp] theorem sendPoll_store (a n : Nat) : (s.sendPoll a n).store = s.store := rfl
@[simp] theorem sendPoll_headerFloor (a n : Nat) : (s.sendPoll a n).headerFloor = s.headerFloor := rfl
@[simp] theorem sendPoll_queue (a n : Nat) : (s.sendPoll a n).queue = s.queue := rfl
@[simp] theorem sendPoll_inFlight (a n : Nat) : (s.sendPoll a n).inFlight = s.inFlight := rfl
@[simp] theorem sendPoll_flags (a n : Nat) : (s.sendPoll a n).flags = s.flags := rfl
@[simp] theorem sendPoll_pending (a n : Nat) : (s.sendPoll a n).pending = s.pending := rfl

@[simp] theorem putStation_phase (a : Nat) (e : Option Station) : (s.putStation a e).phase = s.phase := rfl
@[simp] theorem putStation_rst (a : Nat) (e : Option Station) : (s.putStation a e).rst = s.rst := rfl
@[simp] theorem putStation_pfw (a : Nat) (e : Option Station) : (s.putStation a e).pfw = s.pfw := rfl
@[simp] theorem putStation_restartPending (a : Nat) (e : Option Station) : (s.putStation a e).restartPending = s.restartPending := rfl
@[simp] theorem putStation_round (a : Nat) (e : Option Station) : (s.putStation a e).round = s.round := rfl
@[simp] theorem putStation_roundPos (a : Nat) (e : Option Station) : (s.putStation a e).roundPos = s.roundPos := rfl
@[simp] theorem putStation_poll (a : Nat) (e : Option Station) : (s.putStation a e).poll = s.poll := rfl
@[simp] theorem putStation_lastFrame (a : Nat) (e : Option Station) : (s.putStation a e).lastFrame = s.lastFrame := rfl
@[simp] theorem putStation_deferred (a : Nat) (e : Option Station) : (s.putStation a e).deferred = s.deferred := rfl
@[simp] theorem putStation_plates (a : Nat) (e : Option Station) : (s.putStation a e).plates = s.plates := rfl
@[simp] theorem putStation_seqCounter (a : Nat) (e : Option Station) : (s.putStation a e).seqCounter = s.seqCounter := rfl
@[simp] theorem putStation_slots (a : Nat) (e : Option Station) : (s.putStation a e).slots = s.slots := rfl
@[simp] theorem putStation_beds (a : Nat) (e : Option Station) : (s.putStation a e).beds = s.beds := rfl
@[simp] theorem putStation_cart (a : Nat) (e : Option Station) : (s.putStation a e).cart = s.cart := rfl
@[simp] theorem putStation_hall (a : Nat) (e : Option Station) : (s.putStation a e).hall = s.hall := rfl
@[simp] theorem putStation_searchQueue (a : Nat) (e : Option Station) : (s.putStation a e).searchQueue = s.searchQueue := rfl
@[simp] theorem putStation_scan (a : Nat) (e : Option Station) : (s.putStation a e).scan = s.scan := rfl
@[simp] theorem putStation_tables (a : Nat) (e : Option Station) : (s.putStation a e).tables = s.tables := rfl
@[simp] theorem putStation_jobs (a : Nat) (e : Option Station) : (s.putStation a e).jobs = s.jobs := rfl
@[simp] theorem putStation_drafts (a : Nat) (e : Option Station) : (s.putStation a e).drafts = s.drafts := rfl
@[simp] theorem putStation_parts (a : Nat) (e : Option Station) : (s.putStation a e).parts = s.parts := rfl
@[simp] theorem putStation_pallets (a : Nat) (e : Option Station) : (s.putStation a e).pallets = s.pallets := rfl
@[simp] theorem putStation_windows (a : Nat) (e : Option Station) : (s.putStation a e).windows = s.windows := rfl
@[simp] theorem putStation_legs (a : Nat) (e : Option Station) : (s.putStation a e).legs = s.legs := rfl
@[simp] theorem putStation_batches (a : Nat) (e : Option Station) : (s.putStation a e).batches = s.batches := rfl
@[simp] theorem putStation_commitCounter (a : Nat) (e : Option Station) : (s.putStation a e).commitCounter = s.commitCounter := rfl
@[simp] theorem putStation_cranes (a : Nat) (e : Option Station) : (s.putStation a e).cranes = s.cranes := rfl
@[simp] theorem putStation_store (a : Nat) (e : Option Station) : (s.putStation a e).store = s.store := rfl
@[simp] theorem putStation_headerFloor (a : Nat) (e : Option Station) : (s.putStation a e).headerFloor = s.headerFloor := rfl
@[simp] theorem putStation_queue (a : Nat) (e : Option Station) : (s.putStation a e).queue = s.queue := rfl
@[simp] theorem putStation_inFlight (a : Nat) (e : Option Station) : (s.putStation a e).inFlight = s.inFlight := rfl
@[simp] theorem putStation_flags (a : Nat) (e : Option Station) : (s.putStation a e).flags = s.flags := rfl
@[simp] theorem putStation_pending (a : Nat) (e : Option Station) : (s.putStation a e).pending = s.pending := rfl

end Sys2Proof.Machine
end

