-- ==== Sys2Proof/Laws/Table.lean ====
section
/-! SUPPORT. What reading a table or a pool gives after each update of it. -/

namespace Sys2Proof

variable {α : Type} {n : Nat}

/-! ## Tables -/

theorem Table.get?_eq_none (t : Table α n) {i : Nat} : t.get? i = none ↔ n ≤ i := by
  simp [Table.get?, t.size_eq]

theorem Table.get?_isSome (t : Table α n) {i : Nat} (h : i < n) : ∃ a, t.get? i = some a := by
  rcases hg : t.get? i with _ | a
  · exact absurd (t.get?_eq_none.1 hg) (by omega)
  · exact ⟨a, rfl⟩

/-- A read after a write at the same place gives the value written. -/
theorem Table.get?_set_self (t : Table α n) {i : Nat} (a : α) (h : i < n) : (t.set i a).get? i = some a := by
  simp [Table.get?, Table.set, t.size_eq, h]

/-- A write leaves every other place alone. -/
theorem Table.get?_set_ne (t : Table α n) {i j : Nat} (a : α) (h : i ≠ j) : (t.set i a).get? j = t.get? j := by
  simp [Table.get?, Table.set, h]

theorem Table.modify_eq_set (t : Table α n) {i : Nat} {a : α} (f : α → α) (h : t.get? i = some a) :
    t.modify i f = t.set i (f a) := by
  simp [Table.modify, h]

theorem Table.get?_modify (t : Table α n) (i j : Nat) (f : α → α) :
    (t.modify i f).get? j = if i = j then (t.get? j).map f else t.get? j := by
  rcases hg : t.get? i with _ | a
  · by_cases hij : i = j
    · subst hij; simp [Table.modify, hg]
    · simp [Table.modify, hg, hij]
  · have hi : i < n := by
      by_contra hn
      rw [t.get?_eq_none.2 (by omega)] at hg
      cases hg
    rw [t.modify_eq_set f hg]
    by_cases hij : i = j
    · subst hij; rw [t.get?_set_self _ hi]; simp [hg]
    · rw [t.get?_set_ne _ hij, if_neg hij]

theorem Table.getD_modify_self (t : Table α n) {i : Nat} (f : α → α) (d : α) (h : i < n) :
    (t.modify i f).getD i d = f (t.getD i d) := by
  obtain ⟨a, ha⟩ := t.get?_isSome h
  simp [Table.getD, Table.get?_modify, ha]

theorem Table.getD_modify_ne (t : Table α n) {i j : Nat} (f : α → α) (d : α) (h : i ≠ j) :
    (t.modify i f).getD j d = t.getD j d := by
  simp [Table.getD, Table.get?_modify, h]

theorem Table.getD_set_self (t : Table α n) {i : Nat} (a d : α) (h : i < n) : (t.set i a).getD i d = a := by
  simp [Table.getD, t.get?_set_self a h]

theorem Table.getD_set_ne (t : Table α n) {i j : Nat} (a d : α) (h : i ≠ j) :
    (t.set i a).getD j d = t.getD j d := by
  simp [Table.getD, t.get?_set_ne a h]

theorem Table.getD_beyond (t : Table α n) {i : Nat} (d : α) (h : n ≤ i) : t.getD i d = d := by
  simp [Table.getD, t.get?_eq_none.2 h]

theorem Table.get?_replicate {i : Nat} (a : α) (h : i < n) : (Table.replicate n a).get? i = some a := by
  simp [Table.get?, Table.replicate, h]

theorem Table.getD_replicate (i : Nat) (a : α) : (Table.replicate n a).getD i a = a := by
  by_cases h : i < n
  · simp [Table.getD, Table.get?_replicate a h]
  · exact Table.getD_beyond _ a (by omega)

/-! ## Pools -/

theorem Pool.find_eq_some {t : Pool α n} {h : Handle} {r : α} :
    t.find h = some r ↔ t.get? h.idx = some ⟨h.gen, some r⟩ := by
  unfold Pool.find
  rcases hg : t.get? h.idx with _ | ⟨g, o⟩
  · simp
  · by_cases hgen : g = h.gen
    · simp [hgen]
    · simp [hgen]

/-- A handle that names a record names the updated record after an update. -/
theorem Pool.find_modify_self {t : Pool α n} {h : Handle} {r : α} (f : α → α) (hr : t.find h = some r) :
    (Pool.modify t h f).find h = some (f r) := by
  have hi : h.idx < n := by
    by_contra hn
    rw [Pool.find_eq_some, t.get?_eq_none.2 (by omega)] at hr
    cases hr
  simp only [Pool.modify, hr]
  rw [Pool.find_eq_some, Table.get?_set_self _ _ hi]

/-- An update of one record leaves every other alone. -/
theorem Pool.find_modify_ne {t : Pool α n} {h g : Handle} (f : α → α) (hne : h ≠ g) :
    (Pool.modify t h f).find g = t.find g := by
  rcases hr : t.find h with _ | r
  · simp [Pool.modify, hr]
  · have hi : h.idx < n := by
      by_contra hn
      rw [Pool.find_eq_some, t.get?_eq_none.2 (by omega)] at hr
      cases hr
    have he := Pool.find_eq_some.1 hr
    simp only [Pool.modify, hr]
    by_cases hidx : h.idx = g.idx
    · have hgen : h.gen ≠ g.gen := fun hg => hne (by cases h; cases g; simp_all)
      unfold Pool.find
      rw [← hidx, Table.get?_set_self _ _ hi, he]
      simp [hgen]
    · unfold Pool.find
      rw [Table.get?_set_ne _ _ hidx]

/-- An update gives a handle a record exactly when the handle named one before. -/
theorem Pool.find_modify (t : Pool α n) (h g : Handle) (f : α → α) :
    (Pool.modify t h f).find g = if h = g then (t.find g).map f else t.find g := by
  by_cases hhg : h = g
  · subst hhg
    rcases hr : t.find h with _ | r
    · simp [Pool.modify, hr]
    · simp [Pool.find_modify_self f hr]
  · rw [Pool.find_modify_ne f hhg, if_neg hhg]

/-- A new record is what its handle names, in an entry that passed the test. -/
theorem Pool.create_find {t u : Pool α n} {ok : Entry α → Bool} {r : α} {h : Handle}
    (hc : Pool.create t ok r = some (u, h)) : u.find h = some r := by
  unfold Pool.create at hc
  rcases hf : t.firstIdx? ok with _ | i
  · simp [hf] at hc
  · rcases hg : t.get? i with _ | e
    · simp [hf, hg] at hc
    · have hi : i < n := by
        by_contra hn
        rw [t.get?_eq_none.2 (by omega)] at hg
        cases hg
      simp only [hf, hg, Option.some.injEq, Prod.mk.injEq] at hc
      obtain ⟨rfl, rfl⟩ := hc
      rw [Pool.find_eq_some, Table.get?_set_self _ _ hi]

/-- A new record takes the lowest entry that passes the test, with the generation that entry gives. -/
theorem Pool.create_handle {t u : Pool α n} {ok : Entry α → Bool} {r : α} {h : Handle}
    (hc : Pool.create t ok r = some (u, h)) :
    t.firstIdx? ok = some h.idx ∧ ∃ e, t.get? h.idx = some e ∧ h.gen = e.newGen := by
  unfold Pool.create at hc
  rcases hf : t.firstIdx? ok with _ | i
  · simp [hf] at hc
  · rcases hg : t.get? i with _ | e
    · simp [hf, hg] at hc
    · simp only [hf, hg, Option.some.injEq, Prod.mk.injEq] at hc
      obtain ⟨-, rfl⟩ := hc
      exact ⟨rfl, e, hg, rfl⟩

/-- A new record leaves every other entry alone. -/
theorem Pool.create_others {t u : Pool α n} {ok : Entry α → Bool} {r : α} {h g : Handle}
    (hc : Pool.create t ok r = some (u, h)) (hne : g.idx ≠ h.idx) : u.find g = t.find g := by
  unfold Pool.create at hc
  rcases hf : t.firstIdx? ok with _ | i
  · simp [hf] at hc
  · rcases hg : t.get? i with _ | e
    · simp [hf, hg] at hc
    · simp only [hf, hg, Option.some.injEq, Prod.mk.injEq] at hc
      obtain ⟨rfl, rfl⟩ := hc
      unfold Pool.find
      rw [Table.get?_set_ne _ _ (Ne.symm hne)]

/-- A record released is named no longer, and every other entry is left alone. -/
theorem Pool.release_others {t : Pool α n} {h g : Handle} (hne : g.idx ≠ h.idx) :
    (Pool.release t h).find g = t.find g := by
  unfold Pool.release
  split
  · unfold Pool.find
    rw [Table.get?_set_ne _ _ (Ne.symm hne)]
  · rfl

theorem Pool.release_self (t : Pool α n) (h : Handle) : (Pool.release t h).find h = none := by
  unfold Pool.release
  rcases hr : t.find h with _ | r
  · simp [hr]
  · have he := Pool.find_eq_some.1 hr
    have hi : h.idx < n := by
      by_contra hn
      rw [t.get?_eq_none.2 (by omega)] at he
      cases he
    simp only
    unfold Pool.find
    rw [Table.get?_set_self _ _ hi]
    simp

end Sys2Proof
end

