-- ==== Sys2Proof/Laws/Line.lean ====
section
/-! SUPPORT. What the shared operations of the Link Controller and of the write queue can do: reading a station
after an update of it, the checks of a request and the delivery of its reply, the queue after an image joins. -/

namespace Sys2Proof.Machine

open Sys2Proof

variable {s : State} {a b : Nat} {st : Station}

/-! ## Stations -/

theorem station?_pos (h : s.station? a = some st) : 1 ≤ a ∧ a ≤ 32 := by
  unfold State.station? at h
  match a, h with
  | i + 1, h =>
    rcases hg : s.stations.get? i with _ | e
    · simp [hg] at h
    · refine ⟨by omega, ?_⟩
      by_contra hn
      rw [s.stations.get?_eq_none.2 (by omega)] at hg
      cases hg

/-- The station table after one entry is replaced. -/
theorem station?_set (e : Option Station) (ha : 1 ≤ a ∧ a ≤ 32) :
    State.station? { s with stations := s.stations.set (a - 1) e } b = if a = b then e else s.station? b := by
  obtain ⟨i, rfl⟩ : ∃ i, a = i + 1 := ⟨a - 1, by omega⟩
  have hi : i < 32 := by omega
  match b with
  | 0 => simp [State.station?]
  | j + 1 =>
    unfold State.station?
    by_cases hij : i = j
    · subst hij
      simp [Table.get?_set_self _ _ hi]
    · simp [Table.get?_set_ne _ _ hij, hij]

theorem station?_modifyStation_self (f : Station → Station) (h : s.station? a = some st) :
    (s.modifyStation a f).station? a = some (f st) := by
  simp only [State.modifyStation, h]
  rw [station?_set _ (station?_pos h), if_pos rfl]

theorem station?_modifyStation_ne (f : Station → Station) (h : a ≠ b) :
    (s.modifyStation a f).station? b = s.station? b := by
  unfold State.modifyStation
  split
  · rename_i st hst
    rw [station?_set _ (station?_pos hst), if_neg h]
  · rfl

theorem station?_heard_self (h : s.station? a = some st) :
    (s.heard a).station? a = some { st with misses := 0, silent := false } :=
  station?_modifyStation_self _ h

theorem station?_heard_ne (h : a ≠ b) : (s.heard a).station? b = s.station? b :=
  station?_modifyStation_ne _ h

/-- Only the station table decides what an address names. -/
theorem station?_congr {t : State} (h : t.stations = s.stations) : t.station? a = s.station? a := by
  simp [State.station?, h]

/-! ## Requests -/

/-- A reply is due only while the part runs, no Restart waits, and the station polled is enrolled. -/
theorem due_polled (h : s.due = .polled a st) :
    s.phase = .running ∧ s.restartPending = false ∧ (∃ p, s.poll = some p ∧ p.address = a)
      ∧ s.station? a = some st := by
  unfold State.due at h
  split at h <;> try cases h
  split at h <;> try cases h
  split at h <;> try cases h
  split at h <;> try cases h
  rename_i hrun hrestart _ p hp _ hst
  exact ⟨hrun, by simpa using hrestart, ⟨p, hp, rfl⟩, hst⟩

theorem due_station (h : s.due = .polled a st) : s.station? a = some st := (due_polled h).2.2.2

variable {α : Type} {r : Req} {tag : Byte} {body : Asker → α → State → Reply}

theorem request_malformed (h : s.due = .polled a st) :
    request r tag (.malformed : Payload α) s body
      = .next ((s.heard a).answer ⟨a, st.kind, st.unit, tag⟩ .badRequest []) := by
  simp [request, h, State.handle]

theorem request_notPermitted {v : α} (h : s.due = .polled a st) (hk : st.kind ∉ r.kinds) :
    request r tag (.fields v) s body
      = .next ((s.heard a).answer ⟨a, st.kind, st.unit, tag⟩ .notPermitted []) := by
  simp [request, h, State.handle, hk]

theorem request_busy {v : α} (h : s.due = .polled a st) (hk : st.kind ∈ r.kinds) (hd : r.deferred = true)
    (hb : st.slot.busy = true) :
    request r tag (.fields v) s body
      = .next ((s.heard a).answer ⟨a, st.kind, st.unit, tag⟩ .busy []) := by
  simp [request, h, State.handle, hk, hd, hb]

/-- A request that passes the Link Controller's checks goes to the block that owns it. -/
theorem request_owned {v : α} (h : s.due = .polled a st) (hk : st.kind ∈ r.kinds)
    (hb : r.deferred = true → st.slot.busy = false) :
    request r tag (.fields v) s body
      = .next (State.deliver r ⟨a, st.kind, st.unit, tag⟩
          (body ⟨a, st.kind, st.unit, tag⟩ v (s.heard a))) := by
  rcases hd : r.deferred with _ | _
  · simp [request, h, State.handle, hk, hd]
  · simp [request, h, State.handle, hk, hd, hb hd]

/-- A request is never a fault, and is refused only where no reply is due. -/
theorem request_next {p : Payload α} {t : State} (h : request r tag p s body = .next t) :
    ∃ a st, s.due = .polled a st ∧ t = s.handle r tag p a st body := by
  unfold request at h
  split at h
  · cases h
  · cases h
  · rename_i a st hdue
    exact ⟨a, st, hdue, by simpa using h.symm⟩

/-- What a handled request leaves: an answer on the state with the station heard, or the delivery of the
block's reply. -/
theorem handle_cases {p : Payload α} :
    (∃ code, s.handle r tag p a st body
        = (s.heard a).answer ⟨a, st.kind, st.unit, tag⟩ code [])
      ∨ ∃ v, p = .fields v ∧ s.handle r tag p a st body
          = State.deliver r ⟨a, st.kind, st.unit, tag⟩ (body ⟨a, st.kind, st.unit, tag⟩ v (s.heard a)) := by
  unfold State.handle
  split
  · exact .inl ⟨_, rfl⟩
  · rename_i v
    split
    · split
      · exact .inl ⟨_, rfl⟩
      · exact .inr ⟨v, rfl, rfl⟩
    · exact .inl ⟨_, rfl⟩

/-- The state that a block's reply hands back. -/
def Reply.state : Reply → State
  | .now s _ _ => s
  | .complete s _ _ => s
  | .waits s _ _ _ => s
  | .search s => s

/-- Delivering a reply changes the stations, the requests in flight and the last frame, and nothing else. -/
theorem deliver_frame (k : Asker) (y : Reply) :
    State.deliver r k y
      = { y.state with
          stations := (State.deliver r k y).stations
          deferred := (State.deliver r k y).deferred
          lastFrame := (State.deliver r k y).lastFrame } := by
  rcases y with ⟨s, _, _⟩ | ⟨s, _, _⟩ | ⟨s, _ | ⟨_, _⟩, _, _⟩ | s <;>
    apply State.ext <;> simp [State.deliver, Reply.state]

/-! ## The write queue -/

theorem enqueue_queue (i : ImageId) :
    (s.enqueue i).queue = if i ∈ s.queue then s.queue else s.queue ++ [i] := by
  unfold State.enqueue
  split <;> rfl

theorem mem_enqueue {i j : ImageId} : j ∈ (s.enqueue i).queue ↔ j ∈ s.queue ∨ j = i := by
  rw [enqueue_queue]
  split
  · constructor
    · exact .inl
    · rintro (h | rfl)
      · exact h
      · assumption
  · simp

/-- An image joins the queue at most once. -/
theorem enqueue_nodup {i : ImageId} (h : s.queue.Nodup) : (s.enqueue i).queue.Nodup := by
  rw [enqueue_queue]
  split
  · exact h
  · rename_i hi
    rw [List.nodup_append]
    refine ⟨h, by simp, ?_⟩
    intro x hx y hy
    rw [List.mem_singleton] at hy
    rintro rfl
    exact hi (hy ▸ hx)

theorem enqueueAll_nodup {l : List ImageId} : ∀ {s : State}, s.queue.Nodup → (s.enqueueAll l).queue.Nodup := by
  induction l with
  | nil => intro s h; exact h
  | cons i l ih => intro s h; exact ih (enqueue_nodup h)

end Sys2Proof.Machine
end

