-- ==== Sys2Proof/Laws/Frames.lean ====
section
/-! SUPPORT. Frames: for each shared operation, the fields it can change. A command's frame is the chain of
those of its operations, each widened to the command's list. -/

namespace Sys2Proof.Machine

open Sys2Proof

variable {s t u : State} {l m : List Field}

theorem OnlyChanges.refl : OnlyChanges l s s := by
  intro f _
  cases f <;> rfl

theorem OnlyChanges.trans (h : OnlyChanges l s t) (g : OnlyChanges l t u) : OnlyChanges l s u := by
  intro f hf
  have h1 := h f hf
  have h2 := g f hf
  cases f <;> exact Eq.trans h2 h1

theorem OnlyChanges.mono (h : OnlyChanges l s t) (hlm : l.all m.contains = true) : OnlyChanges m s t := by
  intro f hf
  refine h f fun hl => hf ?_
  simpa using List.all_eq_true.1 hlm f hl

theorem OnlyChanges.of_eq (h : t = s) : OnlyChanges l s t := h ▸ OnlyChanges.refl

/-- A fold of steps that each change only the fields of a list does so too. -/
theorem OnlyChanges.foldl {α : Type} {step : State → α → State}
    (h : ∀ s a, OnlyChanges l s (step s a)) (as : List α) : ∀ s, OnlyChanges l s (as.foldl step s) := by
  induction as with
  | nil => intro s; exact .refl
  | cons a as ih => intro s; exact (h s a).trans (ih _)

/-! ## Plain updates -/

theorem raise_frame (a : Alarm) : OnlyChanges [.flags] s (s.raise a) := by
  intro f hf
  cases f <;> simp_all [Field.kept]

theorem raiseIf_frame (c : Bool) (a : Alarm) : OnlyChanges [.flags] s (s.raiseIf c a) := by
  intro f hf
  cases f <;> simp_all [Field.kept]

theorem modifyStation_frame (a : Nat) (f : Station → Station) : OnlyChanges [.stations] s (s.modifyStation a f) := by
  intro f hf
  cases f <;> simp_all [Field.kept]

theorem putAnswer_frame (a : Nat) (v : AnsSlot) : OnlyChanges [.stations] s (s.putAnswer a v) := by
  intro f hf
  cases f <;> simp_all [Field.kept]

theorem heard_frame (a : Nat) : OnlyChanges [.stations, .poll] s (s.heard a) := by
  intro f hf
  cases f <;> simp_all [Field.kept]

theorem answer_frame (k : Asker) (c : AnsCode) (l : List Token) : OnlyChanges [.lastFrame] s (s.answer k c l) := by
  intro f hf
  cases f <;> simp_all [Field.kept]

theorem defer_frame (d : Deferred) : OnlyChanges [.deferred] s (s.defer d) := by
  intro f hf
  cases f <;> simp_all [Field.kept]

theorem enqueue_frame (i : ImageId) : OnlyChanges [.queue] s (s.enqueue i) := by
  intro f hf
  cases f <;> simp_all [Field.kept]

theorem modifyPlate_frame (h : Handle) (f : PlateRec → PlateRec) : OnlyChanges [.plates] s (s.modifyPlate h f) := by
  intro f hf
  cases f <;> simp_all [Field.kept]

theorem putLocation_frame (h : Handle) (l : Location) : OnlyChanges [.plates] s (s.putLocation h l) := by
  intro f hf
  cases f <;> simp_all [Field.kept]

theorem modifyCrane_frame (c : Nat) (f : Crane → Crane) : OnlyChanges [.cranes] s (s.modifyCrane c f) := by
  intro f hf
  cases f <;> simp_all [Field.kept]

theorem modifySlot_frame (k : Nat) (f : Slot → Slot) : OnlyChanges [.slots] s (s.modifySlot k f) := by
  intro f hf
  cases f <;> simp_all [Field.kept]

theorem modifyBed_frame (t b : Nat) (f : Bed → Bed) : OnlyChanges [.beds] s (s.modifyBed t b f) := by
  intro f hf
  cases f <;> simp_all [Field.kept]

theorem modifyLeg_frame (h : Handle) (f : Leg → Leg) : OnlyChanges [.legs] s (s.modifyLeg h f) := by
  intro f hf
  cases f <;> simp_all [Field.kept]

theorem modifyBatch_frame (h : Handle) (f : Batch → Batch) : OnlyChanges [.batches] s (s.modifyBatch h f) := by
  intro f hf
  cases f <;> simp_all [Field.kept]

theorem modifyJob_frame (h : Handle) (f : Job → Job) : OnlyChanges [.jobs] s (s.modifyJob h f) := by
  intro f hf
  cases f <;> simp_all [Field.kept]

theorem modifyPart_frame (h : Handle) (f : Part → Part) : OnlyChanges [.parts] s (s.modifyPart h f) := by
  intro f hf
  cases f <;> simp_all [Field.kept]

theorem putWindow_frame (t : Nat) (w : Window) : OnlyChanges [.windows] s (s.putWindow t w) := by
  intro f hf
  cases f <;> simp_all [Field.kept]

theorem putPallet_frame (p : Nat) (l : List Handle) : OnlyChanges [.pallets] s (s.putPallet p l) := by
  intro f hf
  cases f <;> simp_all [Field.kept]

theorem putDraft_frame (a : Nat) (l : List DraftEntry) : OnlyChanges [.drafts] s (s.putDraft a l) := by
  intro f hf
  cases f <;> simp_all [Field.kept]

theorem modifyTable_frame (t : Nat) (f : TableSeq → TableSeq) : OnlyChanges [.tables] s (s.modifyTable t f) := by
  intro f hf
  cases f <;> simp_all [Field.kept]

theorem sendPoll_frame (a n : Nat) : OnlyChanges [.poll, .lastFrame] s (s.sendPoll a n) := by
  intro f hf
  cases f <;> simp_all [Field.kept]

theorem putStation_frame (a : Nat) (e : Option Station) : OnlyChanges [.stations] s (s.putStation a e) := by
  intro f hf
  cases f <;> simp_all [Field.kept]

end Sys2Proof.Machine
end

