-- ==== Sys2Proof/Laws/Effects.lean ====
section
/-! SUPPORT. Frames of the operations that plates, places, parts, claims, legs and batches share. -/

namespace Sys2Proof.Machine

open Sys2Proof

variable {s : State}

/-! ## Places and plates -/

/-- What moving a plate can change. -/
abbrev placeFields : List Field := [.plates, .slots, .beds, .cart, .queue]

theorem enqueueAll_frame (l : List ImageId) : OnlyChanges [.queue] s (s.enqueueAll l) :=
  OnlyChanges.foldl (fun _ i => enqueue_frame i) l s

theorem examineSlot_frame (k : Nat) : OnlyChanges [.slots] s (s.examineSlot k) := by
  unfold State.examineSlot
  split
  · exact modifySlot_frame k _
  · exact .refl

theorem relevel_frame (k : Nat) (l : List Handle) :
    ∀ (n : Nat) (s : State), OnlyChanges [.plates, .queue] s (relevel k n l s) := by
  induction l with
  | nil => intro n s; exact .refl
  | cons h hs ih =>
    intro n s
    exact (((putLocation_frame h _).mono (by decide)).trans ((enqueue_frame _).mono (by decide))).trans (ih _ _)

theorem leaveSlot_frame (h : Handle) (k : Nat) :
    OnlyChanges [.plates, .slots, .queue] s (s.leaveSlot h k) :=
  (((modifySlot_frame k _).mono (by decide)).trans ((relevel_frame k _ _ _).mono (by decide))).trans
    ((examineSlot_frame k).mono (by decide))

theorem leavePlace_frame (h : Handle) : OnlyChanges placeFields s (s.leavePlace h) := by
  unfold State.leavePlace
  split
  · exact .refl
  · split
    · exact (leaveSlot_frame h _).mono (by decide)
    · exact (modifyBed_frame _ _ _).mono (by decide)
    · intro f hf
      cases f <;> first | rfl | exact absurd (by decide) hf
    · exact .refl
    · exact .refl

theorem joinPlace_frame (h : Handle) (p : Place) : OnlyChanges placeFields s (s.joinPlace h p) := by
  cases p with
  | slot k => exact ((modifySlot_frame k _).mono (by decide)).trans ((putLocation_frame h _).mono (by decide))
  | bed t b => exact ((modifyBed_frame t b _).mono (by decide)).trans ((putLocation_frame h _).mono (by decide))
  | cart =>
    refine OnlyChanges.trans (t := { s with cart := { s.cart with plates := s.cart.plates ++ [h] } }) ?_
      ((putLocation_frame h _).mono (by decide))
    intro f hf
    cases f <;> first | rfl | exact absurd (by decide) hf
  | hook c => exact (putLocation_frame h _).mono (by decide)
  | nowhere => exact (putLocation_frame h _).mono (by decide)
  | scrapBin => exact .refl
  | choose => exact .refl

theorem movePlate_frame (h : Handle) (p : Place) : OnlyChanges placeFields s (s.movePlate h p) :=
  (((enqueue_frame _).mono (by decide)).trans (leavePlace_frame h)).trans (joinPlace_frame h p)

theorem retirePlate_frame (h : Handle) (why : RetireReason) :
    OnlyChanges placeFields s (s.retirePlate h why) :=
  (((enqueue_frame _).mono (by decide)).trans (leavePlace_frame h)).trans
    ((modifyPlate_frame h _).mono (by decide))

theorem createPlate_frame {ident : PlateId} {st : PlateSt} {mass : Nat} {t : State} {h : Handle}
    (hc : s.createPlate ident st mass = some (t, h)) :
    OnlyChanges [.plates, .seqCounter, .queue] s t := by
  unfold State.createPlate at hc
  split at hc
  · split at hc
    · cases hc
    · simp only [Option.some.injEq, Prod.mk.injEq] at hc
      obtain ⟨rfl, -⟩ := hc
      refine OnlyChanges.trans ?_ ((enqueueAll_frame _).mono (by decide))
      intro f hf
      cases f <;> first | rfl | exact absurd (by decide) hf
  · cases hc

/-! ## Searches -/

theorem startScan_frame : OnlyChanges [.searchQueue, .scan] s s.startScan := by
  unfold State.startScan
  split
  · exact .refl
  · split
    · exact .refl
    · intro f hf
      cases f <;> first | rfl | exact absurd (by decide) hf

theorem withdrawSearch_frame (a : Nat) : OnlyChanges [.searchQueue, .scan] s (s.withdrawSearch a) := by
  refine OnlyChanges.trans ?_ startScan_frame
  intro f hf
  cases f <;> first | rfl | exact absurd (by decide) hf

theorem endScan_frame (q : SearchRec) (l : List Candidate) :
    OnlyChanges [.stations, .searchQueue, .scan] s (s.endScan q l) := by
  have idle (s : State) : OnlyChanges [.stations, .searchQueue, .scan] s { s with scan := none } := by
    intro f hf
    cases f <;> first | rfl | exact absurd (by decide) hf
  unfold State.endScan
  refine OnlyChanges.trans ?_ (startScan_frame.mono (by decide))
  split
  · split
    · exact OnlyChanges.trans ((putAnswer_frame q.station
        (.held q.tag reqFindRemnant.code .done (listTok (l.map Candidate.tokens)))).mono (by decide)) (idle _)
    · exact idle s
  · exact idle s

/-! ## Parts -/

theorem putCut_frame (h : Handle) (c : CutState) : OnlyChanges [.parts, .jobs] s (s.putCut h c) := by
  unfold State.putCut
  split
  · exact .refl
  · exact ((modifyPart_frame h _).mono (by decide)).trans ((modifyJob_frame _ _).mono (by decide))

theorem scrapUncut_frame (l : List Handle) : OnlyChanges [.parts, .jobs] s (s.scrapUncut l) := by
  refine OnlyChanges.foldl (fun s h => ?_) l s
  split
  · exact .refl
  · split
    · exact putCut_frame h _
    · exact .refl

theorem retireScrapped_frame (l : List Handle) : OnlyChanges [.parts] s (s.retireScrapped l) := by
  refine OnlyChanges.foldl (fun s h => ?_) l s
  split
  · exact .refl
  · split
    · intro f hf
      cases f <;> first | rfl | exact absurd (by decide) hf
    · exact .refl

theorem failIssued_frame (h : Handle) : OnlyChanges [.parts, .flags] s (s.failIssued h) := by
  unfold State.failIssued
  split
  · exact .refl
  · exact ((modifyPart_frame h _).mono (by decide)).trans ((raiseIf_frame _ _).mono (by decide))

theorem emptyWindow_frame (t : Nat) : OnlyChanges [.parts, .flags, .windows] s (s.emptyWindow t) :=
  OnlyChanges.trans ((OnlyChanges.foldl (fun _ h => failIssued_frame h) _ s).mono (by decide))
    ((putWindow_frame t _).mono (by decide))

theorem createParts_frame (job : Handle) (plate : PlateId) (l : List DraftEntry) :
    ∀ (i : Nat) (s : State), OnlyChanges [.parts] s (State.createParts job plate i l s).1 := by
  induction l with
  | nil => intro i s; exact .refl
  | cons d ds ih =>
    intro i s
    unfold State.createParts
    split
    · exact .refl
    · refine OnlyChanges.trans ?_ (ih _ _)
      intro f hf
      cases f <;> first | rfl | exact absurd (by decide) hf

theorem retireParts_frame (l : List Handle) : OnlyChanges [.parts] s (s.retireParts l) :=
  OnlyChanges.foldl (fun s h => by
    intro f hf
    cases f <;> first | rfl | exact absurd (by decide) hf) l s

theorem offPallet_frame (h : Handle) (p : Placement) : OnlyChanges [.pallets] s (s.offPallet h p) := by
  unfold State.offPallet
  split
  · exact putPallet_frame _ _
  · exact .refl

theorem recomputeResume_frame (job : Handle) : OnlyChanges [.jobs] s (s.recomputeResume job) :=
  modifyJob_frame job _

theorem scrapPart_frame (h : Handle) (p : Part) :
    OnlyChanges [.pallets, .parts, .jobs] s (s.scrapPart h p) := by
  have scrapped := (((offPallet_frame (s := s) h p.placement).mono (m := [.pallets, .parts, .jobs])
    (by decide)).trans ((modifyPart_frame h fun p =>
      { p with cut := .scrapped, placement := .nowhere }).mono (by decide))).trans
    ((recomputeResume_frame p.job).mono (by decide))
  unfold State.scrapPart
  dsimp only
  split
  · refine scrapped.trans ?_
    intro f hf
    cases f <;> first | rfl | exact absurd (by decide) hf
  · exact scrapped

end Sys2Proof.Machine
end

