-- ==== Sys2Proof/Laws/LegEffects.lean ====
section
/-! SUPPORT. Frames of the operations on claims, legs and batches, and of what the dispatchers tell a job. -/

namespace Sys2Proof.Machine

open Sys2Proof

variable {s : State}

/-! ## Claims -/

/-- What a Crane Report can change. -/
abbrev zoneFields : List Field := [.cranes, .flags]

theorem breach_frame (c : Nat) : OnlyChanges zoneFields s (s.breach c) :=
  ((raiseIf_frame _ _).mono (by decide)).trans ((modifyCrane_frame c _).mono (by decide))

theorem putClaim_frame (c : Nat) (q : Claim) : OnlyChanges [.cranes] s (s.putClaim c q) :=
  modifyCrane_frame c _

theorem putStopped_frame (c : Nat) (v : Bool) : OnlyChanges [.cranes] s (s.putStopped c v) :=
  modifyCrane_frame c _

theorem craneOff_frame (c : Nat) : OnlyChanges [.cranes] s (s.craneOff c) := modifyCrane_frame c _

theorem shrink_frame (c : Nat) : OnlyChanges [.cranes] s (s.shrink c) := by
  unfold State.shrink
  split
  · exact .refl
  · split
    · exact .refl
    · split
      · exact putClaim_frame c _
      · split
        · exact (putClaim_frame c _).trans (putStopped_frame c _)
        · exact putStopped_frame c _

theorem reportOffline_frame (c p : Nat) : OnlyChanges zoneFields s (s.reportOffline c p) := by
  unfold State.reportOffline
  split
  · exact (modifyCrane_frame c _).mono (by decide)
  · exact ((raise_frame _).mono (by decide)).trans ((putStopped_frame c _).mono (by decide))

theorem reportIdle_frame (c p : Nat) : OnlyChanges zoneFields s (s.reportIdle c p) := by
  unfold State.reportIdle
  dsimp only
  refine OnlyChanges.trans (t := s.modifyCrane c fun k => { k with position := some p })
    ((modifyCrane_frame c _).mono (by decide)) ?_
  split
  · exact ((putClaim_frame c _).trans (putStopped_frame c _)).mono (by decide)
  · exact breach_frame c

theorem reportBusy_frame (c p : Nat) : OnlyChanges zoneFields s (s.reportBusy c p) := by
  unfold State.reportBusy
  dsimp only
  refine OnlyChanges.trans (t := s.modifyCrane c fun k => { k with position := some p })
    ((modifyCrane_frame c _).mono (by decide)) ?_
  split
  · exact (putStopped_frame c _).mono (by decide)
  · exact breach_frame c

theorem report_frame (c p : Nat) : OnlyChanges zoneFields s (s.report c p) := by
  unfold State.report
  split
  · exact reportOffline_frame c p
  · exact reportIdle_frame c p
  all_goals exact reportBusy_frame c p

/-! ## Batches -/

theorem addLegs_frame (ok : Entry Leg → Bool) (hb : Handle) (l : List Leg) :
    ∀ (i : Nat) (s : State), OnlyChanges [.legs] s (State.addLegs ok hb i l s).1 := by
  induction l with
  | nil => intro i s; exact .refl
  | cons d ds ih =>
    intro i s
    unfold State.addLegs
    split
    · exact .refl
    · refine OnlyChanges.trans ?_ (ih _ _)
      intro f hf
      cases f <;> first | rfl | exact absurd (by decide) hf

theorem openBatch_frame {o : BatchOrigin} {l : List Leg} {t : State} {hb : Handle}
    (h : s.openBatch o l = some (t, hb)) : OnlyChanges [.legs, .batches] s t := by
  unfold State.openBatch at h
  split at h
  · cases h
  · rename_i batches hb' _
    simp only [Option.some.injEq, Prod.mk.injEq] at h
    obtain ⟨rfl, -⟩ := h
    refine OnlyChanges.trans (t := (State.addLegs s.legEntryFree hb' 0 l s).1)
      ((addLegs_frame _ _ _ _ _).mono (by decide)) ?_
    refine OnlyChanges.trans
      (t := { (State.addLegs s.legEntryFree hb' 0 l s).1 with batches := batches }) ?_
      ((modifyBatch_frame _ _).mono (by decide))
    intro f hf
    cases f <;> first | rfl | exact absurd (by decide) hf

theorem commitBatch_frame (hb : Handle) : OnlyChanges [.batches, .commitCounter] s (s.commitBatch hb) := by
  refine OnlyChanges.trans
    (t := s.modifyBatch hb fun b => { b with state := .committed, seq := some s.commitCounter })
    ((modifyBatch_frame hb _).mono (by decide)) ?_
  intro f hf
  cases f <;> first | rfl | exact absurd (by decide) hf

theorem commitNew_frame (job : Handle) (l : List Leg) :
    OnlyChanges [.legs, .batches, .commitCounter] s (s.commitNew job l).1 := by
  unfold State.commitNew
  split
  · exact .refl
  · rename_i t hb h
    exact ((openBatch_frame h).mono (by decide)).trans ((commitBatch_frame hb).mono (by decide))

theorem discardBatch_frame (hb : Handle) : OnlyChanges [.legs, .batches] s (s.discardBatch hb) := by
  unfold State.discardBatch
  split
  · exact .refl
  · intro f hf
    cases f <;> first | rfl | exact absurd (by decide) hf

theorem discardOpen_frame (a : Nat) : OnlyChanges [.legs, .batches] s (s.discardOpen a) := by
  unfold State.discardOpen
  split
  · exact discardBatch_frame _
  · exact .refl

theorem overLegs_frame (f : Leg → Leg) (l : List Handle) : OnlyChanges [.legs] s (s.overLegs f l) :=
  OnlyChanges.foldl (fun _ h => modifyLeg_frame h f) l s

theorem putLegState_frame (h : Handle) (v : LegState) : OnlyChanges [.legs] s (s.putLegState h v) :=
  modifyLeg_frame h _

theorem settleBatch_frame (hb : Handle) : OnlyChanges [.batches] s (s.settleBatch hb) := by
  unfold State.settleBatch
  split
  · exact .refl
  · split
    · exact modifyBatch_frame hb _
    · exact .refl

theorem cancelBatch_frame (hb : Handle) : OnlyChanges [.legs, .batches] s (s.cancelBatch hb) := by
  unfold State.cancelBatch
  split
  · exact .refl
  · exact ((overLegs_frame _ _).mono (by decide)).trans ((modifyBatch_frame hb _).mono (by decide))

/-! ## The end of a leg -/

theorem dropIncoming_frame (h : Handle) (p : Option Place) :
    OnlyChanges [.slots, .cart] s (s.dropIncoming h p) := by
  unfold State.dropIncoming
  split
  · exact (modifySlot_frame _ _).mono (by decide)
  · intro f hf
    cases f <;> first | rfl | exact absurd (by decide) hf
  · exact .refl

theorem addIncoming_frame (h : Handle) (p : Place) : OnlyChanges [.slots, .cart] s (s.addIncoming h p) := by
  unfold State.addIncoming
  split
  · exact (modifySlot_frame _ _).mono (by decide)
  · intro f hf
    cases f <;> first | rfl | exact absurd (by decide) hf
  · exact .refl

theorem freeCrane_frame (c : Nat) : OnlyChanges [.cranes] s (s.freeCrane c) :=
  (modifyCrane_frame c _).trans (shrink_frame c)

/-- What letting a leg go can change. -/
abbrev goFields : List Field := [.slots, .cart, .plates, .cranes]

theorem letGo_frame (h : Handle) (l : Leg) : OnlyChanges goFields s (s.letGo h l) := by
  unfold State.letGo
  split
  · dsimp only
    have s2 : OnlyChanges goFields s (match l.plate with
        | some p => (s.dropIncoming h l.target).uncarry p
        | none => s.dropIncoming h l.target) := by
      split
      · exact ((dropIncoming_frame h _).mono (by decide)).trans ((modifyPlate_frame _ _).mono (by decide))
      · exact (dropIncoming_frame h _).mono (by decide)
    split
    · exact s2.trans ((freeCrane_frame _).mono (by decide))
    · exact s2
  · exact .refl

/-- What the end of a leg can change. -/
abbrev legFields : List Field :=
  [.slots, .cart, .plates, .cranes, .legs, .batches, .commitCounter, .jobs, .parts]

theorem stopLeg_frame (h : Handle) (how : LegState) : OnlyChanges legFields s (s.stopLeg h how) := by
  unfold State.stopLeg
  split
  · exact .refl
  · rename_i l _
    have s1 := ((letGo_frame (s := s) h l).mono (m := legFields) (by decide)).trans
      ((putLegState_frame h how).mono (by decide))
    dsimp only
    split
    · exact s1
    · exact (s1.trans ((overLegs_frame _ _).mono (by decide))).trans ((settleBatch_frame _).mono (by decide))

theorem clearJob_frame (jh : Handle) : OnlyChanges [.jobs, .parts] s (s.clearJob jh) := by
  unfold State.clearJob
  split
  · exact .refl
  · exact ((modifyJob_frame jh _).mono (by decide)).trans ((retireScrapped_frame _).mono (by decide))

/-- What finishing an OPEN return batch can change. -/
abbrev finishFields : List Field := [.legs, .batches, .commitCounter, .jobs, .parts]

theorem finishReturn_frame (jh rb : Handle) (keep : Bool) :
    OnlyChanges finishFields s (s.finishReturn jh rb keep) := by
  unfold State.finishReturn
  split
  · exact (commitBatch_frame rb).mono (by decide)
  · exact ((cancelBatch_frame rb).mono (by decide)).trans ((clearJob_frame jh).mono (by decide))

theorem tellStopped_frame (l : Leg) : OnlyChanges finishFields s (s.tellStopped l) := by
  unfold State.tellStopped
  split
  · split
    · exact (modifyJob_frame _ _).mono (by decide)
    · split
      · split
        · exact finishReturn_frame _ _ _
        · exact .refl
      · exact .refl
  · exact .refl

theorem endLeg_frame (h : Handle) (how : LegState) : OnlyChanges legFields s (s.endLeg h how) := by
  unfold State.endLeg
  split
  · exact .refl
  · exact (stopLeg_frame h how).trans ((tellStopped_frame _).mono (by decide))

theorem tellDone_frame (l : Leg) : OnlyChanges finishFields s (s.tellDone l) := by
  unfold State.tellDone
  split
  · split
    · exact (clearJob_frame _).mono (by decide)
    · split
      · split
        · exact (modifyJob_frame _ _).mono (by decide)
        · split
          · split
            · exact finishReturn_frame _ _ _
            · exact .refl
          · exact .refl
      · exact .refl
  · exact .refl

theorem doneLeg_frame (h : Handle) : OnlyChanges legFields s (s.doneLeg h) := by
  unfold State.doneLeg
  split
  · exact .refl
  · exact ((((letGo_frame h _).mono (by decide)).trans ((putLegState_frame h _).mono (by decide))).trans
      ((settleBatch_frame _).mono (by decide))).trans ((tellDone_frame _).mono (by decide))

theorem requeueLeg_frame (h : Handle) : OnlyChanges legFields s (s.requeueLeg h) := by
  unfold State.requeueLeg
  split
  · exact .refl
  · rename_i l _
    have s1 := ((letGo_frame (s := s) h l).mono (m := legFields) (by decide)).trans
      ((putLegState_frame h .queued).mono (by decide))
    dsimp only
    split
    · exact (s1.trans (stopLeg_frame h _)).trans ((finishReturn_frame _ _ _).mono (by decide))
    · split
      · exact s1.trans (endLeg_frame h _)
      · exact s1.trans ((modifyLeg_frame h _).mono (by decide))

/-! ## The walk -/

theorem passOver_frame (h : Handle) (l : Leg) (why : HoldUp) (skip : Bool) :
    OnlyChanges [.legs, .flags] s (s.passOver h l why skip) :=
  ((modifyLeg_frame h _).mono (by decide)).trans ((raiseIf_frame _ _).mono (by decide))

/-- What the assignment of a leg can change. -/
abbrev assignFields : List Field := [.legs, .slots, .cart, .plates, .cranes]

theorem carryFor_frame (h : Handle) (l : Leg) : OnlyChanges [.plates] s (s.carryFor h l) := by
  unfold State.carryFor
  split
  · exact modifyPlate_frame _ _
  · exact .refl

theorem assign_frame (c : Nat) (h : Handle) (l : Leg) (p : Place) (q : Claim) :
    OnlyChanges assignFields s (s.assign c h l p q) :=
  ((((modifyLeg_frame h _).mono (by decide)).trans ((addIncoming_frame h p).mono (by decide))).trans
    ((carryFor_frame h l).mono (by decide))).trans ((modifyCrane_frame c _).mono (by decide))

/-- What Next Leg can change. -/
abbrev walkFields : List Field := .flags :: legFields

theorem tryLeg_frame (c p : Nat) (h : Handle) : OnlyChanges walkFields s (s.tryLeg c p h).1 := by
  unfold State.tryLeg
  split
  · exact .refl
  · split
    · exact (passOver_frame _ _ _ _).mono (by decide)
    · exact (assign_frame _ _ _ _ _).mono (by decide)

theorem renumber_frame (l : List Handle) :
    ∀ (i : Nat) (s : State), OnlyChanges [.legs] s (renumber i l s) := by
  induction l with
  | nil => intro i s; exact .refl
  | cons h hs ih => intro i s; exact (modifyLeg_frame h _).trans (ih _ _)

theorem putLegs_frame (hb : Handle) (l : List Handle) : OnlyChanges [.legs, .batches] s (s.putLegs hb l) :=
  ((modifyBatch_frame hb _).mono (by decide)).trans ((renumber_frame l 0 _).mono (by decide))

theorem expandDigs_frame (h : Handle) (l : Leg) (above : List Handle) :
    OnlyChanges [.legs, .batches] s (s.expandDigs h l above).1 :=
  ((addLegs_frame _ _ _ _ _).mono (by decide)).trans (putLegs_frame _ _)

theorem consider_frame (c p : Nat) (h : Handle) : OnlyChanges walkFields s (s.consider c p h).1 := by
  unfold State.consider
  split
  · exact .refl
  · rename_i l _
    split
    · exact .refl
    · dsimp only
      split
      · exact tryLeg_frame c p h
      · split
        · exact ((modifyLeg_frame h _).mono (by decide)).trans ((endLeg_frame h _).mono (by decide))
        · split
          · exact (passOver_frame _ _ _ _).mono (by decide)
          · split
            · exact (passOver_frame _ _ _ _).mono (by decide)
            · have digs := (expandDigs_frame (s := s) h l (s.above l)).mono (m := walkFields) (by decide)
              split
              · rename_i t top rest heq
                rw [heq] at digs
                exact digs.trans (tryLeg_frame c p top)
              · rename_i t heq
                rw [heq] at digs
                exact digs

theorem walkOver_frame (c p : Nat) (l : List Handle) :
    ∀ s : State, OnlyChanges walkFields s (State.walkOver c p l s).1 := by
  induction l with
  | nil => intro s; exact .refl
  | cons h hs ih =>
    intro s
    have first := consider_frame (s := s) c p h
    unfold State.walkOver
    split
    · rename_i t heq
      rw [heq] at first
      exact first
    · rename_i t heq
      rw [heq] at first
      exact first.trans (ih t)

end Sys2Proof.Machine
end

