-- ==== Sys2Proof/Laws/BlockEffects.lean ====
section
/-! SUPPORT. Frames of the operations of the Table Sequencers, of the lift and the set-down, of enrolment and of
the Hall Map. -/

namespace Sys2Proof.Machine

open Sys2Proof

variable {s : State}

/-! ## Jobs -/

theorem shiftVerdict_frame (t : Nat) (v : Verdict) (n : Nat) : OnlyChanges [.tables] s (s.shiftVerdict t v n) :=
  modifyTable_frame t _

theorem promote_frame (t b : Nat) : OnlyChanges [.jobs, .tables, .legs] s (s.promote t b) := by
  unfold State.promote
  split
  · exact .refl
  · split
    · exact (((modifyJob_frame _ _).mono (by decide)).trans ((modifyTable_frame t _).mono (by decide))).trans
        ((overLegs_frame _ _).mono (by decide))
    · exact .refl

theorem cutPart_frame (h : Handle) (p : Part) : OnlyChanges [.parts, .jobs, .flags] s (s.cutPart h p) :=
  ((putCut_frame h _).mono (by decide)).trans ((raiseIf_frame _ _).mono (by decide))

theorem putJob_frame (h : Handle) (j : Job) : OnlyChanges [.jobs] s (s.putJob h j) := by
  intro f hf
  cases f <;> first | rfl | exact absurd (by decide) hf

/-- What an admission can change. -/
abbrev admitFields : List Field :=
  [.plates, .parts, .tables, .legs, .batches, .commitCounter, .jobs, .drafts]

theorem reserve_frame (h job : Handle) : OnlyChanges [.plates] s (s.reserve h job) := modifyPlate_frame h _

theorem admit_frame (k : Asker) (f : AdmitF) (o : Orientation) (r : PlateRec) :
    OnlyChanges admitFields s (s.admitPlate k f o r).state := by
  unfold State.admitPlate Reply.state
  dsimp only
  have made := ((reserve_frame (s := s) f.plate (s.newJobHandle f.table f.bed)).mono (m := admitFields)
    (by decide)).trans ((createParts_frame (s.newJobHandle f.table f.bed) r.ident (s.draft k.address) 0 _).mono
      (by decide))
  have s1 : OnlyChanges admitFields s
      (if (!(s.bedLive f.table 0 || s.bedLive f.table 1)) = true then
        (State.createParts (s.newJobHandle f.table f.bed) r.ident 0 (s.draft k.address)
          (s.reserve f.plate (s.newJobHandle f.table f.bed))).1.modifyTable f.table
            fun t => { t with gantry := f.bed }
      else (State.createParts (s.newJobHandle f.table f.bed) r.ident 0 (s.draft k.address)
          (s.reserve f.plate (s.newJobHandle f.table f.bed))).1) := by
    split
    · exact made.trans ((modifyTable_frame _ _).mono (by decide))
    · exact made
  refine OnlyChanges.trans ?_ ((putDraft_frame k.address []).mono (by decide))
  refine OnlyChanges.trans ?_ ((putJob_frame _ _).mono (by decide))
  split
  · exact s1
  · exact s1.trans ((commitNew_frame _ _).mono (by decide))

/-- What the derivation service can change. -/
abbrev deriveFields : List Field := .seqCounter :: placeFields

theorem consume_frame (h : Handle) (t b : Nat) : OnlyChanges placeFields s (s.consume h t b) :=
  (retirePlate_frame h _).trans ((modifyBed_frame t b _).mono (by decide))

theorem createRemnant_frame {j : Job} {r : PlateRec} {b n : Nat} {t : State} {h : Handle}
    (hc : s.createRemnant j r n b = some (t, h)) : OnlyChanges deriveFields s t := by
  unfold State.createRemnant at hc
  dsimp only at hc
  split at hc
  · cases hc
  · split at hc
    · cases hc
    · rename_i u g hu
      simp only [Option.some.injEq, Prod.mk.injEq] at hc
      obtain ⟨rfl, -⟩ := hc
      exact ((createPlate_frame hu).mono (by decide)).trans ((joinPlace_frame g _).mono (by decide))

theorem derive_frame (j : Job) (t b : Nat) : OnlyChanges deriveFields s (s.derive j t b).state := by
  unfold State.derive
  split
  · exact (modifyBed_frame t b _).mono (by decide)
  · dsimp only
    split
    · exact (consume_frame _ t b).mono (by decide)
    · rename_i u g hu
      exact (createRemnant_frame hu).trans ((consume_frame _ t b).mono (by decide))

/-- What the end of a job can change. -/
abbrev jobEndFields : List Field :=
  deriveFields ++ [.parts, .jobs, .tables, .legs, .batches, .commitCounter, .windows, .flags]

theorem jobEnd_frame (h : Handle) (j : Job) (pass : Bool) (v : Verdict) :
    OnlyChanges jobEndFields s (s.jobEnd h j pass v).state := by
  unfold State.jobEnd
  dsimp only
  have s0 : OnlyChanges jobEndFields s (if pass then s else s.scrapUncut j.parts) := by
    split
    · exact .refl
    · exact (scrapUncut_frame _).mono (by decide)
  have made := ((s0.trans ((derive_frame j (jobTable h) (jobBed h)).mono (by decide))).trans
    ((shiftVerdict_frame (jobTable h) v j.nest).mono (by decide))).trans
    ((commitNew_frame h (clearLegs (jobTable h) (jobBed h)
      ((if pass then s else s.scrapUncut j.parts).derive j (jobTable h) (jobBed h)))).mono (by decide))
  rcases j.role == some Role.active with _ | _
  · exact made.trans ((modifyJob_frame h _).mono (by decide))
  · exact ((made.trans ((emptyWindow_frame _).mono (by decide))).trans
      ((modifyJob_frame h _).mono (by decide))).trans ((promote_frame _ _).mono (by decide))

/-- What an unpierced abort can change. -/
abbrev abortFields : List Field := legFields ++ [.tables, .windows, .flags]

theorem cancelFetch_frame (l : List Handle) : OnlyChanges legFields s (s.cancelFetch l) := by
  refine OnlyChanges.foldl (fun s h => ?_) l s
  split
  · split
    · exact stopLeg_frame h _
    · exact .refl
  · exact .refl

theorem endUnpierced_frame (h : Handle) (b : Option Handle) : OnlyChanges [.jobs] s (s.endUnpierced h b) :=
  modifyJob_frame h _

theorem finishAbort_frame (h : Handle) (j : Job) : OnlyChanges finishFields s (s.finishAbort h j) := by
  unfold State.finishAbort
  split
  · split
    · rename_i t hb ht
      exact ((openBatch_frame ht).mono (by decide)).trans ((endUnpierced_frame h _).mono (by decide))
    · exact (endUnpierced_frame h _).mono (by decide)
  · split
    · exact ((commitNew_frame h _).mono (by decide)).trans ((endUnpierced_frame h _).mono (by decide))
    · exact ((modifyJob_frame h _).mono (by decide)).trans ((clearJob_frame h).mono (by decide))

theorem releasePlate_frame (h job : Handle) : OnlyChanges [.plates] s (s.releasePlate h job) :=
  modifyPlate_frame h _

theorem abortUnpierced_frame (h : Handle) (j : Job) : OnlyChanges abortFields s (s.abortUnpierced h j) := by
  unfold State.abortUnpierced
  dsimp only
  have s1 := ((releasePlate_frame (s := s) j.plate h).mono (m := abortFields) (by decide)).trans
    ((scrapUncut_frame j.parts).mono (by decide))
  have rest (u : State) := (((shiftVerdict_frame (s := u) (jobTable h) .aborted j.nest).mono (m := abortFields)
    (by decide)).trans ((cancelFetch_frame (u.batchLegs j.fetchBatch)).mono (by decide))).trans
    ((finishAbort_frame h j).mono (by decide))
  rcases j.role == some Role.active with _ | _
  · exact s1.trans (rest _)
  · exact ((s1.trans ((emptyWindow_frame _).mono (by decide))).trans (rest _)).trans
      ((promote_frame _ _).mono (by decide))

/-! ## Lift and set-down -/

theorem liftLoad_frame (c : Nat) (l : Leg) (agrees : Bool) :
    OnlyChanges placeFields s (s.liftLoad c l agrees) := by
  unfold State.liftLoad
  split
  · exact (movePlate_frame _ _).trans ((modifyPlate_frame _ _).mono (by decide))
  · exact (modifyBed_frame _ _ _).mono (by decide)
  · exact .refl

/-- What a lift can change. -/
abbrev liftFields : List Field := placeFields ++ [.legs, .cranes, .flags]

theorem lift_frame (c : Nat) (h : Handle) (l : Leg) (load : Nat) (agrees : Bool) :
    OnlyChanges liftFields s (s.lift c h l load agrees) :=
  ((((liftLoad_frame c l agrees).mono (by decide)).trans ((modifyLeg_frame h _).mono (by decide))).trans
    ((modifyCrane_frame c _).mono (by decide))).trans ((raiseIf_frame _ _).mono (by decide))

theorem land_frame (l : Leg) (p : Place) : OnlyChanges placeFields s (s.land l p) := by
  unfold State.land
  split
  · exact movePlate_frame _ p
  · split
    · exact (modifyBed_frame _ _ _).mono (by decide)
    · exact .refl

/-- What a set-down, a fault, a cancellation or a broken hook can change. -/
abbrev setDownFields : List Field := placeFields ++ legFields

theorem breakPlate_frame (h : Handle) (r : PlateRec) (p : Place) :
    OnlyChanges setDownFields s (s.breakPlate h r p) := by
  unfold State.breakPlate
  dsimp only
  have s1 := ((movePlate_frame (s := s) h p).mono (m := setDownFields) (by decide)).trans
    ((modifyPlate_frame h fun r => { r with st := { r.st with doubtful := true } }).mono (by decide))
  split
  · exact s1.trans ((endLeg_frame _ _).mono (by decide))
  · exact s1

/-! ## A supervisor's batch -/

theorem appendLeg_frame (hb : Handle) (b : Batch) (l : Leg) :
    OnlyChanges [.legs, .batches] s (s.appendLeg hb b l).1 :=
  ((addLegs_frame _ _ _ _ _).mono (by decide)).trans ((modifyBatch_frame hb _).mono (by decide))

theorem expandLegs_frame (ok : Entry Leg → Bool) (hb : Handle) (l : List Handle) :
    ∀ s : State, OnlyChanges [.legs] s (State.expandLegs ok hb l s).1 := by
  induction l with
  | nil => intro s; exact .refl
  | cons h hs ih =>
    intro s
    unfold State.expandLegs
    split
    · exact ih s
    · split
      · exact ih s
      · exact ((addLegs_frame _ _ _ _ _).trans (modifyLeg_frame h _)).trans (ih _)

theorem settleOpen_frame (hb : Handle) (l : List Handle) :
    OnlyChanges [.legs, .batches, .commitCounter] s (s.settleOpen hb l).1 :=
  (((expandLegs_frame _ _ l s).mono (by decide)).trans ((putLegs_frame hb _).mono (by decide))).trans
    ((commitBatch_frame hb).mono (by decide))

/-! ## Enrolment -/

/-- What forgetting a station can change. -/
abbrev forgetFields : List Field := [.legs, .batches, .drafts, .deferred, .searchQueue, .scan]

theorem forget_frame (a : Nat) : OnlyChanges forgetFields s (s.forget a) := by
  unfold State.forget
  refine OnlyChanges.trans ?_ ((withdrawSearch_frame a).mono (by decide))
  refine OnlyChanges.trans (((discardOpen_frame (s := s) a).mono (m := forgetFields) (by decide)).trans
    ((putDraft_frame a []).mono (by decide))) ?_
  intro f hf
  cases f <;> first | rfl | exact absurd (by decide) hf

theorem unbindCrane_frame (a : Nat) (n : Option Nat) : OnlyChanges [.cranes] s (s.unbindCrane a n) := by
  unfold State.unbindCrane
  split
  · exact .refl
  · split
    · exact .refl
    · split
      · exact .refl
      · exact craneOff_frame _

theorem leaveRound_frame (a : Nat) : OnlyChanges [.round] s (s.leaveRound a) := by
  intro f hf
  cases f <;> first | rfl | exact absurd (by decide) hf

/-- What an enrolment can change. -/
abbrev enrolFields : List Field := forgetFields ++ [.cranes, .stations, .queue]

theorem enrol_frame (a : Nat) (kind : StationKind) (unit : Option Nat) (w : Nat) :
    OnlyChanges enrolFields s (s.enrol a kind unit w) :=
  ((((forget_frame a).mono (by decide)).trans ((unbindCrane_frame a _).mono (by decide))).trans
    ((putStation_frame a _).mono (by decide))).trans ((enqueue_frame _).mono (by decide))

theorem removeStation_frame (a : Nat) : OnlyChanges (.round :: enrolFields) s (s.removeStation a) :=
  (((((forget_frame a).mono (by decide)).trans ((unbindCrane_frame a _).mono (by decide))).trans
    ((putStation_frame a _).mono (by decide))).trans ((leaveRound_frame a).mono (by decide))).trans
    ((enqueue_frame _).mono (by decide))

theorem miss_frame (a : Nat) (st : Station) : OnlyChanges [.poll, .stations, .flags] s (s.miss a st) := by
  have idle : OnlyChanges [.poll, .stations, .flags] s { s with poll := none } := by
    intro f hf
    cases f <;> first | rfl | exact absurd (by decide) hf
  exact (idle.trans ((modifyStation_frame a _).mono (by decide))).trans ((raiseIf_frame _ _).mono (by decide))

theorem failAttempt_frame (a : Nat) (st : Station) :
    OnlyChanges [.poll, .stations, .flags, .lastFrame] s (s.failAttempt a st) := by
  unfold State.failAttempt
  split
  · exact .refl
  · split
    · exact (miss_frame a st).mono (by decide)
    · exact (sendPoll_frame a _).mono (by decide)

/-! ## The Hall Map -/

theorem putCraneCfg_frame (c : Nat) (v : CraneCfg) : OnlyChanges [.hall, .cranes] s (s.putCraneCfg c v) := by
  have cfg : OnlyChanges [.hall, .cranes] s
      { s with hall := { s.hall with cranes := s.hall.cranes.set c v } } := by
    intro f hf
    cases f <;> first | rfl | exact absurd (by decide) hf
  unfold State.putCraneCfg
  dsimp only
  split
  · exact cfg
  · exact cfg.trans ((modifyCrane_frame c _).mono (by decide))

theorem placeCrane_frame (c : Nat) (v : CraneCfg) : OnlyChanges [.hall, .cranes] s (s.placeCrane c v) := by
  unfold State.placeCrane
  split
  · exact putCraneCfg_frame c v
  · exact (putCraneCfg_frame _ _).trans (putCraneCfg_frame c v)

theorem putSlotCfg_frame (k : Nat) (v : SlotCfg) : OnlyChanges [.hall, .slots] s (s.putSlotCfg k v) := by
  refine OnlyChanges.trans (t := { s with hall := { s.hall with slots := s.hall.slots.set k v } }) ?_
    ((examineSlot_frame k).mono (by decide))
  intro f hf
  cases f <;> first | rfl | exact absurd (by decide) hf

/-! ## The Record Store -/

theorem complete_frame (d : Deferred) : OnlyChanges [.stations] s (s.complete d) := by
  unfold State.complete
  split
  · exact .refl
  · split
    · exact .refl
    · split
      · exact putAnswer_frame _ _
      · exact .refl

theorem writeDone_frame (w : Write) (failed : Bool) :
    OnlyChanges [.inFlight, .deferred] s (s.writeDone w failed) := by
  intro f hf
  cases f <;> first | rfl | exact absurd (by decide) hf

end Sys2Proof.Machine
end

