-- ==== Sys2Proof/Laws/Claims.lean ====
section
/-! SUPPORT. From what an owning block replies to what a claim says of the line: a request that passes the Link
Controller's checks, by the kind of its block's reply. -/

namespace Sys2Proof.Machine

open Sys2Proof

variable {s t u : State} {a n : Nat} {st : Station} {r : Req} {tag : Byte} {own : List Field}
  {code : AnsCode} {fields : List Token}

/-! ## A station heard -/

/-- Hearing a station changes the stations and the poll alone. -/
theorem heard_eq : s.heard a = { s with stations := (s.heard a).stations, poll := none } := by
  apply State.ext <;> simp [State.heard]

@[simp] theorem heard_plate? (h : Handle) : (s.heard a).plate? h = s.plate? h := by simp [State.plate?]
@[simp] theorem heard_job? (h : Handle) : (s.heard a).job? h = s.job? h := by simp [State.job?]
@[simp] theorem heard_part? (h : Handle) : (s.heard a).part? h = s.part? h := by simp [State.part?]
@[simp] theorem heard_leg? (h : Handle) : (s.heard a).leg? h = s.leg? h := by simp [State.leg?]
@[simp] theorem heard_batch? (h : Handle) : (s.heard a).batch? h = s.batch? h := by simp [State.batch?]
@[simp] theorem heard_slot (k : Nat) : (s.heard a).slot k = s.slot k := by simp [State.slot]
@[simp] theorem heard_slotCfg (k : Nat) : (s.heard a).slotCfg k = s.slotCfg k := by simp [State.slotCfg]
@[simp] theorem heard_bed (t b : Nat) : (s.heard a).bed t b = s.bed t b := by simp [State.bed]
@[simp] theorem heard_crane (c : Nat) : (s.heard a).crane c = s.crane c := by simp [State.crane]
@[simp] theorem heard_craneCfg (c : Nat) : (s.heard a).craneCfg c = s.craneCfg c := by simp [State.craneCfg]
@[simp] theorem heard_bedJob (t b : Nat) : (s.heard a).bedJob t b = s.bedJob t b := by simp [State.bedJob]
@[simp] theorem heard_window (t : Nat) : (s.heard a).window t = s.window t := by simp [State.window]
@[simp] theorem heard_pallet (p : Nat) : (s.heard a).pallet p = s.pallet p := by simp [State.pallet]
@[simp] theorem heard_draft (b : Nat) : (s.heard a).draft b = s.draft b := by simp [State.draft]
@[simp] theorem heard_namedByLeg (h : Handle) : (s.heard a).namedByLeg h = s.namedByLeg h := by
  simp [State.namedByLeg]

/-! ## A request that passes -/

theorem Polled.due (h : Polled s a n st) : s.due = .polled a st := by
  obtain ⟨hr, hs, hp, hst⟩ := h
  simp [State.due, hr, hs, hp, hst]

theorem Asks.due (h : Asks r s a st) : s.due = .polled a st := by
  obtain ⟨⟨n, hp⟩, -, -⟩ := h
  exact hp.due

theorem Asks.station (h : Asks r s a st) : s.station? a = some st := due_station h.due

/-- A request that passes goes to its block, whose reply is delivered. -/
theorem Asks.request {α : Type} {v : α} {body : Asker → α → State → Reply} (h : Asks r s a st) :
    request r tag (.fields v) s body
      = .next (State.deliver r ⟨a, st.kind, st.unit, tag⟩
          (body ⟨a, st.kind, st.unit, tag⟩ v (s.heard a))) := by
  refine request_owned h.due h.2.1 fun hd => ?_
  have := h.2.2 hd
  cases hslot : st.slot <;> simp_all [AnsSlot.busy]

/-- An operation that changes none of the line's fields keeps the station table. -/
theorem OnlyChanges.stations (h : OnlyChanges own s t) (hown : own.all (!lineFields.contains ·) = true) :
    t.stations = s.stations := by
  refine h .stations fun hm => ?_
  have := List.all_eq_true.1 hown _ hm
  revert this
  decide

theorem OnlyChanges.poll (h : OnlyChanges own s t) (hown : own.all (!lineFields.contains ·) = true) :
    t.poll = s.poll := by
  refine h .poll fun hm => ?_
  have := List.all_eq_true.1 hown _ hm
  revert this
  decide

theorem OnlyChanges.deferred (h : OnlyChanges own s t) (hown : own.all (!lineFields.contains ·) = true) :
    t.deferred = s.deferred := by
  refine h .deferred fun hm => ?_
  have := List.all_eq_true.1 hown _ hm
  revert this
  decide

/-- What a block's own work on the heard station table leaves of the line, once a slot is put. -/
theorem heard_own (hst : s.station? a = some st) (hf : OnlyChanges own (s.heard a) u)
    (hown : own.all (!lineFields.contains ·) = true) :
    u.poll = none ∧ u.station? a = some { st with misses := 0, silent := false }
      ∧ (∀ b, b ≠ a → u.station? b = s.station? b) ∧ u.deferred = s.deferred := by
  refine ⟨by rw [hf.poll hown, heard_eq], ?_, ?_, by rw [hf.deferred hown]; simp⟩
  · rw [station?_congr (hf.stations hown)]
    exact station?_heard_self hst
  · intro b hb
    rw [station?_congr (hf.stations hown)]
    exact station?_heard_ne (Ne.symm hb)

theorem answer_sends (u : State) :
    Sends (u.answer ⟨a, st.kind, st.unit, tag⟩ code fields) a st tag code fields := by
  simp only [Sends, State.answer, permitFor, Asker.unitNum]
  rfl

theorem frame_line (hf : OnlyChanges own (s.heard a) u) : OnlyChanges (lineFields ++ own) s u := by
  intro f hf'
  have h1 := heard_frame (s := s) a f (fun h => hf' (by
    simp only [List.mem_append]
    left
    revert h
    cases f <;> decide))
  have h2 := hf f (fun h => hf' (by simp [h]))
  cases f <;> exact Eq.trans h2 h1

theorem widen {m l : List Field} (h : OnlyChanges m s t) (hm : ∀ f ∈ m, f ∈ l) : OnlyChanges l s t :=
  fun f hf => h f fun hfm => hf (hm f hfm)

theorem line_left {m : List Field} (h : OnlyChanges m s t) (hm : m.all lineFields.contains = true) :
    OnlyChanges (lineFields ++ own) s t :=
  widen h fun f hf => List.mem_append_left _ (by simpa using List.all_eq_true.1 hm f hf)

/-- A reply given in the ANSWER frame: the block's state `u` with the frame sent. -/
theorem now_line (hst : s.station? a = some st) (hf : OnlyChanges own (s.heard a) u)
    (hown : own.all (!lineFields.contains ·) = true) :
    Immediate s (State.deliver r ⟨a, st.kind, st.unit, tag⟩ (.now u code fields)) a st tag code fields
      ∧ OnlyChanges (lineFields ++ own) s (State.deliver r ⟨a, st.kind, st.unit, tag⟩ (.now u code fields))
      ∧ OnlyChanges [.lastFrame] u (State.deliver r ⟨a, st.kind, st.unit, tag⟩ (.now u code fields)) := by
  obtain ⟨h1, h2, h3, h4⟩ := heard_own hst hf hown
  have ha := answer_frame (s := u) ⟨a, st.kind, st.unit, tag⟩ code fields
  refine ⟨⟨⟨h1, ?_, h3⟩, answer_sends u, h4⟩, (frame_line hf).trans (line_left ha (by decide)), ha⟩
  exact h2

/-- The block's state with a slot put, a deferred request added, and an ANSWER sent. -/
theorem slot_line (hst : s.station? a = some st) (hf : OnlyChanges own (s.heard a) u)
    (hown : own.all (!lineFields.contains ·) = true) (v : AnsSlot) (w : State)
    (hw : OnlyChanges [.deferred] (u.putAnswer a v) w) :
    Heard s (w.answer ⟨a, st.kind, st.unit, tag⟩ code fields) a st v
      ∧ OnlyChanges (lineFields ++ own) s (w.answer ⟨a, st.kind, st.unit, tag⟩ code fields)
      ∧ OnlyChanges lineFields u (w.answer ⟨a, st.kind, st.unit, tag⟩ code fields) := by
  obtain ⟨h1, h2, h3, h4⟩ := heard_own hst hf hown
  have ha := answer_frame (s := w) ⟨a, st.kind, st.unit, tag⟩ code fields
  have hp := putAnswer_frame (s := u) a v
  have hall := ((hp.mono (m := lineFields) (by decide)).trans (hw.mono (by decide))).trans (ha.mono (by decide))
  have hs : w.stations = (u.putAnswer a v).stations := hw .stations (by decide)
  refine ⟨⟨?_, ?_, ?_⟩, (frame_line hf).trans (line_left hall (by decide)), hall⟩
  · have e1 : w.poll = (u.putAnswer a v).poll := hw .poll (by decide)
    have e2 : (u.putAnswer a v).poll = u.poll := hp .poll (by decide)
    exact (e1.trans e2).trans h1
  · have : w.station? a = (u.putAnswer a v).station? a := station?_congr hs
    exact this.trans (station?_modifyStation_self _ h2)
  · intro b hb
    have : w.station? b = (u.putAnswer a v).station? b := station?_congr hs
    exact this.trans ((station?_modifyStation_ne _ (Ne.symm hb)).trans (h3 b hb))

/-- A deferred request complete at once. -/
theorem complete_line (hst : s.station? a = some st) (hf : OnlyChanges own (s.heard a) u)
    (hown : own.all (!lineFields.contains ·) = true) :
    AtOnce r s (State.deliver r ⟨a, st.kind, st.unit, tag⟩ (.complete u code fields)) a st tag code fields
      ∧ OnlyChanges (lineFields ++ own) s
          (State.deliver r ⟨a, st.kind, st.unit, tag⟩ (.complete u code fields))
      ∧ OnlyChanges lineFields u (State.deliver r ⟨a, st.kind, st.unit, tag⟩ (.complete u code fields)) := by
  have h := slot_line (tag := tag) (code := .working) (fields := []) hst hf hown
    (.held tag r.code code fields) _ .refl
  refine ⟨⟨h.1, answer_sends _, ?_⟩, h.2⟩
  have h4 := (heard_own hst hf hown).2.2.2
  have hp : (u.putAnswer a (.held tag r.code code fields)).deferred = u.deferred :=
    putAnswer_frame (s := u) a _ .deferred (by decide)
  exact hp.trans h4

/-- A deferred request that waits on writes. -/
theorem waits_line {images : List ImageId} (himg : images ≠ []) (hst : s.station? a = some st)
    (hf : OnlyChanges own (s.heard a) u) (hown : own.all (!lineFields.contains ·) = true) :
    Awaits r s (State.deliver r ⟨a, st.kind, st.unit, tag⟩ (.waits u images code fields)) a st tag images
        code fields
      ∧ OnlyChanges (lineFields ++ own) s
          (State.deliver r ⟨a, st.kind, st.unit, tag⟩ (.waits u images code fields))
      ∧ OnlyChanges lineFields u (State.deliver r ⟨a, st.kind, st.unit, tag⟩ (.waits u images code fields)) := by
  obtain ⟨i, is, rfl⟩ := List.exists_cons_of_ne_nil himg
  have h := slot_line (tag := tag) (code := .working) (fields := []) hst hf hown (.inFlight tag)
    ((u.putAnswer a (.inFlight tag)).defer (waitsOn r a tag (i :: is) code fields)) (defer_frame _)
  refine ⟨⟨h.1, answer_sends _, ?_⟩, h.2⟩
  have h4 := (heard_own hst hf hown).2.2.2
  have hp : (u.putAnswer a (.inFlight tag)).deferred = u.deferred :=
    putAnswer_frame (s := u) a _ .deferred (by decide)
  change (u.putAnswer a (.inFlight tag)).deferred ++ _ = _
  rw [hp, h4]
  rfl

/-- A search taken: its slot IN_FLIGHT, no request waiting on writes. -/
theorem search_line (hst : s.station? a = some st) (hf : OnlyChanges own (s.heard a) u)
    (hown : own.all (!lineFields.contains ·) = true) :
    Heard s (State.deliver r ⟨a, st.kind, st.unit, tag⟩ (.search u)) a st (.inFlight tag)
      ∧ Sends (State.deliver r ⟨a, st.kind, st.unit, tag⟩ (.search u)) a st tag .working []
      ∧ (State.deliver r ⟨a, st.kind, st.unit, tag⟩ (.search u)).deferred = s.deferred
      ∧ OnlyChanges (lineFields ++ own) s (State.deliver r ⟨a, st.kind, st.unit, tag⟩ (.search u))
      ∧ OnlyChanges lineFields u (State.deliver r ⟨a, st.kind, st.unit, tag⟩ (.search u)) := by
  have h := slot_line (tag := tag) (code := .working) (fields := []) hst hf hown (.inFlight tag) _ .refl
  refine ⟨h.1, answer_sends _, ?_, h.2⟩
  have h4 := (heard_own hst hf hown).2.2.2
  have hp : (u.putAnswer a (.inFlight tag)).deferred = u.deferred :=
    putAnswer_frame (s := u) a _ .deferred (by decide)
  exact hp.trans h4

end Sys2Proof.Machine
end

