-- ==== Sys2Proof/Laws/PerInstr.lean ====
section
/-! SUPPORT. The family `Wire`: a command that has a request frame carries a code of the request code table
(section 9.6). One lemma per command. -/

namespace Sys2Proof.Laws.Wire

open Sys2Proof Sys2Proof.Machine

/-- The code a command's request frame carries, if it has one, is in the request code table. -/
def Statement (i : Instr) : Prop := ∀ e, encodeRequest i = some e → e.2.1 ∈ requestCodes

theorem poll : Statement .poll := by
  intro e h
  cases h

theorem replyTimeout : Statement .replyTimeout := by
  intro e h
  cases h

theorem badFrame : Statement .badFrame := by
  intro e h
  cases h

theorem wrongAddressFrame : Statement .wrongAddressFrame := by
  intro e h
  cases h

theorem idleFrame : Statement .idleFrame := by
  intro e h
  cases h

theorem unknownRequestCode (tag : Byte) (code : Nat) : Statement (.unknownRequestCode tag code) := by
  intro e h
  cases h

/-- An entry of the encoder's table whose code is in the request code table. -/
theorem of_table {e : Byte × Nat × List Byte} {tag : Byte} {code : Nat} {bytes : List Byte}
    (h : some (tag, code, bytes) = some e) (hc : code ∈ requestCodes) : e.2.1 ∈ requestCodes := by
  cases h
  exact hc

theorem fetchResult (tag : Byte) (p : Payload Unit) : Statement (.fetchResult tag p) := by
  intro e h
  cases p with
  | malformed => cases h
  | fields v => exact of_table h (by decide)

theorem readStation (tag : Byte) (p : Payload Nat) : Statement (.readStation tag p) := by
  intro e h
  cases p with
  | malformed => cases h
  | fields v => exact of_table h (by decide)

theorem enrolStation (tag : Byte) (p : Payload EnrolF) : Statement (.enrolStation tag p) := by
  intro e h
  cases p with
  | malformed => cases h
  | fields v => exact of_table h (by decide)

theorem removeStation (tag : Byte) (p : Payload Nat) : Statement (.removeStation tag p) := by
  intro e h
  cases p with
  | malformed => cases h
  | fields v => exact of_table h (by decide)

theorem registerPlate (tag : Byte) (p : Payload RegisterF) : Statement (.registerPlate tag p) := by
  intro e h
  cases p with
  | malformed => cases h
  | fields v => exact of_table h (by decide)

theorem readPlate (tag : Byte) (p : Payload Handle) : Statement (.readPlate tag p) := by
  intro e h
  cases p with
  | malformed => cases h
  | fields v => exact of_table h (by decide)

theorem amendPlate (tag : Byte) (p : Payload AmendF) : Statement (.amendPlate tag p) := by
  intro e h
  cases p with
  | malformed => cases h
  | fields v => exact of_table h (by decide)

theorem holdPlate (tag : Byte) (p : Payload Handle) : Statement (.holdPlate tag p) := by
  intro e h
  cases p with
  | malformed => cases h
  | fields v => exact of_table h (by decide)

theorem releasePlate (tag : Byte) (p : Payload Handle) : Statement (.releasePlate tag p) := by
  intro e h
  cases p with
  | malformed => cases h
  | fields v => exact of_table h (by decide)

theorem retirePlate (tag : Byte) (p : Payload RetireF) : Statement (.retirePlate tag p) := by
  intro e h
  cases p with
  | malformed => cases h
  | fields v => exact of_table h (by decide)

theorem readSlot (tag : Byte) (p : Payload ReadNumF) : Statement (.readSlot tag p) := by
  intro e h
  cases p with
  | malformed => cases h
  | fields v => exact of_table h (by decide)

theorem findRemnant (tag : Byte) (p : Payload FindF) : Statement (.findRemnant tag p) := by
  intro e h
  cases p with
  | malformed => cases h
  | fields v => exact of_table h (by decide)

theorem scanReachEntry : Statement .scanReachEntry := by
  intro e h
  cases h

theorem readSearchQueue (tag : Byte) (p : Payload Unit) : Statement (.readSearchQueue tag p) := by
  intro e h
  cases p with
  | malformed => cases h
  | fields v => exact of_table h (by decide)

theorem stageParts (tag : Byte) (p : Payload StageF) : Statement (.stageParts tag p) := by
  intro e h
  cases p with
  | malformed => cases h
  | fields v => exact of_table h (by decide)

theorem admitJob (tag : Byte) (p : Payload AdmitF) : Statement (.admitJob tag p) := by
  intro e h
  cases p with
  | malformed => cases h
  | fields v => exact of_table h (by decide)

theorem startJob (tag : Byte) (p : Payload Handle) : Statement (.startJob tag p) := by
  intro e h
  cases p with
  | malformed => cases h
  | fields v => exact of_table h (by decide)

theorem partCut (tag : Byte) (p : Payload PartCutF) : Statement (.partCut tag p) := by
  intro e h
  cases p with
  | malformed => cases h
  | fields v => exact of_table h (by decide)

theorem pauseJob (tag : Byte) (p : Payload PauseF) : Statement (.pauseJob tag p) := by
  intro e h
  cases p with
  | malformed => cases h
  | fields v => exact of_table h (by decide)

theorem resumeJob (tag : Byte) (p : Payload Handle) : Statement (.resumeJob tag p) := by
  intro e h
  cases p with
  | malformed => cases h
  | fields v => exact of_table h (by decide)

theorem endJob (tag : Byte) (p : Payload EndF) : Statement (.endJob tag p) := by
  intro e h
  cases p with
  | malformed => cases h
  | fields v => exact of_table h (by decide)

theorem abortJob (tag : Byte) (p : Payload Handle) : Statement (.abortJob tag p) := by
  intro e h
  cases p with
  | malformed => cases h
  | fields v => exact of_table h (by decide)

theorem clearBed (tag : Byte) (p : Payload BedF) : Statement (.clearBed tag p) := by
  intro e h
  cases p with
  | malformed => cases h
  | fields v => exact of_table h (by decide)

theorem readTable (tag : Byte) (p : Payload ReadNumF) : Statement (.readTable tag p) := by
  intro e h
  cases p with
  | malformed => cases h
  | fields v => exact of_table h (by decide)

theorem nextMark (tag : Byte) (p : Payload Unit) : Statement (.nextMark tag p) := by
  intro e h
  cases p with
  | malformed => cases h
  | fields v => exact of_table h (by decide)

theorem markMade (tag : Byte) (p : Payload Handle) : Statement (.markMade tag p) := by
  intro e h
  cases p with
  | malformed => cases h
  | fields v => exact of_table h (by decide)

theorem markFailed (tag : Byte) (p : Payload Handle) : Statement (.markFailed tag p) := by
  intro e h
  cases p with
  | malformed => cases h
  | fields v => exact of_table h (by decide)

theorem confirmManualMark (tag : Byte) (p : Payload Handle) : Statement (.confirmManualMark tag p) := by
  intro e h
  cases p with
  | malformed => cases h
  | fields v => exact of_table h (by decide)

theorem scrapPart (tag : Byte) (p : Payload Handle) : Statement (.scrapPart tag p) := by
  intro e h
  cases p with
  | malformed => cases h
  | fields v => exact of_table h (by decide)

theorem sortPart (tag : Byte) (p : Payload SortF) : Statement (.sortPart tag p) := by
  intro e h
  cases p with
  | malformed => cases h
  | fields v => exact of_table h (by decide)

theorem dispatchPallet (tag : Byte) (p : Payload Nat) : Statement (.dispatchPallet tag p) := by
  intro e h
  cases p with
  | malformed => cases h
  | fields v => exact of_table h (by decide)

theorem readPart (tag : Byte) (p : Payload Handle) : Statement (.readPart tag p) := by
  intro e h
  cases p with
  | malformed => cases h
  | fields v => exact of_table h (by decide)

theorem readMarkerWindow (tag : Byte) (p : Payload Nat) : Statement (.readMarkerWindow tag p) := by
  intro e h
  cases p with
  | malformed => cases h
  | fields v => exact of_table h (by decide)

theorem readPallet (tag : Byte) (p : Payload ReadNumF) : Statement (.readPallet tag p) := by
  intro e h
  cases p with
  | malformed => cases h
  | fields v => exact of_table h (by decide)

theorem readJobParts (tag : Byte) (p : Payload ReadHandleF) : Statement (.readJobParts tag p) := by
  intro e h
  cases p with
  | malformed => cases h
  | fields v => exact of_table h (by decide)

theorem openBatch (tag : Byte) (p : Payload Unit) : Statement (.openBatch tag p) := by
  intro e h
  cases p with
  | malformed => cases h
  | fields v => exact of_table h (by decide)

theorem addLeg (tag : Byte) (p : Payload AddLegF) : Statement (.addLeg tag p) := by
  intro e h
  cases p with
  | malformed => cases h
  | fields v => exact of_table h (by decide)

theorem commitBatch (tag : Byte) (p : Payload Unit) : Statement (.commitBatch tag p) := by
  intro e h
  cases p with
  | malformed => cases h
  | fields v => exact of_table h (by decide)

theorem nextLeg (tag : Byte) (p : Payload Unit) : Statement (.nextLeg tag p) := by
  intro e h
  cases p with
  | malformed => cases h
  | fields v => exact of_table h (by decide)

theorem lifted (tag : Byte) (p : Payload LiftedF) : Statement (.lifted tag p) := by
  intro e h
  cases p with
  | malformed => cases h
  | fields v => exact of_table h (by decide)

theorem setDown (tag : Byte) (p : Payload SetDownF) : Statement (.setDown tag p) := by
  intro e h
  cases p with
  | malformed => cases h
  | fields v => exact of_table h (by decide)

theorem acceptLoad (tag : Byte) (p : Payload Handle) : Statement (.acceptLoad tag p) := by
  intro e h
  cases p with
  | malformed => cases h
  | fields v => exact of_table h (by decide)

theorem legFault (tag : Byte) (p : Payload Handle) : Statement (.legFault tag p) := by
  intro e h
  cases p with
  | malformed => cases h
  | fields v => exact of_table h (by decide)

theorem cancelLeg (tag : Byte) (p : Payload Handle) : Statement (.cancelLeg tag p) := by
  intro e h
  cases p with
  | malformed => cases h
  | fields v => exact of_table h (by decide)

theorem breakHook (tag : Byte) (p : Payload BreakHookF) : Statement (.breakHook tag p) := by
  intro e h
  cases p with
  | malformed => cases h
  | fields v => exact of_table h (by decide)

theorem nextTrip (tag : Byte) (p : Payload Unit) : Statement (.nextTrip tag p) := by
  intro e h
  cases p with
  | malformed => cases h
  | fields v => exact of_table h (by decide)

theorem cartArrived (tag : Byte) (p : Payload Nat) : Statement (.cartArrived tag p) := by
  intro e h
  cases p with
  | malformed => cases h
  | fields v => exact of_table h (by decide)

theorem readLeg (tag : Byte) (p : Payload Handle) : Statement (.readLeg tag p) := by
  intro e h
  cases p with
  | malformed => cases h
  | fields v => exact of_table h (by decide)

theorem readBatch (tag : Byte) (p : Payload ReadHandleF) : Statement (.readBatch tag p) := by
  intro e h
  cases p with
  | malformed => cases h
  | fields v => exact of_table h (by decide)

theorem readCrane (tag : Byte) (p : Payload Nat) : Statement (.readCrane tag p) := by
  intro e h
  cases p with
  | malformed => cases h
  | fields v => exact of_table h (by decide)

theorem craneReport (tag : Byte) (p : Payload Int) : Statement (.craneReport tag p) := by
  intro e h
  cases p with
  | malformed => cases h
  | fields v => exact of_table h (by decide)

theorem readRunway (tag : Byte) (p : Payload ReadNumF) : Statement (.readRunway tag p) := by
  intro e h
  cases p with
  | malformed => cases h
  | fields v => exact of_table h (by decide)

theorem setGrade (tag : Byte) (p : Payload SetGradeF) : Statement (.setGrade tag p) := by
  intro e h
  cases p with
  | malformed => cases h
  | fields v => exact of_table h (by decide)

theorem setSlot (tag : Byte) (p : Payload SetSlotF) : Statement (.setSlot tag p) := by
  intro e h
  cases p with
  | malformed => cases h
  | fields v => exact of_table h (by decide)

theorem setTable (tag : Byte) (p : Payload SetTableF) : Statement (.setTable tag p) := by
  intro e h
  cases p with
  | malformed => cases h
  | fields v => exact of_table h (by decide)

theorem setCrane (tag : Byte) (p : Payload SetCraneF) : Statement (.setCrane tag p) := by
  intro e h
  cases p with
  | malformed => cases h
  | fields v => exact of_table h (by decide)

theorem setCart (tag : Byte) (p : Payload SetBayF) : Statement (.setCart tag p) := by
  intro e h
  cases p with
  | malformed => cases h
  | fields v => exact of_table h (by decide)

theorem setScrapBin (tag : Byte) (p : Payload SetBayF) : Statement (.setScrapBin tag p) := by
  intro e h
  cases p with
  | malformed => cases h
  | fields v => exact of_table h (by decide)

theorem setRunway (tag : Byte) (p : Payload SetBayF) : Statement (.setRunway tag p) := by
  intro e h
  cases p with
  | malformed => cases h
  | fields v => exact of_table h (by decide)

theorem readHallMap (tag : Byte) (p : Payload ReadNumF) : Statement (.readHallMap tag p) := by
  intro e h
  cases p with
  | malformed => cases h
  | fields v => exact of_table h (by decide)

theorem restart (tag : Byte) (p : Payload Unit) : Statement (.restart tag p) := by
  intro e h
  cases p with
  | malformed => cases h
  | fields v => exact of_table h (by decide)

theorem restartReset (decay : Decay) : Statement (.restartReset decay) := by
  intro e h
  cases h

theorem readAlarms (tag : Byte) (p : Payload Unit) : Statement (.readAlarms tag p) := by
  intro e h
  cases p with
  | malformed => cases h
  | fields v => exact of_table h (by decide)

theorem clearAlarms (tag : Byte) (p : Payload Nat) : Statement (.clearAlarms tag p) := by
  intro e h
  cases p with
  | malformed => cases h
  | fields v => exact of_table h (by decide)

theorem setAlertMask (tag : Byte) (p : Payload AlertF) : Statement (.setAlertMask tag p) := by
  intro e h
  cases p with
  | malformed => cases h
  | fields v => exact of_table h (by decide)

theorem writeStart : Statement .writeStart := by
  intro e h
  cases h

theorem writeEnd (fate : WriteFate) : Statement (.writeEnd fate) := by
  intro e h
  cases h

theorem deferredComplete (index : Nat) : Statement (.deferredComplete index) := by
  intro e h
  cases h

theorem pfwAssert : Statement .pfwAssert := by
  intro e h
  cases h

theorem pfwRelease : Statement .pfwRelease := by
  intro e h
  cases h

theorem powerOn (decay : Decay) : Statement (.powerOn decay) := by
  intro e h
  cases h

theorem rstAssert (fate : WriteFate) : Statement (.rstAssert fate) := by
  intro e h
  cases h

theorem rstRelease (decay : Decay) : Statement (.rstRelease decay) := by
  intro e h
  cases h

theorem startupEnd : Statement .startupEnd := by
  intro e h
  cases h

theorem powerLoss (fate : WriteFate) : Statement (.powerLoss fate) := by
  intro e h
  cases h

end Sys2Proof.Laws.Wire
end

