-- ==== Sys2Proof/Laws/Stops.lean ====
section
/-! SUPPORT. What the end of a leg does: to the leg, to the legs and the state of its batch, and to the batch's job
(R126, R80), said once for a leg that no aborted job waits for. -/

namespace Sys2Proof.Machine

open Sys2Proof

variable {s t : State} {h g : Handle} {l : Leg} {how : LegState}

/-! ## Reading after the shared operations -/

theorem modifyLeg_leg? (f : Leg → Leg) :
    (s.modifyLeg h f).leg? g = if h = g then (s.leg? g).map f else s.leg? g := Pool.find_modify ..

theorem modifyBatch_batch? (f : Batch → Batch) :
    (s.modifyBatch h f).batch? g = if h = g then (s.batch? g).map f else s.batch? g := Pool.find_modify ..

theorem modifyJob_job? (f : Job → Job) :
    (s.modifyJob h f).job? g = if h = g then (s.job? g).map f else s.job? g := Pool.find_modify ..

theorem leg?_of_kept (h : t.legs = s.legs) : t.leg? g = s.leg? g := by simp [State.leg?, h]
theorem batch?_of_kept (h : t.batches = s.batches) : t.batch? g = s.batch? g := by simp [State.batch?, h]
theorem job?_of_kept (h : t.jobs = s.jobs) : t.job? g = s.job? g := by simp [State.job?, h]

/-- A list of legs passed through an operation that a second pass does not change. -/
theorem overLegs_leg? {f : Leg → Leg} (hf : ∀ x, f (f x) = f x) (as : List Handle) :
    ∀ s : State, (s.overLegs f as).leg? g = if g ∈ as then (s.leg? g).map f else s.leg? g := by
  induction as with
  | nil => intro s; simp [State.overLegs]
  | cons a as ih =>
    intro s
    show ((s.modifyLeg a f).overLegs f as).leg? g = _
    rw [ih, modifyLeg_leg?]
    by_cases ha : a = g
    · subst ha
      by_cases hm : a ∈ as
      · cases hl : s.leg? a <;> simp [hm, hf]
      · simp [hm]
    · have ha' : g ≠ a := fun e => ha e.symm
      by_cases hm : g ∈ as <;> simp [ha, ha', hm]

theorem afterStop_idem (p : Nat) (x : Leg) : (x.afterStop p).afterStop p = x.afterStop p := by
  cases hx : x.state <;> by_cases hp : p < x.position <;> simp [Leg.afterStop, LegState.onHook, hx, hp]

theorem allSettled_congr (h : ∀ g, t.leg? g = s.leg? g) (as : List Handle) : t.allSettled as = s.allSettled as := by
  simp [State.allSettled, h]

theorem allDone_congr (h : ∀ g, t.leg? g = s.leg? g) (as : List Handle) : t.allDone as = s.allDone as := by
  simp [State.allDone, h]

theorem allSettled_iff (as : List Handle) :
    s.allSettled as = true ↔ ∀ g ∈ as, ∀ x, s.leg? g = some x → x.state.unfinished = false := by
  unfold State.allSettled
  rw [List.all_eq_true]
  refine forall_congr' fun g => forall_congr' fun _ => ?_
  cases s.leg? g <;> simp

theorem carryingLost_iff (as : List Handle) :
    s.carryingLost as = true ↔ ∃ g ∈ as, ∃ x, s.leg? g = some x ∧ (x.kind = .fetch ∨ x.kind = .transferOut)
      ∧ (x.state = .cancelled ∨ x.state = .failed) := by
  unfold State.carryingLost
  rw [List.any_eq_true]
  refine exists_congr fun g => and_congr_right fun _ => ?_
  cases s.leg? g <;> simp [Leg.carries]

/-! ## A leg becomes CANCELLED or FAILED -/

/-- Stopping a leg touches its crane, its plate and its places, the legs and the batches, and nothing else. -/
theorem stopLeg_own : OnlyChanges [.slots, .cart, .plates, .cranes, .legs, .batches] s (s.stopLeg h how) := by
  unfold State.stopLeg
  split
  · exact .refl
  · rename_i l _
    have s1 := ((letGo_frame (s := s) h l).mono (m := [.slots, .cart, .plates, .cranes, .legs, .batches])
      (by decide)).trans ((putLegState_frame h how).mono (by decide))
    dsimp only
    split
    · exact s1
    · exact (s1.trans ((overLegs_frame _ _).mono (by decide))).trans ((settleBatch_frame _).mono (by decide))

/-- The legs and the batches after a leg stops, its batch there: the leg in its new state, the others as `afterStop`
leaves them, and the batch settled over those. -/
theorem stopLeg_reads {b : Batch} (hl : s.leg? h = some l) (hb : s.batch? l.batch = some b)
    (how_stops : how = .cancelled ∨ how = .failed) :
    (s.stopLeg h how).leg? h = some { l with state := how, crane := none }
      ∧ (∀ g, g ≠ h → (s.stopLeg h how).leg? g =
          if g ∈ b.legs then (s.leg? g).map (Leg.afterStop l.position) else s.leg? g)
      ∧ (∀ g, g ≠ l.batch → (s.stopLeg h how).batch? g = s.batch? g)
      ∧ (s.stopLeg h how).batch? l.batch = some (if b.state = .committed ∧ (s.stopLeg h how).allSettled b.legs then
          { b with state := if (s.stopLeg h how).allDone b.legs then .done else .cancelled } else b)
      ∧ (s.stopLeg h how).jobs = s.jobs := by
  have hgo := letGo_frame (s := s) h l
  have k1 : (s.letGo h l).legs = s.legs := hgo .legs (by decide)
  have k2 : (s.letGo h l).batches = s.batches := hgo .batches (by decide)
  have k3 : (s.letGo h l).jobs = s.jobs := hgo .jobs (by decide)
  set r := ((s.letGo h l).putLegState h how).overLegs (Leg.afterStop l.position) b.legs with hr
  have e : s.stopLeg h how = r.settleBatch l.batch := by
    unfold State.stopLeg
    simp only [hl]
    have : ((s.letGo h l).putLegState h how).batch? l.batch = some b := by
      rw [← hb]; exact batch?_of_kept (by rw [← k2]; rfl)
    simp only [this, hr]
  have rb : ∀ g, r.batch? g = s.batch? g := fun g => batch?_of_kept (by
    rw [← k2]; exact (overLegs_frame (s := (s.letGo h l).putLegState h how) _ _) .batches (by decide))
  have rj : r.jobs = s.jobs := by
    rw [← k3]; exact (overLegs_frame (s := (s.letGo h l).putLegState h how) _ _) .jobs (by decide)
  have rl : ∀ g, r.leg? g = if g ∈ b.legs then
      (if h = g then (s.leg? g).map (fun l => { l with state := how, crane := none }) else s.leg? g).map
        (Leg.afterStop l.position)
      else if h = g then (s.leg? g).map (fun l => { l with state := how, crane := none }) else s.leg? g := by
    intro g
    rw [hr, overLegs_leg? (afterStop_idem _)]
    unfold State.putLegState
    rw [modifyLeg_leg?, leg?_of_kept k1]
  have tl : ∀ g, (r.settleBatch l.batch).leg? g = r.leg? g := fun g =>
    leg?_of_kept ((settleBatch_frame (s := r) l.batch) .legs (by decide))
  rw [e]
  refine ⟨?_, fun g hg => ?_, fun g hg => ?_, ?_, ?_⟩
  · rw [tl, rl]
    rcases how_stops with rfl | rfl <;> simp [hl, Leg.afterStop, LegState.onHook]
  · have hg' : h ≠ g := fun e => hg e.symm
    rw [tl, rl]
    simp [hg']
  · unfold State.settleBatch
    rw [rb, hb]
    dsimp only
    split
    · rw [modifyBatch_batch?, if_neg (fun e => hg e.symm), rb]
    · exact rb g
  · rw [allSettled_congr tl, allDone_congr tl]
    unfold State.settleBatch
    rw [rb, hb]
    dsimp only
    split
    · rw [modifyBatch_batch?, if_pos rfl, rb, hb]
      rfl
    · rw [rb, hb]
  · rw [(settleBatch_frame (s := r) l.batch) .jobs (by decide), rj]

/-- What the job of a batch is told when a leg of it stops, where no aborted job waits for the leg: fetch lost, or
nothing. -/
theorem tellStopped_unawaited {b : Batch} (hb : s.batch? l.batch = some b) (hu : Unawaited s l) :
    s.tellStopped l = match b.origin with
      | .station _ => s
      | .job jh => match s.job? jh with
        | none => s
        | some j => if j.state = .admitted ∧ j.fetchBatch = some l.batch ∧ s.carryingLost b.legs = true then
            s.modifyJob jh fun j => { j with fetchLost := true } else s := by
  unfold State.tellStopped State.batchJob
  rw [hb]
  dsimp only
  rcases ho : b.origin with jh | o
  · dsimp only
    rcases hj : s.job? jh with _ | j
    · rfl
    · dsimp only
      split
      · rfl
      · rename_i hn
        rcases hr : s.openReturn j with _ | rb
        · rfl
        · dsimp only
          rw [if_neg]
          rintro ⟨hf, hk⟩
          unfold State.openReturn at hr
          rcases hc : j.clearBatch with _ | rc
          · simp [hc] at hr
          · simp only [hc] at hr
            rcases hx : s.batch? rc with _ | ret
            · simp [hx] at hr
            · simp only [hx] at hr
              split at hr
              · rename_i hs
                refine hu b jh j hb ho hj ⟨hs.1, hf, ?_, rc, ret, hc, hx, hs.2⟩
                simpa [Leg.carries] using hk
              · cases hr
  · rfl

/-- A leg of no batch that stops takes its state, and nothing is told. -/
theorem endLeg_alone (hl : s.leg? h = some l) (hb : s.batch? l.batch = none) :
    (s.endLeg h how).leg? h = some { l with state := how, crane := none } := by
  have hgo := letGo_frame (s := s) h l
  have k2 : ((s.letGo h l).putLegState h how).batch? l.batch = none := by
    rw [← hb]
    exact batch?_of_kept (hgo .batches (by decide))
  have e : s.endLeg h how = (s.letGo h l).putLegState h how := by
    simp only [State.endLeg, State.stopLeg, hl, k2, State.tellStopped]
  rw [e]
  unfold State.putLegState
  rw [modifyLeg_leg?, if_pos rfl, leg?_of_kept (hgo .legs (by decide)), hl]
  rfl

/-- An unawaited leg is unawaited after it has stopped. -/
theorem unawaited_after_stop {b : Batch} (hl : s.leg? h = some l) (hb : s.batch? l.batch = some b)
    (how_stops : how = .cancelled ∨ how = .failed) (hu : Unawaited s l) : Unawaited (s.stopLeg h how) l := by
  obtain ⟨-, -, hbs, hbb, hj⟩ := stopLeg_reads hl hb how_stops
  intro c jh j hc ho hji hw
  rw [hbb, Option.some.injEq] at hc
  have ho' : b.origin = .job jh := by
    rw [← hc] at ho
    split at ho <;> exact ho
  rw [job?_of_kept hj] at hji
  obtain ⟨h1, h2, h3, rb, ret, h4, h5, h6⟩ := hw
  refine hu b jh j hb ho' hji ⟨h1, h2, h3, rb, ?_⟩
  by_cases he : rb = l.batch
  · subst he
    rw [hbb, Option.some.injEq] at h5
    refine ⟨b, h4, hb, ?_⟩
    rw [← h5] at h6
    split at h6
    · split at h6 <;> cases h6
    · exact h6
  · rw [hbs rb he] at h5
    exact ⟨ret, h4, h5, h6⟩

/-- The end of a leg that no aborted job waits for: the leg, its batch and the batch's job. -/
theorem endLeg_stopEnds (hl : s.leg? h = some l) (how_stops : how = .cancelled ∨ how = .failed)
    (hu : Unawaited s l) :
    (s.endLeg h how).leg? h = some { l with state := how, crane := none } ∧ StopEnds s (s.endLeg h how) h l := by
  rcases hb : s.batch? l.batch with _ | b
  · exact ⟨endLeg_alone hl hb, fun b hb' => by rw [hb] at hb'; cases hb'⟩
  obtain ⟨hself, hothers, hbs, hbb, hj⟩ := stopLeg_reads hl hb how_stops
  have e : s.endLeg h how = (s.stopLeg h how).tellStopped l := by simp only [State.endLeg, hl]
  obtain ⟨b', hb', ho, hls⟩ : ∃ b', (s.stopLeg h how).batch? l.batch = some b' ∧ b'.origin = b.origin
      ∧ b'.legs = b.legs := by
    rw [hbb]
    split <;> exact ⟨_, rfl, rfl, rfl⟩
  have ht := tellStopped_unawaited hb' (unawaited_after_stop hl hb how_stops hu)
  rw [ho, hls] at ht
  rw [e]
  have keep : (s.stopLeg h how).tellStopped l = { s.stopLeg h how with
      jobs := ((s.stopLeg h how).tellStopped l).jobs } := by
    rw [ht]
    split
    · rfl
    · split
      · rfl
      · split <;> rfl
  have kl : ∀ g, ((s.stopLeg h how).tellStopped l).leg? g = (s.stopLeg h how).leg? g := fun g =>
    leg?_of_kept (by rw [keep])
  have kb : ∀ g, ((s.stopLeg h how).tellStopped l).batch? g = (s.stopLeg h how).batch? g := fun g =>
    batch?_of_kept (by rw [keep])
  refine ⟨by rw [kl, hself], fun c hc hcom hmem => ?_⟩
  rw [hb, Option.some.injEq] at hc
  subst hc
  have stopped : how.unfinished = false ∧ how ≠ .done := by
    rcases how_stops with rfl | rfl <;> exact ⟨rfl, by decide⟩
  refine ⟨fun g hg hgh x hx => ?_, fun g hg => ?_, fun g hg => ?_, fun hall => ?_, fun hsome => ?_, fun o hor => ?_,
    fun jh j hor hji => ?_⟩
  · rw [kl, hothers g hgh, if_pos hg, hx]
    rfl
  · have hgh : g ≠ h := fun e => hg (e ▸ hmem)
    rw [kl, hothers g hgh, if_neg hg]
  · rw [kb, hbs g hg]
  · have hs : (s.stopLeg h how).allSettled b.legs = true :=
      (allSettled_iff _).2 fun g hg x hx => hall g hg x (by rw [kl, hx])
    have hd : (s.stopLeg h how).allDone b.legs = false := by
      unfold State.allDone
      rw [List.all_eq_false]
      refine ⟨h, hmem, ?_⟩
      rw [hself]
      simpa using stopped.2
    rw [kb, hbb, if_pos ⟨hcom, hs⟩, hd]
    rfl
  · obtain ⟨g, hg, x, hx, hun⟩ := hsome
    have hs : ¬(b.state = .committed ∧ (s.stopLeg h how).allSettled b.legs = true) := by
      rintro ⟨-, hs⟩
      rw [kl] at hx
      rw [(allSettled_iff _).1 hs g hg x hx] at hun
      cases hun
    rw [kb, hbb, if_neg hs]
  · rw [ht, hor]
    exact hj
  · have hj' : (s.stopLeg h how).job? jh = some j := by rw [job?_of_kept hj, hji]
    rw [hor] at ht
    simp only [hj', carryingLost_iff] at ht
    have kl' : ∀ g, (s.stopLeg h how).leg? g = ((s.stopLeg h how).tellStopped l).leg? g := fun g => (kl g).symm
    simp only [kl'] at ht
    refine ⟨fun hlost => ?_, fun hlost => ?_, fun g hg => ?_⟩
    · rw [ht, if_pos hlost, modifyJob_job?, if_pos rfl, hj']
      rfl
    · rw [ht, if_neg hlost, hj']
    · rw [ht]
      split
      · rw [modifyJob_job?, if_neg (fun e => hg e.symm), job?_of_kept hj]
      · rw [job?_of_kept hj]

/-! ## A return batch that waited (R94, R95, R120) -/

theorem cancelBatch_reads {hb : Handle} {b : Batch} (hb' : s.batch? hb = some b) :
    (∀ g, (s.cancelBatch hb).leg? g = if g ∈ b.legs then (s.leg? g).map ({ · with state := .cancelled }) else s.leg? g)
      ∧ (∀ g, (s.cancelBatch hb).batch? g = if hb = g then some { b with state := .cancelled } else s.batch? g) := by
  unfold State.cancelBatch
  rw [hb']
  dsimp only
  refine ⟨fun g => ?_, fun g => ?_⟩
  · exact overLegs_leg? (f := fun l : Leg => { l with state := LegState.cancelled }) (fun _ => rfl) b.legs s
  · rw [modifyBatch_batch?, batch?_of_kept ((overLegs_frame (s := s) _ b.legs) .batches (by decide))]
    split
    · rename_i e
      rw [← e, hb']
      rfl
    · rfl

/-- Two handles that name live parts of one entry are one. -/
theorem part?_same_entry {g a : Handle} {p q : Part} (hg : s.part? g = some p) (ha : s.part? a = some q)
    (hi : g.idx = a.idx) : g = a := by
  unfold State.part? at hg ha
  rw [Pool.find_eq_some] at hg ha
  rw [hi, ha] at hg
  simp only [Option.some.injEq, Entry.mk.injEq] at hg
  cases g
  cases a
  simp_all

theorem retireScrapped_part? (as : List Handle) : ∀ (s : State) (g : Handle) (p : Part), s.part? g = some p →
    (s.retireScrapped as).part? g = if g ∈ as ∧ p.cut = .scrapped then none else some p := by
  have gone : ∀ (as : List Handle) (s : State) (g : Handle), s.part? g = none →
      (s.retireScrapped as).part? g = none := by
    intro as
    induction as with
    | nil => intro s g h; exact h
    | cons a as ih =>
      intro s g h
      unfold State.retireScrapped
      rw [List.foldl_cons]
      refine ih _ g ?_
      split
      · exact h
      · split
        · by_cases hi : g.idx = a.idx
          · show Pool.find _ g = none
            rename_i q ha _
            unfold State.part? at ha
            unfold Pool.release
            rw [ha]
            rw [Pool.find_eq_some] at ha
            unfold Pool.find
            rw [hi]
            have hlt : a.idx < s.parts.entries.length := (List.getElem?_eq_some_iff.1 ha).1
            simp [Table.get?, Table.set, hlt]
          · show Pool.find _ g = none
            rw [Pool.release_others hi]
            exact h
        · exact h
  induction as with
  | nil => intro s g p h; simpa [State.retireScrapped] using h
  | cons a as ih =>
    intro s g p h
    unfold State.retireScrapped
    rw [List.foldl_cons]
    by_cases hga : g = a
    · subst hga
      simp only [h]
      split
      · rename_i hc
        rw [if_pos ⟨List.mem_cons_self .., hc⟩]
        exact gone as _ g (Pool.release_self _ _)
      · rename_i hc
        rw [if_neg (fun e => hc e.2)]
        have := ih s g p h
        rw [if_neg (fun e => hc e.2)] at this
        exact this
    · have hs : (match s.part? a with
          | none => s
          | some p => if p.cut = CutState.scrapped then { s with parts := s.parts.release a } else s).part? g
            = some p := by
        split
        · exact h
        · rename_i q ha
          split
          · show Pool.find _ g = some p
            rw [Pool.release_others (fun hi => hga (part?_same_entry h ha hi))]
            exact h
          · exact h
      have := ih _ g p hs
      simp only [List.mem_cons, hga, false_or]
      exact this

/-- The end of a leg that an aborted job waits for, with its plate not on the cart. -/
theorem endLeg_awaitEnds (hl : s.leg? h = some l) (how_stops : how = .cancelled ∨ how = .failed) :
    AwaitEnds s (s.endLeg h how) h l how False := by
  intro b jh j rb ret hb hmem ho hji hw hc hr hne hdis
  obtain ⟨hself, hothers, hbs, hbb, hj⟩ := stopLeg_reads hl hb how_stops
  have e : s.endLeg h how = (s.stopLeg h how).tellStopped l := by simp only [State.endLeg, hl]
  obtain ⟨b', hb', ho', hls⟩ : ∃ b', (s.stopLeg h how).batch? l.batch = some b' ∧ b'.origin = b.origin
      ∧ b'.legs = b.legs := by
    rw [hbb]
    split <;> exact ⟨_, rfl, rfl, rfl⟩
  have hop : ret.state = .opened := by
    obtain ⟨-, -, -, rb', ret', h4, h5, h6⟩ := hw
    rw [hc, Option.some.injEq] at h4
    subst h4
    rw [hr, Option.some.injEq] at h5
    exact h5 ▸ h6
  have hr' : (s.stopLeg h how).batch? rb = some ret := by rw [hbs rb hne, hr]
  have hj' : (s.stopLeg h how).job? jh = some j := by rw [job?_of_kept hj, hji]
  have ht : (s.stopLeg h how).tellStopped l = ((s.stopLeg h how).cancelBatch rb).clearJob jh := by
    have h1 : ¬(j.state = .admitted ∧ j.fetchBatch = some l.batch ∧ (s.stopLeg h how).carryingLost b'.legs = true) := by
      rintro ⟨h1, -⟩
      rw [hw.1] at h1
      cases h1
    have h2 : (s.stopLeg h how).openReturn j = some rb := by
      unfold State.openReturn
      simp [hc, hr', hw.1, hop]
    have h3 : j.fetchBatch = some l.batch ∧ l.carries = true := ⟨hw.2.1, by simpa [Leg.carries] using hw.2.2.1⟩
    unfold State.tellStopped State.batchJob
    simp only [hb', ho', ho, hj', h2]
    rw [if_neg h1, if_pos h3]
    rfl
  obtain ⟨cl, cb⟩ := cancelBatch_reads hr'
  have cf := cancelBatch_frame (s := s.stopLeg h how) rb
  set u := (s.stopLeg h how).cancelBatch rb with hu
  have uj : u.job? jh = some j := by rw [job?_of_kept (cf .jobs (by decide)), hj']
  have vf := clearJob_frame (s := u) jh
  have vl : ∀ g, (u.clearJob jh).leg? g = u.leg? g := fun g => leg?_of_kept (vf .legs (by decide))
  have vb : ∀ g, (u.clearJob jh).batch? g = u.batch? g := fun g => batch?_of_kept (vf .batches (by decide))
  have hh : h ∉ ret.legs := fun hm => hdis h hm hmem
  have hsf := stopLeg_own (s := s) (h := h) (how := how)
  have vj : ∀ g, (u.clearJob jh).job? g =
      if jh = g then some { j with state := .cleared, role := none } else s.job? g := by
    intro g
    unfold State.clearJob
    rw [uj]
    dsimp only
    rw [job?_of_kept ((retireScrapped_frame (s := u.modifyJob jh _) j.parts) .jobs (by decide)), modifyJob_job?]
    split
    · rename_i e
      rw [← e, uj]
      rfl
    · rw [job?_of_kept (cf .jobs (by decide)), job?_of_kept hj]
  rw [e, ht]
  refine ⟨⟨_, by rw [vl, cl, if_neg hh, hself], rfl, rfl⟩, fun g hg => ?_, fun hcom hall => ?_, fun hk => hk.elim,
    fun _ => ⟨?_, ?_, fun g hg x hx => ?_, ?_, fun g p hp => ?_⟩⟩
  · rw [vj, if_neg (fun e => hg e.symm)]
  · rw [vb, cb, if_neg hne, hbb, if_pos]
    · rw [if_neg]
      unfold State.allDone
      rw [List.all_eq_true]
      intro hd
      have := hd h hmem
      rw [hself] at this
      rcases how_stops with rfl | rfl <;> simp at this
    · refine ⟨hcom, (allSettled_iff _).2 fun g hg x hx => ?_⟩
      by_cases hgh : g = h
      · subst hgh
        rw [hself, Option.some.injEq] at hx
        subst hx
        rcases how_stops with rfl | rfl <;> rfl
      · rw [hothers g hgh, if_pos hg] at hx
        rcases hy : s.leg? g with _ | y
        · simp [hy] at hx
        · simp only [hy, Option.map_some, Option.some.injEq] at hx
          have := hall g hg hgh y hy
          subst hx
          unfold Leg.afterStop
          split
          · rfl
          · split <;> exact this
  · rw [vb, cb, if_pos rfl]
  · rw [vf .commitCounter (by decide), cf .commitCounter (by decide), hsf .commitCounter (by decide)]
  · have hgb : g ∉ b.legs := hdis g hg
    have hgh : g ≠ h := fun e => hgb (e ▸ hmem)
    rw [vl, cl, if_pos hg, hothers g hgh, if_neg hgb, hx]
    rfl
  · rw [vj, if_pos rfl]
  · have up : u.part? g = some p := by
      rw [← hp]
      unfold State.part?
      rw [cf .parts (by decide), hsf .parts (by decide)]
    unfold State.clearJob
    rw [uj]
    exact retireScrapped_part? j.parts (u.modifyJob jh _) g p up

/-! ## Too deep to be dug out (R133) -/

/-- What the job of a batch is told when a leg stops leaves every leg as it was, or CANCELLED. -/
theorem tellStopped_leg? : (s.tellStopped l).leg? g = s.leg? g
    ∨ (s.tellStopped l).leg? g = (s.leg? g).map ({ · with state := .cancelled }) := by
  unfold State.tellStopped
  split
  · split
    · exact Or.inl (leg?_of_kept rfl)
    · split
      · split
        · rename_i rb _ _
          show ((s.cancelBatch rb).clearJob _).leg? g = _ ∨ ((s.cancelBatch rb).clearJob _).leg? g = _
          rw [leg?_of_kept ((clearJob_frame (s := s.cancelBatch rb) _) .legs (by decide))]
          rcases hb : s.batch? rb with _ | b
          · exact Or.inl (by simp [State.cancelBatch, hb])
          · rw [(cancelBatch_reads hb).1 g]
            split
            · exact Or.inr rfl
            · exact Or.inl rfl
        · exact Or.inl rfl
      · exact Or.inl rfl
  · exact Or.inl rfl

/-- Telling a job touches legs, batches, jobs and parts, and commits nothing. -/
theorem tellStopped_own : OnlyChanges [.legs, .batches, .jobs, .parts] s (s.tellStopped l) := by
  unfold State.tellStopped
  split
  · split
    · exact (modifyJob_frame _ _).mono (by decide)
    · split
      · split
        · exact ((cancelBatch_frame _).mono (by decide)).trans ((clearJob_frame _).mono (by decide))
        · exact .refl
      · exact .refl
  · exact .refl

/-- A QUEUED leg that stops touches no place, plate or crane. -/
theorem stopLeg_queued (hl : s.leg? h = some l) (hq : l.state = .queued) :
    OnlyChanges [.legs, .batches] s (s.stopLeg h how) := by
  have hgo : s.letGo h l = s := by simp [State.letGo, hq, LegState.inHand]
  unfold State.stopLeg
  simp only [hl, hgo]
  split
  · exact (putLegState_frame h how).mono (by decide)
  · exact (((putLegState_frame h how).mono (by decide)).trans ((overLegs_frame _ _).mono (by decide))).trans
      ((settleBatch_frame _).mono (by decide))

/-- The state in which a QUEUED leg under too many plates is left. -/
theorem tooDeep_of_endLeg (hl : s.leg? h = some l) (hq : l.state = .queued) :
    TooDeep s ((s.modifyLeg h fun l => { l with holdUp := some .tooDeep }).endLeg h .failed) h l := by
  set r := s.modifyLeg h fun l => { l with holdUp := some .tooDeep } with hr
  set k : Leg := { l with holdUp := some .tooDeep } with hk
  have rh : r.leg? h = some k := by rw [hr, modifyLeg_leg?, if_pos rfl, hl]; rfl
  have rg : ∀ g, g ≠ h → r.leg? g = s.leg? g := fun g hg => by rw [hr, modifyLeg_leg?, if_neg (fun e => hg e.symm)]
  have rb : ∀ g, r.batch? g = s.batch? g := fun _ => rfl
  have rj : ∀ g, r.job? g = s.job? g := fun _ => rfl
  have hu : Unawaited s l → Unawaited r k := fun hu b jh j hb ho hj hw => hu b jh j hb ho hj hw
  have how_stops : LegState.failed = .cancelled ∨ LegState.failed = .failed := Or.inr rfl
  have own : OnlyChanges [.legs, .batches, .jobs, .parts] s (r.endLeg h .failed) := by
    have e : r.endLeg h .failed = (r.stopLeg h .failed).tellStopped k := by simp only [State.endLeg, rh]
    rw [e]
    exact (((modifyLeg_frame h _).mono (by decide)).trans ((stopLeg_queued rh hq).mono (by decide))).trans
      tellStopped_own
  refine ⟨?_, ?_, own, fun hun => ⟨?_, ?_⟩⟩
  · by_cases hun : Unawaited s l
    · exact ⟨.failed, (endLeg_stopEnds rh how_stops (hu hun)).1, fun _ => rfl⟩
    · rcases hb : r.batch? k.batch with _ | b
      · exact ⟨.failed, endLeg_alone rh hb, fun _ => rfl⟩
      · have e : r.endLeg h .failed = (r.stopLeg h .failed).tellStopped k := by simp only [State.endLeg, rh]
        have hself := (stopLeg_reads rh hb how_stops).1
        rw [e]
        rcases tellStopped_leg? (s := r.stopLeg h .failed) (l := k) (g := h) with h1 | h1
        · exact ⟨.failed, by rw [h1, hself], fun _ => rfl⟩
        · exact ⟨.cancelled, by rw [h1, hself]; rfl, fun h2 => absurd h2 hun⟩
  · intro b jh j rb ret hb hm ho hj hw hc hre hne hdis
    have hdh : h ∉ ret.legs := fun e => hdis h e hm
    obtain ⟨h1, h2, h3, h4, h5⟩ := endLeg_awaitEnds rh how_stops b jh j rb ret hb hm ho hj hw hc hre hne hdis
    refine ⟨h1, h2, fun hcom hall => h3 hcom fun g hg hgh x hx => hall g hg hgh x (by rwa [rg g hgh] at hx),
      fun hn => hn.elim, fun hn => ?_⟩
    obtain ⟨a1, a2, a3, a4, a5⟩ := h5 hn
    refine ⟨a1, a2, fun g hg x hx => a3 g hg x ?_, a4, a5⟩
    rwa [rg g (fun e => hdh (e ▸ hg))]
  · intro b hb hcom hm
    obtain ⟨h1, h2, h3, h4, h5, h6, h7⟩ := (endLeg_stopEnds rh how_stops (hu hun)).2 b hb hcom hm
    refine ⟨fun g hg hgh x hx => h1 g hg hgh x (by rwa [rg g hgh]), fun g hg => ?_, h3, h4, h5, h6, h7⟩
    rw [h2 g hg, rg g (fun e => hg (e ▸ hm))]
  · intro f hf
    cases f
    case parts =>
      rcases hb : r.batch? k.batch with _ | b
      · have e : r.endLeg h .failed = r.stopLeg h .failed := by
          have : (r.stopLeg h .failed).batch? k.batch = none := by
            have hgo : r.letGo h k = r := by simp [State.letGo, hk, hq, LegState.inHand]
            simp only [State.stopLeg, rh, hgo]
            have : (r.putLegState h .failed).batch? k.batch = none := hb
            simp only [this]
          simp only [State.endLeg, rh, State.tellStopped, this]
        rw [e]
        exact (stopLeg_queued (how := .failed) rh hq) .parts (by decide)
      · have e : r.endLeg h .failed = (r.stopLeg h .failed).tellStopped k := by simp only [State.endLeg, rh]
        obtain ⟨b', hb'⟩ : ∃ b', (r.stopLeg h .failed).batch? k.batch = some b' :=
          ⟨_, (stopLeg_reads rh hb how_stops).2.2.2.1⟩
        have ht := tellStopped_unawaited hb' (unawaited_after_stop rh hb how_stops (hu hun))
        have : ((r.stopLeg h .failed).tellStopped k).parts = (r.stopLeg h .failed).parts := by
          rw [ht]
          split
          · rfl
          · split
            · rfl
            · split <;> rfl
        show (r.endLeg h .failed).parts = s.parts
        rw [e, this]
        exact (stopLeg_queued (how := .failed) rh hq) .parts (by decide)
    all_goals first | exact absurd (by decide) hf | exact own _ (by decide)

end Sys2Proof.Machine
end

