-- ==== Sys2Proof/Laws/Store.lean ====
section
/-! SUPPORT. The array image by image: what replacing an image does to the others, and how a read judges words just
written. -/

namespace Sys2Proof.Machine

open Sys2Proof

variable {s : Store} {i j : ImageId} {m : Image} {ws : List (BitVec 64)} {c : Cell}

/-! ## The CRC (R162, R175) -/

@[simp] theorem crcValued_eq (r : BitVec 16) (f : BitVec 16 → BitVec 16) : crcValued r f = f r := by
  have value (n : Nat) (h : r.toNat = n) : BitVec.ofNat 16 n = r := by simp [← h]
  unfold crcValued
  split
  · next h => rw [← value _ h]
  · next h => rw [value _ h]

theorem crcRun_eq (l : List Byte) (r : BitVec 16) : crcRun l r = l.foldl crcByte r := by
  induction l generalizing r with
  | nil => rfl
  | cons b l ih => simp [crcRun, ih]

/-- The CRC is the register carried over the bytes in order. -/
theorem crc16_eq (l : List Byte) : crc16 l = l.foldl crcByte 0xFFFF#16 := crcRun_eq l _

/-! ## One image of many -/

theorem Store.image_putImage_self (h : i.ok = true) : (s.putImage i m).image i = m := by
  have there (n : Nat) (hn : n < 1024) := s.plates.get?_isSome hn
  cases i with
  | genWord n =>
    obtain ⟨p, hp⟩ := there n (of_decide_eq_true h)
    simp [Store.putImage, Store.image, Table.get?_modify, hp]
  | identity n =>
    obtain ⟨p, hp⟩ := there n (of_decide_eq_true h)
    simp [Store.putImage, Store.image, Table.get?_modify, hp]
  | state n =>
    obtain ⟨p, hp⟩ := there n (of_decide_eq_true h)
    simp [Store.putImage, Store.image, Table.get?_modify, hp]
  | header => rfl
  | group g => cases g <;> rfl

theorem Store.image_putImage_ne (h : j ≠ i) : (s.putImage i m).image j = s.image j := by
  cases i with
  | group g => cases g <;> cases j with
    | group k => cases k <;> first | rfl | exact absurd rfl h
    | _ => rfl
  | header => cases j with
    | header => exact absurd rfl h
    | group k => cases k <;> rfl
    | _ => rfl
  | _ n => cases j with
    | header => rfl
    | group k => cases k <;> rfl
    | _ k =>
      simp only [Store.putImage, Store.image, Table.get?_modify]
      split
      · subst_vars
        first | exact absurd rfl h | cases s.plates.get? _ <;> rfl
      · rfl

theorem Store.image_write_self {fate : WriteFate} (h : i.ok = true) :
    (s.write i ws fate).image i = (s.image i).write fate ws := Store.image_putImage_self h

theorem Store.image_write_ne {fate : WriteFate} (h : j ≠ i) : (s.write i ws fate).image j = s.image j :=
  Store.image_putImage_ne h

/-! ## Words just written -/

@[simp] theorem Cell.whole_fresh (w : BitVec 64) : (Cell.fresh w).whole = true := rfl
@[simp] theorem Cell.readable_fresh (w : BitVec 64) : (Cell.fresh w).readable = true := rfl
@[simp] theorem Cell.data_fresh (w : BitVec 64) : (Cell.fresh w).data = w := rfl

@[simp] theorem Image.words_fresh : (Image.fresh ws).words = ws := by
  simp [Image.fresh, Image.words, Cell.fresh]

theorem crcMatches_closed : crcMatches (ws ++ [crcWord ws]) = true := by simp [crcMatches]

/-- Words just written and closed by their CRC read back sound. -/
theorem Image.judge_fresh : (Image.fresh (ws ++ [crcWord ws])).judge = .sound ws := by
  have all (p : Option Cell → Bool) (hp : ∀ w, p (some (Cell.fresh w)) = true) :
      (Image.fresh (ws ++ [crcWord ws])).all p = true := by
    simp [Image.fresh, hp]
  have written : (Image.fresh (ws ++ [crcWord ws])).all Option.isNone = false := by simp [Image.fresh]
  rw [Image.judge, written, all _ Cell.readable_fresh, all _ Cell.whole_fresh]
  simp [crcMatches_closed]

/-- A write that leaves no word and flips no bit makes the image afresh. -/
theorem Image.write_clean (h : ws ≠ []) : m.write ⟨[], []⟩ ws = Image.fresh ws := by
  have some_left : (List.range ws.length).all ([] : List Nat).contains = false := by
    cases ws with
    | nil => exact absurd rfl h
    | cons w l => simp [List.range_succ_eq_map]
  have pairs : (ws.zipIdx.map fun e => some (Cell.fresh e.1)) = ws.map fun w => some (Cell.fresh w) := by
    conv_rhs => rw [← List.zipIdx_map_fst 0 ws, List.map_map]
    rfl
  simp [Image.write, some_left, Image.reached, Image.fresh, pairs]

/-- A word that its code gives back has no two flipped bits. -/
theorem Cell.oneFlip_of_readable (h : c.readable = true) : c.oneFlip := by
  intro b d hb hd
  rw [Cell.readable, Bool.or_eq_true] at h
  rcases h with h | h
  · simp [eq_of_beq h] at hb
  replace h : c.flips ≤ 1 := Nat.le_of_eq (eq_of_beq h)
  have lt (e : Nat) (he : c.flipped.getLsbD e = true) : e < 72 := by
    by_contra hn
    simp [BitVec.getLsbD_of_ge _ _ (Nat.le_of_not_lt hn)] at he
  have mem (e : Nat) (he : c.flipped.getLsbD e = true) :
      e ∈ (List.range 72).filter fun bit => c.flipped.getLsbD bit := by simp [lt e he, he]
  rw [Cell.flips, List.countP_eq_length_filter] at h
  match hl : (List.range 72).filter (fun bit => c.flipped.getLsbD bit), h with
  | [], _ => simpa [hl] using mem b hb
  | [e], _ =>
    have h1 := mem b hb
    have h2 := mem d hd
    rw [hl, List.mem_singleton] at h1 h2
    rw [h1, h2]
  | _ :: _ :: _, h => simp at h

end Sys2Proof.Machine
end

