-- ==== Sys2Proof/Laws/Walk.lean ====
section
/-! SUPPORT. What Next Leg's walk can do (R133 to R136): one lemma for each operation of the walk, in the terms of
`Walked`. -/

namespace Sys2Proof.Machine

open Sys2Proof

variable {s t : State} {h g : Handle} {l : Leg} {c p : Nat}

/-! ## Reading cranes, slots and plates -/

theorem modifyCrane_crane (hc : c ≤ 5) (f : Crane → Crane) (d : Nat) :
    (s.modifyCrane c f).crane d = if d = c then f (s.crane c) else s.crane d := by
  unfold State.crane State.modifyCrane
  dsimp only
  split
  · rename_i e
    rw [e, Table.getD_modify_self _ _ _ (by omega)]
  · rename_i e
    rw [Table.getD_modify_ne _ _ _ (fun h => e h.symm)]

theorem modifySlot_slot (k : Nat) (f : Slot → Slot) {i : Nat} (hi : i ≤ 95) :
    (s.modifySlot k f).slot i = if k = i then f (s.slot i) else s.slot i := by
  unfold State.slot State.modifySlot
  dsimp only
  split
  · rename_i e
    rw [e, Table.getD_modify_self _ _ _ (by omega)]
  · rename_i e
    rw [Table.getD_modify_ne _ _ _ e]

theorem modifyPlate_plate? (f : PlateRec → PlateRec) :
    (s.modifyPlate h f).plate? g = if h = g then (s.plate? g).map f else s.plate? g := Pool.find_modify ..

/-! ## The tests (R135, R136) -/

theorem grantable_iff (q : Claim) : s.grantable c q = true ↔ Apart s c q := by
  unfold State.grantable State.runwayCranes Apart State.agrees State.craneBay
  simp only [List.all_eq_true, List.mem_filter, List.mem_range, Bool.and_eq_true, Bool.or_eq_true, beq_iff_eq]
  refine forall_congr' fun d => ⟨fun hd h5 hne hin hrw o ho => ?_, fun hd hm => ?_⟩
  · have := hd ⟨by omega, hin, hrw⟩
    rw [ho] at this
    simp only [hne, false_or] at this
    split at this <;> simp_all
  · by_cases hdc : d = c
    · exact Or.inl hdc
    · refine Or.inr ?_
      rcases ho : (s.crane d).claim with _ | o
      · rfl
      · have := hd (by omega) hdc hm.2.1 hm.2.2 o ho
        dsimp only
        split at this <;> simp_all

theorem meetsSpan_iff (q : Claim) (a : Nat × Nat) : q.meetsSpan a = true ↔ Touches q a := by
  simp [Claim.meetsSpan, Claim.meets, Touches]

theorem blocked_iff (q : Claim) :
    ((!s.grantable c q) = true ∨ ((s.spans l.bay).any fun e => e.1 != h && q.meetsSpan e.2) = true)
      ↔ (¬Apart s c q ∨ ∃ e ∈ s.spans l.bay, e.1 ≠ h ∧ Touches q e.2) := by
  rw [← grantable_iff, List.any_eq_true]
  refine or_congr (by simp) (exists_congr fun e => and_congr_right fun _ => ?_)
  rw [Bool.and_eq_true, meetsSpan_iff, bne_iff_ne]

/-- The tests of R135: what fails, or where the leg would go with which claim. -/
theorem testLeg_reads :
    (∀ why skip, s.testLeg c p h l = .fails why skip ↔ Fails s c p h l why skip)
      ∧ ∀ dst q, s.testLeg c p h l = .passes dst q → s.destinationFor l = some dst ∧ q = claimFor s c p l dst := by
  unfold State.testLeg Fails
  rcases hd : s.destinationFor l with _ | dst
  · dsimp only
    refine ⟨fun why skip => ⟨fun e => by cases e; exact ⟨rfl, rfl⟩, fun e => by rw [e.1, e.2]⟩, fun _ _ e => by cases e⟩
  · dsimp only
    have hq : s.legClaim c p (s.placePos l.bay (s.legSource l)) (s.placePos l.bay dst) = claimFor s c p l dst := rfl
    rw [hq]
    have hb := blocked_iff (s := s) (c := c) (l := l) (h := h) (claimFor s c p l dst)
    unfold hookLoad
    split
    · exact ⟨fun why skip => ⟨fun e => by cases e; exact ⟨rfl, rfl⟩, fun e => by rw [e.1, e.2]⟩,
        fun _ _ e => by cases e⟩
    · split
      · exact ⟨fun why skip => ⟨fun e => by cases e; exact ⟨rfl, rfl⟩, fun e => by rw [e.1, e.2]⟩,
          fun _ _ e => by cases e⟩
      · split
        · rename_i hg
          exact ⟨fun why skip => ⟨fun e => by cases e; exact ⟨hb.1 (Or.inl hg), rfl, rfl⟩,
            fun e => by rw [e.2.1, e.2.2]⟩, fun _ _ e => by cases e⟩
        · rename_i hg
          split
          · rename_i hs
            exact ⟨fun why skip => ⟨fun e => by cases e; exact ⟨hb.1 (Or.inr hs), rfl, rfl⟩,
              fun e => by rw [e.2.1, e.2.2]⟩, fun _ _ e => by cases e⟩
          · rename_i hs
            refine ⟨fun why skip => ⟨fun e => (by cases e), fun e => ?_⟩, fun _ _ e => (by cases e; exact ⟨rfl, rfl⟩)⟩
            rcases hb.2 e.1 with h1 | h1
            · exact absurd h1 hg
            · exact absurd h1 hs

theorem passOver_passedOver (hl : s.leg? h = some l) (why : HoldUp) (skip : Bool) :
    PassedOver s (s.passOver h l why skip) h l why skip := by
  refine ⟨fun n hn => ?_, fun g hg => ?_, passOver_frame h l why skip⟩
  · subst hn
    refine ⟨?_, ?_⟩
    · unfold State.passOver
      dsimp only
      rw [leg?_of_kept ((raiseIf_frame _ _) .legs (by decide)), modifyLeg_leg?, if_pos rfl, hl]
      rfl
    · unfold State.passOver State.raiseIf Config.starvingAt
      cases hs : l.starving <;> cases skip <;> simp
      · split <;> rfl
  · unfold State.passOver
    dsimp only
    rw [leg?_of_kept ((raiseIf_frame _ _) .legs (by decide)), modifyLeg_leg?, if_neg (fun e => hg e.symm)]

theorem assign_givenTo (hl : s.leg? h = some l) (hc : c ≤ 5) (dst : Place) (q : Claim) :
    GivenTo s (s.assign c h l dst q) c h l dst q := by
  set f : Leg → Leg := fun r =>
    { r with
      state := .assigned, holdUp := none, crane := some c, source := some (s.legSource l), target := some dst
      expected := some ((s.craneCfg c).tare + s.liftMass l), checkLoad := none } with hf
  set u := ((s.modifyLeg h f).addIncoming h dst).carryFor h l with hu
  have e : s.assign c h l dst q =
      u.modifyCrane c fun k => { k with state := .assigned, leg := some h, claim := some q } := rfl
  have f1 := addIncoming_frame (s := s.modifyLeg h f) h dst
  have f2 := carryFor_frame (s := (s.modifyLeg h f).addIncoming h dst) h l
  have ul : ∀ g, u.leg? g = (s.modifyLeg h f).leg? g := fun g =>
    leg?_of_kept ((f2 .legs (by decide)).trans (f1 .legs (by decide)))
  have uc : ∀ d, u.crane d = s.crane d := fun d => by
    have : u.cranes = s.cranes := (f2 .cranes (by decide)).trans (f1 .cranes (by decide))
    simp [State.crane, this]
  have us : ∀ k, u.slot k = ((s.modifyLeg h f).addIncoming h dst).slot k := fun k => by
    have : u.slots = ((s.modifyLeg h f).addIncoming h dst).slots := f2 .slots (by decide)
    simp [State.slot, this]
  have uk : u.cart = ((s.modifyLeg h f).addIncoming h dst).cart := f2 .cart (by decide)
  have ip : ∀ g, ((s.modifyLeg h f).addIncoming h dst).plate? g = s.plate? g := fun g => by
    have : ((s.modifyLeg h f).addIncoming h dst).plates = s.plates := f1 .plates (by decide)
    simp [State.plate?, this]
  rw [e]
  refine ⟨?_, fun g hg => ?_, ?_, fun d hd => ?_, fun k hk => ?_, ?_, fun g r hg => ?_, ?_⟩
  · show u.leg? h = _
    rw [ul, modifyLeg_leg?, if_pos rfl, hl]
    rfl
  · show u.leg? g = _
    rw [ul, modifyLeg_leg?, if_neg (fun e => hg e.symm)]
  · rw [modifyCrane_crane hc, if_pos rfl, uc]
  · rw [modifyCrane_crane hc, if_neg hd, uc]
  · show u.slot k = _
    rw [us]
    cases dst with
    | slot i =>
      show ((s.modifyLeg h f).modifySlot i _).slot k = _
      rw [modifySlot_slot i _ hk]
      by_cases hi : i = k
      · simp only [hi, if_true]
        rfl
      · rw [if_neg hi, if_neg (fun e => hi (Place.slot.inj e))]
        simp only [List.append_nil]
        rfl
    | _ =>
      rw [if_neg (fun e => by cases e)]
      simp only [List.append_nil]
      rfl
  · show u.cart = _
    rw [uk]
    cases dst <;> simp [State.addIncoming, State.modifySlot, State.modifyLeg]
  · show u.plate? g = _
    rw [hu]
    unfold State.carryFor State.carry
    rcases hp : l.plate with _ | i
    · dsimp only
      rw [ip, hg, if_neg (fun e => by cases e)]
    · dsimp only
      rw [modifyPlate_plate?, ip, hg]
      by_cases hi : i = g
      · simp [hi]
      · rw [if_neg hi, if_neg (fun e => hi (Option.some.inj e))]
  · have := assign_frame (s := s) c h l dst q
    rwa [e] at this

/-- A leg put to the tests (R135, R136). -/
theorem tryLeg_testedFor (hl : s.leg? h = some l) (hc : c ≤ 5) :
    TestedFor s (s.tryLeg c p h).1 c p h (s.tryLeg c p h).2 := by
  refine ⟨l, hl, ?_⟩
  unfold State.tryLeg
  rw [hl]
  dsimp only
  split
  · rename_i why skip ht
    exact Or.inl ⟨rfl, why, skip, (testLeg_reads.1 why skip).1 ht, passOver_passedOver hl why skip⟩
  · rename_i dst q ht
    obtain ⟨hd, rfl⟩ := testLeg_reads.2 dst q ht
    refine Or.inr ⟨rfl, fun why skip hf => ?_, dst, hd, assign_givenTo hl hc dst _⟩
    rw [(testLeg_reads.1 why skip).2 hf] at ht
    cases ht

/-! ## Dig expansion (R133) -/

theorem renumber_leg? (as : List Handle) : ∀ (i : Nat) (s : State),
    (g ∉ as → (renumber i as s).leg? g = s.leg? g)
      ∧ (∀ x, s.leg? g = some x → ∃ n, (renumber i as s).leg? g = some { x with position := n })
      ∧ ∀ k x, as.Nodup → as[k]? = some g → (renumber i as s).leg? g = some x → x.position = i + k := by
  induction as with
  | nil => exact fun i s => ⟨fun _ => rfl, fun x hx => ⟨x.position, hx⟩, fun k x _ hk => (by cases hk)⟩
  | cons a as ih =>
    intro i s
    have hs : renumber i (a :: as) s = renumber (i + 1) as (s.modifyLeg a fun l => { l with position := i }) := rfl
    rw [hs]
    set u := s.modifyLeg a fun l => { l with position := i }
    have hu : u.leg? g = if a = g then (s.leg? g).map (fun l => { l with position := i }) else s.leg? g :=
      modifyLeg_leg? _
    obtain ⟨h1, h2, h3⟩ := ih (i + 1) u
    refine ⟨fun hg => ?_, fun x hx => ?_, fun k x hd hk hx => ?_⟩
    · rw [List.mem_cons, not_or] at hg
      rw [h1 hg.2, hu, if_neg (fun e => hg.1 e.symm)]
    · by_cases ha : a = g
      · obtain ⟨n, hn⟩ := h2 { x with position := i } (by rw [hu, if_pos ha, hx]; rfl)
        exact ⟨n, hn⟩
      · exact h2 x (by rw [hu, if_neg ha, hx])
    · rw [List.nodup_cons] at hd
      cases k with
      | zero =>
        simp only [List.getElem?_cons_zero, Option.some.injEq] at hk
        subst hk
        rw [h1 hd.1, hu, if_pos rfl] at hx
        rcases ho : s.leg? a with _ | y <;> rw [ho] at hx <;> cases hx
        rfl
      | succ k =>
        rw [List.getElem?_cons_succ] at hk
        have := h3 k x hd.2 hk hx
        omega

theorem newGen_ne {e : Entry Leg} {x : Leg} (h : e.record = some x) : e.newGen ≠ e.gen := by
  unfold Entry.newGen nextGen Config.generations
  rw [h]
  dsimp only
  omega

/-- Legs made one after another where the table has room: each takes an entry that passed the test, and every leg whose
entry does not pass it stays. -/
theorem addLegs_reads {ok : Entry Leg → Bool} (hok : ∀ n (x : Leg), x.state = .queued → ok ⟨n, some x⟩ = false)
    (hb : Handle) (ls : List Leg) : ∀ (i : Nat) (s : State), (∀ x ∈ ls, x.state = .queued) →
      ls.length ≤ s.legs.count ok →
      (State.addLegs ok hb i ls s).2.length = ls.length
        ∧ (State.addLegs ok hb i ls s).2.Nodup
        ∧ (∀ g ∈ (State.addLegs ok hb i ls s).2, ∃ e, s.legs.get? g.idx = some e ∧ ok e = true ∧ g.gen = e.newGen)
        ∧ (∀ (k : Nat) (g : Handle) (x : Leg), (State.addLegs ok hb i ls s).2[k]? = some g → ls[k]? = some x →
            (State.addLegs ok hb i ls s).1.leg? g = some { x with batch := hb, position := i + k })
        ∧ ∀ g x, s.leg? g = some x → ok ⟨g.gen, some x⟩ = false →
            (State.addLegs ok hb i ls s).1.leg? g = some x := by
  induction ls with
  | nil =>
    intro i s _ _
    simp +contextual [State.addLegs]
  | cons a as ih =>
    intro i s hq hn
    obtain ⟨j, hj⟩ : ∃ j, s.legs.firstIdx? ok = some j := by
      unfold Table.firstIdx?
      rcases hf : s.legs.entries.findIdx? ok with _ | j
      · rw [List.findIdx?_eq_none_iff] at hf
        have : s.legs.count ok = 0 := List.countP_eq_zero.2 fun e he => by simp [hf e he]
        simp [this] at hn
      · exact ⟨j, rfl⟩
    obtain ⟨hjl, hjo, -⟩ := List.findIdx?_eq_some_iff_getElem.1 hj
    have hget : s.legs.get? j = some s.legs.entries[j] := List.getElem?_eq_getElem hjl
    set e := s.legs.entries[j] with he
    set x0 : Leg := { a with batch := hb, position := i } with hx0
    have hx0q : x0.state = .queued := hq a (List.mem_cons_self ..)
    set u : State := { s with legs := s.legs.set j ⟨e.newGen, some x0⟩ } with hu
    have hstep : State.addLegs ok hb i (a :: as) s =
        ((State.addLegs ok hb (i + 1) as u).1, ⟨j, e.newGen⟩ :: (State.addLegs ok hb (i + 1) as u).2) := by
      conv_lhs => unfold State.addLegs
      unfold Pool.create
      rw [hj]
      dsimp only
      rw [hget]
    have hcount : as.length ≤ u.legs.count ok := by
      have hn' : as.length + 1 ≤ List.countP ok s.legs.entries := hn
      show as.length ≤ List.countP ok (s.legs.entries.set j ⟨e.newGen, some x0⟩)
      rw [List.countP_set hjl, hok _ _ hx0q, hjo]
      simp
      omega
    obtain ⟨h1, h2, h3, h4, h5⟩ := ih (i + 1) u (fun x hx => hq x (List.mem_cons_of_mem _ hx)) hcount
    have hjn : j < 48 := by rw [← s.legs.size_eq]; exact hjl
    have hself : u.legs.get? j = some ⟨e.newGen, some x0⟩ := Table.get?_set_self _ _ hjn
    have hother : ∀ k, k ≠ j → u.legs.get? k = s.legs.get? k := fun k hk => Table.get?_set_ne _ _ (Ne.symm hk)
    have hidx : ∀ g ∈ (State.addLegs ok hb (i + 1) as u).2, g.idx ≠ j := by
      intro g hg e'
      obtain ⟨d, hd, hdo, -⟩ := h3 g hg
      rw [e', hself, Option.some.injEq] at hd
      rw [← hd, hok _ _ hx0q] at hdo
      cases hdo
    have huh : u.leg? ⟨j, e.newGen⟩ = some x0 := Pool.find_eq_some.2 hself
    rw [hstep]
    refine ⟨by simp [h1], List.nodup_cons.2 ⟨fun hm => hidx _ hm rfl, h2⟩, fun g hg => ?_, fun k g x hk hx => ?_,
      fun g x hx ho => ?_⟩
    · rcases List.mem_cons.1 hg with rfl | hg
      · exact ⟨e, hget, hjo, rfl⟩
      · obtain ⟨d, hd, hdo, hdg⟩ := h3 g hg
        rw [hother _ (hidx g hg)] at hd
        exact ⟨d, hd, hdo, hdg⟩
    · cases k with
      | zero =>
        simp only [List.getElem?_cons_zero, Option.some.injEq] at hk hx
        subst hk hx
        exact h5 _ _ huh (hok _ _ hx0q)
      | succ k =>
        rw [List.getElem?_cons_succ] at hk hx
        have := h4 k g x hk hx
        rw [this, show i + 1 + k = i + (k + 1) by omega]
    · have hgj : g.idx ≠ j := by
        intro e'
        have := Pool.find_eq_some.1 (show s.legs.find g = some x from hx)
        rw [e', hget, Option.some.injEq] at this
        rw [this, ho] at hjo
        cases hjo
      refine h5 g x (Pool.find_eq_some.2 ?_) ho
      rw [hother _ hgj]
      exact Pool.find_eq_some.1 hx

theorem insertAhead_split (new front back : List Handle) (hn : h ∉ front) :
    insertAhead h new (front ++ h :: back) = front ++ new ++ h :: back := by
  induction front with
  | nil => simp [insertAhead]
  | cons a as ih =>
    rw [List.mem_cons, not_or] at hn
    simp [insertAhead, show ¬a = h from fun e => hn.1 e.symm, ih hn.2]

/-- Dig expansion where the leg table has room. -/
theorem expandDigs_dug (hroom : above.length ≤ s.freeLegs) :
    Dug s (s.expandDigs h l above).1 h l above (s.expandDigs h l above).2 := by
  set ls := above.reverse.map l.dig with hls
  have hok : ∀ n (x : Leg), x.state = .queued → s.legEntryFree ⟨n, some x⟩ = false := fun n x hx => by
    simp [State.legEntryFree, hx, LegState.unfinished]
  obtain ⟨h1, h2, h3, h4, h5⟩ := addLegs_reads hok l.batch ls 0 s
    (fun x hx => by obtain ⟨q, -, rfl⟩ := List.mem_map.1 hx; rfl) (by simpa [hls, State.freeLegs] using hroom)
  set made := (State.addLegs s.legEntryFree l.batch 0 ls s).2 with hm
  set r := (State.addLegs s.legEntryFree l.batch 0 ls s).1 with hr
  have hframe : OnlyChanges [.legs] s r := addLegs_frame _ _ _ _ _
  have rb : ∀ g, r.batch? g = s.batch? g := fun g => batch?_of_kept (hframe .batches (by decide))
  set li := insertAhead h made (s.batchLegs (some l.batch)) with hli
  set u := r.modifyBatch l.batch fun b => { b with legs := li } with hu
  have e1 : (s.expandDigs h l above).1 = renumber 0 li u := rfl
  have e2 : (s.expandDigs h l above).2 = made := rfl
  have nb : ∀ g, (renumber 0 li u).batch? g = u.batch? g := fun g =>
    batch?_of_kept ((renumber_frame _ _ _) .batches (by decide))
  rw [e1, e2]
  have fresh : ∀ g ∈ made, s.leg? g = none := by
    intro g hg
    obtain ⟨e, he, -, hge⟩ := h3 g hg
    rcases hx : s.leg? g with _ | x
    · rfl
    · have := Pool.find_eq_some.1 (show s.legs.find g = some x from hx)
      rw [he, Option.some.injEq] at this
      subst this
      exact absurd hge.symm (newGen_ne rfl)
  refine ⟨by simp [h1, hls], fun i g q hi hq => ?_, fun b front back hb hsplit hd hlive => ?_, fun g hg => ?_, ?_⟩
  · have hx : ls[i]? = some (l.dig q) := by rw [hls, List.getElem?_map, hq]; rfl
    exact (renumber_leg? li 0 u).2.1 _ (h4 i g _ hi hx)
  · have hnf : h ∉ front := by
      intro hf
      rw [hsplit] at hd
      exact (List.nodup_append.1 hd).2.2 h hf h (List.mem_cons_self ..) rfl
    have hle : li = front ++ made ++ h :: back := by
      rw [hli]
      show insertAhead h made (match s.batch? l.batch with | some b => b.legs | none => []) = _
      rw [hb]
      dsimp only
      rw [hsplit, insertAhead_split _ _ _ hnf]
    have hnm : ∀ g ∈ b.legs, g ∉ made := fun g hg hgm => by
      obtain ⟨x, hx⟩ := hlive g hg
      rw [fresh g hgm] at hx
      cases hx
    have hnd : li.Nodup := by
      rw [hle, List.append_assoc]
      rw [hsplit] at hd hnm
      rw [List.nodup_append] at hd ⊢
      refine ⟨hd.1, ?_, ?_⟩
      · rw [List.nodup_append]
        exact ⟨h2, hd.2.1, fun a ha b hb e => hnm b (by simp [List.mem_append.2 (Or.inr hb)]) (e ▸ ha)⟩
      · intro a ha b hb e
        rcases List.mem_append.1 hb with hb | hb
        · exact hnm a (by simp [ha]) (e ▸ hb)
        · exact hd.2.2 a ha b hb e
    have keep : ∀ g x, s.leg? g = some x → x.state.unfinished = true → u.leg? g = some x := fun g x hx hxu =>
      h5 g x hx (by simp [State.legEntryFree, hxu])
    refine ⟨?_, fun i g x hi hx => ?_, fun g _ x hx hxu => (renumber_leg? li 0 u).2.1 x (keep g x hx hxu),
      fun g x hg hx hxu => ?_⟩
    · rw [nb, hu, modifyBatch_batch?, if_pos rfl, rb, hb, hle]
      rfl
    · rw [← hle] at hi
      have := (renumber_leg? li 0 u).2.2 i x hnd hi hx
      omega
    · rw [(renumber_leg? li 0 u).1, keep g x hx hxu]
      rw [hle]
      intro hm'
      rw [List.mem_append, List.mem_append] at hm'
      rcases hm' with (hm' | hm') | hm'
      · exact hg (by rw [hsplit]; exact List.mem_append.2 (Or.inl hm'))
      · rw [fresh g hm'] at hx
        cases hx
      · exact hg (by rw [hsplit]; exact List.mem_append.2 (Or.inr hm'))
  · rw [nb, hu, modifyBatch_batch?, if_neg (fun e => hg e.symm), rb]
  · exact expandDigs_frame h l above

/-! ## The walk (R134) -/

theorem consider_considered (hc : c ≤ 5) : Considered s (s.consider c p h).1 c p h (s.consider c p h).2 := by
  unfold State.consider
  rcases hl : s.leg? h with _ | l
  · exact Or.inl ⟨fun l hl' => (by rw [hl] at hl'; cases hl'), rfl, rfl⟩
  dsimp only
  by_cases he : s.eligible l = true
  swap
  · simp only [he]
    exact Or.inl ⟨fun l' hl' => by rw [hl, Option.some.injEq] at hl'; subst hl'; simpa using he, rfl, rfl⟩
  simp only [he, Bool.not_true, Bool.false_eq_true, if_false]
  refine Or.inr ⟨l, s.above l, hl, he, rfl, ?_⟩
  dsimp only
  have hq : l.state = .queued := by
    unfold State.eligible at he
    simp only [Bool.and_eq_true, beq_iff_eq] at he
    tauto
  have hblocked : (s.above l).any s.undiggable = true ↔ ∃ g ∈ s.above l, ∀ r, s.plate? g = some r →
      r.st.held = true ∨ r.st.doubtful = true ∨ s.namedByLeg g = true := by
    rw [List.any_eq_true]
    refine exists_congr fun g => and_congr_right fun _ => ?_
    unfold State.undiggable
    rcases s.plate? g with _ | r <;> simp [or_assoc]
  have cramped : (Config.batchMax < (s.batchLegs (some l.batch)).length + (s.above l).length
      || s.freeLegs < (s.above l).length) = true
        ↔ 14 < (s.batchLegs (some l.batch)).length + (s.above l).length ∨ s.freeLegs < (s.above l).length := by
    rw [Bool.or_eq_true, decide_eq_true_eq, decide_eq_true_eq]
    rfl
  rw [← hblocked]
  by_cases ha : s.above l = []
  · rw [if_pos ha, if_pos (show (s.above l).isEmpty = true by simp [ha])]
    exact tryLeg_testedFor hl hc
  rw [if_neg ha, if_neg (show ¬(s.above l).isEmpty = true by simpa using ha)]
  by_cases hd : 6 < (s.above l).length
  · rw [if_pos hd, if_pos (show Config.maxDig < (s.above l).length from hd)]
    exact ⟨tooDeep_of_endLeg hl hq, rfl⟩
  rw [if_neg hd, if_neg (show ¬Config.maxDig < (s.above l).length from hd)]
  by_cases hb : (s.above l).any s.undiggable = true
  · rw [if_pos hb]
    exact ⟨fun _ => ⟨passOver_passedOver hl .blocked true, rfl⟩, fun hn => absurd hb hn, fun hn => absurd hb hn⟩
  rw [if_neg hb]
  refine ⟨fun hn => absurd hn hb, fun _ hcr => ?_, fun _ hcr => ?_⟩
  · rw [if_pos (cramped.2 hcr)]
    exact ⟨passOver_passedOver hl .full true, rfl⟩
  · rw [if_neg (fun e => hcr (cramped.1 e))]
    rw [not_or] at hcr
    have hdug := expandDigs_dug (s := s) (h := h) (l := l) (above := s.above l) (by omega)
    rcases hx : s.expandDigs h l (s.above l) with ⟨m, made⟩
    rw [hx] at hdug
    rcases made with _ | ⟨top, rest⟩
    · exact absurd hdug.1.symm (by simpa using ha)
    · dsimp only
      obtain ⟨q, hq'⟩ : ∃ q, (s.above l).reverse[0]? = some q := by
        rcases hr : (s.above l).reverse with _ | ⟨q, qs⟩
        · exact absurd hr (by simpa using ha)
        · exact ⟨q, rfl⟩
      exact ⟨m, _, top, hdug, rfl, tryLeg_testedFor (hdug.2.1 0 top q rfl hq').choose_spec hc⟩

theorem walkOver_walked (hc : c ≤ 5) (as : List Handle) :
    ∀ s : State, Walked c p as s (State.walkOver c p as s).1 (State.walkOver c p as s).2 := by
  induction as with
  | nil => exact fun s => ⟨rfl, rfl⟩
  | cons a as ih =>
    intro s
    have hcons := consider_considered (s := s) (p := p) (h := a) hc
    unfold State.walkOver
    rcases hx : s.consider c p a with ⟨m, _ | _⟩ <;> rw [hx] at hcons
    · exact Or.inr ⟨m, hcons, ih m⟩
    · exact Or.inl ⟨hcons, rfl⟩

end Sys2Proof.Machine
end

