-- ==== Sys2Proof/Tests/Slice0.lean ====
section
/-! SUPPORT. Tests of the model: ill-formed commands refused, words of the line written out from section 9.6,
worked examples of spec/ run as single steps, and for each obligation with hypotheses a concrete state and
operands that meet them. -/

namespace Sys2Proof.Tests.Slice0

open Sys2Proof Sys2Proof.Machine

-- One theorem at a time: kernel evaluations that wait for each other would each hold a thread's stack.
set_option Elab.async false

/-! ## Ill-formed commands -/

def longText : Text := List.replicate 13 0x41#8
def badHandle : Handle := ⟨65536, 0⟩
def badGen : Handle := ⟨0, 256⟩

theorem test_wf_unknown_code_beyond_a_byte : (Instr.unknownRequestCode 0#8 256).wf = false := by decide
theorem test_wf_unknown_code_of_the_table : (Instr.unknownRequestCode 0#8 0x31).wf = false := by decide
theorem test_wf_byte : (Instr.readStation 0#8 (.fields 256)).wf = false := by decide
theorem test_wf_two_bytes : (Instr.clearAlarms 0#8 (.fields 65536)).wf = false := by decide
theorem test_wf_signed_high : (Instr.craneReport 0#8 (.fields 2147483648)).wf = false := by decide
theorem test_wf_signed_low : (Instr.craneReport 0#8 (.fields (-2147483649))).wf = false := by decide
theorem test_wf_handle_index : (Instr.readPlate 0#8 (.fields badHandle)).wf = false := by decide
theorem test_wf_handle_generation : (Instr.readPlate 0#8 (.fields badGen)).wf = false := by decide
theorem test_wf_optional_unit : (Instr.enrolStation 0#8 (.fields ⟨2, 1, some 256, 1⟩)).wf = false := by decide
theorem test_wf_text :
    (Instr.registerPlate 0#8 (.fields ⟨longText, 12, 180, 12000, 3000, 20, 20, 15, 15, 10⟩)).wf = false := by
  decide
theorem test_wf_panel : (Instr.amendPlate 0#8 (.fields ⟨⟨0, 0⟩, [⟨65536, 0, 1, 1⟩], none, none⟩)).wf = false := by
  decide
theorem test_wf_list :
    (Instr.amendPlate 0#8 (.fields ⟨⟨0, 0⟩, List.replicate 65 ⟨0, 0, 1, 1⟩, none, none⟩)).wf = false := by
  decide
theorem test_wf_four_bytes :
    (Instr.amendPlate 0#8 (.fields ⟨⟨0, 0⟩, [], some 4294967296, none⟩)).wf = false := by decide
theorem test_wf_place : (Instr.setDown 0#8 (.fields ⟨⟨0, 0⟩, .bed 0 256⟩)).wf = false := by decide
theorem test_wf_place_slot : (Instr.setDown 0#8 (.fields ⟨⟨0, 0⟩, .slot 256⟩)).wf = false := by decide
theorem test_wf_place_hook : (Instr.breakHook 0#8 (.fields ⟨0, .hook 256, none⟩)).wf = false := by decide
theorem test_wf_retire : (Instr.retirePlate 0#8 (.fields ⟨⟨0, 0⟩, 256⟩)).wf = false := by decide
theorem test_wf_read : (Instr.readSlot 0#8 (.fields ⟨0, some 256⟩)).wf = false := by decide
theorem test_wf_read_handle : (Instr.readBatch 0#8 (.fields ⟨badHandle, none⟩)).wf = false := by decide
theorem test_wf_find : (Instr.findRemnant 0#8 (.fields ⟨0, 0, 65536, 0, 1, 1, 0, 1⟩)).wf = false := by decide
theorem test_wf_stage : (Instr.stageParts 0#8 (.fields ⟨0, [⟨longText, [], 1, 1⟩]⟩)).wf = false := by decide
theorem test_wf_admit :
    (Instr.admitJob 0#8 (.fields ⟨256, 0, 1, ⟨0, 0⟩, 0, 0, 1, 1, 0, 0, 30, 0⟩)).wf = false := by decide
theorem test_wf_part_cut : (Instr.partCut 0#8 (.fields ⟨⟨0, 0⟩, 256⟩)).wf = false := by decide
theorem test_wf_pause : (Instr.pauseJob 0#8 (.fields ⟨⟨0, 0⟩, 256⟩)).wf = false := by decide
theorem test_wf_end : (Instr.endJob 0#8 (.fields ⟨⟨0, 0⟩, 256⟩)).wf = false := by decide
theorem test_wf_bed : (Instr.clearBed 0#8 (.fields ⟨0, 256⟩)).wf = false := by decide
theorem test_wf_sort : (Instr.sortPart 0#8 (.fields ⟨⟨0, 0⟩, 256⟩)).wf = false := by decide
theorem test_wf_add_leg : (Instr.addLeg 0#8 (.fields ⟨⟨0, 0⟩, 0, .choose, 256⟩)).wf = false := by decide
theorem test_wf_lifted : (Instr.lifted 0#8 (.fields ⟨⟨0, 0⟩, 2147483648⟩)).wf = false := by decide
theorem test_wf_set_grade : (Instr.setGrade 0#8 (.fields ⟨0, longText, 0, 7850, 1000, 500, 10⟩)).wf = false := by
  decide
theorem test_wf_set_slot : (Instr.setSlot 0#8 (.fields ⟨0, 0, 65536, 0, 8, 1⟩)).wf = false := by decide
theorem test_wf_set_table : (Instr.setTable 0#8 (.fields ⟨256, 0, 0⟩)).wf = false := by decide
theorem test_wf_set_crane : (Instr.setCrane 0#8 (.fields ⟨0, 0, 0, 4294967296, 1, 1, 30⟩)).wf = false := by decide
theorem test_wf_set_cart : (Instr.setCart 0#8 (.fields ⟨0, 65536⟩)).wf = false := by decide
theorem test_wf_set_bay : (Instr.setRunway 0#8 (.fields ⟨256, 1⟩)).wf = false := by decide
theorem test_wf_alert : (Instr.setAlertMask 0#8 (.fields ⟨65536, 0⟩)).wf = false := by decide
theorem test_wf_flip_image : (Instr.powerOn [⟨.state 1024, 0, 0⟩]).wf = false := by decide
theorem test_wf_flip_word : (Instr.rstRelease [⟨.state 1023, 7, 0⟩]).wf = false := by decide
theorem test_wf_flip_bit : (Instr.restartReset [⟨.state 1023, 6, 72⟩]).wf = false := by decide
theorem test_wf_flip_in_range : (Instr.powerOn [⟨.state 1023, 6, 71⟩]).wf = true := by decide
theorem test_wf_fate_word : (Instr.writeEnd ⟨[137], []⟩).wf = false := by decide
theorem test_wf_fate_bit : (Instr.rstAssert ⟨[], [(0, 72)]⟩).wf = false := by decide
theorem test_wf_fate_in_range : (Instr.powerLoss ⟨[136], [(136, 71)]⟩).wf = true := by decide

/-! ## The line (section 9.6) -/

/-- The check value of this CRC over the digits 1 to 9, as catalogues of CRCs give it (general knowledge). -/
theorem test_crc_check_value :
    crc16 [0x31#8, 0x32#8, 0x33#8, 0x34#8, 0x35#8, 0x36#8, 0x37#8, 0x38#8, 0x39#8] = 0x29B1#16 := by decide +kernel

/-- A POLL is 7 bytes: 0xA5, the address, 0x01, tag 0, length 0, the CRC low byte first (section 9.6). -/
theorem test_poll_bytes :
    (TxFrame.poll 29).bytes = [0xA5#8, 29#8, 0x01#8, 0x00#8, 0x00#8] ++ crcBytes (crc16 [29#8, 0x01#8, 0x00#8, 0x00#8]) := by
  decide +kernel

/-- An ANSWER to a CRANE station: the code, then the permit (section 9.6, R168). WORKING is 2, GO is 1. -/
theorem test_answer_bytes :
    ((TxFrame.answer ⟨28, 41#8, .working, some .go, []⟩).bytes).take 7
      = [0xA5#8, 28#8, 0x04#8, 41#8, 2#8, 2#8, 1#8] := by decide +kernel

/-- The payload bytes of each kind of field (R174): the handle of entry 513 and generation 7 is 01 02 07. -/
theorem test_decode_handle :
    decodeRequest 9#8 0x11 [0x01#8, 0x02#8, 0x07#8] = .readPlate 9#8 (.fields ⟨513, 7⟩) := by decide +kernel

theorem test_decode_short_payload : decodeRequest 9#8 0x11 [0x01#8, 0x02#8] = .readPlate 9#8 .malformed := by decide +kernel
theorem test_decode_long_payload :
    decodeRequest 9#8 0x11 [0x01#8, 0x02#8, 0x07#8, 0x00#8] = .readPlate 9#8 .malformed := by decide +kernel
theorem test_decode_unknown_code : decodeRequest 9#8 0x05 [] = .unknownRequestCode 9#8 5 := by decide +kernel
theorem test_decode_fetch_result : decodeRequest 18#8 0x01 [] = .fetchResult 18#8 (.fields ()) := by decide +kernel

/-- Enrol Station: address 28, kind CRANE (3), unit present and 0, weight 2. -/
theorem test_decode_enrol :
    decodeRequest 1#8 0x03 [28#8, 3#8, 1#8, 0#8, 2#8] = .enrolStation 1#8 (.fields ⟨28, 3, some 0, 2⟩) := by decide +kernel

theorem test_decode_presence_byte_2 :
    decodeRequest 1#8 0x03 [28#8, 3#8, 2#8, 0#8, 2#8] = .enrolStation 1#8 .malformed := by decide +kernel

/-- Register Plate: heat A1, grade 12, thickness 180, 12000 × 3000, trims 20 20 15 15, slot 10. -/
theorem test_decode_register :
    decodeRequest 17#8 0x10
        [2#8, 0x41#8, 0x31#8, 12#8, 180#8, 0#8, 0xE0#8, 0x2E#8, 0xB8#8, 0x0B#8, 20#8, 20#8, 15#8, 15#8, 10#8]
      = .registerPlate 17#8 (.fields ⟨[0x41#8, 0x31#8], 12, 180, 12000, 3000, 20, 20, 15, 15, 10⟩) := by decide +kernel

/-- Find Remnant: family 32, mask 240, thickness 180, tolerance 10, 4000 × 2000, rotation not allowed, 3 wanted. -/
theorem test_decode_find_remnant :
    decodeRequest 9#8 0x28 [32#8, 240#8, 180#8, 0#8, 10#8, 0xA0#8, 0x0F#8, 0xD0#8, 0x07#8, 1#8, 3#8]
      = .findRemnant 9#8 (.fields ⟨32, 240, 180, 10, 4000, 2000, 1, 3⟩) := by decide +kernel

theorem test_decode_part_cut :
    decodeRequest 2#8 0x33 [4#8, 0#8, 0#8, 12#8] = .partCut 2#8 (.fields ⟨⟨4, 0⟩, 12⟩) := by decide +kernel
theorem test_decode_sort_part :
    decodeRequest 2#8 0x45 [4#8, 0#8, 0#8, 15#8] = .sortPart 2#8 (.fields ⟨⟨4, 0⟩, 15⟩) := by decide +kernel

/-- Lifted: leg 3 of generation 0, load -1 in two's complement. -/
theorem test_decode_lifted :
    decodeRequest 41#8 0x54 [3#8, 0#8, 0#8, 0xFF#8, 0xFF#8, 0xFF#8, 0xFF#8]
      = .lifted 41#8 (.fields ⟨⟨3, 0⟩, -1⟩) := by decide +kernel

/-- Set Down: leg 3, place BED (1) of table 2, bed 1. -/
theorem test_decode_set_down :
    decodeRequest 42#8 0x55 [3#8, 0#8, 0#8, 1#8, 2#8, 1#8] = .setDown 42#8 (.fields ⟨⟨3, 0⟩, .bed 2 1⟩) := by decide +kernel

theorem test_decode_crane_report :
    decodeRequest 43#8 0x60 [0x90#8, 0x01#8, 0#8, 0#8] = .craneReport 43#8 (.fields 400) := by decide +kernel

/-- Set Slot: slot 20, bay B (1), position 1640, purpose REMNANT (1), capacity 4, limit 150000. -/
theorem test_decode_set_slot :
    decodeRequest 5#8 0x71 [20#8, 1#8, 0x68#8, 0x06#8, 1#8, 4#8, 0xF0#8, 0x49#8, 0x02#8, 0x00#8]
      = .setSlot 5#8 (.fields ⟨20, 1, 1640, 1, 4, 150000⟩) := by decide +kernel

theorem test_decode_clear_alarms :
    decodeRequest 6#8 0x81 [0x10#8, 0x08#8] = .clearAlarms 6#8 (.fields 0x810) := by decide +kernel

/-- A REQUEST frame from the polled station, from another, with a broken CRC, and an IDLE frame (R162, R165). -/
theorem test_frame_request :
    frameCommand 20 (requestFrame 20 18#8 0x01 []) = .fetchResult 18#8 (.fields ()) := by decide +kernel
theorem test_frame_wrong_address : frameCommand 21 (requestFrame 20 18#8 0x01 []) = .wrongAddressFrame := by decide +kernel
theorem test_frame_bad_crc :
    frameCommand 20 [0xA5#8, 20#8, 0x02#8, 18#8, 0x01#8, 0x00#8, 0x00#8, 0x00#8] = .badFrame := by decide +kernel
theorem test_frame_idle : frameCommand 4 (idleFrameBytes 4) = .idleFrame := by decide +kernel
theorem test_frame_idle_with_payload :
    frameCommand 4 (sealed [4#8, 0x03#8, 0x00#8, 0x01#8, 0x07#8]) = .badFrame := by decide +kernel

theorem test_no_word_spells_a_command : decodeTableWord 8 1 = none := by decide +kernel

/-! ## Reading an outcome -/

/-- The state of a next step. -/
def stateOf (r : Result) : Option State :=
  match r with
  | .next t => some t
  | _ => none

/-- A step answers a next state that passes a test. -/
def took (r : Result) (p : State → Bool) : Bool := (stateOf r).any p

/-- The code and the fields of the ANSWER that a step sends. -/
def answered (r : Result) : Option (AnsCode × List Token) :=
  (stateOf r).bind fun t =>
    match t.lastFrame with
    | some (.answer a) => some (a.code, a.fields)
    | _ => none

/-- The code of the ANSWER that a step sends. -/
def codeOf (r : Result) : Option AnsCode := (answered r).map (·.1)

/-- What a step leaves in the answer slot of a station. -/
def slotAfter (r : Result) (a : Nat) : Option AnsSlot := (stateOf r).bind fun t => (t.station? a).map (·.slot)

/-! ## From checks that evaluate to the hypotheses of the statements -/

/-- `Polled`, as a check. -/
def polledB (s : State) (a n : Nat) (st : Station) : Bool :=
  decide (s.phase = .running) && !s.restartPending && decide (s.poll = some ⟨a, n⟩)
    && decide (s.station? a = some st)

theorem polled_of {s : State} {a n : Nat} {st : Station}
    (h : polledB s a n st = true := by decide +kernel) : Polled s a n st := by
  simp only [polledB, Bool.and_eq_true, decide_eq_true_eq, Bool.not_eq_true'] at h
  exact ⟨h.1.1.1, h.1.1.2, h.1.2, h.2⟩

/-- `Asks` at the first attempt, as a check. -/
def asksB (r : Req) (s : State) (a : Nat) (st : Station) : Bool :=
  polledB s a 1 st && decide (st.kind ∈ r.kinds) && (!r.deferred || !st.slot.busy)

theorem asks_of {r : Req} {s : State} {a : Nat} {st : Station}
    (h : asksB r s a st = true := by decide +kernel) : Asks r s a st := by
  simp only [asksB, Bool.and_eq_true, Bool.or_eq_true, decide_eq_true_eq, Bool.not_eq_true'] at h
  refine ⟨⟨1, polled_of h.1.1⟩, h.1.2, fun hd t ht => ?_⟩
  rcases h.2 with h' | h'
  · simp [hd] at h'
  · simp [ht, AnsSlot.busy] at h'

/-- Several requests of one station, each as it passes the line's checks. -/
theorem asks_all {l : List Req} {s : State} {a : Nat} {st : Station}
    (h : l.all (fun r => asksB r s a st) = true := by decide +kernel) : ∀ r ∈ l, Asks r s a st :=
  fun r hr => asks_of ((List.all_eq_true.1 h) r hr)

/-- Every record of a pool passes a test. -/
def poolAll {α : Type} {n : Nat} (t : Pool α n) (p : Handle → α → Bool) : Bool :=
  t.entries.zipIdx.all fun e =>
    match e.1.record with
    | some r => p ⟨e.2, e.1.gen⟩ r
    | none => true

theorem find_of_poolAll {α : Type} {n : Nat} {t : Pool α n} {p : Handle → α → Bool} (h : poolAll t p = true)
    (g : Handle) (r : α) (hr : t.find g = some r) : p g r = true := by
  rw [Pool.find_eq_some] at hr
  have hm : (Entry.mk g.gen (some r), g.idx) ∈ t.entries.zipIdx := by
    rw [List.mem_zipIdx_iff_getElem?]
    exact hr
  simpa using (List.all_eq_true.1 h) _ hm

/-- Every station of the table passes a test. -/
def stationsAll (s : State) (p : Nat → Station → Bool) : Bool :=
  s.stations.entries.zipIdx.all fun e =>
    match e.1 with
    | some st => p (e.2 + 1) st
    | none => true

theorem station_of_stationsAll {s : State} {p : Nat → Station → Bool} (h : stationsAll s p = true) (a : Nat)
    (st : Station) (hr : s.station? a = some st) : p a st = true := by
  unfold State.station? at hr
  match a, hr with
  | i + 1, hr =>
    have hg : s.stations.get? i = some (some st) := by
      rcases hg : s.stations.get? i with _ | e
      · simp [hg] at hr
      · simp only [hg] at hr
        rw [hr]
    have hm : (some st, i) ∈ s.stations.entries.zipIdx := by
      rw [List.mem_zipIdx_iff_getElem?]
      exact hg
    simpa using (List.all_eq_true.1 h) _ hm

/-! ## A small hall

Stations: 1 SUPERVISOR, 2 TABLE 0, 3 MARKER 0, 4 CRANE 0, 5 CART, 6 TERMINAL, 7 CRANE 1 (cranes 0 and 1 of the
factory's runway A, half-width 60). -/

def hallList : List StationCfg :=
  [⟨1, .supervisor, none, 1⟩, ⟨2, .table, some 0, 1⟩, ⟨3, .marker, some 0, 1⟩, ⟨4, .crane, some 0, 2⟩,
    ⟨5, .cart, none, 1⟩, ⟨6, .terminal, none, 1⟩, ⟨7, .crane, some 1, 2⟩]

def boss : Station := ⟨.supervisor, none, 1, 0, false, .empty⟩
def torch : Station := ⟨.table, some 0, 1, 0, false, .empty⟩
def marker : Station := ⟨.marker, some 0, 1, 0, false, .empty⟩
def hoist : Station := ⟨.crane, some 0, 2, 0, false, .empty⟩
def truck : Station := ⟨.cart, none, 1, 0, false, .empty⟩
def desk : Station := ⟨.terminal, none, 1, 0, false, .empty⟩
def hoist1 : Station := ⟨.crane, some 1, 2, 0, false, .empty⟩

/-- The hall with start-up ended and nothing in it. -/
def hall : State := { State.reset with phase := .running, stations := stationTable hallList, queue := [] }

/-- Station `a` has been polled. -/
def asking (a : Nat) (s : State) : State := { s with poll := some ⟨a, 1⟩ }

/-- The plate of the worked example of section 1.3: 12,000 by 3,000, 18.0 thick, trims 20 20 15 15, 50,868 units. -/
def mill (loc : Location) (seq : Nat) : PlateRec where
  ident :=
    { origin := .mill, parent := none, depth := 0, heat := [0x41#8, 0x31#8], grade := 12, thickness := 180
      length := 12000, width := 3000, headTrim := 20, tailTrim := 20, sideATrim := 15, sideBTrim := 15, seq := seq }
  st :=
    { disposition := .stock, location := loc, panels := some [⟨0, 0, 11960, 2970⟩], area := some 36000000
      held := false, massDoubt := false, doubtful := false }
  job := none
  leg := none
  mass := some 50868

def putPlate (i : Nat) (r : PlateRec) (s : State) : State :=
  { s with plates := s.plates.set i ⟨0, some r⟩, seqCounter := max s.seqCounter (r.ident.seq + 1) }

/-- Plates 0 and 1 in slot 10 (bay A), plate 2 on bed 0 of table 0, plate 3 on the cart at side A. -/
def yard : State :=
  let s := putPlate 0 (mill (.slot 10 0) 1) (putPlate 1 (mill (.slot 10 1) 2)
    (putPlate 2 (mill (.bed 0 0) 3) (putPlate 3 (mill .cart 4) hall)))
  { s with
    slots := s.slots.set 10 ⟨[⟨0, 0⟩, ⟨1, 0⟩], [], false⟩
    beds := s.beds.set 0 ⟨[⟨2, 0⟩], false⟩
    cart := ⟨[⟨3, 0⟩], some .a, []⟩ }

/-! ## The step, the round, the polls (chapter 9) -/

theorem test_step_takes_the_front :
    took (step { hall with pending := [.pfwAssert, .pfwRelease] })
      (fun t => t.pfw && decide (t.pending = [.pfwRelease])) = true := by decide +kernel

theorem test_idle : took (step State.reset) (fun t => decide (t.queue = State.reset.queue)) = true := by
  decide +kernel

theorem witness_StepRunsFrontCommand : State.reset.pending = [] := rfl

/-- The round of the example of section 9.3: stations 1, 4, 5, 20, 28 and 29, the last two of weight 2. -/
def exampleHall : State :=
  { State.reset with
    phase := .running
    stations := stationTable [⟨1, .supervisor, none, 1⟩, ⟨4, .table, some 0, 1⟩, ⟨5, .marker, some 0, 1⟩,
      ⟨20, .terminal, none, 1⟩, ⟨28, .crane, some 0, 2⟩, ⟨29, .crane, some 1, 2⟩] }

theorem test_round : took (exec .poll exampleHall)
    (fun t => t.round == [1, 4, 5, 28, 29, 20, 28, 29].map some && t.roundPos == 1
      && t.poll == some ⟨1, 1⟩) = true := by decide +kernel

theorem test_removed_entry_passed_over :
    took (exec .poll { exampleHall with round := [some 1, none, none, some 28], roundPos := 1 })
      (fun t => t.roundPos == 4 && t.poll == some ⟨28, 1⟩) = true := by decide +kernel

/-- A removed entry is passed over; a spent round gives way to a new one. -/
theorem witness_PollServesTheRound :
    (hall.phase = .running ∧ hall.restartPending = false ∧ hall.poll = none)
      ∧ ({ hall with round := [some 1, none, none, some 4, some 5], roundPos := 1 } : State).round.drop 1
          = List.replicate 2 none ++ some 4 :: [some 5]
      ∧ enrolledWith hall (fun _ => true) = [1, 2, 3, 4, 5, 6, 7]
      ∧ enrolledWith hall (fun st => st.weight == 2) = [4, 7]
      ∧ (∀ e ∈ hall.round.drop hall.roundPos, e = none)
      ∧ [1, 2, 3, 4, 5, 6, 7].take ((7 + 1) / 2) ++ [4, 7] ++ [1, 2, 3, 4, 5, 6, 7].drop ((7 + 1) / 2)
          = 1 :: [2, 3, 4, 4, 7, 5, 6, 7]
      ∧ hall.station? 1 ≠ none := by decide +kernel

/-- Station 6 in the middle of its poll: attempt `n`, with its miss count and SILENT. -/
def missing (n misses : Nat) (silent : Bool) : State :=
  { hall with
    poll := some ⟨6, n⟩
    stations := hall.stations.set 5 (some { desk with misses := misses, silent := silent }) }

theorem test_second_attempt : took (exec .replyTimeout (missing 2 0 false))
    (fun t => t.poll == some ⟨6, 3⟩ && t.flags == 1#12) = true := by decide +kernel
theorem test_third_attempt_ends : took (exec .badFrame (missing 3 0 false))
    (fun t => t.poll == none && (t.station? 6).any (fun x => x.misses == 1 && !x.silent)
      && t.flags == 0x21#12) = true := by decide +kernel
theorem test_eighth_miss_is_silent : took (exec .wrongAddressFrame (missing 3 7 false))
    (fun t => (t.station? 6).any (fun x => x.misses == 8 && x.silent) && t.flags == 0x31#12) = true := by
  decide +kernel
theorem test_silent_one_attempt : took (exec .replyTimeout (missing 1 8 true))
    (fun t => t.poll == none && (t.station? 6).any (fun x => x.misses == 8 && x.silent)) = true := by
  decide +kernel
theorem test_idle_heard : took (exec .idleFrame (missing 1 8 true))
    (fun t => t.poll == none && t.station? 6 == some desk) = true := by decide +kernel

/-- The clauses at their boundaries: attempts 2 and 3, miss counts 6 and 7, and a SILENT station. -/
theorem witness_PollsEnd :
    (Polled (missing 2 0 false) 6 2 desk ∧ desk.silent = false ∧ 2 < 3)
      ∧ (Polled (missing 3 6 false) 6 3 { desk with misses := 6 } ∧ 3 ≤ 3)
      ∧ (Polled (missing 3 7 false) 6 3 { desk with misses := 7 } ∧ 3 ≤ 3)
      ∧ Polled (missing 1 8 true) 6 1 { desk with misses := 8, silent := true } :=
  ⟨⟨polled_of, by decide +kernel⟩, ⟨polled_of, by decide⟩,
    ⟨polled_of, by decide⟩, polled_of⟩

/-- Station 1 with a deferred request in flight. -/
def bossBusy : Station := { boss with slot := .inFlight 9#8 }
def busyHall : State := { hall with poll := some ⟨1, 1⟩, stations := hall.stations.set 0 (some bossBusy) }

/-- A payload not filled, a kind not permitted, a slot IN_FLIGHT. -/
theorem witness_LinkChecksInOrder :
    (asked (.holdPlate 1#8 .malformed) = some ⟨reqHoldPlate, 1#8, false⟩ ∧ Polled (asking 6 hall) 6 1 desk)
      ∧ (asked (.holdPlate 1#8 (.fields ⟨0, 0⟩)) = some ⟨reqHoldPlate, 1#8, true⟩
          ∧ desk.kind ∉ reqHoldPlate.kinds)
      ∧ (Polled busyHall 1 1 bossBusy ∧ bossBusy.kind ∈ reqHoldPlate.kinds ∧ reqHoldPlate.deferred = true
          ∧ ∃ g, bossBusy.slot = .inFlight g) :=
  ⟨⟨rfl, polled_of⟩, by decide, polled_of, by decide, rfl, 9#8, rfl⟩

theorem test_malformed_before_kind :
    codeOf (exec (.holdPlate 1#8 .malformed) (asking 6 hall)) = some .badRequest := by decide +kernel
theorem test_kind_before_slot :
    codeOf (exec (.holdPlate 1#8 (.fields ⟨0, 0⟩)) (asking 6 hall)) = some .notPermitted := by decide +kernel
theorem test_busy :
    codeOf (exec (.holdPlate 1#8 (.fields ⟨0, 0⟩)) busyHall) = some .busy := by decide +kernel
theorem test_unknown_code :
    answered (exec (.unknownRequestCode 5#8 0x05) (asking 6 hall)) = some (.badRequest, []) := by decide +kernel

theorem witness_EveryRequestAnswered :
    asked (.lifted 1#8 (.fields ⟨⟨0, 0⟩, 0⟩)) = some ⟨reqLifted, 1#8, true⟩ ∧ Polled (asking 4 hall) 4 1 hoist :=
  ⟨rfl, polled_of⟩

/-- A refusal with fields: Lifted refused BLOCKED has none, Commit Batch carries a position. -/
theorem witness_RefusalsChangeNothing :
    ∃ t, asked (.holdPlate 1#8 (.fields ⟨0, 0⟩)) = some ⟨reqHoldPlate, 1#8, true⟩
      ∧ Polled (asking 1 hall) 1 1 boss
      ∧ exec (.holdPlate 1#8 (.fields ⟨0, 0⟩)) (asking 1 hall) = .next t
      ∧ Sends t 1 boss 1#8 .noSuch [] ∧ AnsCode.noSuch ∈ refusals
      ∧ reqHoldPlate ≠ reqFetchResult ∧ reqHoldPlate ≠ reqOpenBatch := by
  refine ⟨_, rfl, polled_of, rfl, ?_, by decide +kernel⟩
  show _ = _
  decide +kernel

/-! ### Fetch Result (R170) -/

def holding (v : AnsSlot) : State :=
  { hall with poll := some ⟨6, 1⟩, stations := hall.stations.set 5 (some { desk with slot := v }) }

theorem test_fetch_held :
    answered (exec (.fetchResult 3#8 (.fields ())) (holding (.held 9#8 0x28 .done [.num 1 0])))
        = some (.done, [.num 1 9, .choice 0x28, .num 1 0])
      ∧ slotAfter (exec (.fetchResult 3#8 (.fields ())) (holding (.held 9#8 0x28 .done [.num 1 0]))) 6
        = some .empty := by decide +kernel
theorem test_fetch_working :
    answered (exec (.fetchResult 3#8 (.fields ())) (holding (.inFlight 9#8))) = some (.working, [.num 1 9])
      ∧ answered (exec (.fetchResult 3#8 (.fields ())) (holding .empty)) = some (.noResult, []) := by
  decide +kernel

theorem witness_FetchResultGivesTheSlot :
    Asks reqFetchResult (holding .empty) 6 desk
      ∧ Asks reqFetchResult (holding (.inFlight 9#8)) 6 { desk with slot := .inFlight 9#8 }
      ∧ Asks reqFetchResult (holding (.held 9#8 0x28 .done [])) 6
          { desk with slot := .held 9#8 0x28 .done [] } :=
  ⟨asks_of, asks_of, asks_of⟩

/-! ### Reads -/

theorem test_read_bounds_1 :
    codeOf (exec (.readStation 1#8 (.fields 32)) (asking 6 yard)) = some .done
      ∧ codeOf (exec (.readStation 1#8 (.fields 33)) (asking 6 yard)) = some .badRequest
      ∧ codeOf (exec (.readStation 1#8 (.fields 0)) (asking 6 yard)) = some .badRequest
      ∧ codeOf (exec (.readSlot 1#8 (.fields ⟨95, none⟩)) (asking 6 yard)) = some .done
      ∧ codeOf (exec (.readSlot 1#8 (.fields ⟨96, none⟩)) (asking 6 yard)) = some .badRequest
      ∧ codeOf (exec (.readTable 1#8 (.fields ⟨7, none⟩)) (asking 6 yard)) = some .done
      ∧ codeOf (exec (.readTable 1#8 (.fields ⟨8, none⟩)) (asking 6 yard)) = some .badRequest
      ∧ codeOf (exec (.readMarkerWindow 1#8 (.fields 7)) (asking 6 yard)) = some .done
      ∧ codeOf (exec (.readMarkerWindow 1#8 (.fields 8)) (asking 6 yard)) = some .badRequest := by
  decide +kernel
theorem test_read_bounds_2 :
    codeOf (exec (.readPallet 1#8 (.fields ⟨15, none⟩)) (asking 6 yard)) = some .done
      ∧ codeOf (exec (.readPallet 1#8 (.fields ⟨16, none⟩)) (asking 6 yard)) = some .badRequest
      ∧ codeOf (exec (.readCrane 1#8 (.fields 5)) (asking 6 yard)) = some .done
      ∧ codeOf (exec (.readCrane 1#8 (.fields 6)) (asking 6 yard)) = some .badRequest
      ∧ codeOf (exec (.readRunway 1#8 (.fields ⟨1, none⟩)) (asking 6 yard)) = some .done
      ∧ codeOf (exec (.readRunway 1#8 (.fields ⟨2, none⟩)) (asking 6 yard)) = some .badRequest
      ∧ codeOf (exec (.readHallMap 1#8 (.fields ⟨8, none⟩)) (asking 6 yard)) = some .done
      ∧ codeOf (exec (.readHallMap 1#8 (.fields ⟨9, none⟩)) (asking 6 yard)) = some .badRequest
      ∧ codeOf (exec (.readSearchQueue 1#8 (.fields ())) (asking 6 yard)) = some .done := by
  decide +kernel
theorem test_read_handles :
    codeOf (exec (.readPlate 1#8 (.fields ⟨0, 0⟩)) (asking 6 yard)) = some .done
      ∧ codeOf (exec (.readPlate 1#8 (.fields ⟨0, 1⟩)) (asking 6 yard)) = some .noSuch
      ∧ codeOf (exec (.readPart 1#8 (.fields ⟨0, 0⟩)) (asking 6 yard)) = some .noSuch
      ∧ codeOf (exec (.readJobParts 1#8 (.fields ⟨⟨0, 0⟩, none⟩)) (asking 6 yard)) = some .noSuch
      ∧ codeOf (exec (.readLeg 1#8 (.fields ⟨0, 0⟩)) (asking 6 yard)) = some .noSuch
      ∧ codeOf (exec (.readBatch 1#8 (.fields ⟨⟨0, 0⟩, none⟩)) (asking 6 yard)) = some .noSuch := by
  decide +kernel

/-- Two plates of the worked case of chapter 2 weigh 2 × 50,868 (R43). -/
theorem test_read_slot :
    answered (exec (.readSlot 1#8 (.fields ⟨10, none⟩)) (asking 6 yard))
      = some (.done, [.choice 0, .num 2 840, .choice 0, .num 1 8, .num 4 4000000,
          .num 1 2, .handle ⟨0, 0⟩, .handle ⟨1, 0⟩, .num 1 2, .num 4 101736, .num 1 0, .num 4 0, .num 1 0,
          .choice 1]) := by decide +kernel

/-! ## Alarms (chapter 11) -/

/-- The worked example of section 11.3: PFW asserted, station 7 SILENT. -/
def alarmed : State :=
  { asking 1 hall with
    pfw := true
    flags := 0x410#12
    stations := hall.stations.set 6 (some { hoist1 with misses := 8, silent := true }) }

theorem test_pfw_raises :
    took (exec .pfwAssert hall) (fun t => t.pfw && flagIn t.flags .powerWarning) = true := by decide +kernel
theorem test_clear_sets_again :
    answered (exec (.clearAlarms 1#8 (.fields 0x410)) alarmed) = some (.done, [.num 2 0x410])
      ∧ answered (exec (.clearAlarms 1#8 (.fields 0x410)) { alarmed with pfw := false })
        = some (.done, [.num 2 0x010]) := by decide +kernel
theorem test_clear_bounds :
    codeOf (exec (.clearAlarms 1#8 (.fields 4095)) alarmed) = some .done
      ∧ codeOf (exec (.clearAlarms 1#8 (.fields 4096)) alarmed) = some .badRequest := by decide +kernel
theorem test_read_alarms :
    answered (exec (.readAlarms 1#8 (.fields ())) alarmed)
      = some (.done, [.num 2 0x410, .num 2 0xFFE, .choice 1, .choice 0, .num 1 1, .num 1 7]) := by decide +kernel

/-- ALERT in each phase, and after a flag of the mask is raised (R186). -/
theorem test_alert :
    [Phase.off, .inReset, .startup, .running].map (fun v => ({ alarmed with phase := v } : State).alert)
        = [false, false, true, true]
      ∧ hall.alert = false ∧ took (exec .pfwAssert hall) (fun t => t.alert) = true := by decide +kernel

theorem witness_AlarmsReadAndCleared :
    Asks reqReadAlarms alarmed 1 boss ∧ Asks reqClearAlarms alarmed 1 boss ∧ 4095 < 4096 ∧ ¬(4096 < 4096)
      ∧ State.reset.phase = .startup ∧ alarmed.phase = .running
      ∧ ({ alarmed with phase := .inReset } : State).phase = .inReset :=
  ⟨asks_of, asks_of, by decide +kernel⟩

/-! ## Enrolment (section 9.5) -/

/-- Crane station 7 is enrolled again for crane 2; it has a draft, a search and a request in flight. -/
def enrolling : State :=
  { asking 1 hall with
    searchQueue := [⟨7, 3#8, 0, 0, 180, 0, 1, 1, false, 1⟩, ⟨6, 4#8, 0, 0, 180, 0, 1, 1, false, 1⟩]
    scan := some ⟨⟨1, 9#8, 0, 0, 180, 0, 1, 1, false, 1⟩, 5, []⟩
    cranes := hall.cranes.set 1 ⟨.idle, none, some 1200, some ⟨1140, 1260⟩, false⟩
    deferred := [⟨some 7, 3#8, 0x54, [⟨.state 0, false⟩], false, .done, []⟩] }

def enrolCrane2 : EnrolF := ⟨7, 3, some 2, 2⟩

theorem test_enrol :
    took (exec (.enrolStation 5#8 (.fields enrolCrane2)) enrolling) (fun t =>
      t.station? 7 == some ⟨.crane, some 2, 2, 0, false, .empty⟩
        && t.crane 1 == ⟨.offline, none, none, none, false⟩ && t.searchQueue.length == 1
        && t.queue == [.group .stations]
        && t.deferred.map (fun d => d.station) == [none, some 1]) = true := by decide +kernel
/-- The scan of station 7's own search, with others waiting or none (R66). -/
def ownScan (waiting : List SearchRec) : State :=
  { enrolling with
    searchQueue := ⟨7, 3#8, 0, 0, 180, 0, 1, 1, false, 1⟩ :: waiting
    scan := some ⟨⟨7, 2#8, 0, 0, 180, 0, 1, 1, false, 1⟩, 5, []⟩ }

def deskSearch : SearchRec := ⟨6, 4#8, 0, 0, 180, 0, 1, 1, false, 1⟩

theorem test_scan_abandoned :
    ∀ c ∈ [Instr.enrolStation 5#8 (.fields enrolCrane2), .removeStation 5#8 (.fields 7)],
      took (exec c (ownScan [deskSearch])) (fun t => t.scan == some ⟨deskSearch, 0, []⟩ && t.searchQueue == []) = true
        ∧ took (exec c (ownScan [])) (fun t => t.scan == none && t.searchQueue == []) = true
        ∧ took (exec c enrolling) (fun t => t.scan == enrolling.scan && t.searchQueue == [deskSearch]) = true := by
  decide +kernel

/-- A scan of another station's search; one of the station's own, with a search waiting and with none. -/
theorem witness_Withdrawn :
    (∃ c, enrolling.scan = some c ∧ c.search.station ≠ 7)
      ∧ (∀ l, (∃ c, (ownScan l).scan = some c ∧ c.search.station = 7)
        ∧ (ownScan l).searchQueue.filter (fun q => q.station != 7) = l.filter fun q => q.station != 7) :=
  ⟨⟨_, rfl, by decide⟩, fun _ => ⟨⟨_, rfl, rfl⟩, rfl⟩⟩

theorem witness_EnrolStationTakes :
    Asks reqEnrolStation enrolling 1 boss ∧ enrolling.pfw = false
      ∧ (2 ≤ enrolCrane2.address ∧ enrolCrane2.address ≤ 32 ∧ enrolCrane2.address ≠ 1)
      ∧ StationKind.ofNum enrolCrane2.kind = some .crane ∧ (∃ u, enrolCrane2.unit = some u ∧ u ≤ 5)
      ∧ enrolCrane2.weight = 2
      ∧ (∀ b x, b ≠ enrolCrane2.address → enrolling.station? b = some x →
          ¬(x.kind = .crane ∧ x.unit = enrolCrane2.unit))
      ∧ (∀ x c, enrolling.station? enrolCrane2.address = some x → x.kind = .crane → x.unit = some c →
          (enrolling.crane c).leg = none) := by
  refine ⟨asks_of, rfl, by decide, rfl, ⟨2, by decide +kernel⟩, rfl, ?_, ?_⟩
  · intro b x _ hx
    have h := station_of_stationsAll (s := enrolling) (p := fun _ x => !(x.kind == .crane && x.unit == some 2))
      (by decide +kernel) b x hx
    simpa [enrolCrane2, imp_iff_not_or] using h
  · intro x c hx _ hc
    have h : enrolling.station? 7 = some hoist1 := by decide +kernel
    rw [show enrolCrane2.address = 7 from rfl, h] at hx
    cases hx
    cases hc
    decide +kernel

theorem test_remove :
    took (exec (.removeStation 5#8 (.fields 7)) { enrolling with round := [some 1, some 7, some 2] }) (fun t =>
      t.station? 7 == none && t.round == [some 1, none, some 2]
        && t.crane 1 == ⟨.offline, none, none, none, false⟩) = true := by decide +kernel
theorem witness_RemoveStationTakes :
    Asks reqRemoveStation enrolling 1 boss ∧ enrolling.pfw = false ∧ 2 ≤ 7 ∧ 7 ≠ 1
      ∧ enrolling.station? 7 = some hoist1
      ∧ (∀ c, hoist1.kind = .crane → hoist1.unit = some c → (enrolling.crane c).leg = none) := by
  refine ⟨asks_of, rfl, by decide, by decide, by decide +kernel, ?_⟩
  intro c _ hc
  cases hc
  decide +kernel

/-! ## Plates (chapters 1 and 3) -/

/-- Entry 0 STOCK, entry 1 RETIRED of generation 0, as in step 6 of the worked example of chapter 1. -/
def dock : State :=
  let sold := { mill .nowhere 1001 with
    st := { (mill .nowhere 1001).st with disposition := .retired .shipped }, mass := none }
  let s := putPlate 0 (mill (.slot 5 0) 1000) (putPlate 1 sold hall)
  { asking 1 s with slots := s.slots.set 5 ⟨[⟨0, 0⟩], [], false⟩ }

def newPlate : RegisterF := ⟨[0x41#8, 0x31#8], 12, 180, 12000, 3000, 20, 20, 15, 15, 7⟩

theorem test_register_reuses_entry_1 :
    took (exec (.registerPlate 17#8 (.fields newPlate)) dock) (fun t =>
      t.plate? ⟨1, 1⟩ == some (mill (.slot 7 0) 1002) && t.plate? ⟨1, 0⟩ == none && t.seqCounter == 1003
        && (t.slot 7).stack == [⟨1, 1⟩] && t.queue == [.genWord 1, .identity 1, .state 1]
        && t.station? 1 == some { boss with slot := .inFlight 17#8 }) = true := by decide +kernel

theorem witness_RegisterPlateCreates :
    ∃ e, Asks reqRegisterPlate dock 1 boss ∧ dock.pfw = false
      ∧ (textIn 1 12 newPlate.heat = true ∧ newPlate.grade ≤ 63 ∧ 30 ≤ newPlate.thickness
        ∧ newPlate.thickness ≤ 1500 ∧ 500 ≤ newPlate.length ∧ newPlate.length ≤ 24000 ∧ 300 ≤ newPlate.width
        ∧ newPlate.width ≤ 5000 ∧ 10 ≤ newPlate.headTrim ∧ newPlate.headTrim ≤ 250 ∧ 15 ≤ newPlate.sideBTrim
        ∧ newPlate.sideBTrim ≤ 250 ∧ newPlate.slot ≤ 95)
      ∧ 300 ≤ newPlate.length - newPlate.headTrim - newPlate.tailTrim
      ∧ 200 ≤ newPlate.width - newPlate.sideATrim - newPlate.sideBTrim
      ∧ dock.seqCounter < 4294967296
      ∧ dock.plates.get? 1 = some e ∧ (∀ r, e.record = some r → r.st.disposition ≠ .stock)
      ∧ (∀ j < 1, ∀ d, dock.plates.get? j = some d → ∃ r, d.record = some r ∧ r.st.disposition = .stock)
      ∧ dock.hasRoom newPlate.slot
          (some (massOf (newPlate.length * newPlate.width) newPlate.thickness (dock.density newPlate.grade)))
        = true := by
  refine ⟨_, asks_of, rfl, by decide +kernel, by decide, by decide, by decide +kernel, rfl,
    ?_, ?_, by decide +kernel⟩
  · intro r hr
    cases hr
    decide
  · intro j hj d hd
    obtain rfl : j = 0 := by omega
    obtain rfl : d = ⟨0, some (mill (.slot 5 0) 1000)⟩ := by
      have : dock.plates.get? 0 = some ⟨0, some (mill (.slot 5 0) 1000)⟩ := by decide +kernel
      rw [this] at hd
      cases hd
      rfl
    exact ⟨_, rfl, rfl⟩

/-- Amend Plate of plate 0, which stays in slot 10; and one that changes nothing. -/
def trimmed : AmendF := ⟨⟨0, 0⟩, [⟨0, 0, 5000, 2970⟩], none, none⟩
def unchanged : AmendF := ⟨⟨0, 0⟩, [⟨0, 0, 11960, 2970⟩], none, some (.slot 10)⟩
/-- Plate 0, at the bottom of slot 10, goes to slot 11. -/
def moved : AmendF := ⟨⟨0, 0⟩, [⟨0, 0, 11960, 2970⟩], none, some (.slot 11)⟩

theorem test_amend_moves :
    took (exec (.amendPlate 6#8 (.fields moved)) (asking 1 yard)) (fun t =>
      (t.slot 10).stack == [⟨1, 0⟩] && (t.slot 11).stack == [⟨0, 0⟩]
        && (t.plate? ⟨1, 0⟩).map (fun r => r.st.location) == some (.slot 10 0)
        && t.queue == [.state 0, .state 1]) = true := by decide +kernel
theorem test_amend_same_is_complete :
    slotAfter (exec (.amendPlate 6#8 (.fields unchanged)) (asking 1 yard)) 1
        = some (.held 6#8 0x12 .done [])
      ∧ slotAfter (exec (.amendPlate 6#8 (.fields trimmed)) (asking 1 yard)) 1 = some (.inFlight 6#8) := by
  decide +kernel

/-- What the three requests have in common, and each form's own conditions. -/
theorem witness_AmendPlateSets :
    (Asks reqAmendPlate (asking 1 yard) 1 boss ∧ yard.pfw = false
        ∧ (asking 1 yard).plate? ⟨0, 0⟩ = some (mill (.slot 10 0) 1)
        ∧ (mill (.slot 10 0) 1).st.disposition = .stock ∧ (mill (.slot 10 0) 1).job = none
        ∧ (mill (.slot 10 0) 1).leg = none)
      ∧ (∀ f ∈ [trimmed, unchanged, moved],
          panelsValid f.panels (12000 - 20 - 20) (3000 - 15 - 15) = true ∧ f.area = none)
      ∧ (massOf 36000000 180 ((asking 1 yard).density 12) = 50868
        ∧ (asking 1 yard).stackMass 10 - 50868 + 50868 + (asking 1 yard).incomingMass 10
          ≤ ((asking 1 yard).slotCfg 10).limit
        ∧ (asking 1 yard).hasRoom 11 (some 50868) = true)
      ∧ (trimmed.location = none ∧ ∀ c, (mill (.slot 10 0) 1).st.location ≠ .hook c)
      ∧ unchanged.location = some (mill (.slot 10 0) 1).st.location.place
      ∧ (moved.location = some (.slot 11) ∧ Place.slot 11 ≠ (mill (.slot 10 0) 1).st.location.place ∧ 11 ≤ 95
          ∧ ∀ j b, (mill (.slot 10 0) 1).st.location = .bed j b → b ≤ 1) := by
  refine ⟨⟨asks_of, by decide +kernel⟩, by decide +kernel,
    by decide +kernel, ⟨rfl, fun c h => ?_⟩, rfl, rfl, by decide, by decide, fun j b h => ?_⟩
  · cases h
  · cases h

/-- The middle plate of three leaves: levels and images as in the worked example of chapter 3. -/
def stacked : State :=
  let s := putPlate 3 (mill (.slot 10 2) 4) yard
  { s with slots := s.slots.set 10 ⟨[⟨0, 0⟩, ⟨1, 0⟩, ⟨3, 0⟩], [], false⟩, cart := ⟨[], some .a, []⟩ }

theorem test_stack_closes_up :
    (((stacked.leavePlace ⟨1, 0⟩).slot 10).stack = [⟨0, 0⟩, ⟨3, 0⟩]
      ∧ (stacked.leavePlace ⟨1, 0⟩).queue = [.state 3]
      ∧ ((stacked.leavePlace ⟨1, 0⟩).plate? ⟨3, 0⟩).map (fun r => r.st.location) = some (.slot 10 1)) := by
  decide +kernel

theorem witness_StackClosesUp :
    stacked.plate? ⟨1, 0⟩ = some (mill (.slot 10 1) 2) ∧ 10 ≤ 95 ∧ (stacked.slot 10).stack.Nodup
      ∧ (⟨1, 0⟩ : Handle) ∈ (stacked.slot 10).stack
      ∧ ∀ g ∈ (stacked.slot 10).stack, ∃ q, stacked.plate? g = some q := by
  refine ⟨by decide +kernel, by decide, by decide +kernel, by decide +kernel, ?_⟩
  have h : ∀ g ∈ (stacked.slot 10).stack, (stacked.plate? g).isSome = true := by decide +kernel
  intro g hg
  exact Option.isSome_iff_exists.1 (h g hg)

theorem test_hold :
    took (exec (.holdPlate 7#8 (.fields ⟨0, 0⟩)) (asking 1 yard)) (fun t =>
      (t.plate? ⟨0, 0⟩).any (fun r => r.st.held) && t.queue == [.state 0]) = true := by decide +kernel
theorem test_release_clear_is_complete :
    slotAfter (exec (.releasePlate 7#8 (.fields ⟨0, 0⟩)) (asking 1 yard)) 1 = some (.held 7#8 0x14 .done []) := by
  decide +kernel

/-- The states in which Hold Plate meets each clause. -/
def doubted : State :=
  putPlate 0 { mill .nowhere 1 with st := { (mill .nowhere 1).st with doubtful := true } } (asking 1 hall)

theorem witness_HeldSetAndCleared :
    Asks reqHoldPlate (asking 1 yard) 1 boss ∧ Asks reqReleasePlate (asking 1 yard) 1 boss
      ∧ Asks reqHoldPlate { asking 1 yard with pfw := true } 1 boss
      ∧ (asking 1 yard).plate? ⟨9, 0⟩ = none
      ∧ (asking 1 yard).plate? ⟨0, 0⟩ = some (mill (.slot 10 0) 1) ∧ (mill (.slot 10 0) 1).st.held ≠ true
      ∧ (Asks reqHoldPlate dock 1 boss ∧ ∃ r, dock.plate? ⟨1, 0⟩ = some r ∧ r.st.disposition ≠ .stock)
      ∧ (Asks reqHoldPlate doubted 1 boss
          ∧ ∃ r, doubted.plate? ⟨0, 0⟩ = some r ∧ r.st.disposition = .stock ∧ r.st.doubtful = true) :=
  ⟨asks_of, asks_of, asks_of, by decide +kernel,
    by decide +kernel, by decide, ⟨asks_of, _, rfl, by decide⟩,
    asks_of, _, rfl, rfl, rfl⟩

theorem test_retire :
    took (exec (.retirePlate 7#8 (.fields ⟨⟨1, 0⟩, 2⟩)) (asking 1 yard)) (fun t =>
      (t.plate? ⟨1, 0⟩).any (fun r => r.st.disposition == .retired .shipped && r.mass == none
        && r.st.panels == some [⟨0, 0, 11960, 2970⟩]) && (t.slot 10).stack == [⟨0, 0⟩]) = true := by
  decide +kernel

theorem witness_RetirePlateRetires :
    Asks reqRetirePlate (asking 1 yard) 1 boss ∧ yard.pfw = false
      ∧ (asking 1 yard).plate? ⟨1, 0⟩ = some (mill (.slot 10 1) 2)
      ∧ (mill (.slot 10 1) 2).st.disposition = .stock ∧ (mill (.slot 10 1) 2).job = none
      ∧ (mill (.slot 10 1) 2).leg = none
      ∧ (∀ k n, (mill (.slot 10 1) 2).st.location = .slot k n →
          ((asking 1 yard).slot k).stack.length ≤ n + 1 ∧ ((asking 1 yard).slot k).stack[n]? = some ⟨1, 0⟩
            ∧ ((asking 1 yard).slot k).stack.Nodup)
      ∧ (∀ g l, (asking 1 yard).leg? g = some l → l.state.unfinished = true → l.plate ≠ some ⟨1, 0⟩) := by
  refine ⟨asks_of, rfl, by decide +kernel, rfl, rfl, rfl, fun k n h => ?_, fun g l h => ?_⟩
  · cases h
    decide +kernel
  · have h' := find_of_poolAll (t := (asking 1 yard).legs) (p := fun _ _ => false) (by decide +kernel) g l h
    cases h'

theorem test_power_down :
    codeOf (exec (.holdPlate 1#8 (.fields ⟨9, 0⟩)) { asking 1 yard with pfw := true }) = some .powerDown
      ∧ codeOf (exec (.setCart 1#8 (.fields ⟨0, 4001⟩)) { asking 1 yard with pfw := true }) = some .powerDown := by
  decide +kernel

theorem witness_PowerDownRefuses :
    asked (.setCart 1#8 (.fields ⟨0, 4001⟩)) = some ⟨reqSetCart, 1#8, true⟩
      ∧ Asks reqSetCart { asking 1 yard with pfw := true } 1 boss
      ∧ ({ asking 1 yard with pfw := true } : State).pfw = true :=
  ⟨rfl, asks_of, rfl⟩

/-! ## Geometry and mass (chapter 2) -/

theorem test_mass : massOf 36000000 180 7850 = 50868 ∧ massOf 14701500 180 7850 = 20773
    ∧ massOf 5098500 180 7850 = 7204 ∧ massOf 28551200 180 7850 = 40343
    ∧ massOf 3499700 180 7850 = 4945 ∧ massOf 25451200 180 7850 = 35963 := by decide
theorem test_tolerance : tolerance 63368 = 3901 ∧ tolerance 33273 = 2998 ∧ tolerance 19704 = 2591 := by decide
theorem test_lift_judged : loadAgrees 63368 67269 = true ∧ loadAgrees 63368 67000 = true
    ∧ loadAgrees 63368 68000 = false ∧ loadAgrees 63368 59467 = true ∧ loadAgrees 63368 59466 = false := by decide
theorem test_remnant_panel :
    derivedPanels [⟨0, 0, 11960, 2970⟩] 0 (envExtent .along 7000 2970) (Grade.factory 12)
      = [⟨7010, 0, 4950, 2970⟩] := by decide +kernel

def fourPanels : List Panel := [⟨0, 1500, 3000, 1470⟩, ⟨3010, 1500, 2000, 1470⟩, ⟨6000, 0, 5960, 2970⟩,
  ⟨0, 0, 2500, 1400⟩]

theorem test_four_panels_trimmed :
    derivedPanels fourPanels 2 (envExtent .along 3000 1200) (Grade.factory 12)
      = [⟨0, 1500, 3000, 1470⟩, ⟨0, 0, 2500, 1400⟩, ⟨9010, 0, 2950, 2970⟩, ⟨6000, 1210, 3000, 1760⟩] := by
  decide +kernel

/-- A fifth panel is dropped: the smallest of the five, and among equals that of greater x, then of greater y. -/
theorem test_four_kept :
    derivedPanels [⟨0, 0, 100, 10⟩, ⟨0, 20, 100, 10⟩, ⟨200, 0, 100, 10⟩, ⟨400, 0, 3010, 2970⟩] 3
        (envExtent .along 1000 1000)
        { Grade.factory 12 with minLength := 1, minWidth := 1 }
      = [⟨0, 0, 100, 10⟩, ⟨0, 20, 100, 10⟩, ⟨1410, 0, 2000, 2970⟩, ⟨400, 1010, 1000, 1960⟩] := by decide +kernel
theorem test_rotated_does_not_fit :
    envFits ⟨6000, 0, 5960, 2970⟩ (envExtent .rotated 3000 1200) = false := by decide

theorem witness_DerivationArithmetic :
    panelsValid fourPanels 11960 2970 = true ∧ fourPanels[2]? = some ⟨6000, 0, 5960, 2970⟩
      ∧ envFits ⟨6000, 0, 5960, 2970⟩ (envExtent .along 3000 1200) = true
      ∧ clampLoad (-1) = 0 ∧ clampLoad 4000001 = 4000000 ∧ clampLoad 4000000 = 4000000 := by decide +kernel

/-! ## Searches (chapter 4) -/

def wanting : FindF := ⟨32, 240, 180, 10, 4000, 2000, 1, 3⟩

/-- A hall in which `n` searches wait while one is in flight at a position. -/
def searching (n position : Nat) : State :=
  { asking 6 hall with
    scan := some ⟨⟨1, 5#8, 0, 0, 180, 0, 1, 1, false, 4⟩, position, []⟩
    searchQueue := List.replicate n ⟨20, 1#8, 0, 0, 180, 0, 1, 1, false, 1⟩ }

theorem test_find_full :
    codeOf (exec (.findRemnant 9#8 (.fields wanting)) (searching 4 0)) = some .full
      ∧ codeOf (exec (.findRemnant 9#8 (.fields wanting)) (searching 3 0)) = some .working
      ∧ codeOf (exec (.findRemnant 9#8 (.fields { wanting with wanted := 5 })) (searching 4 0))
        = some .badRequest := by decide +kernel
theorem test_find_starts :
    took (exec (.findRemnant 9#8 (.fields wanting)) (asking 6 hall)) (fun t =>
      t.scan == some ⟨⟨6, 9#8, 32, 240, 180, 10, 4000, 2000, false, 3⟩, 0, []⟩ && t.searchQueue == []
        && t.station? 6 == some { desk with slot := .inFlight 9#8 }) = true := by decide +kernel

theorem witness_FindRemnantQueues :
    Asks reqFindRemnant (searching 4 0) 6 desk ∧ 4 ≤ (searching 4 0).searchQueue.length
      ∧ Asks reqFindRemnant (searching 3 0) 6 desk ∧ (searching 3 0).searchQueue.length < 4
      ∧ Asks reqFindRemnant (asking 6 hall) 6 desk ∧ (asking 6 hall).scan = none
      ∧ (wanting.specFamily ≤ 255 ∧ wanting.specMask ≤ 255 ∧ 30 ≤ wanting.thickness ∧ wanting.thickness ≤ 1500
          ∧ wanting.tolerance ≤ 50 ∧ 1 ≤ wanting.length ∧ wanting.length ≤ 23980 ∧ 1 ≤ wanting.width
          ∧ wanting.width ≤ 4970 ∧ wanting.rotation ≤ 1 ∧ 1 ≤ wanting.wanted ∧ wanting.wanted ≤ 4)
      ∧ ¬(1 ≤ (5 : Nat) ∧ (5 : Nat) ≤ 4) :=
  ⟨asks_of, by decide +kernel, asks_of, by decide +kernel,
    asks_of, by decide +kernel⟩

/-- The candidates of the worked example: R2, R1, M1, and R3 rotated. -/
def candM1 : Candidate := ⟨⟨17, 0⟩, 0, false, 2, 27521200, 27, .mill, 5210⟩
def candR1 : Candidate := ⟨⟨40, 0⟩, 0, false, 0, 6701500, 6, .derived, 5602⟩
def candR2 : Candidate := ⟨⟨300, 0⟩, 0, false, 3, 820000, 0, .derived, 5415⟩
def candR3 : Candidate := ⟨⟨122, 0⟩, 0, true, 1, 1030000, 1, .derived, 5488⟩

theorem test_ranking : rankIn 3 (rankIn 3 (rankIn 3 [] candM1) candR1) candR2 = [candR2, candR1, candM1] := by
  decide +kernel
theorem test_ranking_two_wanted :
    rankIn 2 (rankIn 2 (rankIn 2 (rankIn 2 [] candM1) candR1) candR3) candR2 = [candR2, candR3] := by
  decide +kernel

/-- R1 of the worked example lies at entry 0, on top of slot 10. -/
def remnantR1 : PlateRec :=
  { mill (.slot 10 1) 5602 with
    ident := { (mill .nowhere 5602).ident with origin := .derived, parent := some ⟨17, 0⟩, depth := 1 }
    st := { (mill (.slot 10 1) 5602).st with panels := some [⟨0, 0, 4950, 2970⟩], area := some 14701500 }
    mass := some 20773 }

def scanning (position : Nat) : State :=
  let s := putPlate position remnantR1 (putPlate 5 (mill (.slot 10 0) 1) hall)
  { s with
    hall := { s.hall with grades := s.hall.grades.set 12 { Grade.factory 12 with family := 33 } }
    slots := s.slots.set 10 ⟨[⟨5, 0⟩, ⟨position, 0⟩], [], false⟩
    stations := s.stations.set 5 (some { desk with slot := .inFlight 9#8 })
    scan := some ⟨⟨6, 9#8, 32, 240, 180, 10, 4000, 2000, false, 3⟩, position, [candM1]⟩
    searchQueue := [⟨1, 5#8, 0, 0, 180, 0, 1, 1, false, 4⟩] }

theorem test_scan_ranks :
    took (exec .scanReachEntry (scanning 1022)) (fun t =>
      t.scan.any (fun c => c.position == 1023
        && c.working == [{ candR1 with plate := ⟨1022, 0⟩ }, candM1])) = true := by decide +kernel
theorem test_scan_ends :
    took (exec .scanReachEntry (scanning 1023)) (fun t =>
      (t.station? 6).map (fun x => x.slot) == some (.held 9#8 0x28 .done
          [.num 1 2, .handle ⟨1023, 0⟩, .num 1 0, .choice 1, .num 1 0, .num 4 6701500,
            .handle ⟨17, 0⟩, .num 1 0, .choice 1, .num 1 2, .num 4 27521200])
        && t.scan.any (fun c => c.search.station == 1 && c.position == 0) && t.searchQueue == []) = true := by
  decide +kernel

theorem witness_ScanRanksEntries :
    (∃ c, (scanning 1022).phase = .running ∧ (scanning 1022).scan = some c ∧ c.position < 1023)
      ∧ (∃ c, (scanning 1023).phase = .running ∧ (scanning 1023).scan = some c ∧ 1023 ≤ c.position)
      ∧ ([candR1, candM1].Pairwise (fun x y => x.ranksBefore y = true)
          ∧ (∀ d ∈ [candR1, candM1], d.seq ≠ candR2.seq) ∧ [candR1, candM1].length ≤ 2) :=
  ⟨⟨_, rfl, rfl, by decide⟩, ⟨_, rfl, rfl, by decide⟩, by decide +kernel⟩

/-! ## Tables and jobs (chapter 5) -/

/-- The parts of the two-bed job cycle: net areas 6,000,000, 5,200,000 and 5,000,000. -/
def draftArea (i : Nat) : Nat :=
  match i with
  | 0 => 6000000
  | 1 => 5200000
  | _ => 5000000

def draftOf (i : Nat) : DraftEntry := ⟨[0x48#8], [0x42#8], 101 + i, draftArea i⟩

def partOf (i : Nat) (m : MarkState) (c : CutState) : Part where
  job := ⟨0, 0⟩
  index := i
  hull := [0x48#8]
  block := [0x42#8]
  number := 101 + i
  area := draftArea i
  heat := [0x41#8, 0x31#8]
  grade := 12
  thickness := 180
  mark := m
  cut := c
  placement := .onBed
  manual := false

/-- A job of nest 9001 on bed 0 of table 0, on plate 2, envelope 7000 by 2970. -/
def jobOf (state : JobState) (role : Option Role) (resume : Nat) : Job where
  nest := 9001
  plate := ⟨2, 0⟩
  panel := 0
  orientation := .along
  envLength := 7000
  envWidth := 2970
  specFamily := 0
  specMask := 0
  thickness := 180
  tolerance := 0
  parts := [⟨0, 0⟩, ⟨1, 0⟩, ⟨2, 0⟩]
  resume := resume
  pierced := state == .burning || state == .paused
  state := state
  role := role
  pauseCause := none
  fetchLost := false
  fetchBatch := none
  clearBatch := none
  verdict := none

def putPart (i : Nat) (p : Part) (s : State) : State := { s with parts := s.parts.set i ⟨0, some p⟩ }

/-- Plate 2 lies on bed 0 of table 0, reserved by the job of that bed; three parts with given marks and cuts. -/
def table0 (j : Job) (p0 p1 p2 : Part) : State :=
  let s := putPlate 2 { mill (.bed 0 0) 3 with job := some ⟨0, 0⟩ } yard
  putPart 0 p0 (putPart 1 p1 (putPart 2 p2 { s with jobs := s.jobs.set 0 ⟨0, some j⟩ }))

def fresh0 : State :=
  table0 (jobOf .loaded (some .active) 0) (partOf 0 .planned .uncut) (partOf 1 .planned .uncut)
    (partOf 2 .planned .uncut)

/-- Step 6 of the two-bed job cycle: part 0 is cut and marked, part 1 is ISSUED, part 2 is PLANNED. -/
def burning : State :=
  { table0 (jobOf .burning (some .active) 1) (partOf 0 .marked .cut) (partOf 1 .issued .uncut)
      (partOf 2 .planned .uncut) with
    windows := hall.windows.set 0 ⟨[⟨1, 0⟩], some ⟨⟨0, 0⟩, .made⟩⟩ }

/-- Every part is cut: the job can end PASS. -/
def allCut : State :=
  table0 (jobOf .burning (some .active) 3) (partOf 0 .marked .cut) (partOf 1 .marked .cut) (partOf 2 .marked .cut)

/-- Station 1 with a draft of `n` entries. -/
def drafting (n : Nat) : State :=
  { asking 1 yard with drafts := yard.drafts.set 0 ((List.range n).map draftOf) }

theorem test_stage_bounds :
    answered (exec (.stageParts 1#8 (.fields ⟨1, [draftOf 70]⟩)) (drafting 63)) = some (.done, [.num 1 64])
      ∧ codeOf (exec (.stageParts 1#8 (.fields ⟨1, [draftOf 70]⟩)) (drafting 64)) = some .full
      ∧ answered (exec (.stageParts 1#8 (.fields ⟨0, [draftOf 70]⟩)) (drafting 64)) = some (.done, [.num 1 1]) := by
  decide +kernel
theorem test_stage_range :
    codeOf (exec (.stageParts 1#8 (.fields ⟨2, [draftOf 70]⟩)) (drafting 0)) = some .badRequest
      ∧ codeOf (exec (.stageParts 1#8 (.fields ⟨1, []⟩)) (drafting 0)) = some .badRequest
      ∧ codeOf (exec (.stageParts 1#8 (.fields ⟨1, List.replicate 7 (draftOf 0)⟩)) (drafting 0))
        = some .badRequest := by decide +kernel

theorem witness_StagePartsAppends :
    Asks reqStageParts (drafting 63) 1 boss ∧ Asks reqStageParts (drafting 64) 1 boss
      ∧ ((drafting 63).draft 1 ++ [draftOf 70]).length ≤ 64
      ∧ 64 < ((drafting 64).draft 1 ++ [draftOf 70]).length
      ∧ (textIn 1 4 (draftOf 70).hull = true ∧ textIn 1 5 (draftOf 70).block = true ∧ 1 ≤ (draftOf 70).number
          ∧ (draftOf 70).number ≤ 99999 ∧ 1 ≤ (draftOf 70).area ∧ (draftOf 70).area ≤ 120000000) :=
  ⟨asks_of, asks_of, by decide +kernel⟩

/-- Admissions for plate 1, on top of slot 10, and for plate 2, which lies on the bed. -/
def admitFetched : AdmitF := ⟨0, 1, 9001, ⟨1, 0⟩, 0, 0, 7000, 2970, 0, 0, 180, 0⟩
def admitLying : AdmitF := ⟨0, 0, 9001, ⟨2, 0⟩, 0, 0, 7000, 2970, 0, 0, 180, 0⟩
/-- Plate 1 for a bed of bay B. -/
def admitAcross : AdmitF := ⟨5, 0, 9001, ⟨1, 0⟩, 0, 0, 7000, 2970, 0, 0, 180, 0⟩

theorem test_admit_fetches :
    took (exec (.admitJob 2#8 (.fields admitFetched)) (drafting 3)) (fun t =>
      (t.job? ⟨1, 0⟩).any (fun j => j.state == .admitted && j.role == some .active
          && j.parts == [⟨0, 0⟩, ⟨1, 0⟩, ⟨2, 0⟩])
        && (t.tableSeq 0).gantry == 1
        && shapeOf t ⟨0, 0⟩ == some (.fetch, .a, some ⟨1, 0⟩, .bed 0 1, 2, .queued, ⟨0, 0⟩, 0)
        && (t.plate? ⟨1, 0⟩).any (fun r => r.use == .reserved ⟨1, 0⟩)) = true := by decide +kernel
/-- The admission of the worked example of chapter 7. -/
theorem test_admit_across :
    took (exec (.admitJob 2#8 (.fields admitAcross)) (drafting 3)) (fun t =>
      shapeOf t ⟨0, 0⟩ == some (.transferOut, .a, some ⟨1, 0⟩, .cart, 2, .queued, ⟨0, 0⟩, 0)
        && shapeOf t ⟨1, 0⟩ == some (.fetch, .b, some ⟨1, 0⟩, .bed 5 0, 2, .queued, ⟨0, 0⟩, 1)) = true := by
  decide +kernel

/-- A plate to be fetched, one that lies on the bed, and one across the bays: each check holds. -/
theorem witness_AdmitJobTakes :
    (∀ f ∈ [admitFetched, admitLying, admitAcross], Asks reqAdmitJob (drafting 3) 1 boss
        ∧ (f.orientation = 0 ∧ f.table ≤ 7 ∧ f.bed ≤ 1 ∧ f.nest ≤ 4294967295 ∧ f.panel = 0 ∧ f.envLength = 7000
          ∧ f.envWidth = 2970 ∧ f.specFamily = 0 ∧ f.specMask = 0 ∧ f.thickness = 180 ∧ f.tolerance = 0)
        ∧ (drafting 3).bedJob f.table f.bed = none
        ∧ (drafting 3).jobs.get? (2 * f.table + f.bed) = some ⟨0, none⟩)
      ∧ (((drafting 3).bed 0 1).plates = [] ∧ ((drafting 3).bed 0 1).skeleton = false
        ∧ ((drafting 3).bed 5 0).plates = [] ∧ ((drafting 3).bed 5 0).skeleton = false
        ∧ ((drafting 3).bed 0 0).plates = [⟨2, 0⟩])
      ∧ ((drafting 3).plate? ⟨1, 0⟩ = some (mill (.slot 10 1) 2) ∧ (drafting 3).plate? ⟨2, 0⟩ = some (mill (.bed 0 0) 3)
        ∧ ((drafting 3).slot 10).stack.length = 2)
      ∧ (∀ g l, (drafting 3).leg? g = some l → l.state.unfinished = true → l.plate ≠ some ⟨1, 0⟩)
      ∧ (∀ d ∈ (drafting 3).draft 1, ∀ g p, (drafting 3).part? g = some p →
          ¬(p.hull = d.hull ∧ p.block = d.block ∧ p.number = d.number))
      ∧ ((drafting 3).draft 1).Pairwise (fun d e => ¬(d.hull = e.hull ∧ d.block = e.block ∧ d.number = e.number))
      ∧ ((drafting 3).draft 1).length = 3 ∧ 3 ≤ (drafting 3).parts.count partEntryFree
      ∧ 2 ≤ (drafting 3).freeLegs ∧ (drafting 3).hasFreeBatch = true := by
  refine ⟨fun f hf => ⟨asks_of, ?_⟩, by decide +kernel, by decide +kernel, fun g l h => ?_, fun _ _ g p h => ?_,
    by decide +kernel⟩
  · revert f
    decide +kernel
  · have h' := find_of_poolAll (t := (drafting 3).legs) (p := fun _ _ => false) (by decide +kernel) g l h
    cases h'
  · have h' := find_of_poolAll (t := (drafting 3).parts) (p := fun _ _ => false) (by decide +kernel) g p h
    cases h'

/-! ### The burn -/

theorem test_start :
    took (exec (.startJob 1#8 (.fields ⟨0, 0⟩)) (asking 2 fresh0)) (fun t =>
      (t.job? ⟨0, 0⟩).any (fun j => j.state == .burning && j.pierced)) = true := by decide +kernel
theorem test_start_twice :
    codeOf (exec (.startJob 1#8 (.fields ⟨0, 0⟩)) (asking 2 burning)) = some .wrongState := by decide +kernel
theorem test_pause :
    took (exec (.pauseJob 1#8 (.fields ⟨⟨0, 0⟩, 0⟩)) (asking 2 burning)) (fun t =>
      (t.job? ⟨0, 0⟩).any (fun j => j.state == .paused && j.pauseCause == some .arcLoss)) = true
      ∧ codeOf (exec (.pauseJob 1#8 (.fields ⟨⟨0, 0⟩, 3⟩)) (asking 2 burning)) = some .badRequest
      ∧ codeOf (exec (.pauseJob 1#8 (.fields ⟨⟨0, 0⟩, 3⟩)) (asking 2 fresh0)) = some .wrongState := by decide +kernel
theorem test_resume :
    answered (exec (.resumeJob 1#8 (.fields ⟨0, 0⟩)) (asking 2 burning)) = some (.done, [.num 1 1]) := by
  decide +kernel

theorem test_part_cut :
    answered (exec (.partCut 1#8 (.fields ⟨⟨0, 0⟩, 2⟩)) (asking 2 burning)) = some (.done, [.num 1 1])
      ∧ took (exec (.partCut 1#8 (.fields ⟨⟨0, 0⟩, 2⟩)) (asking 2 burning)) (fun t =>
          (t.part? ⟨2, 0⟩).any (fun p => p.cut == .cut) && flagIn t.flags .unmarkedCut) = true := by decide +kernel
/-- An ISSUED part is cut with nothing raised (step 8 of the worked example of chapter 6). -/
theorem test_part_cut_issued :
    answered (exec (.partCut 1#8 (.fields ⟨⟨0, 0⟩, 1⟩)) (asking 2 burning)) = some (.done, [.num 1 2])
      ∧ took (exec (.partCut 1#8 (.fields ⟨⟨0, 0⟩, 1⟩)) (asking 2 burning)) (fun t =>
          !flagIn t.flags .unmarkedCut) = true := by decide +kernel

/-! ### Job ends -/

/-- Step 7 of the two-bed job cycle: remnant of mass 20,773, skeleton of 7,204. -/
theorem test_end_pass :
    took (exec (.endJob 1#8 (.fields ⟨⟨0, 0⟩, 0⟩)) (asking 2 allCut)) (fun t =>
      (t.plate? ⟨4, 0⟩).any (fun r => r.mass == some 20773 && r.st.panels == some [⟨7010, 0, 4950, 2970⟩]
          && r.st.location == .bed 0 0 && r.ident.depth == 1)
        && (t.plate? ⟨2, 0⟩).any (fun r => r.st.disposition == .retired .consumed)
        && t.queue == [.genWord 4, .identity 4, .state 4, .state 2]
        && (t.leg? ⟨1, 0⟩).any (fun l => l.kind == .clearSkeleton && l.skeletonMass == some 7204)
        && (t.tableSeq 0).verdictN == some ⟨.pass, 9001⟩) = true := by decide +kernel
theorem test_abort_pierced :
    took (exec (.abortJob 1#8 (.fields ⟨0, 0⟩)) (asking 1 burning)) (fun t =>
      (t.part? ⟨1, 0⟩).any (fun p => p.cut == .scrapped && p.mark == .failed)
        && (t.part? ⟨0, 0⟩).any (fun p => p.cut == .cut)
        && (t.tableSeq 0).verdictN == some ⟨.aborted, 9001⟩ && t.window 0 == ⟨[], none⟩) = true := by decide +kernel

/-- A leg for plate 2 and bed 0 of table 0, in a given state. -/
def legOf (kind : LegKind) (batch : Handle) (state : LegState) : Leg where
  bay := .a
  kind := kind
  batch := batch
  position := 0
  plate := some ⟨2, 0⟩
  sourceBed := none
  skeletonMass := none
  skeletonThickness := none
  destination := .bed 0 0
  priority := 2
  skips := 0
  starving := false
  state := state
  holdUp := none
  crane := none
  source := none
  target := none
  expected := none
  checkLoad := none
  ending := false

/-- The waiting FETCH of plate 1 for bed 1. -/
def stagedFetch : Leg :=
  { legOf .fetch ⟨0, 0⟩ .queued with plate := some ⟨1, 0⟩, destination := .bed 0 1, priority := 1 }

/-- Table 0 with another job, STAGED on bed 1, whose FETCH of plate 1 waits at priority 1. -/
def withStaged (s : State) : State :=
  let other : Job := { jobOf .admitted (some .staged) 0 with plate := ⟨1, 0⟩, parts := [], fetchBatch := some ⟨0, 0⟩ }
  { s with
    jobs := s.jobs.set 1 ⟨0, some other⟩
    batches := s.batches.set 0 ⟨0, some ⟨.job ⟨1, 0⟩, [⟨0, 0⟩], .committed, some 0⟩⟩
    commitCounter := 1
    legs := s.legs.set 0 ⟨0, some stagedFetch⟩ }

/-- The end of the ACTIVE job promotes the other, and raises its waiting leg to priority 2 (R89). -/
theorem test_promotion :
    (∀ c ∈ [Instr.endJob 1#8 (.fields ⟨⟨0, 0⟩, 0⟩), .endJob 1#8 (.fields ⟨⟨0, 0⟩, 1⟩)],
      took (exec c (asking 2 (withStaged allCut))) (fun t =>
        (t.job? ⟨1, 0⟩).any (fun j => j.role == some .active) && (t.tableSeq 0).gantry == 1
          && t.leg? ⟨0, 0⟩ == some { stagedFetch with priority := 2 }) = true)
      ∧ took (exec (.abortJob 1#8 (.fields ⟨0, 0⟩)) (asking 1 (withStaged fresh0))) (fun t =>
        (t.job? ⟨1, 0⟩).any (fun j => j.role == some .active)
          && t.leg? ⟨0, 0⟩ == some { stagedFetch with priority := 2 }) = true := by decide +kernel

/-- With no other job the gantry bed stays (R89). -/
theorem test_gantry_stays :
    ∀ e ∈ [(2, Instr.endJob 1#8 (.fields ⟨⟨0, 0⟩, 0⟩)), (1, .abortJob 1#8 (.fields ⟨0, 0⟩))],
      ∀ g ∈ [0, 1], took (exec e.2 (asking e.1 { allCut with tables := hall.tables.set 0 ⟨g, none, none⟩ })) (fun t =>
        (t.tableSeq 0).gantry == g) = true := by decide +kernel

/-- The plate of the job on bed 0. -/
def reserved : PlateRec := { mill (.bed 0 0) 3 with job := some ⟨0, 0⟩ }

/-- An End Job with the other bed's job STAGED, and an Abort Job of a pierced job. -/
theorem witness_JobEnds :
    (Asks reqEndJob (asking 2 (withStaged allCut)) 2 torch ∧ Asks reqAbortJob (asking 1 burning) 1 boss)
      ∧ (∀ g ∈ (jobOf .burning (some .active) 3).parts, ∃ p, (asking 2 (withStaged allCut)).part? g = some p
        ∧ p.cut = .cut)
      ∧ (∀ s ∈ [asking 2 (withStaged allCut), asking 1 burning], s.pfw = false ∧ 2 ≤ s.freeLegs
        ∧ s.hasFreeBatch = true ∧ s.plate? ⟨2, 0⟩ = some reserved)
      ∧ (reserved.st.disposition = .stock ∧ reserved.st.location = .bed 0 0 ∧ 0 / 2 = torch.unit.getD 0)
      ∧ (asking 2 (withStaged allCut)).job? ⟨0, 0⟩ = some (jobOf .burning (some .active) 3)
      ∧ (asking 1 burning).job? ⟨0, 0⟩ = some (jobOf .burning (some .active) 1)
      ∧ ((asking 2 (withStaged allCut)).bedJob 0 1).any (fun e => e.1 == ⟨1, 0⟩ && e.2.role == some .staged
        && e.2.fetchBatch == some ⟨0, 0⟩) = true
      ∧ ((asking 2 (withStaged allCut)).batch? ⟨0, 0⟩).any (fun x => x.state == .committed && x.legs == [⟨0, 0⟩]) = true
      ∧ (asking 2 (withStaged allCut)).leg? ⟨0, 0⟩ = some stagedFetch
      ∧ (asking 1 burning).bedJob 0 1 = none := by
  refine ⟨⟨asks_of, asks_of⟩, fun g hg => ?_, by decide +kernel⟩
  have h : ∀ g ∈ (jobOf .burning (some .active) 3).parts,
      ((asking 2 (withStaged allCut)).part? g).any (fun p => p.cut == .cut) = true := by decide +kernel
  obtain ⟨p, hp, hc⟩ := (Option.any_eq_true _ _).1 (h g hg)
  exact ⟨p, hp, by simpa using hc⟩

/-- Crane 0 has the plate of an ADMITTED job on its hook. -/
def hooked : State :=
  let s := putPlate 2 { mill (.hook 0) 3 with job := some ⟨0, 0⟩, leg := some ⟨0, 0⟩ } fresh0
  { s with
    beds := hall.beds
    jobs := s.jobs.set 0 ⟨0, some { jobOf .admitted (some .active) 0 with fetchBatch := some ⟨0, 0⟩ }⟩
    batches := s.batches.set 0 ⟨0, some ⟨.job ⟨0, 0⟩, [⟨0, 0⟩], .committed, some 0⟩⟩
    commitCounter := 1
    legs := s.legs.set 0 ⟨0, some { legOf .fetch ⟨0, 0⟩ .lifted with
      crane := some 0, source := some (.slot 10), target := some (.bed 0 0), expected := some 63368 }⟩
    cranes := s.cranes.set 0 ⟨.loaded, some ⟨0, 0⟩, some 840, some ⟨440, 900⟩, false⟩ }

/-- The fetch of `hooked`, LIFTED for bed 0 of table 0. -/
def fetchLifted : Leg :=
  { legOf .fetch ⟨0, 0⟩ .lifted with
    crane := some 0, source := some (.slot 10), target := some (.bed 0 0), expected := some 63368 }

/-- The FETCH is ASSIGNED to crane 0, its plate on another table's bed; part 1 is in the window. -/
def fetchAssigned : State :=
  { putPlate 2 { mill (.bed 1 0) 3 with job := some ⟨0, 0⟩, leg := some ⟨0, 0⟩ } hooked with
    legs := hooked.legs.set 0 ⟨0, some { fetchLifted with state := .assigned, target := some (.slot 30) }⟩
    slots := hooked.slots.set 30 ⟨[], [⟨5, 0⟩, ⟨0, 0⟩], false⟩
    windows := hall.windows.set 0 ⟨[⟨1, 0⟩], none⟩
    cranes := hooked.cranes.set 0 ⟨.assigned, some ⟨0, 0⟩, some 840, some ⟨440, 900⟩, false⟩ }

/-- The TRANSFER_OUT ahead of a FETCH, about to be set on the cart. -/
def ferryLeg : Leg := { fetchLifted with kind := .transferOut, destination := .cart, target := some .cart }
def ferrying : State :=
  { hooked with
    cart := ⟨[], some .a, [⟨0, 0⟩]⟩
    legs := (hooked.legs.set 0 ⟨0, some ferryLeg⟩).set 1 ⟨0, some { legOf .fetch ⟨0, 0⟩ .queued with position := 1 }⟩
    batches := hooked.batches.set 0 ⟨0, some ⟨.job ⟨0, 0⟩, [⟨0, 0⟩, ⟨1, 0⟩], .committed, some 0⟩⟩ }

/-- A carrying leg on the hook goes on and the FETCH behind it is CANCELLED; an ASSIGNED one is CANCELLED and its
crane freed (R93). -/
theorem test_abort_on_the_hook :
    took (exec (.abortJob 1#8 (.fields ⟨0, 0⟩)) (asking 1 ferrying)) (fun t =>
      (t.job? ⟨0, 0⟩).any (fun j => j.state == .ended && j.verdict == some .aborted)
        && (t.batch? ⟨1, 0⟩).any (fun b => b.state == .opened)
        && shapeOf t ⟨2, 0⟩ == some (.ret, .a, some ⟨2, 0⟩, .choose, 1, .queued, ⟨1, 0⟩, 0)
        && t.leg? ⟨0, 0⟩ == some { ferryLeg with ending := true }
        && (t.leg? ⟨1, 0⟩).any (fun l => l.state == .cancelled)
        && (t.batch? ⟨0, 0⟩).any (fun b => b.state == .committed)
        && (t.plate? ⟨2, 0⟩).any (fun r => r.job == none && r.leg == some ⟨0, 0⟩)) = true
      ∧ took (exec (.abortJob 1#8 (.fields ⟨0, 0⟩)) (asking 1 fetchAssigned)) (fun t =>
        (t.leg? ⟨0, 0⟩).any (fun l => l.state == .cancelled && l.crane == none)
          && (t.batch? ⟨0, 0⟩).any (fun b => b.state == .cancelled)
          && t.crane 0 == ⟨.idle, none, some 840, some ⟨780, 900⟩, false⟩ && (t.slot 30).incoming == [⟨5, 0⟩]
          && (t.plate? ⟨2, 0⟩).any (fun r => r.leg == none && r.job == none)
          && t.part? ⟨1, 0⟩ == none && t.flags == fetchAssigned.flags) = true := by decide +kernel

/-- A LOADED job with another STAGED beside it, and ADMITTED ones whose plate is on a hook, with a FETCH waiting behind
it, and whose FETCH is ASSIGNED. -/
theorem witness_AbortBeforeThePierce :
    (Asks reqAbortJob (asking 1 (withStaged fresh0)) 1 boss ∧ Asks reqAbortJob (asking 1 hooked) 1 boss)
      ∧ (∀ s ∈ [asking 1 (withStaged fresh0), asking 1 hooked], 1 ≤ s.freeLegs ∧ s.hasFreeBatch = true)
      ∧ ((asking 1 (withStaged fresh0)).job? ⟨0, 0⟩ = some (jobOf .loaded (some .active) 0)
        ∧ ((asking 1 (withStaged fresh0)).plate? ⟨2, 0⟩).any (fun r =>
            (r.st.location == .bed 0 0 || r.st.location == .cart) && !r.st.doubtful) = true
        ∧ (asking 1 (withStaged fresh0)).batchLegs (jobOf .loaded (some .active) 0).fetchBatch = []
        ∧ ((asking 1 (withStaged fresh0)).bedJob 0 1).any (fun e => e.2.role == some .staged) = true
        ∧ (asking 1 (withStaged fresh0)).leg? ⟨0, 0⟩ = some stagedFetch)
      ∧ (((asking 1 hooked).job? ⟨0, 0⟩).any (fun j => j.state == .admitted) = true
        ∧ ((asking 1 hooked).batchLegs (some ⟨0, 0⟩)).any (fun g => ((asking 1 hooked).leg? g).any fun l =>
            (l.kind == .fetch || l.kind == .transferOut) && (l.state == .lifted || l.state == .check)) = true)
      ∧ (Asks reqAbortJob (asking 1 ferrying) 1 boss ∧ Asks reqAbortJob (asking 1 fetchAssigned) 1 boss)
      ∧ (∀ s ∈ [asking 1 ferrying, asking 1 fetchAssigned], (s.job? ⟨0, 0⟩).any (fun j =>
            j.state == .admitted && j.fetchBatch == some ⟨0, 0⟩) = true
        ∧ (s.batch? ⟨0, 0⟩).any (fun x => x.state == .committed
          && x.legs.all fun g => (s.leg? g).any fun l => l.batch == ⟨0, 0⟩) = true)
      ∧ ((asking 1 ferrying).leg? ⟨0, 0⟩ = some ferryLeg ∧ ferryLeg.state.onHook = true
        ∧ ((asking 1 ferrying).leg? ⟨1, 0⟩).any (fun l => l.state == .queued && l.crane == none) = true)
      ∧ (asking 1 fetchAssigned).batch? ⟨0, 0⟩ = some ⟨.job ⟨0, 0⟩, [⟨0, 0⟩], .committed, some 0⟩
      ∧ ((asking 1 fetchAssigned).leg? ⟨0, 0⟩).any (fun l => l.state == .assigned && l.crane == some 0
        && l.plate == some ⟨2, 0⟩) = true :=
  ⟨⟨asks_of, asks_of⟩, by decide +kernel, by decide +kernel, by decide +kernel, ⟨asks_of, asks_of⟩, by decide +kernel⟩

/-- Bed 0 of an ENDED job is bare but for its skeleton; part 0 is on pallet 3, part 1 SCRAPPED. -/
def leftover : State :=
  { table0 (jobOf .ended none 3) { partOf 0 .marked .cut with placement := .pallet 3 } (partOf 1 .failed .scrapped)
      { partOf 2 .failed .cut with placement := .pallet 3 } with
    beds := hall.beds.set 0 ⟨[], true⟩
    pallets := hall.pallets.set 3 [⟨0, 0⟩, ⟨2, 0⟩] }

/-- A LOADED and a BURNING job of the station's table, a job of another table, and a part of each cut state. -/
theorem witness_TorchRequests :
    (Asks reqStartJob (asking 2 fresh0) 2 torch
        ∧ (asking 2 fresh0).job? ⟨0, 0⟩ = some (jobOf .loaded (some .active) 0) ∧ 0 / 2 = torch.unit.getD 0)
      ∧ (Asks reqPauseJob (asking 2 burning) 2 torch ∧ Asks reqResumeJob (asking 2 burning) 2 torch
        ∧ (asking 2 burning).job? ⟨0, 0⟩ = some (jobOf .burning (some .active) 1)
        ∧ PauseCause.ofNum 2 = some .operator ∧ PauseCause.ofNum 3 = none)
      ∧ (¬∃ j, (asking 2 burning).job? ⟨2, 0⟩ = some j ∧ 2 / 2 = torch.unit.getD 0)
      ∧ ((∀ s ∈ [burning, leftover], Asks reqPartCut (asking 2 s) 2 torch)
        ∧ (jobOf .burning (some .active) 1).parts.length ≤ 3
        ∧ (jobOf .burning (some .active) 1).parts[2]? = some ⟨2, 0⟩
        ∧ (asking 2 burning).part? ⟨2, 0⟩ = some (partOf 2 .planned .uncut) ∧ (partOf 2 .planned .uncut).job = ⟨0, 0⟩
        ∧ (asking 2 burning).part? ⟨0, 0⟩ = some (partOf 0 .marked .cut)
        ∧ (asking 2 { burning with parts := leftover.parts }).part? ⟨1, 0⟩ = some (partOf 1 .failed .scrapped)
        ∧ (asking 2 leftover).job? ⟨0, 0⟩ = some (jobOf .ended none 3)) := by
  refine ⟨⟨asks_of, by decide +kernel⟩, ⟨asks_of, asks_of, by decide +kernel⟩,
    fun h => by obtain ⟨_, _, h⟩ := h; revert h; decide, fun s hs => asks_of ?_, by decide +kernel⟩
  revert s
  decide +kernel

theorem test_clear_bed :
    took (exec (.clearBed 1#8 (.fields ⟨0, 0⟩)) (asking 1 leftover)) (fun t =>
      t.bed 0 0 == ⟨[], false⟩ && (t.job? ⟨0, 0⟩).any (fun j => j.state == .cleared)
        && t.part? ⟨1, 0⟩ == none && (t.part? ⟨0, 0⟩).isSome) = true := by decide +kernel

theorem witness_ClearBedClears :
    Asks reqClearBed (asking 1 leftover) 1 boss ∧ 0 ≤ 7 ∧ 0 ≤ 1
      ∧ (asking 1 leftover).bedJob 0 0 = some (⟨0, 0⟩, jobOf .ended none 3)
      ∧ (jobOf .ended none 3).clearBatch = none ∧ ((asking 1 leftover).bed 0 0).plates = []
      ∧ ∀ g ∈ (jobOf .ended none 3).parts, ∀ p, (asking 1 leftover).part? g = some p →
          ¬(p.cut = .cut ∧ p.placement = .onBed) := by
  refine ⟨asks_of, by decide, by decide, by decide +kernel, rfl, by decide +kernel, ?_⟩
  intro g _ p hp
  have h := find_of_poolAll (t := (asking 1 leftover).parts)
    (p := fun _ p => !(p.cut == .cut && p.placement == .onBed)) (by decide +kernel) g p hp
  simpa [imp_iff_not_or] using h

/-! ## Parts, marks and pallets (chapter 6) -/

/-- Four parts in the window of table 0 (step 5 of the worked example). -/
def fullWindow : State :=
  { fresh0 with windows := hall.windows.set 0 ⟨[⟨9, 0⟩, ⟨10, 0⟩, ⟨11, 0⟩, ⟨12, 0⟩], none⟩ }

theorem test_next_mark :
    answered (exec (.nextMark 1#8 (.fields ())) (asking 3 fresh0))
      = some (.done, [.handle ⟨0, 0⟩, .num 1 0, .text [0x48#8], .text [0x42#8], .num 4 101,
          .text [0x41#8, 0x31#8], .num 1 12, .text [0x47#8, 0x31#8, 0x32#8], .num 2 180]) := by decide +kernel
theorem test_next_mark_window_full :
    codeOf (exec (.nextMark 1#8 (.fields ())) (asking 3 fullWindow)) = some .full
      ∧ codeOf (exec (.nextMark 1#8 (.fields ())) (asking 3 allCut)) = some .noResult := by decide +kernel

theorem witness_NextMarkIssues :
    (Asks reqNextMark (asking 3 fresh0) 3 marker
        ∧ (asking 3 fresh0).bedJob 0 0 = some (⟨0, 0⟩, jobOf .loaded (some .active) 0)
        ∧ (asking 3 fresh0).bedJob 0 1 = none
        ∧ (jobOf .loaded (some .active) 0).parts[0]? = some ⟨0, 0⟩
        ∧ (asking 3 fresh0).part? ⟨0, 0⟩ = some (partOf 0 .planned .uncut)
        ∧ ((asking 3 fresh0).window 0).parts.length < 4)
      ∧ (Asks reqNextMark (asking 3 fullWindow) 3 marker ∧ 4 ≤ ((asking 3 fullWindow).window 0).parts.length)
      ∧ (Asks reqNextMark (asking 3 hall) 3 marker ∧ ∀ b ≤ 1, (asking 3 hall).bedJob 0 b = none) :=
  ⟨⟨asks_of, by decide +kernel⟩,
    ⟨asks_of, by decide +kernel⟩, asks_of, by decide +kernel⟩

theorem test_mark_made :
    answered (exec (.markMade 1#8 (.fields ⟨1, 0⟩)) (asking 3 burning)) = some (.done, [.num 1 0])
      ∧ answered (exec (.markMade 1#8 (.fields ⟨0, 0⟩)) (asking 3 burning)) = some (.done, [])
      ∧ codeOf (exec (.markFailed 1#8 (.fields ⟨0, 0⟩)) (asking 3 burning)) = some .wrongState := by decide +kernel
/-- Step 11 of the worked example: the failed part is already cut. -/
theorem test_mark_failed :
    took (exec (.markFailed 1#8 (.fields ⟨1, 0⟩)) (asking 3 (putPart 1 (partOf 1 .issued .cut) burning))) (fun t =>
      t.window 0 == ⟨[], some ⟨⟨1, 0⟩, .failed⟩⟩ && flagIn t.flags .unmarkedCut) = true := by decide +kernel
theorem test_manual_mark :
    took (exec (.confirmManualMark 1#8 (.fields ⟨2, 0⟩)) (asking 6 burning)) (fun t =>
      (t.part? ⟨2, 0⟩).any (fun p => p.mark == .marked && p.manual)) = true := by decide +kernel
theorem test_manual_mark_issued :
    codeOf (exec (.confirmManualMark 1#8 (.fields ⟨1, 0⟩)) (asking 6 burning)) = some .wrongState := by
  decide +kernel

theorem witness_MarksConfirmed :
    (Asks reqMarkMade (asking 3 burning) 3 marker ∧ Asks reqMarkFailed (asking 3 burning) 3 marker
        ∧ marker.unit.getD 0 ≤ 7 ∧ (asking 3 burning).part? ⟨9, 0⟩ = none
        ∧ (asking 3 burning).part? ⟨1, 0⟩ = some (partOf 1 .issued .uncut)
        ∧ ((asking 3 burning).window 0).parts = ⟨1, 0⟩ :: []
        ∧ (asking 3 burning).part? ⟨0, 0⟩ = some (partOf 0 .marked .cut)
        ∧ ((asking 3 burning).window 0).parts.head? ≠ some ⟨0, 0⟩
        ∧ ((asking 3 burning).window 0).last = some ⟨⟨0, 0⟩, .made⟩
        ∧ ((asking 3 burning).window 0).last ≠ some ⟨⟨0, 0⟩, .failed⟩)
      ∧ (Asks reqConfirmManualMark (asking 6 burning) 6 desk
        ∧ (asking 6 burning).part? ⟨2, 0⟩ = some (partOf 2 .planned .uncut)
        ∧ Asks reqConfirmManualMark (asking 6 leftover) 6 desk
        ∧ (asking 6 leftover).part? ⟨1, 0⟩ = some (partOf 1 .failed .scrapped)) :=
  ⟨⟨asks_of, asks_of, by decide +kernel⟩,
    asks_of, by decide +kernel, asks_of, by decide +kernel⟩

theorem test_scrap_part :
    took (exec (.scrapPart 1#8 (.fields ⟨0, 0⟩)) (asking 1 leftover)) (fun t =>
      (t.part? ⟨0, 0⟩).any (fun p => p.cut == .scrapped && p.placement == .nowhere)
        && t.pallet 3 == [⟨2, 0⟩]) = true := by decide +kernel
theorem test_scrap_part_uncut :
    took (exec (.scrapPart 1#8 (.fields ⟨1, 0⟩)) (asking 1 burning)) (fun t =>
      (t.job? ⟨0, 0⟩).any (fun j => j.resume == 2)) = true := by decide +kernel

theorem witness_ScrapPartScraps :
    Asks reqScrapPart (asking 1 leftover) 1 boss ∧ (asking 1 leftover).part? ⟨9, 0⟩ = none
      ∧ (asking 1 leftover).part? ⟨1, 0⟩ = some (partOf 1 .failed .scrapped)
      ∧ (asking 1 leftover).part? ⟨0, 0⟩ = some { partOf 0 .marked .cut with placement := .pallet 3 }
      ∧ (asking 1 leftover).job? ⟨0, 0⟩ = some (jobOf .ended none 3) :=
  ⟨asks_of, by decide +kernel⟩

/-- An ENDED job with part 0 CUT and ON_BED; pallet 15 holds `n` parts. -/
def sorting (n : Nat) : State :=
  { table0 (jobOf .ended none 3) (partOf 0 .planned .cut) (partOf 1 .failed .scrapped) (partOf 2 .marked .cut) with
    pallets := hall.pallets.set 15 ((List.range n).map fun i => ⟨100 + i, 0⟩) }

theorem test_sort :
    answered (exec (.sortPart 1#8 (.fields ⟨⟨0, 0⟩, 15⟩)) (asking 6 (sorting 199))) = some (.done, [.num 1 200])
      ∧ codeOf (exec (.sortPart 1#8 (.fields ⟨⟨0, 0⟩, 15⟩)) (asking 6 (sorting 200))) = some .full
      ∧ codeOf (exec (.sortPart 1#8 (.fields ⟨⟨0, 0⟩, 16⟩)) (asking 6 (sorting 0))) = some .badRequest := by
  decide +kernel
theorem test_sort_refused :
    codeOf (exec (.sortPart 1#8 (.fields ⟨⟨1, 0⟩, 15⟩)) (asking 6 (sorting 0))) = some .wrongState
      ∧ codeOf (exec (.sortPart 1#8 (.fields ⟨⟨0, 0⟩, 15⟩)) (asking 6 burning)) = some .wrongState := by
  decide +kernel

theorem witness_SortPartSorts :
    Asks reqSortPart (asking 6 (sorting 199)) 6 desk ∧ ((asking 6 (sorting 199)).pallet 15).length < 200
      ∧ Asks reqSortPart (asking 6 (sorting 200)) 6 desk ∧ 200 ≤ ((asking 6 (sorting 200)).pallet 15).length
      ∧ (asking 6 (sorting 199)).part? ⟨0, 0⟩ = some (partOf 0 .planned .cut)
      ∧ (partOf 0 .planned .cut).cut = .cut ∧ (partOf 0 .planned .cut).placement = .onBed
      ∧ (asking 6 (sorting 199)).job? ⟨0, 0⟩ = some (jobOf .ended none 3)
      ∧ (asking 6 (sorting 199)).part? ⟨1, 0⟩ = some (partOf 1 .failed .scrapped)
      ∧ (asking 6 (sorting 199)).part? ⟨9, 0⟩ = none :=
  ⟨asks_of, by decide +kernel, asks_of, by decide +kernel⟩

theorem test_dispatch_unmarked :
    answered (exec (.dispatchPallet 1#8 (.fields 3)) (asking 6 leftover))
      = some (.wrongState, [.num 1 1, .num 1 1, .handle ⟨2, 0⟩]) := by decide +kernel
theorem test_dispatch :
    took (exec (.dispatchPallet 1#8 (.fields 3)) (asking 6 (putPart 2 (partOf 2 .marked .cut) leftover))) (fun t =>
      t.pallet 3 == [] && t.parts.get? 0 == some ⟨1, none⟩ && t.parts.get? 2 == some ⟨1, none⟩) = true := by
  decide +kernel

theorem witness_DispatchPalletRetires :
    Asks reqDispatchPallet (asking 6 leftover) 6 desk ∧ 3 ≤ 15 ∧ 15 < 16
      ∧ ((asking 6 leftover).pallet 3).filter (fun g => ((asking 6 leftover).part? g).any fun p =>
          p.mark != .marked) ≠ []
      ∧ Asks reqDispatchPallet (asking 6 (putPart 2 (partOf 2 .marked .cut) leftover)) 6 desk
      ∧ ((asking 6 (putPart 2 (partOf 2 .marked .cut) leftover)).pallet 3).filter (fun g =>
          ((asking 6 (putPart 2 (partOf 2 .marked .cut) leftover)).part? g).any fun p => p.mark != .marked) = [] :=
  ⟨asks_of, by decide, by decide, by decide +kernel, asks_of,
    by decide +kernel⟩

/-! ## Legs and runways (chapters 7 and 8) -/

/-- The claims of the other cranes of a runway agree with a claim, as a check. -/
def apartB (u s : State) (c : Nat) (q : Claim) : Bool :=
  (List.range 6).all fun d =>
    d == c || !u.inService d || !((s.craneCfg d).runway == (s.craneCfg c).runway)
      || match (s.crane d).claim with
        | none => true
        | some o => if (s.craneCfg d).order < (s.craneCfg c).order then o.hi < q.lo else q.hi < o.lo

theorem apart_of {u s : State} {c : Nat} {q : Claim} (h : apartB u s c q = true := by decide +kernel) :
    ∀ d ≤ 5, d ≠ c → u.inService d = true → (s.craneCfg d).runway = (s.craneCfg c).runway →
      ∀ o, (s.crane d).claim = some o →
        if (s.craneCfg d).order < (s.craneCfg c).order then o.hi < q.lo else q.hi < o.lo := by
  intro d hd hne hs hr o ho
  have h' := (List.all_eq_true.1 h) d (List.mem_range.2 (by omega))
  simp only [hs, hr, ho, beq_self_eq_true, Bool.not_true, Bool.or_false, Bool.false_or,
    beq_eq_false_iff_ne.2 hne] at h'
  split <;> rename_i hlt <;> simp only [hlt, if_true, if_false, decide_eq_true_eq] at h' <;> exact h'

/-- A MANUAL leg of station 1's batch `b`, for a plate that lies in a slot of bay A. -/
def manualLeg (b p : Nat) (dest : Place) (priority : Nat) : Leg :=
  { legOf .manual ⟨b, 0⟩ .queued with plate := some ⟨p, 0⟩, destination := dest, priority := priority }

/-- Runway A of the worked example of chapter 8: slots 10 to 13 at 900, 300, 1000 and 700; leg X (0) for plate 0
from 900 to 300, leg Y (1) for plate 1 from 1000 to 700; crane 0 at 400, crane 1 at 1200. -/
def runwayA : State :=
  let s := putPlate 0 (mill (.slot 10 0) 1) (putPlate 1 (mill (.slot 12 0) 2) hall)
  let at' (k p : Nat) (t : Table SlotCfg 96) : Table SlotCfg 96 :=
    t.set k { SlotCfg.factory k with position := p }
  { s with
    slots := (s.slots.set 10 ⟨[⟨0, 0⟩], [], false⟩).set 12 ⟨[⟨1, 0⟩], [], false⟩
    hall := { s.hall with slots := at' 10 900 (at' 11 300 (at' 12 1000 (at' 13 700 s.hall.slots))) }
    legs := (s.legs.set 0 ⟨0, some (manualLeg 0 0 (.slot 11) 1)⟩).set 1 ⟨0, some (manualLeg 1 1 (.slot 13) 2)⟩
    batches := (s.batches.set 0 ⟨0, some ⟨.station 1, [⟨0, 0⟩], .committed, some 0⟩⟩).set 1
      ⟨0, some ⟨.station 1, [⟨1, 0⟩], .committed, some 1⟩⟩
    commitCounter := 2
    cranes := (s.cranes.set 0 ⟨.idle, none, some 400, some ⟨340, 460⟩, false⟩).set 1
      ⟨.idle, none, some 1200, some ⟨1140, 1260⟩, false⟩ }

/-- Crane 1 carries Y, and X has been passed over `n` times. -/
def skipping (n : Nat) : State :=
  { runwayA with
    legs := (runwayA.legs.set 0 ⟨0, some { manualLeg 0 0 (.slot 11) 1 with skips := n }⟩).set 1
      ⟨0, some { manualLeg 1 1 (.slot 13) 2 with
        state := .lifted, crane := some 1, source := some (.slot 12), target := some (.slot 13)
        expected := some 63368 }⟩
    plates := runwayA.plates.set 1 ⟨0, some { mill (.hook 1) 2 with leg := some ⟨1, 0⟩ }⟩
    slots := (runwayA.slots.set 12 ⟨[], [], false⟩).set 13 ⟨[], [⟨1, 0⟩], false⟩
    cranes := runwayA.cranes.set 1 ⟨.loaded, some ⟨1, 0⟩, some 1000, some ⟨640, 1260⟩, false⟩ }

theorem test_next_leg_takes_Y :
    took (exec (.nextLeg 40#8 (.fields ())) (asking 7 runwayA)) (fun t =>
      t.crane 1 == ⟨.assigned, some ⟨1, 0⟩, some 1200, some ⟨640, 1260⟩, false⟩
        && (t.slot 13).incoming == [⟨1, 0⟩]
        && (t.leg? ⟨1, 0⟩).any (fun l => l.expected == some 63368)
        && (t.plate? ⟨1, 0⟩).any (fun r => r.use == .moving ⟨1, 0⟩)) = true := by decide +kernel
theorem test_next_leg_parks :
    answered (exec (.nextLeg 40#8 (.fields ())) (asking 4 (skipping 7))) = some (.park, [.num 2 179])
      ∧ took (exec (.nextLeg 40#8 (.fields ())) (asking 4 (skipping 7))) (fun t =>
          (t.leg? ⟨0, 0⟩).any (fun l => l.skips == 8 && l.starving) && flagIn t.flags .legStarving) = true
      ∧ answered (exec (.nextLeg 40#8 (.fields ())) (asking 4 (skipping 6))) = some (.noWork, []) := by
  decide +kernel

/-- Runway A with slots 10, 12 and 13 STOCK, at 900, 1000 and 700, and every other REMNANT at 1640. -/
def stockAt (room12 room13 : Nat) : State :=
  { runwayA with hall := { runwayA.hall with slots :=
      (((Table.replicate _ { SlotCfg.factory 20 with purpose := .remnant }).set 10 (runwayA.slotCfg 10)).set 12
        { runwayA.slotCfg 12 with capacity := room12 }).set 13 { runwayA.slotCfg 13 with capacity := room13 } } }

/-- The leg of plate 0, a MILL plate at 900: a slot to be chosen. -/
def toChoose : Leg := manualLeg 0 0 .choose 1

/-- The nearest STOCK slot with room, else the next, else the lowest REMNANT one of the same distance (R45, R53). -/
theorem test_choice :
    [stockAt 2 1, stockAt 1 1, stockAt 1 0].map (fun s => s.choiceFor toChoose)
      = [some (.slot 12), some (.slot 13), some (.slot 0)] := by decide +kernel

theorem witness_RoomAndDestinationChosen :
    ∀ s ∈ [stockAt 2 1, stockAt 1 1, stockAt 1 0],
      toChoose.plate = some ⟨0, 0⟩ ∧ s.plate? ⟨0, 0⟩ = some (mill (.slot 10 0) 1) ∧ toChoose.sourceBed = none
        ∧ (mill (.slot 10 0) 1).ident.origin = .mill ∧ (mill (.slot 10 0) 1).st.doubtful = false
        ∧ (s.slotCfg 12).purpose = .stock ∧ (s.slotCfg 0).purpose = .remnant ∧ (s.slotCfg 0).bay = toChoose.bay
        ∧ s.hasRoom 0 (some 50868) = true ∧ s.hall.tables.get? 7 = some (TableCfg.factory 7) := by decide +kernel

/-- Leg X STARVING, crane 1 idle: X comes first whatever its priority, and its needed span runs from 300 to 900. -/
def hungry : State :=
  { runwayA with
    legs := runwayA.legs.set 0 ⟨0, some { manualLeg 0 0 (.slot 11) 0 with skips := 8, starving := true }⟩ }

theorem test_walk_order :
    (hungry.walk .a).map (fun e => e.1) = [⟨0, 0⟩, ⟨1, 0⟩] ∧ hungry.spans .a = [(⟨0, 0⟩, 300, 900)]
      ∧ (runwayA.walk .a).map (fun e => e.1) = [⟨1, 0⟩, ⟨0, 0⟩] ∧ runwayA.spans .a = []
      ∧ (hungry.walk .b) = []
      ∧ ({ hungry with plates := hall.plates } : State).walk .a = [] := by decide +kernel

theorem witness_WalkTakesEligibleLegs :
    (∀ e ∈ hungry.walk .a, e.2.priority ≤ 3) ∧ (hungry.walk .a).length = 2
      ∧ (hungry.walk .a).any (fun e => e.2.starving) = true := by decide +kernel

/-- The fifth test's neighbours: a hall where crane 1 bears too little, and one where its magnets need more. -/
def feeble : State :=
  { runwayA with
    legs := runwayA.legs.set 0 ⟨0, none⟩
    batches := runwayA.batches.set 0 ⟨0, none⟩
    hall := { runwayA.hall with cranes := runwayA.hall.cranes.set 1 { CraneCfg.factory 1 with swl := 63367 } } }

/-- The end of the worked example of chapter 8: crane 1 has the claim [240, 960], crane 0 stands at 179. -/
def westward : State :=
  { skipping 8 with
    cranes := (runwayA.cranes.set 0 ⟨.idle, none, some 179, some ⟨119, 239⟩, false⟩).set 1
      ⟨.loaded, some ⟨1, 0⟩, some 900, some ⟨240, 960⟩, false⟩ }

/-- Leg X's plate lies at the bottom of slot 10, under plates 2 to n + 1; crane 1 alone is in its way. -/
def buried (n : Nat) : State :=
  let s := (List.range n).foldl (fun s i => putPlate (i + 2) (mill (.slot 10 (i + 1)) (i + 10)) s) feeble
  { s with
    legs := feeble.legs.set 1 ⟨0, some (manualLeg 1 0 (.slot 13) 2)⟩
    slots := feeble.slots.set 10 ⟨⟨0, 0⟩ :: (List.range n).map (fun i => ⟨i + 2, 0⟩), [], false⟩
    hall := runwayA.hall }

/-- Dig expansion (R133): a DIG leg for the plate on top, ahead of the leg, is assigned. -/
theorem test_next_leg_digs :
    took (exec (.nextLeg 40#8 (.fields ())) (asking 7 (buried 1))) (fun t =>
      (t.batch? ⟨1, 0⟩).any (fun b => b.legs == [⟨0, 0⟩, ⟨1, 0⟩])
        && shapeOf t ⟨0, 0⟩ == some (.dig, .a, some ⟨2, 0⟩, .choose, 2, .assigned, ⟨1, 0⟩, 0)
        && (t.leg? ⟨1, 0⟩).any (fun l => l.state == .queued && l.position == 1)
        && (t.crane 1).leg == some ⟨0, 0⟩) = true := by decide +kernel
/-- Seven plates above fail the leg, and a HELD plate above blocks it (R133). -/
theorem test_next_leg_dig_refused :
    took (exec (.nextLeg 40#8 (.fields ())) (asking 7 (buried 7))) (fun t =>
      (t.leg? ⟨1, 0⟩).any (fun l => l.state == .failed && l.holdUp == some .tooDeep)
        && (t.batch? ⟨1, 0⟩).any (fun b => b.state == .cancelled)) = true
      ∧ took (exec (.nextLeg 40#8 (.fields ())) (asking 7 ((buried 1).modifyPlate ⟨2, 0⟩ fun r =>
          { r with st := { r.st with held := true } }))) (fun t =>
        (t.leg? ⟨1, 0⟩).any (fun l => l.state == .queued && l.holdUp == some .blocked && l.skips == 1)) = true := by
  decide +kernel

/-- A crane that is IDLE at a position, with every crane of its runway placed, as a check. -/
def walksB (s : State) (a c p : Nat) : Bool :=
  (s.crane c).state == .idle && !(s.crane c).stopped && (s.crane c).position == some p
    && (List.range 6).all fun d => !(s.heard a).inService d || (s.craneCfg d).runway != (s.craneCfg c).runway
      || (s.crane d).position.isSome

theorem walks_of {s : State} {a c p : Nat} (h : walksB s a c p = true := by decide +kernel) :
    (s.crane c).state = .idle ∧ (s.crane c).stopped = false ∧ (s.crane c).position = some p
      ∧ ∀ d ≤ 5, (s.heard a).inService d = true → (s.craneCfg d).runway = (s.craneCfg c).runway →
        (s.crane d).position ≠ none := by
  simp only [walksB, Bool.and_eq_true, beq_iff_eq, Bool.not_eq_true'] at h
  obtain ⟨⟨⟨h1, h2⟩, h3⟩, h4⟩ := h
  refine ⟨h1, h2, h3, fun d hd hs hr hp => ?_⟩
  have h' := (List.all_eq_true.1 h4) d (List.mem_range.2 (by omega))
  simp [hs, hr, hp] at h'

/-- The walk as a whole: a leg given at once, one dug out, one too deep, one passed over into STARVING with the crane
told to park, and one that no crane of the runway bears. -/
theorem witness_NextLegAssigns_walk :
    (∀ s ∈ [runwayA, buried 1, buried 7, feeble], Asks reqNextLeg (asking 7 s) 7 hoist1)
      ∧ Asks reqNextLeg (asking 4 (skipping 7)) 4 hoist
      ∧ (∀ s ∈ [runwayA, buried 1, buried 7, feeble], walksB (asking 7 s) 7 1 1200 = true)
      ∧ walksB (asking 4 (skipping 7)) 4 0 400 = true := by
  refine ⟨fun s hs => asks_of ?_, asks_of, by decide +kernel⟩
  revert s
  decide +kernel

/-- An OFFLINE and a LOADED crane, and an IDLE one with no eligible leg. -/
theorem witness_NextLegAssigns_without_leg :
    (Asks reqNextLeg (asking 4 hall) 4 hoist ∧ Asks reqNextLeg (asking 4 hooked) 4 hoist
        ∧ Asks reqNextLeg (asking 4 westward) 4 hoist)
      ∧ ((asking 4 hall).crane 0).state = .offline
      ∧ (((asking 4 hooked).crane 0).state = .loaded ∧ ((asking 4 hooked).crane 0).leg = some ⟨0, 0⟩) :=
  ⟨⟨asks_of, asks_of, asks_of⟩, by decide +kernel⟩

/-- Leg Y, which crane 1 takes; `mine` is the state once station 7 is heard. -/
def legY : Leg := manualLeg 1 1 (.slot 13) 2
def mine : State := (asking 7 runwayA).heard 7

theorem witness_NextLegAssigns_at_once :
    Asks reqNextLeg (asking 7 runwayA) 7 hoist1
      ∧ (∀ d ≤ 5, d ≠ 1 → mine.inService d = true →
          ((asking 7 runwayA).craneCfg d).runway = ((asking 7 runwayA).craneCfg 1).runway →
          ∀ o, ((asking 7 runwayA).crane d).claim = some o →
            if ((asking 7 runwayA).craneCfg d).order < ((asking 7 runwayA).craneCfg 1).order then
              o.hi < (⟨640, 1260⟩ : Claim).lo else (⟨640, 1260⟩ : Claim).hi < o.lo)
      ∧ mine.walk .a = [(⟨1, 0⟩, legY), (⟨0, 0⟩, manualLeg 0 0 (.slot 11) 1)]
      ∧ (asking 7 runwayA).leg? ⟨1, 0⟩ = some legY ∧ mine.above legY = [] ∧ mine.legSource legY = .slot 12
      ∧ mine.destinationFor legY = some (.slot 13) ∧ 12500 + mine.liftMass legY ≤ 150000
      ∧ 50 ≤ mine.liftThickness legY ∧ mine.spans .a = [] :=
  ⟨asks_of, apart_of, by decide +kernel⟩

theorem witness_NextLegAssigns_overload :
    Asks reqNextLeg (asking 7 feeble) 7 hoist1
      ∧ ((asking 7 feeble).heard 7).walk .a = [(⟨1, 0⟩, legY)]
      ∧ ((asking 7 feeble).heard 7).destinationFor legY = some (.slot 13)
      ∧ ((asking 7 feeble).craneCfg 1).swl
        < ((asking 7 feeble).craneCfg 1).tare + ((asking 7 feeble).heard 7).liftMass legY :=
  ⟨asks_of, by decide +kernel⟩

/-- Next Leg again for an ASSIGNED crane: the leg with its places, masses and load. -/
def assigned : State :=
  { runwayA with
    legs := runwayA.legs.set 1 ⟨0, some { manualLeg 1 1 (.slot 13) 2 with
      state := .assigned, crane := some 1, source := some (.slot 12), target := some (.slot 13)
      expected := some 63368 }⟩
    plates := runwayA.plates.set 1 ⟨0, some { mill (.slot 12 0) 2 with leg := some ⟨1, 0⟩ }⟩
    slots := runwayA.slots.set 13 ⟨[], [⟨1, 0⟩], false⟩
    cranes := runwayA.cranes.set 1 ⟨.assigned, some ⟨1, 0⟩, some 1000, some ⟨640, 1260⟩, false⟩ }

def assignedLeg : Leg :=
  { manualLeg 1 1 (.slot 13) 2 with
    state := .assigned, crane := some 1, source := some (.slot 12), target := some (.slot 13)
    expected := some 63368 }

theorem witness_NextLegAssigns_again :
    Asks reqNextLeg (asking 7 assigned) 7 hoist1 ∧ ((asking 7 assigned).crane 1).state = .assigned
      ∧ ((asking 7 assigned).crane 1).leg = some ⟨1, 0⟩ ∧ (asking 7 assigned).leg? ⟨1, 0⟩ = some assignedLeg
      ∧ assignedLeg.source = some (.slot 12) ∧ assignedLeg.target = some (.slot 13)
      ∧ assignedLeg.expected = some 63368 :=
  ⟨asks_of, by decide +kernel⟩

/-! ### Batches -/

/-- Station 1 with an OPEN batch of one leg for plate 0, which lies in slot 10. -/
def building (l : Leg) : State :=
  { asking 1 yard with
    legs := yard.legs.set 0 ⟨0, some l⟩
    batches := yard.batches.set 0 ⟨0, some ⟨.station 1, [⟨0, 0⟩], .opened, none⟩⟩ }

/-- Plate 1 to a chosen slot of bay A, and across to bay B. -/
def near : Leg := manualLeg 0 1 .choose 1
def far : Leg := { manualLeg 0 1 .choose 1 with bay := .b }

/-- The OPEN batch in entry 2, behind a COMMITTED one and a DONE one of generation 63. -/
def buildingHigh : State :=
  { building near with
    batches := ((yard.batches.set 0 ⟨0, some ⟨.station 2, [], .committed, some 0⟩⟩).set 1
      ⟨63, some ⟨.station 2, [], .done, some 0⟩⟩).set 2 ⟨0, some ⟨.station 1, [⟨0, 0⟩], .opened, none⟩⟩ }

theorem test_open_discards :
    took (exec (.openBatch 1#8 (.fields ())) (building near)) (fun t =>
      t.batch? ⟨0, 1⟩ == some ⟨.station 1, [], .opened, none⟩ && t.legs.get? 0 == some ⟨1, none⟩) = true
      ∧ took (exec (.openBatch 1#8 (.fields ())) buildingHigh) (fun t =>
        t.batch? ⟨1, 0⟩ == some ⟨.station 1, [], .opened, none⟩ && t.batches.get? 2 == some ⟨1, none⟩) = true := by
  decide +kernel
theorem test_add_leg :
    answered (exec (.addLeg 1#8 (.fields ⟨⟨0, 0⟩, 0, .slot 95, 3⟩)) (building near))
        = some (.done, [.handle ⟨1, 0⟩, .num 1 2]) := by
  decide +kernel
theorem test_commit :
    answered (exec (.commitBatch 1#8 (.fields ())) (building near))
      = some (.done, [.num 1 1, .handle ⟨0, 0⟩, .choice 7]) := by decide +kernel
theorem test_commit_across :
    took (exec (.commitBatch 1#8 (.fields ())) (building far)) (fun t =>
      shapeOf t ⟨0, 0⟩ == some (.transferOut, .a, some ⟨1, 0⟩, .cart, 1, .queued, ⟨0, 0⟩, 0)
        && shapeOf t ⟨1, 0⟩ == some (.transferIn, .b, some ⟨1, 0⟩, .choose, 1, .queued, ⟨0, 0⟩, 1)) = true := by
  decide +kernel

/-- Every batch entry holds a COMMITTED batch. -/
def noBatchLeft : State :=
  { asking 1 yard with batches := Table.replicate 24 ⟨0, some ⟨.station 2, [], .committed, some 0⟩⟩ }

theorem witness_OpenBatchOpens :
    (Asks reqOpenBatch (asking 1 hall) 1 boss ∧ (∀ hb b, (asking 1 hall).batch? hb = some b →
          ¬(b.state = .opened ∧ b.origin = .station 1))
        ∧ (asking 1 hall).batches.get? 0 = some ⟨0, none⟩)
      ∧ (Asks reqOpenBatch noBatchLeft 1 boss ∧ (∀ hb b, noBatchLeft.batch? hb = some b →
          ¬(b.state = .opened ∧ b.origin = .station 1))
        ∧ ∀ i e, noBatchLeft.batches.get? i = some e →
          ¬∀ b, e.record = some b → b.state ≠ .opened ∧ b.state ≠ .committed)
      ∧ (Asks reqOpenBatch (building near) 1 boss
        ∧ (building near).batch? ⟨0, 0⟩ = some ⟨.station 1, [⟨0, 0⟩], .opened, none⟩
        ∧ ∀ hc d, (building near).batch? hc = some d → d.state = .opened ∧ d.origin = .station 1 →
          hc = ⟨0, 0⟩)
      ∧ (Asks reqOpenBatch buildingHigh 1 boss
        ∧ buildingHigh.batch? ⟨2, 0⟩ = some ⟨.station 1, [⟨0, 0⟩], .opened, none⟩
        ∧ ∀ hc d, buildingHigh.batch? hc = some d → d.state = .opened ∧ d.origin = .station 1 → hc = ⟨2, 0⟩) := by
  refine ⟨⟨asks_of, fun hb b h => ?_, by decide +kernel⟩,
    ⟨asks_of, fun hb b h => ?_, fun i e h hs => ?_⟩,
    ⟨asks_of, by decide +kernel, fun hc d h _ => ?_⟩, asks_of, by decide +kernel, fun hc d h hd => ?_⟩
  · have h' := find_of_poolAll (t := (asking 1 hall).batches) (p := fun _ _ => false) (by decide +kernel) hb b h
    cases h'
  · have h' := find_of_poolAll (t := noBatchLeft.batches) (p := fun _ b => b.state == .committed)
      (by decide +kernel) hb b h
    rintro ⟨ho, _⟩
    rw [ho] at h'
    cases h'
  · have he : e = ⟨0, some ⟨.station 2, [], .committed, some 0⟩⟩ :=
      (List.eq_of_mem_replicate (List.mem_of_getElem? h))
    subst he
    exact (hs _ rfl).2 rfl
  · have h' := find_of_poolAll (t := (building near).batches) (p := fun g _ => g == ⟨0, 0⟩) (by decide +kernel)
      hc d h
    simpa using h'
  · have h' := find_of_poolAll (t := buildingHigh.batches) (p := fun g d => g == ⟨2, 0⟩ || d.state != .opened)
      (by decide +kernel) hc d h
    simpa [hd.1] using h'

theorem witness_AddLegAppends :
    Asks reqAddLeg (building near) 1 boss ∧ (∃ k, Place.slot 95 = .slot k ∧ k ≤ 95) ∧ 3 ≤ 3
      ∧ (building near).openBatchOf 1 = some ⟨0, 0⟩
      ∧ (building near).batch? ⟨0, 0⟩ = some ⟨.station 1, [⟨0, 0⟩], .opened, none⟩
      ∧ (building near).plate? ⟨0, 0⟩ = some (mill (.slot 10 0) 1)
      ∧ (mill (.slot 10 0) 1).st.disposition = .stock ∧ (mill (.slot 10 0) 1).job = none
      ∧ (∀ g l, (building near).leg? g = some l → l.state.unfinished = true → l.plate ≠ some ⟨0, 0⟩)
      ∧ [(⟨0, 0⟩ : Handle)].length < 8 ∧ 1 ≤ (building near).freeLegs := by
  refine ⟨asks_of, ⟨95, by decide +kernel⟩, by decide, by decide +kernel, by decide +kernel, by decide +kernel,
    rfl, rfl, fun g l h _ => ?_, by decide, by decide +kernel⟩
  have h' := find_of_poolAll (t := (building near).legs) (p := fun _ l => l.plate == some ⟨1, 0⟩) (by decide +kernel)
    g l h
  rw [beq_iff_eq.1 h']
  decide

theorem witness_CommitBatchCommits :
    ∀ l ∈ [near, far],
      Asks reqCommitBatch (building l) 1 boss ∧ (building l).openBatchOf 1 = some ⟨0, 0⟩
        ∧ (building l).batch? ⟨0, 0⟩ = some ⟨.station 1, [⟨0, 0⟩], .opened, none⟩
        ∧ (building l).leg? ⟨0, 0⟩ = some l ∧ l.batch = ⟨0, 0⟩ ∧ l.state = .queued
        ∧ l.plate = some ⟨1, 0⟩ ∧ (building l).plate? ⟨1, 0⟩ = some (mill (.slot 10 1) 2)
        ∧ l.destination = .choose ∧ ((building l).slotCfg 10).bay = .a
        ∧ (∀ c ∈ [0, 3], ((building l).craneCfg c).runway = (if c = 0 then .a else .b)
          ∧ ((building l).craneCfg c).tare + 50868 ≤ ((building l).craneCfg c).swl)
        ∧ 1 + (if l = far then 1 else 0) ≤ 14 ∧ (if l = far then 1 else 0) ≤ (building l).freeLegs
        ∧ [l].countP (fun l => ((building l).crossBay l).isSome) = if l = far then 1 else 0 := by
  intro l hl
  simp only [List.mem_cons, List.not_mem_nil, or_false] at hl
  rcases hl with rfl | rfl <;> exact ⟨asks_of, by decide +kernel⟩

/-! ### Lift and set-down -/

theorem test_lifted_agrees :
    took (exec (.lifted 41#8 (.fields ⟨⟨1, 0⟩, 67269⟩)) (asking 7 assigned)) (fun t =>
      (t.plate? ⟨1, 0⟩).any (fun r => r.st.location == .hook 1 && !r.st.massDoubt)
        && (t.crane 1).state == .loaded && (t.slot 12).stack == []) = true := by decide +kernel
theorem test_lifted_mismatch :
    took (exec (.lifted 41#8 (.fields ⟨⟨1, 0⟩, 68000⟩)) (asking 7 assigned)) (fun t =>
      (t.plate? ⟨1, 0⟩).any (fun r => r.st.location == .hook 1 && r.st.massDoubt)
        && (t.crane 1).state == .check && flagIn t.flags .loadMismatch
        && t.deferred.map (fun d => (d.code, d.fields))
          == [(.mismatch, [.num 4 68000, .num 4 63368, .num 4 3901])]) = true := by decide +kernel

/-- Crane 0 is ASSIGNED the skeleton of bed 0, table 0. -/
def skeletonLeg (state : LegState) : Leg :=
  { legOf .clearSkeleton ⟨0, 0⟩ state with
    plate := none, sourceBed := some (0, 0), skeletonMass := some 7204, skeletonThickness := some 180
    destination := .scrapBin, crane := some 0, source := some (.bed 0 0), target := some .scrapBin
    expected := some 19704 }

def skeletonOn (state : LegState) (crane : CraneState) (mark : Bool) : State :=
  { hall with
    beds := hall.beds.set 0 ⟨[], mark⟩
    legs := hall.legs.set 0 ⟨0, some (skeletonLeg state)⟩
    batches := hall.batches.set 0 ⟨0, some ⟨.station 1, [⟨0, 0⟩], .committed, some 0⟩⟩
    cranes := hall.cranes.set 0 ⟨crane, some ⟨0, 0⟩, some 500, some ⟨440, 4000⟩, false⟩ }

theorem witness_LiftedTakes :
    (Asks reqLifted (asking 7 assigned) 7 hoist1 ∧ (asking 7 assigned).leg? ⟨1, 0⟩ = some assignedLeg
        ∧ assignedLeg.crane = some 1 ∧ assignedLeg.state = .assigned ∧ assignedLeg.expected = some 63368
        ∧ (67269 ≤ 63368 + (63368 * 3 / 100 + 2000) ∧ 63368 ≤ 67269 + (63368 * 3 / 100 + 2000))
        ∧ ¬(67270 ≤ 63368 + (63368 * 3 / 100 + 2000))
        ∧ assignedLeg.plate = some ⟨1, 0⟩ ∧ assigned.pfw = false
        ∧ (asking 7 assigned).plate? ⟨1, 0⟩ = some { mill (.slot 12 0) 2 with leg := some ⟨1, 0⟩ }
        ∧ assignedLeg.source = some (.slot 12)
        ∧ ((asking 7 assigned).slot 12).stack = [] ++ [⟨1, 0⟩])
      ∧ (Asks reqLifted (asking 4 (skeletonOn .assigned .assigned true)) 4 hoist
        ∧ (asking 4 (skeletonOn .assigned .assigned true)).leg? ⟨0, 0⟩ = some (skeletonLeg .assigned)
        ∧ ((asking 4 (skeletonOn .assigned .assigned true)).bed 0 0).skeleton = true) :=
  ⟨⟨asks_of, by decide +kernel⟩,
    asks_of, by decide +kernel⟩

/-- Every read, with a record for each handle it may name and a handle that names none. -/
theorem witness_ReadsAnswerAndChangeNothing :
    (∀ r ∈ [reqReadStation, reqReadPlate, reqReadSlot, reqReadSearchQueue, reqReadTable, reqReadPart,
        reqReadMarkerWindow, reqReadPallet, reqReadJobParts, reqReadLeg, reqReadBatch, reqReadCrane, reqReadRunway,
        reqReadHallMap], Asks r (asking 6 hooked) 6 desk)
      ∧ (((asking 6 hooked).heard 6).station? 1 = some boss ∧ ((asking 6 hooked).heard 6).station? 32 = none)
      ∧ (((asking 6 hooked).plate? ⟨2, 0⟩).isSome = true ∧ (asking 6 hooked).plate? ⟨2, 1⟩ = none)
      ∧ (asking 6 hooked).tables.get? 7 = some ⟨0, none, none⟩
      ∧ ((asking 6 hooked).part? ⟨0, 0⟩ = some (partOf 0 .planned .uncut) ∧ (asking 6 hooked).part? ⟨9, 0⟩ = none)
      ∧ (((asking 6 hooked).job? ⟨0, 0⟩).isSome = true ∧ (asking 6 hooked).job? ⟨1, 0⟩ = none)
      ∧ ((asking 6 hooked).leg? ⟨0, 0⟩ = some fetchLifted ∧ (asking 6 hooked).leg? ⟨1, 0⟩ = none)
      ∧ (((asking 6 hooked).batch? ⟨0, 0⟩).isSome = true ∧ (asking 6 hooked).batch? ⟨1, 0⟩ = none) :=
  ⟨asks_all, by decide +kernel⟩

theorem test_set_down :
    took (exec (.setDown 42#8 (.fields ⟨⟨0, 0⟩, .bed 0 0⟩)) (asking 4 hooked)) (fun t =>
      (t.bed 0 0).plates == [⟨2, 0⟩] && (t.job? ⟨0, 0⟩).any (fun j => j.state == .loaded)
        && (t.batch? ⟨0, 0⟩).any (fun b => b.state == .done)
        && t.crane 0 == ⟨.idle, none, some 840, some ⟨780, 900⟩, false⟩) = true := by decide +kernel
theorem test_set_down_elsewhere :
    codeOf (exec (.setDown 42#8 (.fields ⟨⟨0, 0⟩, .bed 0 1⟩)) (asking 4 hooked)) = some .wrongPlace
      ∧ codeOf (exec (.setDown 42#8 (.fields ⟨⟨0, 0⟩, .slot 48⟩)) (asking 4 hooked)) = some .wrongPlace
      ∧ codeOf (exec (.setDown 42#8 (.fields ⟨⟨0, 0⟩, .slot 96⟩)) (asking 4 hooked)) = some .badRequest := by
  decide +kernel

/-- Crane 1 carries plate 1 to slot 13, which Set Slot has since given to bay B (R48). -/
def rebayed : State :=
  let s := skipping 0
  { s with hall := { s.hall with slots := s.hall.slots.set 13 { SlotCfg.factory 13 with bay := .b } } }

theorem test_set_down_rebayed :
    codeOf (exec (.setDown 42#8 (.fields ⟨⟨1, 0⟩, .slot 13⟩)) (asking 7 rebayed)) = some .wrongPlace
      ∧ took (exec (.setDown 42#8 (.fields ⟨⟨1, 0⟩, .slot 13⟩)) (asking 7 (skipping 0))) (fun t =>
        (t.slot 13).stack == [⟨1, 0⟩] && (t.leg? ⟨1, 0⟩).any (fun l => l.state == .done)) = true := by decide +kernel

/-- Crane 1's load on its way to slot 13. -/
def carriedLeg : Leg := { assignedLeg with state := .lifted }

/-- A bare bed and a slot of the bay, which take the load; a marked bed and a slot of the other bay, which do not; and
the scrap bin. -/
theorem witness_SetDownCompletes :
    (Asks reqSetDown (asking 4 hooked) 4 hoist
        ∧ Asks reqSetDown (asking 4 { hooked with beds := hall.beds.set 0 ⟨[], true⟩ }) 4 hoist
        ∧ Asks reqSetDown (asking 4 (skeletonOn .lifted .loaded false)) 4 hoist)
      ∧ (∀ s ∈ [asking 7 (skipping 0), asking 7 rebayed], Asks reqSetDown s 7 hoist1)
      ∧ (InRange (.bed 0 0) ∧ InRange (.slot 13) ∧ InRange .scrapBin)
      ∧ ((asking 4 hooked).leg? ⟨0, 0⟩ = some fetchLifted ∧ hooked.pfw = false
        ∧ (asking 4 hooked).plate? ⟨2, 0⟩ = some { mill (.hook 0) 3 with job := some ⟨0, 0⟩, leg := some ⟨0, 0⟩ }
        ∧ (asking 4 hooked).bed 0 0 = ⟨[], false⟩)
      ∧ (({ hooked with beds := hall.beds.set 0 ⟨[], true⟩ } : State).bed 0 0).skeleton = true
      ∧ (∀ s ∈ [asking 7 (skipping 0), asking 7 rebayed], s.leg? ⟨1, 0⟩ = some carriedLeg
        ∧ s.plate? ⟨1, 0⟩ = some { mill (.hook 1) 2 with leg := some ⟨1, 0⟩ })
      ∧ (carriedLeg.crane = some 1 ∧ carriedLeg.target = some (.slot 13)
        ∧ ((asking 7 (skipping 0)).slotCfg 13).bay = carriedLeg.bay
        ∧ ((asking 7 rebayed).slotCfg 13).bay ≠ carriedLeg.bay)
      ∧ (asking 4 (skeletonOn .lifted .loaded false)).leg? ⟨0, 0⟩ = some (skeletonLeg .lifted) := by
  refine ⟨⟨asks_of, asks_of, asks_of⟩, fun s hs => asks_of ?_, ⟨?_, ?_, trivial⟩, by decide +kernel⟩
  · revert s
    decide +kernel
  · exact ⟨by decide, by decide⟩
  · show 13 ≤ 95
    decide

/-- The clear batch of an ENDED job, its last leg the skeleton on crane 0's hook. -/
def clearing : State :=
  { skeletonOn .lifted .loaded false with
    jobs := hall.jobs.set 0 ⟨0, some { jobOf .ended none 3 with clearBatch := some ⟨0, 0⟩ }⟩
    batches := hall.batches.set 0 ⟨0, some ⟨.job ⟨0, 0⟩, [⟨0, 0⟩], .committed, some 0⟩⟩ }

/-- The aborted job of `hooked`: the fetch goes on, and a return batch waits OPEN. -/
def returning : State :=
  { hooked with
    jobs := hall.jobs.set 0 ⟨0, some { jobOf .ended none 0 with
      fetchBatch := some ⟨0, 0⟩, clearBatch := some ⟨1, 0⟩, verdict := some .aborted }⟩
    batches := hooked.batches.set 1 ⟨0, some ⟨.job ⟨0, 0⟩, [⟨1, 0⟩], .opened, none⟩⟩
    legs := hooked.legs.set 1 ⟨0, some { legOf .ret ⟨1, 0⟩ .queued with destination := .choose, priority := 1 }⟩ }

theorem test_return_batch_committed :
    took (exec (.setDown 42#8 (.fields ⟨⟨0, 0⟩, .bed 0 0⟩)) (asking 4 returning)) (fun t =>
      (t.batch? ⟨1, 0⟩).any (fun b => b.state == .committed && b.seq == some 1)
        && (t.job? ⟨0, 0⟩).any (fun j => j.state == .ended)) = true := by decide +kernel

/-- The same with the remnant's leg, ahead of it, CANCELLED. -/
def clearingLate : State :=
  { clearing with
    legs := clearing.legs.set 1 ⟨0, some (legOf .clearRemnant ⟨0, 0⟩ .cancelled)⟩
    batches := hall.batches.set 0 ⟨0, some ⟨.job ⟨0, 0⟩, [⟨1, 0⟩, ⟨0, 0⟩], .committed, some 0⟩⟩ }

/-- The clear batch of `clearing` has taken the entry and generation of the job's settled fetch batch, 64 generations
on: its last leg still makes the job CLEARED (R95). A batch with a CANCELLED leg is CANCELLED (R126). -/
theorem test_clear_batch_of_a_reused_handle :
    took (exec (.setDown 42#8 (.fields ⟨⟨0, 0⟩, .scrapBin⟩)) (asking 4 { clearing with
        jobs := hall.jobs.set 0 ⟨0, some { jobOf .ended none 3 with
          fetchBatch := some ⟨0, 0⟩, clearBatch := some ⟨0, 0⟩ }⟩ })) (fun t =>
      (t.job? ⟨0, 0⟩).any (fun j => j.state == .cleared)) = true
      ∧ took (exec (.setDown 42#8 (.fields ⟨⟨0, 0⟩, .scrapBin⟩)) (asking 4 clearingLate)) (fun t =>
        (t.batch? ⟨0, 0⟩).any (fun b => b.state == .cancelled) && t.jobs == clearingLate.jobs) = true := by
  decide +kernel

theorem test_set_down_on_the_cart :
    took (exec (.setDown 42#8 (.fields ⟨⟨0, 0⟩, .cart⟩)) (asking 4 ferrying)) (fun t =>
      t.cart == ⟨[⟨2, 0⟩], some .a, []⟩ && t.job? ⟨0, 0⟩ == ferrying.job? ⟨0, 0⟩
        && (t.batch? ⟨0, 0⟩).any (fun b => b.state == .committed)) = true := by decide +kernel

/-- A FETCH that ends, the last leg of a clear batch, the carrying leg of an aborted job, a TRANSFER_OUT, and the last
leg of a batch in which another was CANCELLED. -/
theorem witness_DoneLegsAreTold :
    (∀ s ∈ [hooked, clearing, returning, ferrying, clearingLate], Asks reqSetDown (asking 4 s) 4 hoist)
      ∧ (∀ s ∈ [hooked, returning], (asking 4 s).leg? ⟨0, 0⟩ = some fetchLifted)
      ∧ (∀ s ∈ [hooked, clearing, returning],
        (asking 4 s).batch? ⟨0, 0⟩ = some ⟨.job ⟨0, 0⟩, [⟨0, 0⟩], .committed, some 0⟩)
      ∧ ((asking 4 hooked).job? ⟨0, 0⟩).any (fun j => j.state == .admitted && j.fetchBatch == some ⟨0, 0⟩) = true
      ∧ ((asking 4 clearing).leg? ⟨0, 0⟩ = some (skeletonLeg .lifted)
        ∧ (asking 4 clearing).job? ⟨0, 0⟩ = some { jobOf .ended none 3 with clearBatch := some ⟨0, 0⟩ })
      ∧ (((asking 4 returning).job? ⟨0, 0⟩).any (fun j => j.state == .ended && j.clearBatch == some ⟨1, 0⟩) = true
        ∧ (asking 4 returning).batch? ⟨1, 0⟩ = some ⟨.job ⟨0, 0⟩, [⟨1, 0⟩], .opened, none⟩)
      ∧ ((asking 4 ferrying).leg? ⟨0, 0⟩ = some ferryLeg ∧ ferrying.cart.side = some ferryLeg.bay
        ∧ ferryLeg.kind ≠ .fetch ∧ ((asking 4 ferrying).job? ⟨0, 0⟩).any (fun j => j.state != .ended) = true)
      ∧ ((asking 4 clearingLate).leg? ⟨0, 0⟩ = some (skeletonLeg .lifted)
        ∧ (asking 4 clearingLate).batch? ⟨0, 0⟩ = some ⟨.job ⟨0, 0⟩, [⟨1, 0⟩, ⟨0, 0⟩], .committed, some 0⟩
        ∧ ((asking 4 clearingLate).leg? ⟨1, 0⟩).any (fun l => l.state == .cancelled) = true
        ∧ (asking 4 clearingLate).job? ⟨0, 0⟩ = some { jobOf .ended none 3 with clearBatch := some ⟨0, 0⟩ }) := by
  refine ⟨fun s hs => asks_of ?_, by decide +kernel⟩
  revert s
  decide +kernel

/-- The mismatched lift of the worked example: plate 1 on crane 1's hook in CHECK, source slot 12. -/
def checkLeg : Leg := { assignedLeg with state := .check, checkLoad := some 68000 }
def checked : State :=
  { assigned with
    legs := assigned.legs.set 1 ⟨0, some checkLeg⟩
    plates := assigned.plates.set 1 ⟨0, some { mill (.hook 1) 2 with
      st := { (mill (.hook 1) 2).st with massDoubt := true }, leg := some ⟨1, 0⟩ }⟩
    slots := assigned.slots.set 12 ⟨[], [], false⟩
    cranes := assigned.cranes.set 1 ⟨.check, some ⟨1, 0⟩, some 1000, some ⟨640, 1260⟩, false⟩ }

/-- The same leg after a stop in its batch (R126). -/
def markedLeg : Leg := { checkLeg with ending := true }
def markedToEnd : State := { checked with legs := checked.legs.set 1 ⟨0, some markedLeg⟩ }

/-- A leg set back returns to QUEUED; one marked to end is CANCELLED, with its batch. -/
theorem test_set_back :
    took (exec (.setDown 42#8 (.fields ⟨⟨1, 0⟩, .slot 12⟩)) (asking 7 checked)) (fun t =>
      (t.slot 12).stack == [⟨1, 0⟩] && (t.slot 13).incoming == []
        && (t.leg? ⟨1, 0⟩).any (fun l => l.state == .queued && l.target == none && l.source == some (.slot 12))
        && (t.crane 1).state == .idle && (t.plate? ⟨1, 0⟩).any (fun r => r.st.massDoubt && r.leg == none)) = true
      ∧ took (exec (.setDown 42#8 (.fields ⟨⟨1, 0⟩, .slot 12⟩)) (asking 7 markedToEnd)) (fun t =>
        t.leg? ⟨1, 0⟩ == some { markedLeg with state := .cancelled, crane := none }
          && (t.batch? ⟨1, 0⟩).any (fun b => b.state == .cancelled)) = true := by decide +kernel
/-- The same with the source slot given to bay B meanwhile (R48). -/
def checkedRebayed : State :=
  { checked with hall :=
    { checked.hall with slots := checked.hall.slots.set 12 { SlotCfg.factory 12 with bay := .b } } }

theorem test_check_elsewhere :
    codeOf (exec (.setDown 42#8 (.fields ⟨⟨1, 0⟩, .slot 13⟩)) (asking 7 checked)) = some .wrongPlace
      ∧ codeOf (exec (.setDown 42#8 (.fields ⟨⟨1, 0⟩, .slot 12⟩)) (asking 7 checkedRebayed)) = some .wrongPlace := by
  decide +kernel
theorem test_diverted :
    took (exec (.setDown 42#8 (.fields ⟨⟨1, 0⟩, .slot 20⟩)) (asking 7 (skipping 0))) (fun t =>
      (t.slot 20).stack == [⟨1, 0⟩] && (t.slot 13).incoming == []
        && (t.leg? ⟨1, 0⟩).any (fun l => l.state == .queued && l.crane == none && l.target == none)) = true := by
  decide +kernel

/-- A leg of a batch of the supervisor is awaited by none, and neither is one of a job that is not ENDED. -/
theorem unawaited_of_station {s : State} {l : Leg} {b : Batch} {a : Nat} (hb : s.batch? l.batch = some b)
    (ho : b.origin = .station a) : Unawaited s l := by
  intro c jh j hc hj _
  rw [hb] at hc
  cases hc
  rw [ho] at hj
  cases hj

theorem unawaited_of {s : State} {l : Leg} {jh : Handle} {j : Job}
    (hb : (s.batch? l.batch).map (fun b => b.origin) = some (.job jh) ∧ s.job? jh = some j)
    (he : j.state ≠ .ended) : Unawaited s l := by
  intro b g i hc ho hi hw
  rw [hc, Option.map_some, ho, Option.some.injEq, BatchOrigin.job.injEq] at hb
  rw [hb.1, hb.2] at hi
  cases hi
  exact he hw.1

theorem freely_of {s : State} {l : Leg} {b : Batch} {a : Nat} (he : l.ending = false)
    (hb : s.batch? l.batch = some b) (ho : b.origin = .station a) : ReturnsFreely s l :=
  ⟨he, unawaited_of_station hb ho⟩

/-- Plate 1 on crane 1's hook, in doubt of its mass. -/
def doubtedOnHook : PlateRec :=
  { mill (.hook 1) 2 with st := { (mill (.hook 1) 2).st with massDoubt := true }, leg := some ⟨1, 0⟩ }

/-- A set-back that the source takes, one that it does not, a diverted plate, and a skeleton set back. -/
theorem witness_SetDownReturns :
    ((∀ s ∈ [asking 7 checked, asking 7 checkedRebayed, asking 7 (skipping 0)], Asks reqSetDown s 7 hoist1)
        ∧ Asks reqSetDown (asking 4 (skeletonOn .check .check false)) 4 hoist)
      ∧ (ReturnsFreely (asking 7 checked) checkLeg ∧ ReturnsFreely (asking 7 (skipping 0)) carriedLeg
        ∧ ReturnsFreely (asking 4 (skeletonOn .check .check false)) (skeletonLeg .check))
      ∧ (∀ g x, (asking 4 (skeletonOn .check .check false)).leg? g = some x → x.state.inHand = true →
        x.target ≠ some (.bed 0 0))
      ∧ (InRange (.slot 12) ∧ InRange (.slot 20) ∧ InRange (.bed 0 0))
      ∧ (∀ s ∈ [asking 7 checked, asking 7 checkedRebayed], s.leg? ⟨1, 0⟩ = some checkLeg
        ∧ s.plate? ⟨1, 0⟩ = some doubtedOnHook)
      ∧ (checkLeg.source = some (.slot 12) ∧ doubtedOnHook.st.location = .hook 1
        ∧ ((asking 7 checked).slotCfg 12).bay = checkLeg.bay
        ∧ (asking 7 checked).hasRoom 12 doubtedOnHook.roomMass = true
        ∧ ((asking 7 checkedRebayed).slotCfg 12).bay ≠ checkLeg.bay ∧ checkLeg.source ≠ some (.slot 13))
      ∧ ((asking 7 (skipping 0)).leg? ⟨1, 0⟩ = some carriedLeg ∧ carriedLeg.target ≠ some (.slot 20)
        ∧ ((asking 7 (skipping 0)).plate? ⟨1, 0⟩).any (fun r => r.st.location == .hook 1
          && (asking 7 (skipping 0)).hasRoom 20 r.roomMass) = true
        ∧ ((asking 7 (skipping 0)).slotCfg 20).bay = carriedLeg.bay
        ∧ ((asking 7 (skipping 0)).slotCfg 48).bay ≠ carriedLeg.bay)
      ∧ ((asking 4 (skeletonOn .check .check false)).leg? ⟨0, 0⟩ = some (skeletonLeg .check)
        ∧ (skeletonLeg .check).source = some (.bed 0 0)
        ∧ (asking 4 (skeletonOn .check .check false)).bed 0 0 = ⟨[], false⟩) := by
  refine ⟨⟨fun s hs => asks_of ?_, asks_of⟩,
    ⟨freely_of (b := ⟨.station 1, [⟨1, 0⟩], .committed, some 1⟩) (a := 1) rfl (by decide +kernel) rfl,
      freely_of (b := ⟨.station 1, [⟨1, 0⟩], .committed, some 1⟩) (a := 1) rfl (by decide +kernel) rfl,
      freely_of (b := ⟨.station 1, [⟨0, 0⟩], .committed, some 0⟩) (a := 1) rfl (by decide +kernel) rfl⟩,
    fun g x hx _ => ?_, ⟨?_, ?_, ?_⟩, by decide +kernel⟩
  · revert s
    decide +kernel
  · have h := find_of_poolAll (t := (asking 4 (skeletonOn .check .check false)).legs)
      (p := fun _ x => x.target == some .scrapBin) (by decide +kernel) g x hx
    rw [beq_iff_eq] at h
    rw [h]
    decide
  · show 12 ≤ 95
    decide
  · show 20 ≤ 95
    decide
  · exact ⟨by decide, by decide⟩

/-- A leg marked to end, in a COMMITTED batch of the supervisor. -/
theorem witness_MarkedEnds :
    Asks reqSetDown (asking 7 markedToEnd) 7 hoist1 ∧ (asking 7 markedToEnd).leg? ⟨1, 0⟩ = some markedLeg
      ∧ markedLeg.ending = true ∧ Unawaited (asking 7 markedToEnd) markedLeg
      ∧ (asking 7 markedToEnd).batch? markedLeg.batch = some ⟨.station 1, [⟨1, 0⟩], .committed, some 1⟩ :=
  ⟨asks_of, by decide +kernel, rfl,
    unawaited_of_station (b := ⟨.station 1, [⟨1, 0⟩], .committed, some 1⟩) (a := 1) (by decide +kernel) rfl,
    by decide +kernel⟩

theorem test_leg_reports_refused :
    codeOf (exec (.acceptLoad 1#8 (.fields ⟨0, 0⟩)) (asking 1 hooked)) = some .wrongState
      ∧ codeOf (exec (.legFault 1#8 (.fields ⟨0, 0⟩)) (asking 4 hooked)) = some .wrongState
      ∧ codeOf (exec (.cancelLeg 1#8 (.fields ⟨0, 0⟩)) (asking 1 hooked)) = some .wrongState
      ∧ codeOf (exec (.cancelLeg 1#8 (.fields ⟨0, 0⟩)) (building near)) = some .wrongState
      ∧ ∀ p ∈ [Place.hook 0, .nowhere, .choose],
        codeOf (exec (.setDown 1#8 (.fields ⟨⟨0, 0⟩, p⟩)) (asking 4 hooked)) = some .badRequest := by decide +kernel

/-- A plate found on hook 0 at start-up; and the same leg state with crane 0's station SILENT. -/
def afterStart : State :=
  putPlate 2 { mill (.hook 0) 3 with st := { (mill (.hook 0) 3).st with doubtful := true } } hall
def silenced (s : State) : State :=
  { s with stations := s.stations.set 3 (some { hoist with misses := 8, silent := true }) }

/-- A repeated Lifted gets the first answer again (R138), and a plate no longer on top is BLOCKED. -/
theorem test_lifted_refused :
    slotAfter (exec (.lifted 41#8 (.fields ⟨⟨1, 0⟩, 1⟩)) (asking 7 (skipping 0))) 7 = some (.held 41#8 0x54 .done [])
      ∧ slotAfter (exec (.lifted 41#8 (.fields ⟨⟨1, 0⟩, 1⟩)) (asking 7 checked)) 7
        = some (.held 41#8 0x54 .mismatch [.num 4 68000, .num 4 63368, .num 4 3901])
      ∧ codeOf (exec (.lifted 41#8 (.fields ⟨⟨1, 0⟩, 1⟩)) (asking 7 { assigned with slots := hall.slots }))
        = some .blocked
      ∧ codeOf (exec (.lifted 41#8 (.fields ⟨⟨1, 0⟩, 1⟩)) (asking 4 assigned)) = some .wrongState := by decide +kernel
/-- Break Hook of a crane in service, to a place out of range, and to a bed that holds a plate (R146). -/
theorem test_break_hook_refused :
    codeOf (exec (.breakHook 1#8 (.fields ⟨0, .slot 10, some ⟨2, 0⟩⟩)) (asking 1 hooked)) = some .wrongState
      ∧ codeOf (exec (.breakHook 1#8 (.fields ⟨6, .slot 10, none⟩)) (asking 1 hooked)) = some .badRequest
      ∧ codeOf (exec (.breakHook 1#8 (.fields ⟨0, .bed 0 2, none⟩)) (asking 1 hooked)) = some .badRequest
      ∧ codeOf (exec (.breakHook 1#8 (.fields ⟨0, .bed 0 0, some ⟨2, 0⟩⟩)) (asking 1 (silenced hooked)))
        = some .wrongPlace := by decide +kernel

theorem witness_LegReportsRefused :
    (Asks reqSetDown (asking 4 hooked) 4 hoist ∧ Asks reqSetDown (asking 7 hooked) 7 hoist1
        ∧ Asks reqSetDown (asking 4 { hooked with pfw := true }) 4 hoist
        ∧ Asks reqSetDown (asking 7 assigned) 7 hoist1 ∧ Asks reqLegFault (asking 4 hooked) 4 hoist)
      ∧ (∀ r ∈ [reqAcceptLoad, reqCancelLeg], Asks r (asking 1 hooked) 1 boss)
      ∧ Asks reqCancelLeg (building near) 1 boss
      ∧ (95 < 96 ∧ (7 < 8 ∨ 1 < 0) ∧ (asking 4 hooked).leg? ⟨9, 0⟩ = none)
      ∧ ((asking 4 hooked).leg? ⟨0, 0⟩ = some fetchLifted ∧ fetchLifted.crane ≠ some 1 ∧ fetchLifted.crane = some 0
        ∧ fetchLifted.state ≠ .check ∧ fetchLifted.state ≠ .assigned)
      ∧ (assignedLeg.state.onHook = false ∧ assignedLeg.crane = some 1)
      ∧ ((building near).leg? ⟨0, 0⟩ = some near ∧ near.state = .queued) :=
  ⟨⟨asks_of, asks_of, asks_of, asks_of, asks_of⟩, asks_all, asks_of, by decide +kernel⟩

/-- Lifted of a leg LIFTED, CHECK, DONE, another crane's, with PFW asserted, with its plate not on top, not on its bed,
not on the cart, and of a skeleton that is no longer marked (R138). -/
def settledLeg : State := { assigned with legs := assigned.legs.set 1 ⟨0, some { assignedLeg with state := .done }⟩ }
def fromBed (p : Place) : State :=
  { assigned with legs := assigned.legs.set 1 ⟨0, some { assignedLeg with source := some p }⟩ }
theorem witness_LiftedRefused :
    (∀ s ∈ [skipping 0, checked, settledLeg, { assigned with pfw := true }, { assigned with slots := hall.slots },
        fromBed (.bed 0 0), fromBed .cart], Asks reqLifted (asking 7 s) 7 hoist1)
      ∧ (Asks reqLifted (asking 4 assigned) 4 hoist
        ∧ Asks reqLifted (asking 4 (skeletonOn .assigned .assigned false)) 4 hoist)
      ∧ ((asking 7 checked).leg? ⟨1, 0⟩ = some checkLeg ∧ checkLeg.checkLoad = some 68000
        ∧ checkLeg.expected = some 63368 ∧ assignedLeg.plate = some ⟨1, 0⟩)
      ∧ ({ assigned with slots := hall.slots } : State).slot 12 = ⟨[], [], false⟩
      ∧ (∀ p ∈ [Place.bed 0 0, .cart], ((fromBed p).leg? ⟨1, 0⟩).any (fun l => l.source == some p) = true)
      ∧ ((fromBed .cart).bed 0 0).plates = [] ∧ (fromBed .cart).cart.plates = []
      ∧ (asking 4 (skeletonOn .assigned .assigned false)).leg? ⟨0, 0⟩ = some (skeletonLeg .assigned)
      ∧ ((asking 4 (skeletonOn .assigned .assigned false)).bed 0 0).skeleton = false := by
  refine ⟨fun s hs => asks_of ?_, ⟨asks_of, asks_of⟩, by decide +kernel⟩
  revert s
  decide +kernel

/-- Break Hook (R146): places in and out of range, a crane in service, PFW, a plate elsewhere, a place that cannot take
the plate, a crane with no skeleton, and a bed that is not the skeleton's own. -/
theorem witness_BreakHookRefused :
    (∀ s ∈ [hooked, afterStart, { silenced hooked with pfw := true }, silenced hooked,
        silenced (skeletonOn .lifted .loaded false)], Asks reqBreakHook (asking 1 s) 1 boss)
      ∧ (5 < 6 ∧ 95 < 96 ∧ 0 ≤ 5)
      ∧ (((asking 1 hooked).heard 1).craneSilent 0 = false ∧ ((asking 1 hooked).crane 0).state ≠ .offline)
      ∧ ((asking 1 afterStart).crane 0).state = .offline
      ∧ ((asking 1 (silenced hooked)).heard 1).craneSilent 0 = true
      ∧ ((asking 1 afterStart).plate? ⟨9, 0⟩ = none ∧ (asking 1 (silenced hooked)).plate? ⟨9, 0⟩ = none)
      ∧ ((asking 1 (silenced hooked)).plate? ⟨0, 0⟩).any (fun r => r.st.location != .hook 0) = true
      ∧ (((asking 1 (silenced hooked)).plate? ⟨2, 0⟩).any (fun r => r.st.location == .hook 0) = true
        ∧ (asking 1 (silenced hooked)).bedJob 0 0 ≠ none)
      ∧ (((asking 1 (silenced hooked)).crane 0).leg = some ⟨0, 0⟩ ∧ fetchLifted.kind ≠ .clearSkeleton)
      ∧ (((asking 1 (silenced (skeletonOn .lifted .loaded false))).crane 0).leg = some ⟨0, 0⟩
        ∧ (asking 1 (silenced (skeletonOn .lifted .loaded false))).leg? ⟨0, 0⟩ = some (skeletonLeg .lifted)
        ∧ (skeletonLeg .lifted).sourceBed ≠ some (0, 1)) := by
  refine ⟨fun s hs => asks_of ?_, by decide +kernel⟩
  revert s
  decide +kernel

theorem test_accept_load :
    took (exec (.acceptLoad 1#8 (.fields ⟨1, 0⟩)) (asking 1 checked)) (fun t =>
      (t.leg? ⟨1, 0⟩).any (fun l => l.state == .lifted) && (t.crane 1).state == .loaded
        && (t.plate? ⟨1, 0⟩).any (fun r => r.st.massDoubt)) = true := by decide +kernel
theorem test_leg_fault :
    took (exec (.legFault 1#8 (.fields ⟨1, 0⟩)) (asking 7 assigned)) (fun t =>
      (t.leg? ⟨1, 0⟩).any (fun l => l.state == .queued && l.crane == none) && (t.slot 13).incoming == []
        && t.crane 1 == ⟨.idle, none, some 1000, some ⟨940, 1060⟩, false⟩) = true := by decide +kernel
theorem test_cancel_assigned :
    took (exec (.cancelLeg 1#8 (.fields ⟨1, 0⟩)) (asking 1 assigned)) (fun t =>
      (t.leg? ⟨1, 0⟩).any (fun l => l.state == .queued)) = true := by decide +kernel

theorem witness_LegsAcceptedAndReturned :
    (Asks reqAcceptLoad (asking 1 checked) 1 boss ∧ (asking 1 checked).leg? ⟨1, 0⟩ = some checkLeg
        ∧ checkLeg.state = .check ∧ checkLeg.crane = some 1)
      ∧ (Asks reqLegFault (asking 7 assigned) 7 hoist1 ∧ Asks reqCancelLeg (asking 1 assigned) 1 boss
        ∧ (asking 7 assigned).leg? ⟨1, 0⟩ = some assignedLeg ∧ assignedLeg.state = .assigned
        ∧ ReturnsFreely (asking 7 assigned) assignedLeg) :=
  ⟨⟨asks_of, by decide +kernel⟩, asks_of,
    asks_of, by decide +kernel, rfl,
    freely_of (b := ⟨.station 1, [⟨1, 0⟩], .committed, some 1⟩) (a := 1) rfl (by decide +kernel) rfl⟩

/-- An ADMITTED job whose FETCH still waits. -/
def waitingFetch : State :=
  { fresh0 with
    jobs := hall.jobs.set 0 ⟨0, some { jobOf .admitted (some .active) 0 with fetchBatch := some ⟨0, 0⟩ }⟩
    batches := hall.batches.set 0 ⟨0, some ⟨.job ⟨0, 0⟩, [⟨0, 0⟩], .committed, some 0⟩⟩
    legs := hall.legs.set 0 ⟨0, some (legOf .fetch ⟨0, 0⟩ .queued)⟩ }

theorem test_cancel_fetch :
    took (exec (.cancelLeg 1#8 (.fields ⟨0, 0⟩)) (asking 1 waitingFetch)) (fun t =>
      (t.job? ⟨0, 0⟩).any (fun j => j.fetchLost && j.state == .admitted)
        && (t.batch? ⟨0, 0⟩).any (fun b => b.state == .cancelled)) = true := by decide +kernel

theorem witness_CancelLegCancels :
    Asks reqCancelLeg (asking 1 waitingFetch) 1 boss
      ∧ (asking 1 waitingFetch).leg? ⟨0, 0⟩ = some (legOf .fetch ⟨0, 0⟩ .queued)
      ∧ (asking 1 waitingFetch).batch? ⟨0, 0⟩ = some ⟨.job ⟨0, 0⟩, [⟨0, 0⟩], .committed, some 0⟩
      ∧ (⟨0, 0⟩ : Handle) ∈ [(⟨0, 0⟩ : Handle)]
      ∧ (asking 1 waitingFetch).job? ⟨0, 0⟩
        = some { jobOf .admitted (some .active) 0 with fetchBatch := some ⟨0, 0⟩ }
      ∧ JobState.admitted ≠ .ended :=
  ⟨asks_of, by decide +kernel⟩

/-- The aborted job of `returning` with its leg as given, its plate and its crane's state. -/
def awaiting (f : Leg → Leg) (plate : Location) (cart : Cart) (crane : CraneState) : State :=
  { putPlate 2 { mill plate 3 with leg := some ⟨0, 0⟩ } returning with
    legs := returning.legs.set 0 ⟨0, some (f fetchLifted)⟩
    cart := cart
    cranes := returning.cranes.set 0 ⟨crane, some ⟨0, 0⟩, some 840, some ⟨440, 900⟩, false⟩ }

/-- In CHECK from the cart; ASSIGNED on the cart, and in slot 30. -/
def checkedFromCart : State :=
  awaiting (fun l => { l with state := .check, source := some .cart }) (.hook 0) ⟨[], some .a, []⟩ .check
def assignedOnCart : State :=
  awaiting (fun l => { l with state := .assigned, source := some .cart }) .cart ⟨[⟨2, 0⟩], some .a, []⟩ .assigned
def assignedOnBed : State :=
  awaiting (fun l => { l with state := .assigned, source := some (.bed 1 0) }) (.bed 1 0) ⟨[], some .a, []⟩ .assigned

/-- An aborted job's leg that leaves its crane other than DONE is CANCELLED, with its batch; with its plate on the cart
the return batch is committed, else it is CANCELLED and the job CLEARED (R94). -/
theorem test_awaited_leg_ends :
    let ended (t : State) (b : BatchState) (j : JobState) : Bool :=
      (t.leg? ⟨0, 0⟩).any (fun l => l.state == .cancelled) && (t.batch? ⟨0, 0⟩).any (fun b => b.state == .cancelled)
        && (t.batch? ⟨1, 0⟩).any (fun r => r.state == b) && (t.job? ⟨0, 0⟩).any (fun i => i.state == j)
    took (exec (.setDown 1#8 (.fields ⟨⟨0, 0⟩, .slot 20⟩)) (asking 4 returning)) (ended · .cancelled .cleared) = true
      ∧ took (exec (.setDown 1#8 (.fields ⟨⟨0, 0⟩, .cart⟩)) (asking 4 checkedFromCart))
          (ended · .committed .ended) = true
      ∧ took (exec (.legFault 1#8 (.fields ⟨0, 0⟩)) (asking 4 assignedOnCart)) (ended · .committed .ended) = true
      ∧ took (exec (.cancelLeg 1#8 (.fields ⟨0, 0⟩)) (asking 1 assignedOnBed)) (ended · .cancelled .cleared) = true
      ∧ took (exec (.breakHook 1#8 (.fields ⟨0, .nowhere, some ⟨2, 0⟩⟩)) (asking 1 (silenced returning)))
          (ended · .cancelled .cleared) = true := by decide +kernel

/-- In each of these states the job waits for leg 0: the hypotheses of `AwaitEnds`. -/
theorem witness_AwaitEnds :
    ∀ s ∈ [returning, checkedFromCart, assignedOnCart, assignedOnBed, silenced returning],
      (∃ l j ret, s.leg? ⟨0, 0⟩ = some l ∧ s.job? ⟨0, 0⟩ = some j ∧ WaitsFor s j l ∧ l.batch = ⟨0, 0⟩
        ∧ j.clearBatch = some ⟨1, 0⟩ ∧ s.batch? ⟨1, 0⟩ = some ret ∧ ret.legs = [⟨1, 0⟩])
        ∧ s.batch? ⟨0, 0⟩ = some ⟨.job ⟨0, 0⟩, [⟨0, 0⟩], .committed, some 0⟩ := by
  have h : ∀ s ∈ [returning, checkedFromCart, assignedOnCart, assignedOnBed, silenced returning],
      (s.leg? ⟨0, 0⟩).any (fun l => l.kind == .fetch && l.batch == ⟨0, 0⟩) = true
        ∧ s.job? ⟨0, 0⟩ = returning.job? ⟨0, 0⟩
        ∧ s.batch? ⟨1, 0⟩ = some ⟨.job ⟨0, 0⟩, [⟨1, 0⟩], .opened, none⟩
        ∧ s.batch? ⟨0, 0⟩ = some ⟨.job ⟨0, 0⟩, [⟨0, 0⟩], .committed, some 0⟩ := by decide +kernel
  intro s hs
  obtain ⟨h1, h2, h3, h4⟩ := h s hs
  obtain ⟨l, hl, hk⟩ := (Option.any_eq_true _ _).1 h1
  simp only [Bool.and_eq_true, beq_iff_eq] at hk
  refine ⟨⟨l, _, _, hl, h2.trans rfl, ⟨rfl, ?_, Or.inl hk.1, ⟨1, 0⟩, _, rfl, h3, rfl⟩, hk.2, rfl, h3, rfl⟩, h4⟩
  rw [hk.2]

/-- The clear batch of an ENDED job, its skeleton leg QUEUED. -/
def clearWaits : State :=
  { clearing with
    legs := hall.legs.set 0 ⟨0, some { skeletonLeg .queued with crane := none, source := none, target := none }⟩
    cranes := hall.cranes }

/-- The job stays ENDED when the leg of its clear batch is cancelled (R96). -/
theorem test_cancel_clear_leg :
    took (exec (.cancelLeg 1#8 (.fields ⟨0, 0⟩)) (asking 1 clearWaits)) (fun t =>
      (t.leg? ⟨0, 0⟩).any (fun l => l.state == .cancelled) && (t.batch? ⟨0, 0⟩).any (fun b => b.state == .cancelled)
        && t.job? ⟨0, 0⟩ == clearWaits.job? ⟨0, 0⟩) = true := by decide +kernel

theorem witness_CancelLegCancels_ended :
    Asks reqCancelLeg (asking 1 clearWaits) 1 boss
      ∧ ((asking 1 clearWaits).leg? ⟨0, 0⟩).any (fun l => l.state == .queued) = true
      ∧ (asking 1 clearWaits).batch? ⟨0, 0⟩ = some ⟨.job ⟨0, 0⟩, [⟨0, 0⟩], .committed, some 0⟩
      ∧ (asking 1 clearWaits).job? ⟨0, 0⟩ = some { jobOf .ended none 3 with clearBatch := some ⟨0, 0⟩ }
      ∧ JobState.ended ≠ .admitted ∧ (jobOf .ended none 3).fetchBatch ≠ some ⟨0, 0⟩ :=
  ⟨asks_of, by decide +kernel⟩

/-! ### Break Hook, the cart, Crane Report -/

theorem test_break_hook_after_start :
    took (exec (.breakHook 1#8 (.fields ⟨0, .slot 10, some ⟨2, 0⟩⟩)) (asking 1 afterStart)) (fun t =>
      (t.slot 10).stack == [⟨2, 0⟩]
        && (t.plate? ⟨2, 0⟩).any (fun r => r.st.location == .slot 10 0 && r.st.doubtful)) = true := by decide +kernel
/-- A lost carrying leg takes the FETCH behind it, and their batch; a skeleton at the scrap bin ends its job. -/
theorem test_break_hook_loses_fetch :
    took (exec (.breakHook 1#8 (.fields ⟨0, .nowhere, some ⟨2, 0⟩⟩)) (asking 1 (silenced ferrying))) (fun t =>
      (t.leg? ⟨0, 0⟩).any (fun l => l.state == .cancelled) && (t.leg? ⟨1, 0⟩).any (fun l => l.state == .cancelled)
        && (t.batch? ⟨0, 0⟩).any (fun b => b.state == .cancelled) && (t.job? ⟨0, 0⟩).any (fun j => j.fetchLost)
        && (t.crane 0).leg == none) = true
      ∧ took (exec (.breakHook 1#8 (.fields ⟨0, .scrapBin, none⟩)) (asking 1 (silenced clearing))) (fun t =>
        (t.batch? ⟨0, 0⟩).any (fun b => b.state == .done) && (t.job? ⟨0, 0⟩).any (fun j => j.state == .cleared)) = true
      ∧ took (exec (.breakHook 1#8 (.fields ⟨0, .bed 0 0, none⟩)) (asking 1 (silenced clearing))) (fun t =>
        (t.batch? ⟨0, 0⟩).any (fun b => b.state == .cancelled) && t.jobs == clearing.jobs) = true := by decide +kernel

theorem witness_BreakHookRecovers :
    (Asks reqBreakHook (asking 1 afterStart) 1 boss ∧ ((asking 1 afterStart).crane 0).state = .offline
        ∧ afterStart.pfw = false
        ∧ (∃ r, (asking 1 afterStart).plate? ⟨2, 0⟩ = some r ∧ r.st.location = .hook 0 ∧ r.leg = none)
        ∧ (asking 1 afterStart).hasRoom 95 none = true)
      ∧ (Asks reqBreakHook (asking 1 (silenced hooked)) 1 boss
        ∧ ((asking 1 (silenced hooked)).heard 1).craneSilent 0 = true
        ∧ (∃ r, (asking 1 (silenced hooked)).plate? ⟨2, 0⟩ = some r ∧ r.st.location = .hook 0
          ∧ r.leg = some ⟨0, 0⟩)
        ∧ (asking 1 (silenced hooked)).leg? ⟨0, 0⟩ = some fetchLifted ∧ fetchLifted.state.onHook = true
        ∧ Unawaited (asking 1 (silenced hooked)) fetchLifted)
      ∧ (Asks reqBreakHook (asking 1 (silenced (skeletonOn .lifted .loaded false))) 1 boss
        ∧ ((asking 1 (silenced (skeletonOn .lifted .loaded false))).crane 0).leg = some ⟨0, 0⟩
        ∧ (asking 1 (silenced (skeletonOn .lifted .loaded false))).leg? ⟨0, 0⟩ = some (skeletonLeg .lifted)
        ∧ (skeletonLeg .lifted).sourceBed = some (0, 0))
      ∧ (∀ s ∈ [clearing, clearingLate], Asks reqBreakHook (asking 1 (silenced s)) 1 boss
        ∧ (asking 1 (silenced s)).leg? ⟨0, 0⟩ = some (skeletonLeg .lifted)
        ∧ (asking 1 (silenced s)).job? ⟨0, 0⟩ = some { jobOf .ended none 3 with clearBatch := some ⟨0, 0⟩ }
        ∧ ((asking 1 (silenced s)).batch? ⟨0, 0⟩).any (fun b => b.state == .committed && b.legs.contains ⟨0, 0⟩
          && b.origin == .job ⟨0, 0⟩) = true) := by
  refine ⟨⟨asks_of, by decide +kernel, rfl, ?_, by decide +kernel⟩,
    ⟨asks_of, by decide +kernel, ?_, by decide +kernel, rfl, ?_⟩,
    ⟨asks_of, by decide +kernel⟩, fun s hs => ⟨asks_of ?_, ?_⟩⟩
  · exact ⟨{ mill (.hook 0) 3 with st := { (mill (.hook 0) 3).st with doubtful := true } }, by decide +kernel⟩
  · exact ⟨{ mill (.hook 0) 3 with job := some ⟨0, 0⟩, leg := some ⟨0, 0⟩ }, by decide +kernel⟩
  · exact unawaited_of (jh := ⟨0, 0⟩)
      (j := { jobOf .admitted (some .active) 0 with fetchBatch := some ⟨0, 0⟩ }) (by decide +kernel) (by decide)
  all_goals
    revert s
    decide +kernel

/-- The cart at side B, bare, and a TRANSFER_OUT waiting in bay A (step 3 of the worked example of chapter 7);
and the plate on the cart, whose next leg is in bay B (step 14). -/
def calling : State :=
  let l : Leg := { legOf .transferOut ⟨0, 0⟩ .queued with plate := some ⟨1, 0⟩, destination := .cart }
  { yard with
    cart := ⟨[], some .b, []⟩
    legs := yard.legs.set 0 ⟨0, some l⟩
    batches := yard.batches.set 0 ⟨0, some ⟨.station 1, [⟨0, 0⟩], .committed, some 0⟩⟩ }
def crossing : State :=
  let l : Leg := { legOf .transferIn ⟨0, 0⟩ .queued with plate := some ⟨3, 0⟩, destination := .choose, bay := .b }
  { yard with
    legs := yard.legs.set 0 ⟨0, some l⟩
    batches := yard.batches.set 0 ⟨0, some ⟨.station 1, [⟨0, 0⟩], .committed, some 0⟩⟩ }

theorem test_next_trip :
    answered (exec (.nextTrip 1#8 (.fields ())) (asking 5 calling)) = some (.done, [.choice 0, .choice 0])
      ∧ answered (exec (.nextTrip 1#8 (.fields ())) (asking 5 crossing)) = some (.done, [.choice 0, .choice 1])
      ∧ answered (exec (.nextTrip 1#8 (.fields ())) (asking 5 yard)) = some (.done, [.choice 1]) := by decide +kernel
theorem test_cart_arrived :
    took (exec (.cartArrived 1#8 (.fields 1)) (asking 5 crossing)) (fun t => t.cart.side == some .b) = true
      ∧ codeOf (exec (.cartArrived 1#8 (.fields 2)) (asking 5 crossing)) = some .badRequest := by decide +kernel

theorem witness_CartSentAndArrives :
    (Asks reqNextTrip (asking 5 calling) 5 truck ∧ (asking 5 calling).cart.plates = []
        ∧ (asking 5 calling).cart.incoming = []
        ∧ ∃ x, (asking 5 calling).leg? ⟨0, 0⟩ = some x ∧ x.state = .queued ∧ x.kind = .transferOut
          ∧ x.plate = some ⟨1, 0⟩)
      ∧ (Asks reqNextTrip (asking 5 crossing) 5 truck ∧ (asking 5 crossing).cart.plates = [⟨3, 0⟩]
        ∧ ∃ x, (asking 5 crossing).leg? ⟨0, 0⟩ = some x ∧ x.state = .queued ∧ x.plate = some ⟨3, 0⟩)
      ∧ (∀ g x, (asking 5 crossing).leg? g = some x → ¬(x.state.inHand = true))
      ∧ (Asks reqNextTrip (asking 5 yard) 5 truck ∧ (asking 5 yard).cart.plates = [⟨3, 0⟩])
      ∧ (Asks reqCartArrived (asking 5 crossing) 5 truck ∧ (1 = 1 ∧ Bay.b = .b) ∧ 2 ≤ 2) := by
  refine ⟨⟨asks_of, by decide +kernel, by decide +kernel,
      { legOf .transferOut ⟨0, 0⟩ .queued with plate := some ⟨1, 0⟩, destination := .cart }, by decide +kernel⟩,
    ⟨asks_of, by decide +kernel,
      { legOf .transferIn ⟨0, 0⟩ .queued with plate := some ⟨3, 0⟩, destination := .choose, bay := .b },
      by decide +kernel⟩, fun g x hx => ?_, ⟨asks_of, by decide +kernel⟩, asks_of, by decide +kernel⟩
  have h := find_of_poolAll (t := (asking 5 crossing).legs) (p := fun _ x => !x.state.inHand) (by decide +kernel)
    g x hx
  simpa using h

theorem test_breach :
    took (exec (.craneReport 1#8 (.fields 230)) (asking 7 westward)) (fun t =>
      (t.crane 1).stopped && flagIn t.flags .zoneBreach && t.permit 1 == .stop
        && (t.crane 1).claim == some ⟨240, 960⟩) = true
      ∧ took (exec (.craneReport 1#8 (.fields 300)) (asking 7 westward)) (fun t =>
        !(t.crane 1).stopped && t.permit 1 == .go) = true := by decide +kernel
theorem test_report_clamped :
    answered (exec (.craneReport 1#8 (.fields (-5))) (asking 4 westward))
        = some (.done, [.num 2 0, .choice 1, .num 2 (-60), .num 2 60])
      ∧ answered (exec (.craneReport 1#8 (.fields 4001)) (asking 4 hall))
        = some (.done, [.num 2 4000, .choice 1, .num 2 3940, .num 2 4060]) := by decide +kernel

theorem witness_CraneReportJudged :
    (Asks reqCraneReport (asking 4 hall) 4 hoist ∧ ((asking 4 hall).crane 0).state = .offline
        ∧ Apart ((asking 4 hall).heard 4) 0 (idleAt (asking 4 hall) 0 4000))
      ∧ (Asks reqCraneReport (asking 4 westward) 4 hoist ∧ ((asking 4 westward).crane 0).state = .idle
        ∧ Apart ((asking 4 westward).heard 4) 0 (idleAt (asking 4 westward) 0 179)
        ∧ ¬Apart ((asking 4 westward).heard 4) 0 (idleAt (asking 4 westward) 0 180))
      ∧ (Asks reqCraneReport (asking 7 westward) 7 hoist1 ∧ ((asking 7 westward).crane 1).state = .loaded
        ∧ Covers ((asking 7 westward).crane 1) (idleAt (asking 7 westward) 1 300)
        ∧ ¬Covers ((asking 7 westward).crane 1) (idleAt (asking 7 westward) 1 299)) := by
  refine ⟨⟨asks_of, by decide +kernel, apart_of⟩,
    ⟨asks_of, by decide +kernel, apart_of, fun h => ?_⟩,
    asks_of, by decide +kernel, ⟨⟨240, 960⟩, by decide +kernel⟩, fun h => ?_⟩
  · have h' := h 1 (by decide) (by decide) (by decide +kernel) (by decide +kernel) ⟨240, 960⟩ (by decide +kernel)
    revert h'
    decide +kernel
  · obtain ⟨o, ho, h1, _⟩ := h
    have h' : ((asking 7 westward).crane 1).claim = some ⟨240, 960⟩ := by decide +kernel
    rw [h'] at ho
    cases ho
    revert h1
    decide +kernel

/-! ## The checks of a request, in their order

One theorem for each request: at a state where one check fails and those before it hold, the code of that check. -/

/-- Commands in states, each answered with a code. -/
def answersAll (l : List (State × Instr × AnsCode)) : Bool := l.all fun e => codeOf (exec e.2.1 e.1) == some e.2.2

/-- One request in one state, with several fields and the code of each. -/
def answersEach {α : Type} (s : State) (c : α → Instr) (l : List (α × AnsCode)) : Bool :=
  answersAll (l.map fun e => (s, c e.1, e.2))

/-- PFW asserted; no batch entry left; no leg in the pool but those of COMMITTED batches. -/
def powerless (s : State) : State := { s with pfw := true }
def batchless (s : State) : State := { s with batches := noBatchLeft.batches }

theorem test_enrol_checks :
    answersAll [(powerless enrolling, .enrolStation 5#8 (.fields ⟨33, 5, none, 1⟩), .powerDown),
        (asking 1 assigned, .enrolStation 5#8 (.fields enrolCrane2), .inUse),
        (asking 1 assigned, .enrolStation 5#8 (.fields ⟨7, 3, some 1, 2⟩), .working)] = true
      ∧ answersEach enrolling (fun f => .enrolStation 5#8 (.fields f))
        [(⟨33, 5, none, 1⟩, .badRequest), (⟨1, 5, none, 1⟩, .badRequest), (⟨8, 6, none, 1⟩, .badRequest),
          (⟨8, 3, some 6, 2⟩, .badRequest), (⟨8, 3, some 2, 1⟩, .badRequest), (⟨8, 5, some 0, 1⟩, .badRequest),
          (⟨8, 3, some 0, 2⟩, .inUse), (⟨32, 5, none, 2⟩, .working)] = true := by decide +kernel

theorem test_remove_checks :
    answersAll [(powerless enrolling, .removeStation 5#8 (.fields 1), .powerDown),
        (asking 1 assigned, .removeStation 5#8 (.fields 7), .inUse)] = true
      ∧ answersEach enrolling (fun b => .removeStation 5#8 (.fields b))
        [(1, .badRequest), (33, .badRequest), (32, .noSuch), (2, .working)] = true := by decide +kernel

theorem test_register_checks :
    answersAll [(powerless dock, .registerPlate 1#8 (.fields { newPlate with slot := 96 }), .powerDown),
        ({ dock with seqCounter := 4294967296 }, .registerPlate 1#8 (.fields newPlate), .full),
        ({ dock with slots := dock.slots.set 7 ⟨[], [], true⟩ }, .registerPlate 1#8 (.fields newPlate), .full)] = true
      ∧ answersEach dock (fun f => .registerPlate 1#8 (.fields f))
        [({ newPlate with thickness := 29 }, .badRequest), ({ newPlate with slot := 96 }, .badRequest),
          ({ newPlate with headTrim := 9 }, .badRequest), ({ newPlate with sideATrim := 14 }, .badRequest),
          ({ newPlate with length := 500, headTrim := 181 }, .badRequest),
          ({ newPlate with length := 500, headTrim := 180 }, .working),
          ({ newPlate with width := 300, sideATrim := 86 }, .badRequest)] = true := by decide +kernel

/-- Plate 2, sound, on hook 0 with no leg. -/
def onHook0 : State := putPlate 2 (mill (.hook 0) 3) hall

theorem test_amend_checks :
    answersAll [(powerless (asking 1 yard), .amendPlate 6#8 (.fields { moved with plate := ⟨9, 0⟩ }), .powerDown),
        (dock, .amendPlate 6#8 (.fields { moved with plate := ⟨1, 0⟩ }), .wrongState),
        (asking 1 onHook0, .amendPlate 6#8 (.fields { trimmed with plate := ⟨2, 0⟩ }), .wrongState),
        (asking 1 fresh0, .amendPlate 6#8 (.fields { moved with location := some (.bed 0 0) }), .wrongState),
        ({ asking 1 yard with beds := yard.beds.set 1 ⟨[], true⟩ },
          .amendPlate 6#8 (.fields { moved with location := some (.bed 0 1) }), .wrongState)] = true
      ∧ answersEach (asking 1 yard) (fun f => .amendPlate 6#8 (.fields f))
        [({ moved with plate := ⟨9, 0⟩ }, .noSuch), ({ moved with panels := [] }, .badRequest),
          ({ moved with area := some 1 }, .badRequest), ({ moved with location := some (.slot 96) }, .badRequest),
          ({ moved with location := some (.hook 0) }, .badRequest),
          ({ moved with location := some (.bed 0 0) }, .wrongState), ({ moved with location := some .cart }, .full),
          ({ moved with location := some (.bed 0 1) }, .working)] = true := by decide +kernel

theorem test_retire_checks :
    answersAll [(powerless (asking 1 yard), .retirePlate 7#8 (.fields ⟨⟨9, 0⟩, 3⟩), .powerDown),
        (asking 1 fresh0, .retirePlate 7#8 (.fields ⟨⟨2, 0⟩, 1⟩), .wrongState),
        (asking 1 runwayA, .retirePlate 7#8 (.fields ⟨⟨0, 0⟩, 1⟩), .wrongState)] = true
      ∧ answersEach (asking 1 yard) (fun f => .retirePlate 7#8 (.fields f))
        [(⟨⟨9, 0⟩, 0⟩, .badRequest), (⟨⟨9, 0⟩, 3⟩, .badRequest), (⟨⟨9, 0⟩, 1⟩, .noSuch), (⟨⟨0, 0⟩, 2⟩, .wrongState),
          (⟨⟨1, 0⟩, 1⟩, .working)] = true := by decide +kernel

/-- Every part entry is taken. -/
def fullParts : State :=
  { drafting 3 with parts := Table.replicate _ ⟨0, some (partOf 0 .planned .uncut)⟩ }

theorem test_admit_checks :
    answersAll [(asking 1 yard, .admitJob 2#8 (.fields admitFetched), .badRequest),
        ({ drafting 3 with jobs := fresh0.jobs }, .admitJob 2#8 (.fields admitLying), .wrongState),
        ({ drafting 3 with beds := yard.beds.set 1 ⟨[], true⟩ }, .admitJob 2#8 (.fields admitFetched), .wrongState),
        ({ drafting 3 with plates := fresh0.plates, parts := hall.parts },
          .admitJob 2#8 (.fields { admitFetched with plate := ⟨2, 0⟩ }), .gone),
        ({ drafting 3 with legs := assigned.legs }, .admitJob 2#8 (.fields admitFetched), .gone),
        ((drafting 3).modifyPlate ⟨1, 0⟩ (fun r => { r with st := { r.st with held := true } }),
          .admitJob 2#8 (.fields admitFetched), .blocked),
        ({ drafting 3 with plates := onHook0.plates },
          .admitJob 2#8 (.fields { admitFetched with plate := ⟨2, 0⟩ }), .gone),
        ({ asking 1 (buried 7) with drafts := (drafting 3).drafts, legs := hall.legs },
          .admitJob 2#8 (.fields { admitFetched with plate := ⟨0, 0⟩ }), .tooDeep),
        (fullParts,
          .admitJob 2#8 (.fields admitFetched), .full),
        ({ drafting 3 with parts := fresh0.parts }, .admitJob 2#8 (.fields admitFetched), .duplicate),
        (batchless (drafting 3), .admitJob 2#8 (.fields admitFetched), .full),
        (batchless (drafting 3), .admitJob 2#8 (.fields admitLying), .done)] = true
      ∧ answersEach (drafting 3) (fun f => .admitJob 2#8 (.fields f))
        [({ admitFetched with orientation := 2 }, .badRequest), ({ admitFetched with envLength := 23981 }, .badRequest),
          ({ admitFetched with tolerance := 51 }, .badRequest), ({ admitFetched with bed := 0 }, .wrongState),
          ({ admitFetched with plate := ⟨9, 0⟩ }, .noSuch), ({ admitFetched with thickness := 181 }, .gone),
          ({ admitFetched with panel := 1 }, .badRequest), ({ admitFetched with envLength := 11961 }, .badRequest),
          ({ admitFetched with orientation := 1 }, .badRequest)] = true := by decide +kernel

theorem test_end_and_abort_checks :
    answersAll [(asking 2 allCut, .endJob 1#8 (.fields ⟨⟨0, 0⟩, 2⟩), .badRequest),
        (powerless (asking 2 allCut), .endJob 1#8 (.fields ⟨⟨2, 0⟩, 0⟩), .powerDown),
        (asking 2 allCut, .endJob 1#8 (.fields ⟨⟨2, 0⟩, 0⟩), .noSuch),
        (asking 2 fresh0, .endJob 1#8 (.fields ⟨⟨0, 0⟩, 1⟩), .wrongState),
        (asking 2 burning, .endJob 1#8 (.fields ⟨⟨0, 0⟩, 0⟩), .wrongState),
        (batchless (asking 2 allCut), .endJob 1#8 (.fields ⟨⟨0, 0⟩, 0⟩), .full)] = true
      ∧ answersAll [(asking 1 burning, .abortJob 1#8 (.fields ⟨0, 1⟩), .noSuch),
        (asking 1 leftover, .abortJob 1#8 (.fields ⟨0, 0⟩), .wrongState),
        (powerless (asking 1 burning), .abortJob 1#8 (.fields ⟨0, 0⟩), .powerDown),
        (powerless (asking 1 fresh0), .abortJob 1#8 (.fields ⟨0, 0⟩), .working),
        (batchless (asking 1 burning), .abortJob 1#8 (.fields ⟨0, 0⟩), .full),
        (batchless (asking 1 fresh0), .abortJob 1#8 (.fields ⟨0, 0⟩), .full)] = true := by decide +kernel

theorem test_clear_bed_checks :
    answersAll [(asking 1 burning, .clearBed 1#8 (.fields ⟨8, 0⟩), .badRequest),
        (asking 1 burning, .clearBed 1#8 (.fields ⟨0, 2⟩), .badRequest),
        (asking 1 burning, .clearBed 1#8 (.fields ⟨0, 0⟩), .wrongState),
        (asking 1 returning, .clearBed 1#8 (.fields ⟨0, 0⟩), .wrongState),
        (asking 1 clearing, .clearBed 1#8 (.fields ⟨0, 0⟩), .wrongState),
        ({ asking 1 leftover with beds := yard.beds }, .clearBed 1#8 (.fields ⟨0, 0⟩), .wrongState),
        ({ asking 1 leftover with parts := allCut.parts }, .clearBed 1#8 (.fields ⟨0, 0⟩), .wrongState)] = true := by
  decide +kernel

/-- The OPEN batch of `building` with `n` copies of one leg, in entries 0 to n - 1. -/
def filled (n : Nat) (l : Leg) : State :=
  { building l with
    legs := (List.range n).foldl (fun t i => t.set i ⟨0, some { l with position := i }⟩) yard.legs
    batches := yard.batches.set 0 ⟨0, some ⟨.station 1, (List.range n).map (fun i => ⟨i, 0⟩), .opened, none⟩⟩ }

theorem test_add_leg_checks :
    answersAll [(asking 1 yard, .addLeg 1#8 (.fields ⟨⟨0, 0⟩, 0, .choose, 3⟩), .wrongState),
        ({ building near with plates := fresh0.plates }, .addLeg 1#8 (.fields ⟨⟨2, 0⟩, 0, .choose, 3⟩), .wrongState),
        (filled 8 near, .addLeg 1#8 (.fields ⟨⟨0, 0⟩, 0, .choose, 3⟩), .full),
        (filled 7 near, .addLeg 1#8 (.fields ⟨⟨0, 0⟩, 0, .choose, 3⟩), .done)] = true
      ∧ answersEach (building near) (fun f => .addLeg 1#8 (.fields f))
        [(⟨⟨0, 0⟩, 2, .choose, 3⟩, .badRequest), (⟨⟨0, 0⟩, 0, .slot 96, 3⟩, .badRequest),
          (⟨⟨0, 0⟩, 0, .cart, 3⟩, .badRequest), (⟨⟨0, 0⟩, 0, .choose, 4⟩, .badRequest),
          (⟨⟨9, 0⟩, 0, .choose, 3⟩, .noSuch), (⟨⟨1, 0⟩, 0, .choose, 3⟩, .wrongState)] = true := by decide +kernel

/-- Two legs, the second for plate 2 as it is given, and the code and position of the check that it fails. -/
theorem test_commit_checks :
    answersAll [(asking 1 yard, .commitBatch 1#8 (.fields ()), .wrongState),
        (filled 0 near, .commitBatch 1#8 (.fields ()), .wrongState),
        (filled 7 far, .commitBatch 1#8 (.fields ()), .done),
        (filled 8 far, .commitBatch 1#8 (.fields ()), .full)] = true
      ∧ ([(9, Place.choose, mill .cart 3, AnsCode.noSuch), (2, .choose, mill (.hook 0) 3, .wrongState),
          (2, .choose, { mill .cart 3 with st := { (mill .cart 3).st with doubtful := true } }, .blocked),
          (2, .slot 48, mill (.slot 11 0) 3, .badRequest), (2, .slot 11, mill (.slot 11 0) 3, .badRequest),
          (2, .choose, { mill .cart 3 with mass := some 137501 }, .overload)].all fun e =>
        answered (exec (.commitBatch 1#8 (.fields ())) (putPlate 2 e.2.2.1 { filled 2 near with
          legs := (filled 2 near).legs.set 1 ⟨0, some { manualLeg 0 e.1 e.2.1 1 with position := 1 }⟩ }))
          == some (e.2.2.2, [.num 1 1])) = true := by decide +kernel

/-! ## The Hall Map (section 10.3) -/

def newGrade : SetGradeF := ⟨12, [0x53#8], 33, 7850, 1000, 500, 10⟩
def sameGrade : SetGradeF := ⟨12, [0x47#8, 0x31#8, 0x32#8], 0, 7850, 1000, 500, 10⟩

theorem test_set_grade :
    took (exec (.setGrade 1#8 (.fields newGrade)) (asking 1 hall)) (fun t =>
      t.grade 12 == ⟨[0x53#8], 33, 7850, 1000, 500, 10⟩ && t.queue == [.group .grades]) = true
      ∧ slotAfter (exec (.setGrade 1#8 (.fields sameGrade)) (asking 1 hall)) 1 = some (.held 1#8 0x70 .done []) := by
  decide +kernel
theorem test_set_grade_in_use :
    codeOf (exec (.setGrade 1#8 (.fields newGrade)) (asking 1 yard)) = some .inUse
      ∧ codeOf (exec (.setGrade 1#8 (.fields { sameGrade with minLength := 2000 })) (asking 1 yard))
        = some .working := by decide +kernel
theorem test_set_bounds_1 :
    codeOf (exec (.setTable 1#8 (.fields ⟨7, 4000, 0⟩)) (asking 1 hall)) = some .working
      ∧ codeOf (exec (.setTable 1#8 (.fields ⟨8, 0, 0⟩)) (asking 1 hall)) = some .badRequest
      ∧ codeOf (exec (.setTable 1#8 (.fields ⟨0, 4001, 0⟩)) (asking 1 hall)) = some .badRequest
      ∧ codeOf (exec (.setCart 1#8 (.fields ⟨1, 4000⟩)) (asking 1 hall)) = some .working
      ∧ codeOf (exec (.setCart 1#8 (.fields ⟨0, 4001⟩)) (asking 1 hall)) = some .badRequest
      ∧ codeOf (exec (.setCart 1#8 (.fields ⟨2, 0⟩)) (asking 1 hall)) = some .badRequest := by decide +kernel
theorem test_set_cart :
    took (exec (.setCart 1#8 (.fields ⟨1, 4000⟩)) (asking 1 hall)) (fun t =>
      t.hall.cart == ⟨2000, 4000⟩ && t.queue == [.group .cart]) = true := by decide +kernel
theorem test_set_bounds_2 :
    codeOf (exec (.setScrapBin 1#8 (.fields ⟨1, 0⟩)) (asking 1 hall)) = some .working
      ∧ codeOf (exec (.setScrapBin 1#8 (.fields ⟨2, 0⟩)) (asking 1 hall)) = some .badRequest
      ∧ codeOf (exec (.setRunway 1#8 (.fields ⟨1, 1⟩)) (asking 1 hall)) = some .working
      ∧ codeOf (exec (.setRunway 1#8 (.fields ⟨1, 0⟩)) (asking 1 hall)) = some .badRequest
      ∧ codeOf (exec (.setAlertMask 1#8 (.fields ⟨4095, 0⟩)) (asking 1 hall)) = some .working
      ∧ codeOf (exec (.setAlertMask 1#8 (.fields ⟨4096, 0⟩)) (asking 1 hall)) = some .badRequest := by decide +kernel

theorem witness_SettingsReplaced :
    (∀ r ∈ [reqSetGrade, reqSetTable, reqSetCart, reqSetScrapBin, reqSetRunway, reqSetAlertMask],
        Asks r (asking 1 hall) 1 boss)
      ∧ (∀ h r, (asking 1 hall).plate? h = some r → r.st.disposition = .stock → r.ident.grade ≠ newGrade.grade)
      ∧ (asking 1 hall).pfw = false
      ∧ (newGrade.grade ≤ 63 ∧ 1 ≤ newGrade.label.length ∧ newGrade.label.length ≤ 8
        ∧ textOk newGrade.label = true ∧ newGrade.family ≤ 255 ∧ 1000 ≤ newGrade.density
        ∧ newGrade.density ≤ 9999 ∧ 300 ≤ newGrade.minLength ∧ newGrade.minLength ≤ 6000
        ∧ 200 ≤ newGrade.minWidth ∧ newGrade.minWidth ≤ 3000 ∧ newGrade.clearance ≤ 50)
      ∧ ((asking 1 hall).grade 12 ≠ ⟨[0x53#8], 33, 7850, 1000, 500, 10⟩
        ∧ (asking 1 hall).grade 12 = ⟨[0x47#8, 0x31#8, 0x32#8], 0, 7850, 1000, 500, 10⟩)
      ∧ ((asking 1 hall).hall.tables.get? 7 ≠ some ⟨4000, 0⟩
        ∧ (asking 1 hall).hall.tables.get? 7 = some ⟨3200, 3500⟩)
      ∧ ((asking 1 hall).hall.cart.onA ≠ 4000 ∧ (asking 1 hall).hall.cart.onB = 2000)
      ∧ ((asking 1 hall).hall.bins.onB ≠ 0 ∧ (asking 1 hall).hall.bins.onA = 3960)
      ∧ ((asking 1 hall).hall.runways.onB ≠ 1 ∧ (asking 1 hall).hall.runways.onA = 4000)
      ∧ ((asking 1 hall).hall.alarms ≠ ⟨0xFFF#12, false⟩ ∧ (asking 1 hall).hall.alarms = ⟨0xFFE#12, true⟩) := by
  refine ⟨asks_all, fun h r hr => ?_, by decide +kernel⟩
  have h' := find_of_poolAll (t := (asking 1 hall).plates) (p := fun _ _ => false) (by decide +kernel) h r hr
  cases h'

theorem test_set_slot :
    codeOf (exec (.setSlot 1#8 (.fields ⟨95, 1, 4000, 2, 12, 4000000⟩)) (asking 1 hall)) = some .working
      ∧ codeOf (exec (.setSlot 1#8 (.fields ⟨96, 1, 4000, 2, 12, 4000000⟩)) (asking 1 hall)) = some .badRequest
      ∧ codeOf (exec (.setSlot 1#8 (.fields ⟨95, 1, 4000, 2, 13, 4000000⟩)) (asking 1 hall)) = some .badRequest
      ∧ codeOf (exec (.setSlot 1#8 (.fields ⟨10, 0, 840, 0, 1, 4000000⟩)) (asking 1 yard)) = some .inUse
      ∧ codeOf (exec (.setSlot 1#8 (.fields ⟨10, 1, 840, 0, 8, 4000000⟩)) (asking 1 yard)) = some .inUse := by
  decide +kernel
theorem test_set_crane :
    codeOf (exec (.setCrane 1#8 (.fields ⟨5, 1, 2, 4000000, 1000000, 500, 1500⟩)) (asking 1 hall)) = some .working
      ∧ codeOf (exec (.setCrane 1#8 (.fields ⟨6, 1, 2, 1, 1, 1, 30⟩)) (asking 1 hall)) = some .badRequest
      ∧ codeOf (exec (.setCrane 1#8 (.fields ⟨0, 0, 1, 150000, 12500, 60, 50⟩)) (asking 1 runwayA)) = some .inUse
      ∧ took (exec (.setCrane 1#8 (.fields ⟨0, 1, 2, 150000, 12500, 60, 50⟩)) (asking 1 hall)) (fun t =>
          (t.craneCfg 0).runway == .b && (t.craneCfg 0).order == 2
            && (t.craneCfg 5).runway == .a && (t.craneCfg 5).order == 0) = true := by decide +kernel

theorem test_set_grade_label :
    codeOf (exec (.setGrade 1#8 (.fields { newGrade with label := [0x73#8] })) (asking 1 hall)) = some .badRequest := by
  decide +kernel

theorem witness_SettingsRefused :
    (∀ r ∈ [reqSetGrade, reqSetSlot, reqSetTable, reqSetCrane, reqSetCart, reqSetScrapBin, reqSetRunway,
        reqSetAlertMask], Asks r (asking 1 yard) 1 boss)
      ∧ (asking 1 yard).pfw = false ∧ newGrade.inRanges = true
      ∧ (asking 1 yard).plate? ⟨0, 0⟩ = some (mill (.slot 10 0) 1)
      ∧ ((asking 1 yard).grade newGrade.grade).family ≠ newGrade.family
      ∧ (SetSlotF.entry ⟨10, 0, 840, 0, 1, 4000000⟩ = some ⟨.a, 840, .stock, 1, 4000000⟩
        ∧ 1 < ((asking 1 yard).slot 10).stack.length + ((asking 1 yard).slot 10).incoming.length)
      ∧ (63 < 64 ∧ 95 < 96 ∧ 7 < 8 ∧ 5 < 6 ∧ 4000 < 4001 ∧ 4096 ≤ 4096) :=
  ⟨asks_all, by decide +kernel⟩

theorem witness_SetSlotApplies :
    Asks reqSetSlot (asking 1 yard) 1 boss ∧ (asking 1 yard).pfw = false ∧ 10 ≤ 95
      ∧ ((asking 1 yard).slot 10).stack.length + ((asking 1 yard).slot 10).incoming.length ≤ 2
      ∧ (asking 1 yard).stackMass 10 + (asking 1 yard).incomingMass 10 ≤ 101736
      ∧ Bay.a = ((asking 1 yard).slotCfg 10).bay
      ∧ (asking 1 yard).slotCfg 10 ≠ ⟨.a, 4000, .remnant, 2, 101736⟩
      ∧ (asking 1 yard).slotCfg 10 = ⟨.a, 840, .stock, 8, 4000000⟩ :=
  ⟨asks_of, by decide +kernel⟩

theorem witness_SetCraneApplies :
    Asks reqSetCrane (asking 1 hall) 1 boss ∧ (asking 1 hall).pfw = false
      ∧ (∀ c d, c ≤ 5 → d ≤ 5 → ((asking 1 hall).craneCfg c).runway = ((asking 1 hall).craneCfg d).runway →
        ((asking 1 hall).craneCfg c).order = ((asking 1 hall).craneCfg d).order → c = d)
      ∧ (((asking 1 hall).crane 0).claim = none ∧ ((asking 1 hall).crane 0).leg = none
        ∧ ((asking 1 hall).crane 5).claim = none ∧ ((asking 1 hall).crane 5).leg = none
        ∧ ((asking 1 hall).craneCfg 5).runway = .b ∧ ((asking 1 hall).craneCfg 5).order = 2)
      ∧ (Asks reqSetCrane (asking 1 runwayA) 1 boss ∧ ((asking 1 runwayA).crane 1).claim ≠ none
        ∧ ((asking 1 runwayA).craneCfg 1).order = 1) := by
  refine ⟨asks_of, rfl, ?_, by decide +kernel, asks_of, by decide +kernel⟩
  have h : ∀ c ∈ List.range 6, ∀ d ∈ List.range 6,
      ((asking 1 hall).craneCfg c).runway = ((asking 1 hall).craneCfg d).runway →
      ((asking 1 hall).craneCfg c).order = ((asking 1 hall).craneCfg d).order → c = d := by decide +kernel
  intro c d hc hd
  exact h c (List.mem_range.2 (by omega)) d (List.mem_range.2 (by omega))

/-! ## The Record Store, pins and start-up (chapter 10) -/

/-- The image of a generation word 63, as the array leaves the factory: its contents, and the CRC-16 over their eight
bytes 3F 00 00 00 00 00 00 00, worked out by hand from the polynomial of section 9.2. -/
def gen63 : Image := Image.fresh [0x3F#64, 0xAE20#64]

theorem test_generation_word : PlateImages.factory.genWord = gen63 := by decide +kernel

/-- R175, judgements 1 to 3, on that image. -/
theorem test_image_judged :
    gen63.read take1 = .sound 63 ∧ (gen63.flip 0 3).read take1 = .corrected 63
      ∧ ((gen63.flip 0 3).flip 1 71).read take1 = .corrected 63
      ∧ ((gen63.flip 0 3).flip 0 70).read take1 = .bad := by decide +kernel
/-- A write torn between the contents and the CRC, a CRC that does not match, and an image never written (R175). -/
theorem test_image_torn :
    (gen63.write ⟨[1], []⟩ (genImage 62)).read take1 = .bad
      ∧ (Image.write ⟨[1], []⟩ (genImage 62) []).read take1 = .bad
      ∧ (Image.fresh [0x3E#64, 0xAE20#64]).read take1 = .bad ∧ Image.read take1 [] = .absent := by decide +kernel

/-- A deferred request of station 1 waits for plate 0's state image, which heads the queue. -/
def writing : State :=
  { hall with
    plates := hall.plates.set 0 ⟨0, some (mill (.slot 10 0) 1)⟩
    queue := [.state 0, .group .cart]
    stations := hall.stations.set 0 (some bossBusy)
    deferred := [⟨some 1, 9#8, 0x13, [⟨.state 0, false⟩], false, .done, []⟩] }

/-- What a read finds of the words that a write of an image would take. -/
def readBack {α : Type} (take : List Byte → Option (α × List Byte)) (i : ImageId) : Stored α :=
  Image.read take (Image.fresh (writing.wordsFor i))

theorem test_plate_images_read_back :
    readBack take1 (.genWord 0) = .sound 0
      ∧ readBack takeIdentity (.identity 0) = .sound (0, (mill (.slot 10 0) 1).ident)
      ∧ readBack takeState (.state 0) = .sound (0, (mill (.slot 10 0) 1).st)
      ∧ readBack take8 .header = .sound writing.headerFloor := by decide +kernel
theorem test_groups_read_back_1 :
    readBack (takeTable 64 takeGrade) (.group .grades) = .sound hall.hall.grades
      ∧ readBack (takeTable 96 takeSlotCfg) (.group .slots) = .sound hall.hall.slots
      ∧ readBack (takeTable 8 takeTableCfg) (.group .tables) = .sound hall.hall.tables
      ∧ readBack (takeTable 6 takeCraneCfg) (.group .cranes) = .sound hall.hall.cranes := by decide +kernel
theorem test_groups_read_back_2 :
    readBack takePerBay (.group .cart) = .sound hall.hall.cart
      ∧ readBack takePerBay (.group .bins) = .sound hall.hall.bins
      ∧ readBack takePerBay (.group .runways) = .sound hall.hall.runways
      ∧ readBack (takeList takeStationCfg) (.group .stations) = .sound hallList
      ∧ readBack takeAlarmCfg (.group .alarms) = .sound hall.hall.alarms := by decide +kernel

/-- The words of plate 0's state image, and a write of them. -/
def stateWords : List (BitVec 64) := imageWords 6 (putState 0 (mill (.slot 10 0) 1).st)
def stateWrite (attempt : Nat) : Write := ⟨.state 0, stateWords, attempt⟩

def inWrite (attempt : Nat) : State :=
  { writing with
    queue := [.group .cart]
    inFlight := some (stateWrite attempt)
    deferred := [⟨some 1, 9#8, 0x13, [⟨.state 0, true⟩], false, .done, []⟩] }

/-- What a read of plate 0's state image finds. -/
def stored (t : State) : Stored (Nat × PlateSt) := Image.read takeState (t.store.image (.state 0))

/-- A write that reaches its image whole, one that spoils a word, one that reaches nothing, one torn at the CRC. -/
def clean : WriteFate := ⟨[], []⟩
def spoilt : WriteFate := ⟨[], [(0, 5), (0, 6)]⟩
def unmade : WriteFate := ⟨[0, 1, 2, 3, 4, 5, 6], []⟩
def torn : WriteFate := ⟨[6], []⟩

theorem test_write_start :
    took (exec .writeStart writing) (fun t => t.inFlight == some (stateWrite 1) && t.queue == [.group .cart]) = true
      ∧ stateOf (exec .writeStart { writing with pfw := true }) = none := by decide +kernel
theorem test_write_end :
    took (exec (.writeEnd clean) (inWrite 1)) (fun t =>
      t.inFlight == none && t.deferred.map (fun d => (d.waits, d.failed)) == [([], false)]
        && stored t == .sound (0, (mill (.slot 10 0) 1).st)) = true
      ∧ took (exec (.writeEnd spoilt) (inWrite 1)) (fun t =>
        t.inFlight == some (stateWrite 2) && stored t == .bad) = true
      ∧ took (exec (.writeEnd unmade) (inWrite 2)) (fun t =>
        t.inFlight == none && flagIn t.flags .storeWriteFault && stored t == .absent
          && t.deferred.map (fun d => (d.waits, d.failed)) == [([], true)]) = true := by decide +kernel
/-- An image with one flipped bit reads back good: it is the image that was written (R175, R176). -/
theorem test_write_end_repaired :
    took (exec (.writeEnd ⟨[], [(2, 64)]⟩) (inWrite 1)) (fun t =>
      t.inFlight == none && stored t == .corrected (0, (mill (.slot 10 0) 1).st)) = true := by decide +kernel

def awaitingAnswer (failed : Bool) : State :=
  { inWrite 1 with deferred := [⟨some 1, 9#8, 0x13, [], failed, .done, []⟩] }

theorem test_deferred_complete :
    slotAfter (exec (.deferredComplete 0) (awaitingAnswer false)) 1 = some (.held 9#8 0x13 .done [])
      ∧ slotAfter (exec (.deferredComplete 0) (awaitingAnswer true)) 1 = some (.held 9#8 0x13 .doneUnsaved [])
      ∧ stateOf (exec (.deferredComplete 0) writing) = none := by decide +kernel

/-- The words of `gen63`, the first with these bits flipped. -/
def aged (bits : BitVec 72) : List Cell := [⟨0x3F#64, bits⟩, ⟨0xAE20#64, 0#72⟩]

/-- Images never written, half written, with two flipped bits in a word, with one, with none, and with a CRC that does
not match. -/
theorem witness_ImagesJudged :
    (∀ c ∈ ([] : Image), c = none)
      ∧ (∃ c ∈ [some (Cell.fresh 0#64), none], c ≠ none) ∧ none ∈ [some (Cell.fresh 0#64), none]
      ∧ (∃ c, some c ∈ (aged 3#72).map some ∧ ¬c.oneFlip)
      ∧ (∀ bits ∈ [0#72, 1#72], ∀ c ∈ aged bits, c.oneFlip)
      ∧ (aged 0#72).map Cell.data = [0x3F#64] ++ [(crc16 ([0x3F#64].flatMap wordBytes)).setWidth 64]
      ∧ (∀ c ∈ aged 0#72, c.flipped = 0#72) ∧ (∃ c ∈ aged 1#72, c.flipped ≠ 0#72)
      ∧ 0xAE20#64 ≠ (crc16 ([0x3E#64].flatMap wordBytes)).setWidth 64 := by
  refine ⟨by decide, by decide +kernel, by decide +kernel, ⟨⟨0x3F#64, 3#72⟩, by simp [aged],
    fun h => absurd (h 0 1 rfl rfl) (by decide)⟩, fun bits hb c hc => Cell.oneFlip_of_readable ?_, ?_⟩
  · simp only [aged, List.mem_cons, List.not_mem_nil, or_false] at hb hc
    rcases hb with rfl | rfl <;> rcases hc with rfl | rfl <;> decide +kernel
  · decide +kernel

/-- A part whose queue begins with an image of a FREE plate entry. -/
def repairing : State := { hall with queue := [.genWord 5] }

theorem witness_WritesRunAndComplete :
    ((∀ s ∈ [writing, repairing], s.phase = .running ∧ s.restartPending = false ∧ s.pfw = false ∧ s.inFlight = none)
        ∧ writing.queue = .state 0 :: [.group .cart] ∧ Fits writing (.state 0)
        ∧ repairing.queue = .genWord 5 :: [] ∧ repairing.plates.get? 5 = some ⟨0, none⟩
        ∧ repairing.store.image (.genWord 5) = (aged 0#72).map some)
      ∧ ((inWrite 1).phase = .running ∧ (inWrite 1).inFlight = some (stateWrite 1)
        ∧ (stateWrite 1).image.ok = true ∧ (stateWrite 1).attempt < 2
        ∧ stateWords = stateWords.dropLast ++ [(crc16 (stateWords.dropLast.flatMap wordBytes)).setWidth 64]
        ∧ (inWrite 2).inFlight = some (stateWrite 2) ∧ 2 ≤ (stateWrite 2).attempt)
      ∧ (∃ d, (awaitingAnswer false).deferred[0]? = some d ∧ d.waits = [] ∧ d.station = some 1
        ∧ (awaitingAnswer false).station? 1 = some bossBusy ∧ bossBusy.slot = .inFlight d.tag)
      ∧ ∃ d, writing.deferred[0]? = some d ∧ d.waits ≠ [] := by
  refine ⟨⟨by decide +kernel, rfl, ⟨⟨0, some (mill (.slot 10 0) 1)⟩, mill (.slot 10 0) 1, ?_⟩, ?_⟩, ?_,
    ⟨_, rfl, ?_⟩, _, rfl, ?_⟩ <;> decide +kernel

theorem test_restart :
    took (exec (.restart 1#8 (.fields ())) (asking 1 hall)) (fun t =>
      t.restartPending && stateOf (exec .poll t) == none && stateOf (exec .writeStart t) == none) = true
      ∧ codeOf (exec (.restart 1#8 (.fields ())) (asking 1 hall)) = some .done := by decide +kernel
/-- RST in the midst of a write tears its image. -/
theorem test_rst :
    took (exec (.rstAssert torn) (inWrite 1)) (fun t => t.phase == .inReset && t.rst && stored t == .bad) = true
      ∧ took (exec (.rstRelease []) { hall with rst := true }) (fun t => t.phase == .running && !t.rst) = true := by
  decide +kernel
theorem test_power_loss :
    took (exec (.powerLoss clean) (inWrite 1)) (fun t =>
      t.phase == .off && stored t == .sound (0, (mill (.slot 10 0) 1).st)) = true
      ∧ took (exec .pfwRelease { hall with pfw := true }) (fun t => !t.pfw) = true := by decide +kernel
theorem test_startup_end :
    took (exec .startupEnd { State.reset with queue := [] }) (fun t => t.phase == .running) = true
      ∧ stateOf (exec .startupEnd State.reset) = none := by decide +kernel

theorem witness_PinsAndResets :
    Asks reqRestart (asking 1 hall) 1 boss
      ∧ (hall.pfw = false ∧ hall.phase = .running)
      ∧ ((inWrite 1).phase = .running ∧ (inWrite 1).inFlight = some (stateWrite 1)
        ∧ (stateWrite 1).image.ok = true ∧ (inWrite 1).phase ≠ .off)
      ∧ ({ hall with phase := .inReset } : State).phase = .inReset ∧ hall.phase ≠ .inReset :=
  ⟨asks_of, by decide +kernel⟩

/-- The images of a plate entry that holds a record of generation 0. -/
def imagesOf (r : PlateRec) : PlateImages :=
  ⟨Image.fresh (genImage 0), Image.fresh (imageWords 5 (putIdentity 0 r.ident)),
    Image.fresh (imageWords 6 (putState 0 r.st))⟩

/-- The array of the worked example of section 10.4: a torn derivation of plate 17 into remnant 230. -/
def tornChild : PlateRec :=
  { mill (.bed 2 0) 6001 with
    ident := { (mill .nowhere 6001).ident with origin := .derived, parent := some ⟨17, 0⟩, depth := 1 } }
def tornStore : Store :=
  { Store.factory with
    header := Image.fresh (imageWords 1 (put8 5990))
    plates := (Store.factory.plates.set 17 (imagesOf (mill (.bed 2 0) 5000))).set 230 (imagesOf tornChild) }

/-- A part without supply, on an array. -/
def unpowered (x : Store) : State := { State.reset with phase := .off, store := x, queue := [] }

theorem test_torn_derivation :
    took (exec (.powerOn []) (unpowered tornStore)) (fun t =>
      (t.plate? ⟨17, 0⟩).any (fun r => r.st.disposition == .retired .consumed && r.st.location == .nowhere
          && r.st.doubtful)
        && (t.plate? ⟨230, 0⟩).any (fun r => r.st.disposition == .stock && r.st.doubtful
          && r.st.location == .bed 2 0)
        && (t.bed 2 0).plates == [⟨230, 0⟩] && t.seqCounter == 6002 && t.headerFloor == 6002
        && t.queue.drop 9 == [.state 17, .state 230, .header]) = true := by decide +kernel

/-- Had the reset come during the identity write: entry 230 is FREE with generation 1. -/
theorem test_torn_identity :
    took (exec (.restartReset [⟨.identity 230, 1, 0⟩, ⟨.identity 230, 1, 71⟩])
        { hall with restartPending := true, store := tornStore }) (fun t =>
      t.plates.get? 230 == some ⟨1, none⟩
        && (t.plate? ⟨17, 0⟩).any (fun r => r.st.disposition == .stock && r.st.doubtful)
        && flagIn t.flags .recordDoubtful && flagIn t.flags .restarted && !t.restartPending
        && t.phase == .startup) = true := by decide +kernel

/-- The worked example of chapter 3: five plates stored in slot 20 of capacity 4, two of them at level 2; and the
stations of the small hall. -/
def crowdedStore : Store :=
  let put (i level seq : Nat) (t : Table PlateImages 1024) : Table PlateImages 1024 :=
    t.set i (imagesOf (mill (.slot 20 level) seq))
  let slots := HallMap.factory.slots.set 20 ⟨.a, 1640, .stock, 4, 4000000⟩
  { Store.factory with
    slots := Image.fresh (imageWords 108 (putEntries putSlotCfg slots.entries))
    stations := Image.fresh (imageWords 21 (putList putStationCfg hallList))
    plates := put 0 0 10 (put 1 1 11 (put 2 2 31 (put 3 2 12 (put 4 3 13 Store.factory.plates)))) }

theorem test_over_capacity_at_startup :
    took (exec (.rstRelease []) { hall with phase := .inReset, rst := true, store := crowdedStore }) (fun t =>
      t.slot 20 == ⟨[⟨0, 0⟩, ⟨1, 0⟩, ⟨3, 0⟩, ⟨2, 0⟩, ⟨4, 0⟩], [], true⟩ && flagIn t.flags .overCapacity
        && t.queue.drop 7 == [.state 2, .state 4, .header] && t.seqCounter == 32
        && t.station? 4 == some hoist && t.station? 8 == none && t.phase == .startup && !t.rst) = true := by
  decide +kernel

theorem starts_up (x : Store) : StartsUp (.powerOn []) (unpowered x) x :=
  Or.inl ⟨[], rfl, rfl, rfl, rfl⟩

/-- The three commands that begin start-up; a station list that is stored, one that is not; a state in which start-up
has ended, and one in which it has not. -/
theorem witness_ResetsAreFollowedByStartup :
    StartsUp (.powerOn []) (unpowered crowdedStore) crowdedStore
      ∧ StartsUp (.rstRelease []) { hall with phase := .inReset, rst := true } Store.factory
      ∧ StartsUp (.restartReset []) { hall with restartPending := true } Store.factory
      ∧ crowdedStore.readStations.value = some hallList
      ∧ (hallList.find? fun e => e.address == 4) = some ⟨4, .crane, some 0, 2⟩
      ∧ (∀ e ∈ hallList, e.address ≠ 8) ∧ Store.factory.readStations.value = none
      ∧ ({ unpowered tornStore with rst := true } : State).phase = .off
      ∧ ({ hall with phase := .inReset } : State).phase = .inReset
      ∧ (({ State.reset with queue := [] } : State).phase = .startup
        ∧ ({ State.reset with queue := [] } : State).inFlight = none)
      ∧ State.reset.queue ≠ [] :=
  ⟨starts_up _, Or.inr (Or.inl ⟨[], rfl, rfl, rfl⟩), Or.inr (Or.inr ⟨[], by decide +kernel, by decide +kernel⟩),
    by decide +kernel⟩

/-- What a read finds of an entry's images. -/
def soundPlate (r : PlateRec) : StoredPlate := ⟨.sound 0, .sound (0, r.ident), .sound (0, r.st)⟩

theorem names_of (r : PlateRec) : (soundPlate r).Names 0 r.ident := by
  refine ⟨rfl, fun w hw => ?_⟩
  cases hw
  rfl

/-- Entry 17 of the torn array names its record, and remnant 230 derives from it; entry 0 names none. -/
theorem witness_StartupReadsTheArray :
    StartsUp (.powerOn []) (unpowered tornStore) tornStore
      ∧ (∃ p, tornStore.readPlates.get? 17 = some p ∧ p.Names 0 (mill (.bed 2 0) 5000).ident
        ∧ p.state.value = some (0, (mill (.bed 2 0) 5000).st))
      ∧ Derives tornStore ⟨17, 0⟩
      ∧ ∃ p, tornStore.readPlates.get? 0 = some p ∧ ∀ g ident, ¬p.Names g ident := by
  refine ⟨starts_up _, ⟨soundPlate (mill (.bed 2 0) 5000), by decide +kernel, names_of _, rfl⟩,
    ⟨230, soundPlate tornChild, 0, tornChild.ident, by decide +kernel, names_of _, rfl, rfl, fun st hst => ?_⟩,
    ⟨.sound 63, .absent, .absent⟩, by decide +kernel, fun g ident h => ?_⟩
  · cases hst
    rfl
  · cases h.1

theorem witness_StartupRebuildsPlaces :
    StartsUp (.powerOn []) (unpowered crowdedStore) crowdedStore
      ∧ ∃ p, crowdedStore.readPlates.get? 3 = some p
        ∧ p.state.value = some (0, (mill (.slot 20 2) 12).st)
        ∧ p.identity.value = some (0, (mill .nowhere 12).ident) :=
  ⟨starts_up _, soundPlate (mill (.slot 20 2) 12), by decide +kernel⟩

/-! ## Invariants and the wire -/

/-- The breach of chapter 8 about to be reported. -/
def breaching : State := { asking 7 westward with pending := [.craneReport 1#8 (.fields 230)] }

theorem claims_of_breaching (c : Nat) (p : Claim) (h : (breaching.crane c).claim = some p) :
    (c = 0 ∧ p = ⟨119, 239⟩) ∨ (c = 1 ∧ p = ⟨240, 960⟩) := by
  have hc : c < 6 := by
    by_contra hn
    have hd : breaching.crane c = ⟨.offline, none, none, none, false⟩ := Table.getD_beyond _ _ (by omega)
    rw [hd] at h
    cases h
  have hall6 : ∀ c ∈ List.range 6, ∀ p, (breaching.crane c).claim = some p →
      (c = 0 ∧ p = ⟨119, 239⟩) ∨ (c = 1 ∧ p = ⟨240, 960⟩) := by
    have h' : ∀ c ∈ List.range 6, (breaching.crane c).claim = none
        ∨ (c = 0 ∧ (breaching.crane c).claim = some ⟨119, 239⟩)
        ∨ (c = 1 ∧ (breaching.crane c).claim = some ⟨240, 960⟩) := by decide +kernel
    intro c hc p hp
    rcases h' c hc with h0 | ⟨h1, h2⟩ | ⟨h1, h2⟩
    · rw [h0] at hp
      cases hp
    · rw [h2] at hp
      cases hp
      exact Or.inl ⟨h1, rfl⟩
    · rw [h2] at hp
      cases hp
      exact Or.inr ⟨h1, rfl⟩
  exact hall6 c (List.mem_range.2 hc) p h

theorem witness_ClaimsKeptApart : breaching.ClaimsApart ∧ ∃ t, step breaching = .next t := by
  refine ⟨⟨fun c d p q hne hp hq _ => ?_, fun c hc => ?_, fun a st h hk => ?_, fun l h => ?_⟩, _, rfl⟩
  · rcases claims_of_breaching c p hp with ⟨rfl, rfl⟩ | ⟨rfl, rfl⟩ <;>
      rcases claims_of_breaching d q hq with ⟨rfl, rfl⟩ | ⟨rfl, rfl⟩
    · exact absurd rfl hne
    · exact ⟨by decide, fun _ => by decide⟩
    · exact ⟨by decide, fun h => absurd h (by decide +kernel)⟩
    · exact absurd rfl hne
  · rcases hp : (breaching.crane c).claim with _ | p
    · exact absurd hp hc
    · rcases claims_of_breaching c p hp with ⟨rfl, _⟩ | ⟨rfl, _⟩ <;> decide +kernel
  · have h' := station_of_stationsAll (s := breaching) (p := fun _ st => st.kind != .crane || st.unit.isSome)
      (by decide +kernel) a st h
    intro hn
    simp [hk, hn] at h'
  · cases (show breaching.store.readStations.value = none by decide +kernel).symm.trans h

/-- A station SILENT, PFW asserted and a slot marked, with queues, a window and a round in use. -/
def loaded : State :=
  { alarmed with
    flags := 0xC10#12
    slots := hall.slots.set 20 ⟨[], [], true⟩
    queue := [.state 0, .header]
    scan := some ⟨⟨6, 9#8, 0, 0, 180, 0, 1, 1, false, 1⟩, 1023, []⟩
    searchQueue := List.replicate 4 ⟨20, 1#8, 0, 0, 180, 0, 1, 1, false, 1⟩
    windows := hall.windows.set 0 ⟨[⟨9, 0⟩, ⟨10, 0⟩, ⟨11, 0⟩, ⟨12, 0⟩], none⟩
    pending := [.clearAlarms 1#8 (.fields 0xFFF)] }

theorem witness_FlagsAndQueuesKept :
    loaded.FlagsStand ∧ loaded.QueuesBounded ∧ ∃ t, step loaded = .next t := by
  have stands : loaded.FlagsStand := by constructor <;> intro _ _ <;> decide +kernel
  have searches : loaded.searchQueue.length = 4 ∧ loaded.scan ≠ none := by decide +kernel
  refine ⟨stands, ⟨by decide +kernel, Nat.le_of_eq searches.1, fun h => absurd h searches.2, fun t => ?_,
    fun a st h => ?_⟩, _, rfl⟩
  · by_cases ht : t < 8
    · have h : ∀ t ∈ List.range 8, (loaded.window t).parts.length ≤ 4 := by decide +kernel
      exact h t (List.mem_range.2 ht)
    · have hd : loaded.window t = ⟨[], none⟩ := Table.getD_beyond _ _ (by omega)
      rw [hd]
      decide
  · have h' := station_of_stationsAll (s := loaded) (p := fun _ st => decide (st.misses ≤ 8)) (by decide +kernel)
      a st h
    simpa using h'

theorem test_flags_after :
    took (step loaded) (fun t => t.flags == 0xC10#12) = true := by decide +kernel

/-- Panels, options and places at the edges of their fields. -/
def longAmend : Instr :=
  .amendPlate 255#8 (.fields ⟨⟨65535, 255⟩, [⟨65535, 0, 65535, 1⟩, ⟨0, 0, 0, 0⟩], some 4294967295, some (.bed 255 255)⟩)

theorem witness_RequestsReadBack :
    ∃ code bytes, longAmend.wf = true ∧ encodeRequest longAmend = some (255#8, code, bytes) ∧ bytes.length ≤ 120
      ∧ decodeRequest 255#8 code bytes = longAmend := by
  refine ⟨0x12, (encodeRequest longAmend).elim [] (fun x => x.2.2), ?_⟩
  decide +kernel

end Sys2Proof.Tests.Slice0
end

section
/-! PROOFS. Sort Part and Dispatch Pallet (R116 to R119): what an immediate request leaves when the block answers at
once, what the pallets and the part records read after each operation, and the two statements. -/

namespace Sys2Proof.Proofs.Pallets

open Sys2Proof Sys2Proof.Machine

/-! ## Requests answered at once -/

section Immediate

variable {α : Type} {r : Req} {s u : State} {a : Nat} {st : Station} {tag : Byte} {v : α}
  {body : Asker → α → State → Reply} {code : AnsCode} {fields : List Token} {l : List Field}

theorem due_of_asks (h : Asks r s a st) : s.due = .polled a st := by
  obtain ⟨⟨_, hrun, hrestart, hpoll, hst⟩, -, -⟩ := h
  simp [State.due, hrun, hrestart, hpoll, hst]

theorem slot_not_busy_of_asks (h : Asks r s a st) (hd : r.deferred = true) : st.slot.busy = false := by
  obtain ⟨-, -, hslot⟩ := h
  cases hs : st.slot with
  | inFlight t => exact absurd hs (hslot hd t)
  | _ => rfl

/-- The station that asks, as the block that answers it knows it. -/
abbrev askerOf (a : Nat) (st : Station) (tag : Byte) : Asker := ⟨a, st.kind, st.unit, tag⟩

/-- An ANSWER on a state that differs from the one heard in no field of the line is the final one (R168). -/
theorem immediate_answer (hst : s.station? a = some st) (hu : OnlyChanges l (s.heard a) u)
    (hl : ∀ f ∈ lineFields, f ∉ l) :
    Immediate s (u.answer (askerOf a st tag) code fields) a st tag code fields := by
  have hstations : u.stations = (s.heard a).stations := hu .stations (hl _ (by decide))
  have hpoll : u.poll = none := hu .poll (hl _ (by decide))
  have hdeferred : u.deferred = (s.heard a).deferred := hu .deferred (hl _ (by decide))
  have hreads (b : Nat) : (u.answer (askerOf a st tag) code fields).station? b = (s.heard a).station? b :=
    station?_congr hstations
  refine ⟨⟨hpoll, ?_, fun b hb => ?_⟩, rfl, by simpa using hdeferred⟩
  · rw [hreads, station?_heard_self hst]
  · rw [hreads, station?_heard_ne hb.symm]

theorem onlyChanges_of_subset {m : List Field} {t : State} (h : OnlyChanges l s t) (hlm : l ⊆ m) :
    OnlyChanges m s t :=
  fun f hf => h f fun hl => hf (hlm hl)

theorem answered_frame {k : Asker} (hu : OnlyChanges l (s.heard a) u) :
    OnlyChanges (lineFields ++ l) s (u.answer k code fields) := by
  have hheard : OnlyChanges (lineFields ++ l) s (s.heard a) := onlyChanges_of_subset (heard_frame a) (by simp)
  have hblock : OnlyChanges (lineFields ++ l) (s.heard a) u :=
    onlyChanges_of_subset hu (List.subset_append_right _ _)
  have hsent : OnlyChanges (lineFields ++ l) u (u.answer k code fields) :=
    onlyChanges_of_subset (answer_frame k code fields) (by simp)
  exact (hheard.trans hblock).trans hsent

/-- A request whose block answers at once, having changed only the fields of `l`, which are none of the line's. -/
theorem request_now (h : Asks r s a st) (hbody : body (askerOf a st tag) v (s.heard a) = .now u code fields)
    (hu : OnlyChanges l (s.heard a) u) (hl : ∀ f ∈ lineFields, f ∉ l) :
    request r tag (.fields v) s body = .next (u.answer (askerOf a st tag) code fields)
      ∧ Immediate s (u.answer (askerOf a st tag) code fields) a st tag code fields
      ∧ OnlyChanges (lineFields ++ l) s (u.answer (askerOf a st tag) code fields) := by
  have hdue := due_of_asks h
  have ⟨_, hkind, _⟩ := h
  refine ⟨?_, immediate_answer (due_station hdue) hu hl, answered_frame hu⟩
  rw [request_owned hdue hkind (slot_not_busy_of_asks h), hbody, State.deliver]

/-- A request whose block answers and changes nothing: a refusal, or a repeat. -/
theorem request_unchanged (h : Asks r s a st)
    (hbody : body (askerOf a st tag) v (s.heard a) = .now (s.heard a) code fields) :
    ∃ t, request r tag (.fields v) s body = .next t ∧ Immediate s t a st tag code fields
      ∧ OnlyChanges lineFields s t :=
  ⟨_, request_now (l := []) h hbody .refl (by simp)⟩

end Immediate

/-! ## Records released -/

section Release

variable {α : Type} {n : Nat}

theorem idx_lt_of_find {t : Pool α n} {h : Handle} {r : α} (hr : t.find h = some r) : h.idx < n := by
  by_contra hn
  rw [Pool.find_eq_some, t.get?_eq_none.2 (Nat.le_of_not_lt hn)] at hr
  cases hr

/-- The entry of a record released is FREE with the next generation (R99). -/
theorem get?_release_self {t : Pool α n} {h : Handle} {r : α} (hr : t.find h = some r) :
    (Pool.release t h).get? h.idx = some ⟨nextGen h.gen, none⟩ := by
  simp [Pool.release, hr, t.get?_set_self _ (idx_lt_of_find hr)]

/-- A release takes the record from its own handle alone: another handle of that entry named none before. -/
theorem find_release (t : Pool α n) (h g : Handle) :
    (Pool.release t h).find g = if g = h then none else t.find g := by
  split
  next hgh => rw [hgh, Pool.release_self]
  next hgh =>
    by_cases hidx : g.idx = h.idx
    · have hgen : h.gen ≠ g.gen := fun e => hgh (by cases g; cases h; simp_all)
      cases hr : t.find h with
      | none => simp [Pool.release, hr]
      | some r =>
        unfold Pool.find
        rw [hidx, get?_release_self hr, Pool.find_eq_some.1 hr]
        simp [hgen]
    · exact Pool.release_others hidx

/-- A FREE entry stays as it is whatever is released. -/
theorem get?_release_of_free {t : Pool α n} {i k : Nat} (h : Handle) (hi : t.get? i = some ⟨k, none⟩) :
    (Pool.release t h).get? i = some ⟨k, none⟩ := by
  unfold Pool.release
  split
  next r hr =>
    have hne : h.idx ≠ i := by
      rintro rfl
      rw [Pool.find_eq_some, hi] at hr
      cases hr
    rw [t.get?_set_ne _ hne, hi]
  next => exact hi

theorem find_foldl_release (l : List Handle) (g : Handle) : ∀ t : Pool α n,
    (l.foldl Pool.release t).find g = if g ∈ l then none else t.find g := by
  induction l with
  | nil => intro t; simp
  | cons h l ih =>
    intro t
    rw [List.foldl_cons, ih, find_release]
    by_cases hgh : g = h <;> simp [hgh]

theorem get?_foldl_release_of_free (l : List Handle) {i k : Nat} : ∀ t : Pool α n,
    t.get? i = some ⟨k, none⟩ → (l.foldl Pool.release t).get? i = some ⟨k, none⟩ := by
  induction l with
  | nil => intro t hi; exact hi
  | cons h l ih => intro t hi; exact ih _ (get?_release_of_free h hi)

/-- However often a record's handle stands in the list, its generation advances once. -/
theorem get?_foldl_release {l : List Handle} {g : Handle} {r : α} : ∀ t : Pool α n,
    g ∈ l → t.find g = some r → (l.foldl Pool.release t).get? g.idx = some ⟨nextGen g.gen, none⟩ := by
  induction l with
  | nil => intro t hg; cases hg
  | cons h l ih =>
    intro t hg hr
    by_cases hgh : g = h
    · subst hgh
      exact get?_foldl_release_of_free l _ (get?_release_self hr)
    · exact ih _ (List.mem_of_ne_of_mem hgh hg) (by rw [find_release, if_neg hgh, hr])

end Release

/-! ## Reading parts and pallets -/

section Reads

variable (s : State)

@[simp] theorem part?_heard (a : Nat) (g : Handle) : (s.heard a).part? g = s.part? g := by simp [State.part?]
@[simp] theorem part?_answer (k : Asker) (c : AnsCode) (fs : List Token) (g : Handle) :
    (s.answer k c fs).part? g = s.part? g := rfl
@[simp] theorem part?_putPallet (n : Nat) (l : List Handle) (g : Handle) : (s.putPallet n l).part? g = s.part? g := rfl
@[simp] theorem pallet_heard (a m : Nat) : (s.heard a).pallet m = s.pallet m := by simp [State.pallet]
@[simp] theorem pallet_answer (k : Asker) (c : AnsCode) (fs : List Token) (m : Nat) :
    (s.answer k c fs).pallet m = s.pallet m := rfl
@[simp] theorem pallet_modifyPart (h : Handle) (f : Part → Part) (m : Nat) :
    (s.modifyPart h f).pallet m = s.pallet m := rfl
@[simp] theorem job?_heard (a : Nat) (g : Handle) : (s.heard a).job? g = s.job? g := by simp [State.job?]

theorem part?_modifyPart (h g : Handle) (f : Part → Part) :
    (s.modifyPart h f).part? g = if h = g then (s.part? g).map f else s.part? g :=
  Pool.find_modify s.parts h g f

theorem pallet_putPallet_self {n : Nat} (hn : n ≤ 15) (l : List Handle) : (s.putPallet n l).pallet n = l :=
  Table.getD_set_self _ _ _ (by omega)

theorem pallet_putPallet_ne {n m : Nat} (hm : m ≠ n) (l : List Handle) : (s.putPallet n l).pallet m = s.pallet m :=
  Table.getD_set_ne _ _ _ hm.symm

theorem retireParts_parts (l : List Handle) : (s.retireParts l).parts = l.foldl Pool.release s.parts := by
  induction l generalizing s with
  | nil => rfl
  | cons h l ih => exact ih _

@[simp] theorem pallet_retireParts (l : List Handle) (m : Nat) : (s.retireParts l).pallet m = s.pallet m := by
  have hpallets : (s.retireParts l).pallets = s.pallets := retireParts_frame l .pallets (by decide)
  rw [State.pallet, hpallets, State.pallet]

theorem part?_retireParts (l : List Handle) (g : Handle) :
    (s.retireParts l).part? g = if g ∈ l then none else s.part? g := by
  rw [State.part?, retireParts_parts, find_foldl_release, State.part?]

theorem notMarked_eq : s.notMarked = fun g => (s.part? g).any fun p => p.mark != .marked := by
  funext g
  unfold State.notMarked
  cases s.part? g <;> rfl

theorem listTok_handles (l : List Handle) :
    listTok (l.map fun g => [Token.handle g]) = .num 1 l.length :: l.map fun g => Token.handle g := by
  rw [listTok, List.length_map, ← List.flatMap_def, ← List.map_eq_flatMap]

end Reads

/-! ## Sort Part (R116, R117) -/

section SortPart

variable {k : Asker} {h : Handle} {n : Nat} {s : State} {p : Part}

theorem exec_sortPart (tag : Byte) (f : Payload SortF) (s : State) :
    exec (.sortPart tag f) s = request reqSortPart tag f s sortPart := rfl

theorem sortPart_badRequest (hn : 15 < n) : sortPart k ⟨h, n⟩ s = .now s .badRequest [] := by
  simp [sortPart, hn, Reply.refuse]

theorem sortPart_noSuch (hn : n ≤ 15) (hp : s.part? h = none) : sortPart k ⟨h, n⟩ s = .now s .noSuch [] := by
  simp [sortPart, Nat.not_lt.2 hn, hp, Reply.refuse]

theorem sortPart_not_on_bed (hn : n ≤ 15) (hp : s.part? h = some p)
    (hbed : ¬(p.cut = .cut ∧ p.placement = .onBed)) :
    sortPart k ⟨h, n⟩ s = .now s .wrongState [] := by
  simp only [sortPart, if_neg (Nat.not_lt.2 hn), hp, if_neg hbed, Reply.refuse]

/-- The part's job is ENDED (R116). -/
def Ended (s : State) (p : Part) : Prop := ∃ j, s.job? p.job = some j ∧ j.state = .ended

theorem sortPart_not_ended (hn : n ≤ 15) (hp : s.part? h = some p) (hcut : p.cut = .cut) (hbed : p.placement = .onBed)
    (hj : ¬Ended s p) : sortPart k ⟨h, n⟩ s = .now s .wrongState [] := by
  cases hjob : s.job? p.job with
  | none => simp [sortPart, Nat.not_lt.2 hn, hp, hcut, hbed, hjob, Reply.refuse]
  | some j =>
    have hstate : j.state ≠ .ended := fun e => hj ⟨j, hjob, e⟩
    simp [sortPart, Nat.not_lt.2 hn, hp, hcut, hbed, hjob, hstate, Reply.refuse]

theorem sortPart_full (hn : n ≤ 15) (hp : s.part? h = some p) (hcut : p.cut = .cut) (hbed : p.placement = .onBed)
    (hj : Ended s p) (hfull : 200 ≤ (s.pallet n).length) : sortPart k ⟨h, n⟩ s = .now s .full [] := by
  obtain ⟨j, hjob, hstate⟩ := hj
  simp [sortPart, Nat.not_lt.2 hn, hp, hcut, hbed, hjob, hstate, Config.palletMax, hfull, Reply.refuse]

theorem sortPart_sorts (hn : n ≤ 15) (hp : s.part? h = some p) (hcut : p.cut = .cut) (hbed : p.placement = .onBed)
    (hj : Ended s p) (hroom : (s.pallet n).length < 200) :
    sortPart k ⟨h, n⟩ s
      = .now ((s.putPallet n (s.pallet n ++ [h])).modifyPart h fun p => { p with placement := .pallet n })
          .done [.num 1 ((s.pallet n).length + 1)] := by
  obtain ⟨j, hjob, hstate⟩ := hj
  simp [sortPart, Nat.not_lt.2 hn, hp, hcut, hbed, hjob, hstate, Config.palletMax, Nat.not_le.2 hroom]

theorem sorted_frame (l : List Handle) (f : Part → Part) :
    OnlyChanges [.parts, .pallets] s ((s.putPallet n l).modifyPart h f) :=
  ((putPallet_frame n l).mono (by decide)).trans ((modifyPart_frame h f).mono (by decide))

end SortPart

/-- Settles O30: each check of R116 in its order, and the state R117 names where all hold. -/
theorem sortPartSorts : Obligations.SortPartSorts := by
  unfold Obligations.SortPartSorts
  intro s a st tag h n hasks
  simp only [exec_sortPart]
  have ended_heard (p : Part) : Ended (s.heard a) p ↔ Ended s p := by simp [Ended]
  refine ⟨fun hn => ?_, fun hn hp => ?_, fun p hn hp => ⟨fun hbed => ?_, fun hcut hbed hj => ?_,
    fun hcut hbed hj hfull => ?_, fun hcut hbed hj hroom => ?_⟩⟩
  · exact request_unchanged hasks (sortPart_badRequest hn)
  · exact request_unchanged hasks (sortPart_noSuch hn (by simpa))
  · exact request_unchanged hasks (sortPart_not_on_bed hn (by simpa) hbed)
  · exact request_unchanged hasks (sortPart_not_ended hn (by simpa) hcut hbed (mt (ended_heard p).1 hj))
  · exact request_unchanged hasks (sortPart_full hn (by simpa) hcut hbed ((ended_heard p).2 hj) (by simpa))
  · obtain ⟨hnext, himm, hframe⟩ := request_now hasks
      (sortPart_sorts (k := askerOf a st tag) hn (s := s.heard a) (p := p) (h := h)
        (by simpa) hcut hbed ((ended_heard p).2 hj) (by simpa))
      (sorted_frame _ _) (by decide)
    refine ⟨_, hnext, ?_, fun g hg => ?_, ?_, fun m hm => ?_, by simpa using himm, hframe⟩
    · simp [part?_modifyPart, hp]
    · simp [part?_modifyPart, hg.symm]
    · simp [pallet_putPallet_self _ hn]
    · simp [pallet_putPallet_ne _ hm]

/-! ## Dispatch Pallet (R118, R119) -/

section DispatchPallet

variable {k : Asker} {n : Nat} {s : State}

theorem exec_dispatchPallet (tag : Byte) (f : Payload Nat) (s : State) :
    exec (.dispatchPallet tag f) s = request reqDispatchPallet tag f s dispatchPallet := rfl

theorem dispatchPallet_badRequest (hn : 15 < n) : dispatchPallet k n s = .now s .badRequest [] := by
  simp [dispatchPallet, hn, Reply.refuse]

/-- Parts not MARKED keep the pallet in the hall, and the answer names the first eight of them (R118). -/
theorem dispatchPallet_unmarked (hn : n ≤ 15) (hne : (s.pallet n).filter s.notMarked ≠ []) :
    dispatchPallet k n s
      = .now s .wrongState
          (.num 1 ((s.pallet n).filter s.notMarked).length :: .num 1 (min 8 ((s.pallet n).filter s.notMarked).length)
            :: (((s.pallet n).filter s.notMarked).take 8).map fun g => Token.handle g) := by
  rw [dispatchPallet, if_neg (Nat.not_lt.2 hn)]
  split
  next hnil => exact absurd hnil hne
  next g gs hcons => rw [hcons, listTok_handles, List.length_take]; simp

theorem dispatchPallet_retires (hn : n ≤ 15) (hnil : (s.pallet n).filter s.notMarked = []) :
    dispatchPallet k n s
      = .now ((s.retireParts (s.pallet n)).putPallet n []) .done [.num 1 (s.pallet n).length] := by
  simp only [dispatchPallet, if_neg (Nat.not_lt.2 hn), hnil]

theorem dispatched_frame (l : List Handle) :
    OnlyChanges [.parts, .pallets] s ((s.retireParts l).putPallet n []) :=
  ((retireParts_frame l).mono (by decide)).trans ((putPallet_frame n []).mono (by decide))

end DispatchPallet

/-- Settles O31: what R118 and R119 say of a pallet with parts not MARKED and of one without; the retirements by
induction on the pallet's list. -/
theorem dispatchPalletRetires : Obligations.DispatchPalletRetires := by
  unfold Obligations.DispatchPalletRetires
  intro s a st tag n unmarked hasks hunmarked
  simp only [exec_dispatchPallet]
  have hheard : ((s.heard a).pallet n).filter (s.heard a).notMarked = unmarked := by
    simp [hunmarked, notMarked_eq]
  refine ⟨fun hn => ?_, fun hn hne => ?_, fun hn hnil => ?_⟩
  · exact request_unchanged hasks (dispatchPallet_badRequest hn)
  · rw [← hheard] at hne ⊢
    exact request_unchanged hasks (dispatchPallet_unmarked hn hne)
  · obtain ⟨hnext, himm, hframe⟩ := request_now hasks
      (dispatchPallet_retires (k := askerOf a st tag) hn (hheard.trans hnil)) (dispatched_frame _)
      (by decide)
    refine ⟨_, hnext, ?_, fun m hm => ?_, fun g hg => ?_, fun g hg p hp => ?_, fun g p hg hp => ?_,
      by simpa using himm, hframe⟩
    · simp [pallet_putPallet_self _ hn]
    · simp [pallet_putPallet_ne _ hm]
    · simp [part?_retireParts, hg]
    · simp only [answer_parts, putPallet_parts, retireParts_parts, heard_parts, pallet_heard]
      exact get?_foldl_release _ hg hp
    · simp [part?_retireParts, hg, hp]

end Sys2Proof.Proofs.Pallets
end

section
/-! PROOFS. Fetch Result (R170): what the Link Controller replies by the state of the station's own answer slot, and
the statement. -/

namespace Sys2Proof.Proofs.FetchResult

open Sys2Proof Sys2Proof.Machine
open Sys2Proof.Proofs.Pallets (askerOf request_unchanged)

/-! ## The reply by the state of the slot -/

section Reply

variable {k : Asker} {s : State} {st : Station} {g : Byte} {requestCode : Nat} {code : AnsCode} {fields : List Token}

theorem exec_fetchResult (tag : Byte) (p : Payload Unit) (s : State) :
    exec (.fetchResult tag p) s = request reqFetchResult tag p s fetchResult := rfl

theorem fetchResult_empty (hst : s.station? k.address = some st) (hslot : st.slot = .empty) :
    fetchResult k () s = .now s .noResult [] := by
  simp [fetchResult, hst, hslot, Reply.refuse]

theorem fetchResult_inFlight (hst : s.station? k.address = some st) (hslot : st.slot = .inFlight g) :
    fetchResult k () s = .now s .working [.num 1 g.toNat] := by
  simp [fetchResult, hst, hslot]

theorem fetchResult_held (hst : s.station? k.address = some st) (hslot : st.slot = .held g requestCode code fields) :
    fetchResult k () s
      = .now (s.putAnswer k.address .empty) code (.num 1 g.toNat :: .choice requestCode :: fields) := by
  simp [fetchResult, hst, hslot]

end Reply

/-! ## An answer that also puts the slot -/

/-- A request whose block puts the asking station's slot and answers at once. The slot is one of the line's fields, so
the rule for a block that leaves the line alone does not cover it. -/
theorem request_puts_slot {α : Type} {r : Req} {s : State} {a : Nat} {st : Station} {tag : Byte} {v : α}
    {body : Asker → α → State → Reply} {slot : AnsSlot} {code : AnsCode} {fields : List Token} (h : Asks r s a st)
    (hbody : body (askerOf a st tag) v (s.heard a) = .now ((s.heard a).putAnswer a slot) code fields) :
    ∃ t, request r tag (.fields v) s body = .next t ∧ Heard s t a st slot ∧ t.deferred = s.deferred
      ∧ Sends t a st tag code fields ∧ OnlyChanges lineFields s t := by
  obtain ⟨hheard, hframe, -⟩ := slot_line (tag := tag) (code := code) (fields := fields) (own := []) h.station .refl
    rfl slot _ .refl
  exact ⟨_, by rw [h.request, hbody, State.deliver], hheard, by simp, answer_sends _, hframe⟩

/-- Settles O7: by the state of the slot of the station that asks; hearing the station leaves its slot as it was. -/
theorem fetchResultGivesTheSlot : Obligations.FetchResultGivesTheSlot := by
  unfold Obligations.FetchResultGivesTheSlot
  intro s a st tag hasks
  have hst := station?_heard_self hasks.station
  rw [exec_fetchResult]
  cases hslot : st.slot with
  | empty =>
    obtain ⟨t, hnext, himm, hframe⟩ := request_unchanged (tag := tag) hasks (fetchResult_empty hst hslot)
    exact ⟨t, hnext, by simp, fun _ => himm, by simp, hframe⟩
  | inFlight g =>
    obtain ⟨t, hnext, himm, hframe⟩ := request_unchanged (tag := tag) hasks (fetchResult_inFlight hst hslot)
    refine ⟨t, hnext, ?_, by simp, by simp, hframe⟩
    rintro _ ⟨⟩
    exact himm
  | held g requestCode code fields =>
    obtain ⟨t, hnext, hheard, hdeferred, hsends, hframe⟩ :=
      request_puts_slot (tag := tag) hasks (fetchResult_held hst hslot)
    refine ⟨t, hnext, by simp, by simp, ?_, hframe⟩
    rintro _ _ _ _ ⟨⟩
    exact ⟨hheard, hdeferred, hsends⟩

end Sys2Proof.Proofs.FetchResult
end

section
/-! PROOFS. The rules the statements about requests share: a list of checks met in order, a request taken by the kind
of its block's reply, and what the state answered reads like beyond the line. -/

namespace Sys2Proof.Proofs.Requests

open Sys2Proof Sys2Proof.Machine
open Sys2Proof.Proofs.Pallets (askerOf request_unchanged)

/-! ## Beyond the line -/

section Beyond

variable {u t : State}

/-- A state that differs from another in the fields of the line alone. -/
theorem eq_of_line (h : OnlyChanges lineFields u t) :
    t = { u with stations := t.stations, poll := t.poll, lastFrame := t.lastFrame, deferred := t.deferred } := by
  have keeps (f : Field) (hf : lineFields.contains f = false) : f.kept u t :=
    h f fun hm => by rw [List.contains_iff_mem.2 hm] at hf; cases hf
  apply State.ext
  case stations | poll | lastFrame | deferred => rfl
  case phase => exact keeps .phase rfl
  case rst => exact keeps .rst rfl
  case pfw => exact keeps .pfw rfl
  case restartPending => exact keeps .restartPending rfl
  case round => exact keeps .round rfl
  case roundPos => exact keeps .roundPos rfl
  case plates => exact keeps .plates rfl
  case seqCounter => exact keeps .seqCounter rfl
  case slots => exact keeps .slots rfl
  case beds => exact keeps .beds rfl
  case cart => exact keeps .cart rfl
  case hall => exact keeps .hall rfl
  case searchQueue => exact keeps .searchQueue rfl
  case scan => exact keeps .scan rfl
  case tables => exact keeps .tables rfl
  case jobs => exact keeps .jobs rfl
  case drafts => exact keeps .drafts rfl
  case parts => exact keeps .parts rfl
  case pallets => exact keeps .pallets rfl
  case windows => exact keeps .windows rfl
  case legs => exact keeps .legs rfl
  case batches => exact keeps .batches rfl
  case commitCounter => exact keeps .commitCounter rfl
  case cranes => exact keeps .cranes rfl
  case store => exact keeps .store rfl
  case headerFloor => exact keeps .headerFloor rfl
  case queue => exact keeps .queue rfl
  case inFlight => exact keeps .inFlight rfl
  case flags => exact keeps .flags rfl
  case pending => exact keeps .pending rfl

/-- What is read without the line reads the same from a state that differs in the line alone. -/
theorem read_of_line {β : Type} (read : State → β) (h : OnlyChanges lineFields u t)
    (hread : ∀ st p f d, read { u with stations := st, poll := p, lastFrame := f, deferred := d } = read u := by
      intros; rfl) : read t = read u := by
  rw [eq_of_line h, hread]

end Beyond

/-- What a block leaves of the state heard, said of the state the request found and of the state answered: all of it
that reads nothing of the line. -/
theorem taken_of_line (P : State → State → Prop) {s u t : State} {a : Nat} (hP : P (s.heard a) u)
    (hline : OnlyChanges lineFields u t)
    (hsource : ∀ st p f d w, P { s with stations := st, poll := p, lastFrame := f, deferred := d } w = P s w := by
      intros; rfl)
    (htarget : ∀ st p f d, P s { u with stations := st, poll := p, lastFrame := f, deferred := d } = P s u := by
      intros; rfl) : P s t := by
  have hfound : P (s.heard a) u = P s u :=
    read_of_line (fun w => P w u) ((heard_frame a).mono (by decide)) fun st p f d => hsource st p f d u
  rw [read_of_line (P s) hline htarget, ← hfound]
  exact hP

/-! ## Checks in their order -/

section Requests

variable {α : Type} {c : Instr} {r : Req} {s u : State} {a : Nat} {st : Station} {tag : Byte} {v : α}
  {body : Asker → α → State → Reply} {code : AnsCode} {fields : List Token} {own : List Field}
  {checks : List (Prop × AnsCode)}

/-- A block's reply refuses with the code of the first check that fails. -/
def Turns (s : State) (y : Reply) (checks : List (Prop × AnsCode)) : Prop :=
  ∀ code, FirstFails checks code → y = .now s code []

theorem turns_nil {y : Reply} : Turns s y [] := fun _ h => h.elim

theorem turns_cons {y : Reply} {ok : Prop} (hfail : ¬ok → y = .now s code []) (hrest : ok → Turns s y checks) :
    Turns s y ((ok, code) :: checks) := by
  rintro e (⟨hnot, rfl⟩ | ⟨hok, he⟩)
  · exact hfail hnot
  · exact hrest hok e he

/-- A check that stands at the head of the block, written as the test that refuses. -/
theorem turns_ite {y : Reply} {ok p : Prop} [Decidable p] (hp : p ↔ ¬ok) (hrest : ok → Turns s y checks) :
    Turns s (if p then .now s code [] else y) ((ok, code) :: checks) :=
  turns_cons (fun hok => if_pos (hp.2 hok)) fun hok => by rw [if_neg fun h => hp.1 h hok]; exact hrest hok

theorem refusedInOrder (hexec : exec c s = request r tag (.fields v) s body) (h : Asks r s a st)
    (hbody : Turns (s.heard a) (body (askerOf a st tag) v (s.heard a)) checks) :
    RefusedInOrder c s a st tag checks :=
  fun code hf => hexec ▸ request_unchanged h (hbody code hf)

/-- The state heard reads as before in all that is no field of the line. -/
theorem heard_line : OnlyChanges lineFields s (s.heard a) := (heard_frame a).mono (by decide)

/-- Checks that read nothing of the line hold on the state heard as on the state the request found. -/
theorem allHold_heard (checks : State → List (Prop × AnsCode)) (h : AllHold (checks s))
    (hread : ∀ st p f d, checks { s with stations := st, poll := p, lastFrame := f, deferred := d } = checks s := by
      intros; rfl) : AllHold (checks (s.heard a)) :=
  read_of_line checks heard_line hread ▸ h

theorem refusedInOrder_of_heard (checks : State → List (Prop × AnsCode))
    (hexec : exec c s = request r tag (.fields v) s body) (h : Asks r s a st)
    (hbody : Turns (s.heard a) (body (askerOf a st tag) v (s.heard a)) (checks (s.heard a)))
    (hread : ∀ st p f d, checks { s with stations := st, poll := p, lastFrame := f, deferred := d } = checks s := by
      intros; rfl) : RefusedInOrder c s a st tag (checks s) :=
  refusedInOrder hexec h (read_of_line checks heard_line hread ▸ hbody)

/-- The checks of a block read nothing of the line: they are made of the state the request found. -/
theorem refusedInOrder_of_block {checks : State → List (Prop × AnsCode)}
    (hexec : exec c s = request r tag (.fields v) s body) (h : Asks r s a st)
    (hbody : ∀ u, Turns u (body (askerOf a st tag) v u) (checks u))
    (hread : ∀ st p f d, checks { s with stations := st, poll := p, lastFrame := f, deferred := d } = checks s := by
      intros; rfl) : RefusedInOrder c s a st tag (checks s) :=
  refusedInOrder hexec h (read_of_line checks heard_line hread ▸ hbody (s.heard a))

/-! ## A request taken, by the kind of its block's reply -/

theorem request_answers (h : Asks r s a st) (hbody : body (askerOf a st tag) v (s.heard a) = .now u code fields)
    (hu : OnlyChanges own (s.heard a) u) (hown : own.all (!lineFields.contains ·) = true) :
    ∃ t, request r tag (.fields v) s body = .next t ∧ Immediate s t a st tag code fields
      ∧ OnlyChanges (lineFields ++ own) s t ∧ OnlyChanges lineFields u t := by
  obtain ⟨himm, hframe, hline⟩ := now_line (r := r) (tag := tag) (code := code) (fields := fields) h.station hu hown
  exact ⟨_, by rw [h.request, hbody], himm, hframe, hline.mono (by decide)⟩

theorem request_completes (h : Asks r s a st)
    (hbody : body (askerOf a st tag) v (s.heard a) = .complete u code fields)
    (hu : OnlyChanges own (s.heard a) u) (hown : own.all (!lineFields.contains ·) = true) :
    ∃ t, request r tag (.fields v) s body = .next t ∧ AtOnce r s t a st tag code fields
      ∧ OnlyChanges (lineFields ++ own) s t ∧ OnlyChanges lineFields u t :=
  ⟨_, by rw [h.request, hbody], complete_line h.station hu hown⟩

theorem request_waits {images : List ImageId} (h : Asks r s a st) (himages : images ≠ [])
    (hbody : body (askerOf a st tag) v (s.heard a) = .waits u images code fields)
    (hu : OnlyChanges own (s.heard a) u) (hown : own.all (!lineFields.contains ·) = true) :
    ∃ t, request r tag (.fields v) s body = .next t ∧ Awaits r s t a st tag images code fields
      ∧ OnlyChanges (lineFields ++ own) s t ∧ OnlyChanges lineFields u t :=
  ⟨_, by rw [h.request, hbody], waits_line himages h.station hu hown⟩

end Requests

/-! ## The write queue -/

section Queue

variable {s : State}

theorem enqueue_queue_joining (i : ImageId) : (s.enqueue i).queue = joining s.queue [i] := by
  simp [enqueue_queue, joining]

theorem enqueueAll_queue (l : List ImageId) : (s.enqueueAll l).queue = joining s.queue l := by
  induction l generalizing s with
  | nil => rfl
  | cons i l ih =>
    have hcons : (s.enqueueAll (i :: l)).queue = joining (s.enqueue i).queue l := ih (s := s.enqueue i)
    rw [hcons, enqueue_queue]
    rfl

end Queue

end Sys2Proof.Proofs.Requests
end

section
/-! PROOFS. The invariants of the reset state, and of the claims of a runway: what start-up can bring from a stored
station table, and a state that meets the claims' invariant with a step from it to one that does not. -/

namespace Sys2Proof.Proofs.Invariants

open Sys2Proof Sys2Proof.Machine

/-! ## Factory stations -/

/-- The factory station table holds address 1 alone (R163). -/
theorem factory_station {s : State} {a : Nat} {st : Station} (hs : s.stations = stationTable StationCfg.factory)
    (h : s.station? a = some st) : a = 1 ∧ st = ⟨.supervisor, none, 1, 0, false, .empty⟩ := by
  obtain ⟨hlo, hhi⟩ := station?_pos h
  obtain ⟨i, rfl⟩ : ∃ i, a = i + 1 := ⟨a - 1, by omega⟩
  have hi : i < 32 := by omega
  obtain ⟨rfl, rfl⟩ : i = 0 ∧ StationCfg.fresh ⟨1, .supervisor, none, 1⟩ = st := by
    simpa [State.station?, hs, stationTable, Table.get?, Table.ofFn, hi, StationCfg.factory] using h
  exact ⟨rfl, rfl⟩

/-- A state without a claim, with the factory stations and the factory array, meets the claims' invariant. -/
theorem claimsApart_of_no_claim {s : State} (hclaims : ∀ c, (s.crane c).claim = none)
    (hs : s.stations = stationTable StationCfg.factory) (hstore : s.store = Store.factory) : s.ClaimsApart where
  apart c d p q _ hp := by rw [hclaims] at hp; cases hp
  served c hc := absurd (hclaims c) hc
  bound a st h hk := by
    obtain ⟨-, rfl⟩ := factory_station hs h
    cases hk
  stored l hl := by
    rw [hstore] at hl
    cases hl

/-! ## The reset state -/

theorem reset_crane (c : Nat) : State.reset.crane c = ⟨.offline, none, none, none, false⟩ := Table.getD_replicate ..

theorem reset_slot (k : Nat) : State.reset.slot k = ⟨[], [], false⟩ := Table.getD_replicate ..

theorem reset_window (t : Nat) : State.reset.window t = ⟨[], none⟩ := Table.getD_replicate ..

theorem reset_claimsApart : State.reset.ClaimsApart :=
  claimsApart_of_no_claim (fun c => by rw [reset_crane]) rfl rfl

theorem reset_flagsStand : State.reset.FlagsStand where
  silent _ := by
    rintro ⟨a, st, hst, hsilent⟩
    obtain ⟨-, rfl⟩ := factory_station rfl hst
    cases hsilent
  warning _ hpfw := by cases hpfw
  marked _ := by
    rintro ⟨k, hk⟩
    rw [reset_slot] at hk
    cases hk

theorem reset_queuesBounded : State.reset.QueuesBounded where
  images := by decide
  searches := by decide
  scanning _ := rfl
  windows t := by rw [reset_window]; decide
  misses a st hst := by
    obtain ⟨-, rfl⟩ := factory_station rfl hst
    decide

/-- Settles O59: each of the three invariants from what the reset state holds. -/
theorem resetMeetsInvariants : Obligations.ResetMeetsInvariants := by
  unfold Obligations.ResetMeetsInvariants
  exact ⟨reset_claimsApart, reset_flagsStand, reset_queuesBounded⟩

/-! ## A crane out of service that takes a claim

The shrink of R158 gives a crane that loses its leg the idle claim at its position wherever that is grantable, whether
or not the crane is in service. The invariant does not say that a crane with a position is in service. -/

/-- A leg in the hands of crane 0. -/
def strayLeg : Leg :=
  { Leg.fresh .a .manual none .choose 0 with state := .assigned, crane := some 0 }

/-- Crane 0 has a leg and a position but no claim, no CRANE station is enrolled, and a supervisor cancels the leg. -/
def stray : State :=
  { State.reset with
    phase := .running
    poll := some ⟨1, 1⟩
    legs := State.reset.legs.set 0 ⟨0, some strayLeg⟩
    cranes := State.reset.cranes.set 0 ⟨.assigned, some ⟨0, 0⟩, some 100, none, false⟩
    pending := [.cancelLeg 0#8 (.fields ⟨0, 0⟩)] }

theorem stray_no_claim (c : Nat) : (stray.crane c).claim = none := by
  rcases Nat.eq_zero_or_pos c with rfl | hpos
  · rfl
  · have hkept : stray.crane c = State.reset.crane c := Table.getD_set_ne _ _ _ (by omega)
    rw [hkept, reset_crane]

theorem stray_claimsApart : stray.ClaimsApart := claimsApart_of_no_claim stray_no_claim rfl rfl

/-- After the step crane 0 has a claim and is not in service. -/
theorem stray_steps : ∃ t, step stray = .next t ∧ (t.crane 0).claim ≠ none ∧ t.inService 0 = false := by
  have hrun : (match step stray with
    | .next t => (t.crane 0).claim.isSome && !t.inService 0
    | _ => false) = true := by decide +kernel
  split at hrun
  next t ht =>
    rw [Bool.and_eq_true] at hrun
    exact ⟨t, ht, Option.isSome_iff_ne_none.1 hrun.1, by simpa using hrun.2⟩
  next => cases hrun

/-- Refutes O57: the clause that a crane with a claim is in service is not kept where a crane out of service, which
has a position and no claim, loses its leg. -/
theorem not_claimsKeptApart : ¬ Obligations.ClaimsKeptApart := by
  unfold Obligations.ClaimsKeptApart
  intro hkept
  obtain ⟨t, hstep, hclaim, hserved⟩ := stray_steps
  have := (hkept stray t stray_claimsApart hstep).served 0 hclaim
  simp [hserved] at this

end Sys2Proof.Proofs.Invariants
end

section
/-! PROOFS. What the owning block of each request can reply: the fields of the state that it can change, and that a
refusal changes none. -/

namespace Sys2Proof.Proofs.Blocks

open Sys2Proof Sys2Proof.Machine

/-! ## Replies that change some fields, and none where they refuse -/

/-- A block's reply to a request: it changes only the fields of a list, and a refusal changes nothing (R14, R169). -/
structure Serves (own : List Field) (s : State) (y : Reply) : Prop where
  frame : OnlyChanges own s y.state
  clean : ∀ u code fields, y = .now u code fields → code ∈ refusals → u = s

section Rules

variable {own : List Field} {s u : State} {code : AnsCode} {fields : List Token} {images : List ImageId}

theorem Serves.same : Serves own s (.now s code fields) where
  frame := .refl
  clean := by rintro u _ _ ⟨⟩ _; rfl

theorem Serves.now (h : OnlyChanges own s u) (hcode : code ∉ refusals) : Serves own s (.now u code fields) where
  frame := h
  clean := by rintro _ _ _ ⟨⟩ hc; exact absurd hc hcode

theorem Serves.complete (h : OnlyChanges own s u) : Serves own s (.complete u code fields) where
  frame := h
  clean := by rintro _ _ _ ⟨⟩

theorem Serves.waits (h : OnlyChanges own s u) : Serves own s (.waits u images code fields) where
  frame := h
  clean := by rintro _ _ _ ⟨⟩

theorem Serves.ite {p : Prop} [Decidable p] {x y : Reply} (hx : Serves own s x) (hy : Serves own s y) :
    Serves own s (if p then x else y) := by
  split <;> assumption

theorem Serves.search (h : OnlyChanges own s u) : Serves own s (.search u) where
  frame := h
  clean := by rintro _ _ _ ⟨⟩

end Rules

variable {s : State} {k : Asker} {h : Handle}

/-! ## Plates (chapter 1) -/

theorem registerPlate_serves (f : RegisterF) :
    Serves [.plates, .seqCounter, .slots, .beds, .cart, .queue] s (registerPlate k f s) := by
  unfold registerPlate
  dsimp only
  split; · exact .same
  split; · exact .same
  split; · exact .same
  split; · exact .same
  split; · exact .same
  split
  · exact .same
  · rename_i t g ht
    exact .waits (((createPlate_frame ht).mono (by decide)).trans ((joinPlace_frame g _).mono (by decide)))

theorem amendPlate_serves (f : AmendF) : Serves placeFields s (amendPlate k f s) := by
  unfold amendPlate
  dsimp only
  split; · exact .same
  split; · exact .same
  refine .ite .same (.ite .same (.ite .same (.ite .same (.ite .same ?_))))
  have hnew (r : PlateRec) := (modifyPlate_frame (s := s) f.plate (f.apply (s.massFor r.ident (f.newArea r)))).mono
    (m := placeFields) (by decide)
  split
  · split
    · exact .complete (hnew _)
    · exact .waits ((hnew _).trans ((enqueue_frame _).mono (by decide)))
  · exact .waits ((hnew _).trans (movePlate_frame _ _))

theorem setHeld_serves (v : Bool) : Serves [.plates, .queue] s (setHeld v k h s) := by
  unfold setHeld
  split; · exact .same
  split; · exact .same
  split; · exact .same
  split; · exact .same
  split
  · exact .complete .refl
  · exact .waits (((modifyPlate_frame h _).mono (by decide)).trans ((enqueue_frame _).mono (by decide)))

theorem retirePlate_serves (f : RetireF) : Serves placeFields s (retirePlate k f s) := by
  unfold retirePlate
  split; · exact .same
  split; · exact .same
  split; · exact .same
  split; · exact .same
  split; · exact .same
  split
  · exact .same
  · exact .waits (retirePlate_frame _ _)

/-! ## Searches (chapter 4) -/

theorem findRemnant_serves (f : FindF) : Serves [.searchQueue, .scan] s (findRemnant k f s) := by
  unfold findRemnant
  split; · exact .same
  split; · exact .same
  refine .search (OnlyChanges.trans ?_ startScan_frame)
  intro f hf
  cases f <;> first | rfl | exact absurd (by decide) hf

/-! ## Tables and jobs (chapter 5) -/

theorem stageParts_serves (f : StageF) : Serves [.drafts] s (stageParts k f s) := by
  unfold stageParts
  dsimp only
  split; · exact .same
  exact .ite .same (.ite .same (.now (putDraft_frame _ _) (by decide)))

theorem admitJob_serves (f : AdmitF) : Serves admitFields s (admitJob k f s) := by
  unfold admitJob
  split; · exact .same
  split; · exact .same
  split; · exact .same
  split; · exact .same
  · exact .same
  split; · exact .same
  split; · exact .same
  split; · exact .same
  split; · exact .same
  split; · exact .same
  split; · exact .same
  refine ⟨admit_frame k f _ _, ?_⟩
  rintro _ _ _ ⟨⟩ hc
  exact absurd hc (by decide)

theorem startJob_serves : Serves [.jobs] s (startJob k h s) := by
  unfold startJob
  split; · exact .same
  split
  · exact .now (modifyJob_frame h _) (by decide)
  · exact .same

theorem partCut_serves (f : PartCutF) : Serves [.parts, .jobs, .flags] s (partCut k f s) := by
  unfold partCut
  split; · exact .same
  split; · exact .same
  split; · exact .same
  split; · exact .same
  split
  · exact .now (cutPart_frame _ _) (by decide)
  · exact .same
  · exact .same

theorem pauseJob_serves (f : PauseF) : Serves [.jobs] s (pauseJob k f s) := by
  unfold pauseJob
  split; · exact .same
  split; · exact .same
  split; · exact .same
  split
  · exact .now (modifyJob_frame _ _) (by decide)
  · exact .same

theorem resumeJob_serves : Serves [.jobs] s (resumeJob k h s) := by
  unfold resumeJob
  split; · exact .same
  split
  · exact .same
  · exact .now (modifyJob_frame _ _) (by decide)

theorem endJob_serves (f : EndF) : Serves jobEndFields s (endJob k f s) := by
  unfold endJob
  dsimp only
  split; · exact .same
  split; · exact .same
  split; · exact .same
  split; · exact .same
  split; · exact .same
  split
  · exact .same
  · exact .waits (jobEnd_frame _ _ _ _)

/-- What an Abort Job can change, of a pierced job or of another. -/
abbrev anyAbortFields : List Field := jobEndFields ++ legFields

theorem abortJob_serves : Serves anyAbortFields s (abortJob k h s) := by
  unfold abortJob
  dsimp only
  split; · exact .same
  split; · exact .same
  split
  · split; · exact .same
    split
    · exact .same
    · exact .waits ((jobEnd_frame _ _ _ _).mono (by decide))
  · split
    · exact .same
    · exact .complete ((abortUnpierced_frame _ _).mono (by decide))

theorem clearBed_serves (f : BedF) : Serves [.beds, .jobs, .parts] s (clearBed k f s) := by
  unfold clearBed
  split; · exact .same
  split; · exact .same
  split; · exact .same
  split; · exact .same
  split
  · exact .same
  · exact .now (((modifyBed_frame _ _ _).mono (by decide)).trans ((clearJob_frame _).mono (by decide))) (by decide)

/-! ## Parts and marks (chapter 6) -/

theorem nextMark_serves : Serves [.parts, .windows] s (nextMark k () s) := by
  unfold nextMark
  dsimp only
  split; · exact .same
  split
  · split; · exact .same
    split
    · exact .same
    · exact .now (((modifyPart_frame _ _).mono (by decide)).trans ((putWindow_frame _ _).mono (by decide)))
        (by decide)
  · exact .same

theorem confirmMark_serves (o : MarkOutcome) : Serves [.parts, .windows, .flags] s (confirmMark o k h s) := by
  unfold confirmMark
  dsimp only
  split; · exact .same
  split
  · exact .now ((((modifyPart_frame _ _).mono (by decide)).trans ((putWindow_frame _ _).mono (by decide))).trans
      ((raiseIf_frame _ _).mono (by decide))) (by decide)
  · split <;> exact .same

theorem confirmManualMark_serves : Serves [.parts] s (confirmManualMark k h s) := by
  unfold confirmManualMark
  split; · exact .same
  split; · exact .same
  split
  · exact .now (modifyPart_frame _ _) (by decide)
  · exact .now (modifyPart_frame _ _) (by decide)
  · exact .same
  · exact .same

theorem scrapPart_serves : Serves [.pallets, .parts, .jobs] s (scrapPart k h s) := by
  unfold scrapPart
  split; · exact .same
  split
  · exact .same
  · exact .now (scrapPart_frame _ _) (by decide)

theorem sortPart_serves (f : SortF) : Serves [.pallets, .parts] s (sortPart k f s) := by
  unfold sortPart
  split; · exact .same
  split; · exact .same
  split
  · split; · exact .same
    split; · exact .same
    split
    · exact .same
    · exact .now (((putPallet_frame _ _).mono (by decide)).trans ((modifyPart_frame _ _).mono (by decide)))
        (by decide)
  · exact .same

theorem dispatchPallet_serves (n : Nat) : Serves [.pallets, .parts] s (dispatchPallet k n s) := by
  unfold dispatchPallet
  split; · exact .same
  split
  · exact .now (((retireParts_frame _).mono (by decide)).trans ((putPallet_frame _ _).mono (by decide))) (by decide)
  · exact .same

/-! ## Legs and batches (chapter 7) -/

theorem openBatchFor_frame : OnlyChanges [.legs, .batches] s (openBatchFor k () s).state := by
  unfold openBatchFor
  split
  · exact discardOpen_frame _
  · rename_i t hb ht
    exact (discardOpen_frame _).trans (openBatch_frame ht)

theorem addLeg_serves (f : AddLegF) : Serves [.legs, .batches] s (addLeg k f s) := by
  unfold addLeg
  dsimp only
  split; · exact .same
  split; · exact .same
  split; · exact .same
  split; · exact .same
  · exact .same
  split; · exact .same
  split
  · exact .same
  · exact .now (appendLeg_frame _ _ _) (by decide)

theorem commitBatchFor_serves : Serves [.legs, .batches, .commitCounter] s (commitBatchFor k () s) := by
  unfold commitBatchFor
  dsimp only
  split; · exact .same
  split; · exact .same
  split; · exact .same
  split
  · exact .same
  · exact .now (settleOpen_frame _ _) (by decide)

theorem handOver_same (c : Nat) : ∃ code fields, s.handOver c = .now s code fields ∧ code ∉ refusals := by
  unfold State.handOver
  split
  · exact ⟨_, _, rfl, by decide⟩
  · split
    · exact ⟨_, _, rfl, by decide⟩
    · exact ⟨_, _, rfl, by decide⟩

theorem parkOrWait_same (c : Nat) : ∃ code fields, s.parkOrWait c = .now s code fields ∧ code ∉ refusals := by
  unfold State.parkOrWait
  split
  · exact ⟨_, _, rfl, by decide⟩
  · split
    · exact ⟨_, _, rfl, by decide⟩
    · exact ⟨_, _, rfl, by decide⟩

theorem nextFor_serves (c : Nat) : Serves walkFields s (s.nextFor c) := by
  unfold State.nextFor
  split; · exact .same
  rename_i p _
  split; · exact .same
  have hframe := walkOver_frame (c := c) (p := p) ((s.walk (s.craneBay c)).map (·.1)) s
  split
  · rename_i t ht
    obtain ⟨code, fields, hy, hcode⟩ := handOver_same (s := t) c
    rw [ht] at hframe
    exact hy ▸ .now hframe hcode
  · rename_i t ht
    obtain ⟨code, fields, hy, hcode⟩ := parkOrWait_same (s := t) c
    rw [ht] at hframe
    exact hy ▸ .now hframe hcode

theorem nextLeg_serves : Serves walkFields s (nextLeg k () s) := by
  unfold nextLeg
  split
  · exact .same
  · exact nextFor_serves _
  · obtain ⟨code, fields, hy, -⟩ := handOver_same (s := s) k.unitNum
    exact hy ▸ .same
  · exact .same
  · exact .same

theorem reported_serves {own : List Field} {t : State} (l : Leg) (code : AnsCode) (fields : List Token)
    (ht : OnlyChanges own s t) : Serves own s (l.reported t code fields) := by
  unfold Leg.reported
  split
  · exact .waits ht
  · exact .complete ht

theorem liftedReport_serves (f : LiftedF) : Serves liftFields s (liftedReport k f s) := by
  unfold liftedReport
  dsimp only
  split; · exact .same
  split; · exact .same
  split
  · exact .complete .refl
  · exact .complete .refl
  · split; · exact .same
    split; · exact .same
    split
    · exact reported_serves _ _ _ (lift_frame _ _ _ _ _)
    · exact reported_serves _ _ _ (lift_frame _ _ _ _ _)
  · exact .same

theorem requeued_frame (l : Leg) (p : Place) : OnlyChanges setDownFields s ((s.land l p).requeueLeg h) :=
  ((land_frame l p).mono (by decide)).trans ((requeueLeg_frame h).mono (by decide))

theorem setBack_serves (l : Leg) (p : Place) : Serves setDownFields s (s.setBack h l p) := by
  unfold State.setBack
  split
  · exact reported_serves _ _ _ (requeued_frame l p)
  · exact .same

theorem setDownLifted_serves (l : Leg) (p : Place) : Serves setDownFields s (s.setDownLifted h l p) := by
  unfold State.setDownLifted
  split
  · split
    · exact reported_serves _ _ _ (((land_frame l p).mono (by decide)).trans ((doneLeg_frame h).mono (by decide)))
    · exact .same
  · split
    · exact reported_serves _ _ _ (requeued_frame l p)
    · exact .same

theorem setDownReport_serves (f : SetDownF) : Serves setDownFields s (setDownReport k f s) := by
  unfold setDownReport
  split; · exact .same
  split; · exact .same
  split; · exact .same
  split; · exact .same
  split
  · exact setBack_serves _ _
  · exact setDownLifted_serves _ _
  · exact .same

theorem acceptLoad_serves : Serves [.legs, .cranes] s (acceptLoad k h s) := by
  unfold acceptLoad
  split; · exact .same
  split
  · exact .now (((modifyLeg_frame _ _).mono (by decide)).trans ((modifyCrane_frame _ _).mono (by decide))) (by decide)
  · exact .same

theorem legFault_serves : Serves legFields s (legFault k h s) := by
  unfold legFault
  split; · exact .same
  split
  · exact .now (requeueLeg_frame h) (by decide)
  · exact .same

theorem cancelLeg_serves : Serves legFields s (cancelLeg k h s) := by
  unfold cancelLeg
  split; · exact .same
  split
  · split
    · exact .now (endLeg_frame h _) (by decide)
    · exact .same
  · exact .now (requeueLeg_frame h) (by decide)
  · exact .same

theorem breakSkeleton_serves (l : Leg) (p : Place) : Serves setDownFields s (s.breakSkeleton h l p) := by
  unfold State.breakSkeleton
  split
  · exact .complete ((doneLeg_frame h).mono (by decide))
  · split
    · exact .complete (((modifyBed_frame _ _ _).mono (by decide)).trans ((endLeg_frame h _).mono (by decide)))
    · exact .same
  · exact .same

theorem breakHook_serves (f : BreakHookF) : Serves setDownFields s (breakHook k f s) := by
  unfold breakHook
  split; · exact .same
  split; · exact .same
  split
  · split; · exact .same
    split; · exact .same
    split; · exact .same
    split
    · exact .same
    · exact .waits (breakPlate_frame _ _ _)
  · split
    · exact .same
    · exact breakSkeleton_serves _ _

theorem cart_frame (c : Cart) : OnlyChanges [.cart] s { s with cart := c } := by
  intro f hf
  cases f <;> first | rfl | exact absurd (by decide) hf

theorem nextTrip_serves : Serves [.cart] s (nextTrip k () s) := by
  unfold nextTrip
  split
  · exact .now (cart_frame _) (by decide)
  · exact .same

theorem cartArrived_serves (v : Nat) : Serves [.cart] s (cartArrived k v s) := by
  unfold cartArrived
  split
  · exact .same
  · exact .now (cart_frame _) (by decide)

theorem craneReport_serves (v : Int) : Serves zoneFields s (craneReport k v s) :=
  .now (report_frame _ _) (by decide)

/-! ## The Hall Map and the alarms (sections 10.3, 11.2 and 11.3) -/

theorem setReply_serves {own : List Field} {t : State} (g : Group) (same : Bool) (ht : OnlyChanges own s t) :
    Serves (own ++ [.queue]) s (setReply s t g same) := by
  unfold setReply
  split
  · exact .complete .refl
  · exact .waits ((widen ht fun _ => List.mem_append_left _).trans
      (widen (enqueue_frame _) fun _ => List.mem_append_right _))

theorem hall_frame (m : HallMap) : OnlyChanges [.hall] s { s with hall := m } := by
  intro f hf
  cases f <;> first | rfl | exact absurd (by decide) hf

theorem setGrade_serves (f : SetGradeF) : Serves [.hall, .queue] s (setGrade k f s) := by
  unfold setGrade
  split; · exact .same
  split; · exact .same
  split; · exact .same
  exact setReply_serves _ _ (hall_frame _)

theorem setSlot_serves (f : SetSlotF) : Serves [.hall, .slots, .queue] s (setSlot k f s) := by
  unfold setSlot
  split; · exact .same
  split; · exact .same
  split; · exact .same
  exact setReply_serves _ _ (putSlotCfg_frame _ _)

theorem setTable_serves (f : SetTableF) : Serves [.hall, .queue] s (setTable k f s) := by
  unfold setTable
  split; · exact .same
  split; · exact .same
  exact setReply_serves _ _ (hall_frame _)

theorem setCrane_serves (f : SetCraneF) : Serves [.hall, .cranes, .queue] s (setCrane k f s) := by
  unfold setCrane
  split; · exact .same
  split; · exact .same
  split; · exact .same
  exact setReply_serves _ _ (placeCrane_frame _ _)

theorem setCart_serves (f : SetBayF) : Serves [.hall, .queue] s (setCart k f s) := by
  unfold setCart
  split; · exact .same
  split; · exact .same
  split; · exact .same
  exact setReply_serves _ _ (hall_frame _)

theorem setScrapBin_serves (f : SetBayF) : Serves [.hall, .queue] s (setScrapBin k f s) := by
  unfold setScrapBin
  split; · exact .same
  split; · exact .same
  split; · exact .same
  exact setReply_serves _ _ (hall_frame _)

theorem setRunway_serves (f : SetBayF) : Serves [.hall, .queue] s (setRunway k f s) := by
  unfold setRunway
  split; · exact .same
  split; · exact .same
  split; · exact .same
  exact setReply_serves _ _ (hall_frame _)

theorem setAlertMask_serves (f : AlertF) : Serves [.hall, .queue] s (setAlertMask k f s) := by
  unfold setAlertMask
  split; · exact .same
  split; · exact .same
  split; · exact .same
  exact setReply_serves _ _ (hall_frame _)

theorem clearAlarms_serves (v : Nat) : Serves [.flags] s (clearAlarms k v s) := by
  unfold clearAlarms
  split
  · exact .same
  · refine .now ?_ (by decide)
    intro f hf
    cases f <;> first | rfl | exact absurd (by decide) hf

theorem restartPending_frame (v : Bool) : OnlyChanges [.restartPending] s { s with restartPending := v } := by
  intro f hf
  cases f <;> first | rfl | exact absurd (by decide) hf

/-! ## Enrolment (section 9.5) -/

theorem enrolStation_serves (f : EnrolF) : Serves enrolFields s (enrolStation k f s) := by
  unfold enrolStation
  split; · exact .same
  split; · exact .same
  split; · exact .same
  split; · exact .same
  split; · exact .same
  split
  · exact .same
  · exact .waits (enrol_frame _ _ _ _)

theorem removeStation_serves (a : Nat) : Serves (.round :: enrolFields) s (removeStation k a s) := by
  unfold removeStation
  split; · exact .same
  split; · exact .same
  split; · exact .same
  split
  · exact .same
  · exact .waits (removeStation_frame _)

end Sys2Proof.Proofs.Blocks
end

section
/-! PROOFS. Every command that is a request, as the Link Controller sees it (R165 to R169): the row, the tag and the
payload it checks, and what the block it passes them to leaves of the line. -/

namespace Sys2Proof.Proofs.Link

open Sys2Proof Sys2Proof.Machine
open Sys2Proof.Proofs.Pallets (askerOf request_unchanged due_of_asks)
open Sys2Proof.Proofs.Blocks

/-! ## What a block leaves of the line -/

/-- A block ends no poll and leaves the asking station enrolled as it was, but for its slot. -/
def KeepsLine (k : Asker) (s : State) (y : Reply) : Prop :=
  y.state.poll = s.poll
    ∧ ∀ st, s.station? k.address = some st → ∃ slot, y.state.station? k.address = some { st with slot := slot }

theorem keepsLine_of_serves {own : List Field} {k : Asker} {s : State} {y : Reply} (h : Serves own s y)
    (hown : own.all (!lineFields.contains ·) = true) : KeepsLine k s y := by
  refine ⟨h.frame.poll hown, fun st hst => ⟨st.slot, ?_⟩⟩
  rw [station?_congr (h.frame.stations hown), hst]

/-- The requests that look at PFW before anything else (R14). -/
abbrev powerRows : List Req :=
  [reqEnrolStation, reqRemoveStation, reqRegisterPlate, reqAmendPlate, reqHoldPlate, reqReleasePlate,
    reqRetirePlate, reqSetGrade, reqSetSlot, reqSetTable, reqSetCrane, reqSetCart, reqSetScrapBin,
    reqSetRunway, reqSetAlertMask]

/-- A command is a request: a row of the code table with a payload, and a block that owns it. -/
def IsRequest (c : Instr) (q : Asked) : Prop :=
  ∃ (α : Type) (p : Payload α) (body : Asker → α → State → Reply),
    (∀ s, exec c s = request q.row q.tag p s body) ∧ p.exact = q.exact
      ∧ (∀ k v s, KeepsLine k s (body k v s))
      ∧ (q.row ≠ reqFetchResult → q.row ≠ reqOpenBatch → ∀ k v s u code fields,
          body k v s = .now u code fields → code ∈ refusals → u = s)
      ∧ (q.row ∈ powerRows → ∀ k v s, s.pfw = true → body k v s = .now s .powerDown [])

section Blocks

variable {α : Type} {c : Instr} {r : Req} {tag : Byte} {p : Payload α} {body : Asker → α → State → Reply}
  {own : List Field}

theorem isRequest_of_serves (hexec : ∀ s, exec c s = request r tag p s body)
    (hserves : ∀ k v s, Serves own s (body k v s)) (hown : own.all (!lineFields.contains ·) = true)
    (hpower : r ∈ powerRows → ∀ k v s, s.pfw = true → body k v s = .now s .powerDown []) :
    IsRequest c ⟨r, tag, p.exact⟩ :=
  ⟨α, p, body, hexec, rfl, fun k v s => keepsLine_of_serves (hserves k v s) hown,
    fun _ _ k v s => (hserves k v s).clean, hpower⟩

/-- A request that looks at PFW first. -/
theorem isRequest_of_powerCheck (hexec : ∀ s, exec c s = request r tag p s body)
    (hserves : ∀ k v s, Serves own s (body k v s))
    (hpower : ∀ k v s, s.pfw = true → body k v s = .now s .powerDown [])
    (hown : own.all (!lineFields.contains ·) = true := by decide) : IsRequest c ⟨r, tag, p.exact⟩ :=
  isRequest_of_serves hexec hserves hown fun _ => hpower

/-- A request that is served whatever PFW is, or looks at it later. -/
theorem isRequest_of_frame (hexec : ∀ s, exec c s = request r tag p s body)
    (hserves : ∀ k v s, Serves own s (body k v s))
    (hown : own.all (!lineFields.contains ·) = true := by decide) (hrow : r ∉ powerRows := by decide) :
    IsRequest c ⟨r, tag, p.exact⟩ :=
  isRequest_of_serves hexec hserves hown fun hr => absurd hr hrow

end Blocks

/-! ## The requests that touch the line themselves -/

theorem openBatch_isRequest (tag : Byte) (p : Payload Unit) :
    IsRequest (.openBatch tag p) ⟨reqOpenBatch, tag, p.exact⟩ := by
  refine ⟨Unit, p, openBatchFor, fun _ => rfl, rfl, fun k v s => ?_, fun _ h => absurd rfl h,
    fun h => absurd h (show reqOpenBatch ∉ powerRows by decide)⟩
  have hframe := openBatchFor_frame (k := k) (s := s)
  refine ⟨hframe.poll (by decide), fun st hst => ⟨st.slot, ?_⟩⟩
  rw [station?_congr (hframe.stations (by decide)), hst]

theorem fetchResult_keepsLine (k : Asker) (v : Unit) (s : State) : KeepsLine k s (fetchResult k v s) := by
  have same : KeepsLine k s (.now s .noResult []) := ⟨rfl, fun st hst => ⟨st.slot, hst⟩⟩
  unfold fetchResult
  split
  · exact same
  · split
    · exact same
    · exact ⟨rfl, fun st hst => ⟨st.slot, hst⟩⟩
    · exact ⟨putAnswer_poll .., fun st hst => ⟨.empty, station?_modifyStation_self _ hst⟩⟩

theorem fetchResult_isRequest (tag : Byte) (p : Payload Unit) :
    IsRequest (.fetchResult tag p) ⟨reqFetchResult, tag, p.exact⟩ :=
  ⟨Unit, p, fetchResult, fun _ => rfl, rfl, fetchResult_keepsLine, fun h => absurd rfl h,
    fun h => absurd h (show reqFetchResult ∉ powerRows by decide)⟩

theorem station?_putStation_ne {s : State} {a b : Nat} {e : Option Station} (ha : 1 ≤ a ∧ a ≤ 32) (hab : a ≠ b) :
    (s.putStation a e).station? b = s.station? b := by
  rw [State.putStation, station?_set e ha, if_neg hab]

theorem station?_putStation_self {s : State} {a : Nat} {e : Option Station} (ha : 1 ≤ a ∧ a ≤ 32) :
    (s.putStation a e).station? a = e := by
  rw [State.putStation, station?_set e ha, if_pos rfl]

/-- What goes with a station leaves the station table as it was. -/
theorem station?_unbound {s : State} (a b : Nat) (new : Option Nat) :
    ((s.forget a).unbindCrane a new).station? b = s.station? b := by
  rw [station?_congr (unbindCrane_frame (s := s.forget a) a new .stations (by decide)),
    station?_congr (forget_frame (s := s) a .stations (by decide))]

theorem station?_enrol {s : State} {a : Nat} {kind : StationKind} {unit : Option Nat} {w : Nat} (b : Nat)
    (ha : 1 ≤ a ∧ a ≤ 32) :
    (s.enrol a kind unit w).station? b = if a = b then some ⟨kind, unit, w, 0, false, .empty⟩ else s.station? b := by
  unfold State.enrol
  rw [station?_congr (enqueue_stations ..)]
  split
  next hab => rw [← hab, station?_putStation_self ha]
  next hab => rw [station?_putStation_ne ha hab, station?_unbound]

theorem station?_removeStation {s : State} {a : Nat} (b : Nat) (ha : 1 ≤ a ∧ a ≤ 32) :
    (s.removeStation a).station? b = if a = b then none else s.station? b := by
  unfold State.removeStation
  rw [station?_congr (enqueue_stations ..),
    station?_congr (leaveRound_frame (s := ((s.forget a).unbindCrane a none).putStation a none) a .stations
      (by decide))]
  split
  next hab => rw [← hab, station?_putStation_self ha]
  next hab => rw [station?_putStation_ne ha hab, station?_unbound]

theorem enrolStation_keepsLine (k : Asker) (f : EnrolF) (s : State) : KeepsLine k s (enrolStation k f s) := by
  have same (code : AnsCode) : KeepsLine k s (.now s code []) := ⟨rfl, fun st hst => ⟨st.slot, hst⟩⟩
  refine ⟨(enrolStation_serves f).frame .poll (by decide), fun st hst => ⟨st.slot, ?_⟩⟩
  unfold enrolStation
  split; · exact hst
  split; · exact hst
  rename_i haddress
  have hrange : (1 ≤ f.address ∧ f.address ≤ 32) ∧ f.address ≠ k.address := by
    simp [inRange] at haddress
    omega
  split; · exact hst
  split; · exact hst
  split; · exact hst
  split
  · exact hst
  · change (s.enrol _ _ _ _).station? _ = _
    rw [station?_enrol _ hrange.1, if_neg hrange.2, hst]

theorem removeStation_keepsLine (k : Asker) (a : Nat) (s : State) : KeepsLine k s (removeStation k a s) := by
  refine ⟨(removeStation_serves a).frame .poll (by decide), fun st hst => ⟨st.slot, ?_⟩⟩
  unfold removeStation
  split; · exact hst
  split; · exact hst
  rename_i haddress
  have hrange : (1 ≤ a ∧ a ≤ 32) ∧ a ≠ k.address := by
    simp [inRange] at haddress
    omega
  split; · exact hst
  split
  · exact hst
  · change (s.removeStation _).station? _ = _
    rw [station?_removeStation _ hrange.1, if_neg hrange.2, hst]

theorem enrolStation_isRequest (tag : Byte) (p : Payload EnrolF) :
    IsRequest (.enrolStation tag p) ⟨reqEnrolStation, tag, p.exact⟩ :=
  ⟨EnrolF, p, enrolStation, fun _ => rfl, rfl, enrolStation_keepsLine,
    fun _ _ _ f _ => (enrolStation_serves f).clean, fun _ _ _ _ hpfw => if_pos hpfw⟩

theorem removeStation_isRequest (tag : Byte) (p : Payload Nat) :
    IsRequest (.removeStation tag p) ⟨reqRemoveStation, tag, p.exact⟩ :=
  ⟨Nat, p, removeStation, fun _ => rfl, rfl, removeStation_keepsLine,
    fun _ _ _ a _ => (removeStation_serves a).clean, fun _ _ _ _ hpfw => if_pos hpfw⟩

/-! ## Every request of the code table -/

/-- A read of a table: it answers what stands, or refuses. -/
theorem read_isRequest {α : Type} {c : Instr} {r : Req} {tag : Byte} {p : Payload α}
    {body : Asker → α → State → Reply} (hexec : ∀ s, exec c s = request r tag p s body)
    (hreads : ∀ k v s, ∃ code fields, body k v s = .now s code fields) (hrow : r ∉ powerRows := by decide) :
    IsRequest c ⟨r, tag, p.exact⟩ := by
  refine isRequest_of_frame (own := []) hexec (fun k v s => ?_) rfl hrow
  obtain ⟨code, fields, hy⟩ := hreads k v s
  exact hy ▸ .same

/-- Every command of the request code table is a request of its row. -/
theorem isRequest_of_asked {c : Instr} {q : Asked} (hq : asked c = some q) : IsRequest c q := by
  have either {s : State} {p : Prop} [Decidable p] {x y : AnsCode × List Token} :
      ∃ code fields, (if p then Reply.now s x.1 x.2 else .now s y.1 y.2) = .now s code fields := by
    split <;> exact ⟨_, _, rfl⟩
  cases c with
  | poll | replyTimeout | badFrame | wrongAddressFrame | idleFrame | unknownRequestCode | scanReachEntry | restartReset
  | writeStart | writeEnd | deferredComplete | pfwAssert | pfwRelease | powerOn | rstAssert | rstRelease | startupEnd
  | powerLoss => cases hq
  | fetchResult => cases hq; exact fetchResult_isRequest _ _
  | enrolStation => cases hq; exact enrolStation_isRequest _ _
  | removeStation => cases hq; exact removeStation_isRequest _ _
  | openBatch => cases hq; exact openBatch_isRequest _ _
  | registerPlate =>
    cases hq; exact isRequest_of_powerCheck (fun _ => rfl) (fun _ _ _ => registerPlate_serves _) fun _ _ _ h => if_pos h
  | amendPlate =>
    cases hq; exact isRequest_of_powerCheck (fun _ => rfl) (fun _ _ _ => amendPlate_serves _) fun _ _ _ h => if_pos h
  | holdPlate =>
    cases hq; exact isRequest_of_powerCheck (fun _ => rfl) (fun _ _ _ => setHeld_serves _) fun _ _ _ h => if_pos h
  | releasePlate =>
    cases hq; exact isRequest_of_powerCheck (fun _ => rfl) (fun _ _ _ => setHeld_serves _) fun _ _ _ h => if_pos h
  | retirePlate =>
    cases hq; exact isRequest_of_powerCheck (fun _ => rfl) (fun _ _ _ => retirePlate_serves _) fun _ _ _ h => if_pos h
  | setGrade =>
    cases hq; exact isRequest_of_powerCheck (fun _ => rfl) (fun _ _ _ => setGrade_serves _) fun _ _ _ h => if_pos h
  | setSlot =>
    cases hq; exact isRequest_of_powerCheck (fun _ => rfl) (fun _ _ _ => setSlot_serves _) fun _ _ _ h => if_pos h
  | setTable =>
    cases hq; exact isRequest_of_powerCheck (fun _ => rfl) (fun _ _ _ => setTable_serves _) fun _ _ _ h => if_pos h
  | setCrane =>
    cases hq; exact isRequest_of_powerCheck (fun _ => rfl) (fun _ _ _ => setCrane_serves _) fun _ _ _ h => if_pos h
  | setCart =>
    cases hq; exact isRequest_of_powerCheck (fun _ => rfl) (fun _ _ _ => setCart_serves _) fun _ _ _ h => if_pos h
  | setScrapBin =>
    cases hq; exact isRequest_of_powerCheck (fun _ => rfl) (fun _ _ _ => setScrapBin_serves _) fun _ _ _ h => if_pos h
  | setRunway =>
    cases hq; exact isRequest_of_powerCheck (fun _ => rfl) (fun _ _ _ => setRunway_serves _) fun _ _ _ h => if_pos h
  | setAlertMask =>
    cases hq; exact isRequest_of_powerCheck (fun _ => rfl) (fun _ _ _ => setAlertMask_serves _) fun _ _ _ h => if_pos h
  | findRemnant => cases hq; exact isRequest_of_frame (fun _ => rfl) fun _ _ _ => findRemnant_serves _
  | stageParts => cases hq; exact isRequest_of_frame (fun _ => rfl) fun _ _ _ => stageParts_serves _
  | admitJob => cases hq; exact isRequest_of_frame (fun _ => rfl) fun _ _ _ => admitJob_serves _
  | startJob => cases hq; exact isRequest_of_frame (fun _ => rfl) fun _ _ _ => startJob_serves
  | partCut => cases hq; exact isRequest_of_frame (fun _ => rfl) fun _ _ _ => partCut_serves _
  | pauseJob => cases hq; exact isRequest_of_frame (fun _ => rfl) fun _ _ _ => pauseJob_serves _
  | resumeJob => cases hq; exact isRequest_of_frame (fun _ => rfl) fun _ _ _ => resumeJob_serves
  | endJob => cases hq; exact isRequest_of_frame (fun _ => rfl) fun _ _ _ => endJob_serves _
  | abortJob => cases hq; exact isRequest_of_frame (fun _ => rfl) fun _ _ _ => abortJob_serves
  | clearBed => cases hq; exact isRequest_of_frame (fun _ => rfl) fun _ _ _ => clearBed_serves _
  | nextMark => cases hq; exact isRequest_of_frame (fun _ => rfl) fun _ _ _ => nextMark_serves
  | markMade => cases hq; exact isRequest_of_frame (fun _ => rfl) fun _ _ _ => confirmMark_serves _
  | markFailed => cases hq; exact isRequest_of_frame (fun _ => rfl) fun _ _ _ => confirmMark_serves _
  | confirmManualMark => cases hq; exact isRequest_of_frame (fun _ => rfl) fun _ _ _ => confirmManualMark_serves
  | scrapPart => cases hq; exact isRequest_of_frame (fun _ => rfl) fun _ _ _ => scrapPart_serves
  | sortPart => cases hq; exact isRequest_of_frame (fun _ => rfl) fun _ _ _ => sortPart_serves _
  | dispatchPallet => cases hq; exact isRequest_of_frame (fun _ => rfl) fun _ _ _ => dispatchPallet_serves _
  | addLeg => cases hq; exact isRequest_of_frame (fun _ => rfl) fun _ _ _ => addLeg_serves _
  | commitBatch => cases hq; exact isRequest_of_frame (fun _ => rfl) fun _ _ _ => commitBatchFor_serves
  | nextLeg => cases hq; exact isRequest_of_frame (fun _ => rfl) fun _ _ _ => nextLeg_serves
  | lifted => cases hq; exact isRequest_of_frame (fun _ => rfl) fun _ _ _ => liftedReport_serves _
  | setDown => cases hq; exact isRequest_of_frame (fun _ => rfl) fun _ _ _ => setDownReport_serves _
  | acceptLoad => cases hq; exact isRequest_of_frame (fun _ => rfl) fun _ _ _ => acceptLoad_serves
  | legFault => cases hq; exact isRequest_of_frame (fun _ => rfl) fun _ _ _ => legFault_serves
  | cancelLeg => cases hq; exact isRequest_of_frame (fun _ => rfl) fun _ _ _ => cancelLeg_serves
  | breakHook => cases hq; exact isRequest_of_frame (fun _ => rfl) fun _ _ _ => breakHook_serves _
  | nextTrip => cases hq; exact isRequest_of_frame (fun _ => rfl) fun _ _ _ => nextTrip_serves
  | cartArrived => cases hq; exact isRequest_of_frame (fun _ => rfl) fun _ _ _ => cartArrived_serves _
  | craneReport => cases hq; exact isRequest_of_frame (fun _ => rfl) fun _ _ _ => craneReport_serves _
  | clearAlarms => cases hq; exact isRequest_of_frame (fun _ => rfl) fun _ _ _ => clearAlarms_serves _
  | restart =>
    cases hq; exact isRequest_of_frame (fun _ => rfl) fun _ _ _ => .now (restartPending_frame true) (by decide)
  | readStation | readSlot | readTable | readMarkerWindow | readPallet | readCrane =>
    cases hq
    exact read_isRequest (fun _ => rfl) fun _ _ _ => either (x := (_, _)) (y := (_, _))
  | readSearchQueue | readAlarms => cases hq; exact read_isRequest (fun _ => rfl) fun _ _ _ => ⟨_, _, rfl⟩
  | readPlate | readPart | readJobParts | readLeg | readBatch | readRunway | readHallMap =>
    cases hq
    exact read_isRequest (fun _ => rfl) fun _ _ _ => by split <;> exact ⟨_, _, rfl⟩

/-! ## The statements -/

/-- Settles O1: by the two branches of the step. -/
theorem stepRunsFrontCommand : Obligations.StepRunsFrontCommand := by
  unfold Obligations.StepRunsFrontCommand
  refine ⟨fun _ _ _ => rfl, fun s hs => ?_⟩
  rw [step, hs]

section Answer

variable {s : State} {a : Nat} {st : Station} {tag : Byte} {code : AnsCode}

/-- The answer of the Link Controller's own checks: on the station heard, and nothing beyond the line. -/
theorem checked_answer (hst : s.station? a = some st) :
    Immediate s ((s.heard a).answer (askerOf a st tag) code []) a st tag code []
      ∧ OnlyChanges lineFields s ((s.heard a).answer (askerOf a st tag) code []) :=
  ⟨Pallets.immediate_answer (l := []) hst .refl (by simp), Pallets.answered_frame (l := []) .refl⟩

end Answer

/-- Settles O4: each check of R167 answers on the station heard; the unknown code likewise. -/
theorem linkChecksInOrder : Obligations.LinkChecksInOrder := by
  unfold Obligations.LinkChecksInOrder
  refine ⟨fun c q s a n st hq hpolled => ?_, fun tag code s a n st hpolled => ?_⟩
  · obtain ⟨α, p, body, hexec, hexact, -⟩ := isRequest_of_asked hq
    have hst := due_station hpolled.due
    refine ⟨fun hq => ?_, fun hq hkind => ?_, fun hq hkind hdeferred hslot => ?_⟩
    · cases p with
      | fields v => rw [hq] at hexact; cases hexact
      | malformed => exact ⟨_, by rw [hexec, request_malformed hpolled.due], checked_answer hst⟩
    · cases p with
      | malformed => rw [hq] at hexact; cases hexact
      | fields v => exact ⟨_, by rw [hexec, request_notPermitted hpolled.due hkind], checked_answer hst⟩
    · cases p with
      | malformed => rw [hq] at hexact; cases hexact
      | fields v =>
        obtain ⟨g, hg⟩ := hslot
        have hbusy : st.slot.busy = true := by rw [hg]; rfl
        exact ⟨_, by rw [hexec, request_busy hpolled.due hkind hdeferred hbusy], checked_answer hst⟩
  · refine ⟨_, ?_, checked_answer (due_station hpolled.due)⟩
    simp only [exec, execUnknownRequestCode, pollEvent, hpolled.due]

/-- Delivery of a block's reply to a station: the ANSWER carries its tag, the poll stays as the block left it, and the
station is as the block left it but for its slot. -/
theorem deliver_sends {r : Req} {a : Nat} {st : Station} {tag : Byte} (y : Reply) :
    (∃ code fields, Sends (State.deliver r (askerOf a st tag) y) a st tag code fields)
      ∧ (State.deliver r (askerOf a st tag) y).poll = y.state.poll
      ∧ ∀ x, y.state.station? a = some x →
          ∃ slot, (State.deliver r (askerOf a st tag) y).station? a = some { x with slot := slot } := by
  have put {u : State} (v : AnsSlot) (w : State) (hw : OnlyChanges [.deferred] (u.putAnswer a v) w) :
      (∃ code fields, Sends (w.answer (askerOf a st tag) .working []) a st tag code fields)
        ∧ (w.answer (askerOf a st tag) .working []).poll = u.poll
        ∧ ∀ x, u.station? a = some x →
          ∃ slot, (w.answer (askerOf a st tag) .working []).station? a = some { x with slot := slot } := by
    refine ⟨⟨_, _, answer_sends w⟩, ?_, fun x hx => ⟨v, ?_⟩⟩
    · have hpoll : w.poll = (u.putAnswer a v).poll := hw .poll (by decide)
      simpa using hpoll
    · have hstations : w.stations = (u.putAnswer a v).stations := hw .stations (by decide)
      have hput : (u.putAnswer a v).station? a = some { x with slot := v } := station?_modifyStation_self _ hx
      rw [← hput]
      exact station?_congr (s := u.putAnswer a v) hstations
  cases y with
  | now u code fields => exact ⟨⟨_, _, answer_sends u⟩, rfl, fun x hx => ⟨x.slot, hx⟩⟩
  | complete u code fields => exact put _ _ .refl
  | search u => exact put _ _ .refl
  | waits u images code fields =>
    cases images with
    | nil => exact put _ _ .refl
    | cons i is => exact put _ _ (defer_frame _)

/-- Settles O5: an ANSWER follows the Link Controller's own checks and the delivery of every block's reply. -/
theorem everyRequestAnswered : Obligations.EveryRequestAnswered := by
  unfold Obligations.EveryRequestAnswered
  intro c q s a n st hq hpolled
  obtain ⟨α, p, body, hexec, -, hkeeps, -⟩ := isRequest_of_asked hq
  have hst := due_station hpolled.due
  have hheard := station?_heard_self hst
  have hnext : exec c s = .next (s.handle q.row q.tag p a st body) := by rw [hexec, request, hpolled.due]
  rcases handle_cases (s := s) (a := a) (st := st) (r := q.row) (tag := q.tag) (p := p) (body := body) with
    ⟨code, hh⟩ | ⟨v, -, hh⟩ <;> rw [hh] at hnext
  · exact ⟨_, code, [], hnext, answer_sends _, rfl, st.slot, hheard⟩
  · obtain ⟨hpoll, hstation⟩ := hkeeps (askerOf a st q.tag) v (s.heard a)
    obtain ⟨⟨code, fields, hsends⟩, hpoll', hslot⟩ :=
      deliver_sends (r := q.row) (st := st) (tag := q.tag) (a := a) (body (askerOf a st q.tag) v (s.heard a))
    obtain ⟨slot, hblock⟩ := hstation _ hheard
    obtain ⟨slot', hdelivered⟩ := hslot _ hblock
    exact ⟨_, code, fields, hnext, hsends, hpoll'.trans hpoll, slot', hdelivered⟩

/-- Only a reply given at once puts another code than WORKING in the ANSWER frame. -/
theorem now_of_sends {r : Req} {a : Nat} {st : Station} {tag : Byte} {y : Reply} {code : AnsCode}
    {fields : List Token} (h : Sends (State.deliver r (askerOf a st tag) y) a st tag code fields)
    (hcode : code ≠ .working) : ∃ u, y = .now u code fields := by
  have working {w : State} (h : Sends (w.answer (askerOf a st tag) .working []) a st tag code fields) : False := by
    have heq := (answer_sends (st := st) (tag := tag) (a := a) (code := .working) (fields := []) w).symm.trans h
    simp only [Option.some.injEq, TxFrame.answer.injEq, Answer.mk.injEq] at heq
    exact hcode heq.2.2.1.symm
  cases y with
  | now u c fs =>
    have heq := (answer_sends (st := st) (tag := tag) (a := a) (code := c) (fields := fs) u).symm.trans h
    simp only [Option.some.injEq, TxFrame.answer.injEq, Answer.mk.injEq, true_and] at heq
    obtain ⟨rfl, -, rfl⟩ := heq
    exact ⟨u, rfl⟩
  | complete => exact (working h).elim
  | search => exact (working h).elim
  | waits u images c fs => cases images <;> exact (working h).elim

/-- Settles O6: a refusal code in the ANSWER frame is a block's answer at once, which leaves the state as it was, or
one of the Link Controller's own. -/
theorem refusalsChangeNothing : Obligations.RefusalsChangeNothing := by
  unfold Obligations.RefusalsChangeNothing
  intro c q s t a n st code fields hq hfetch hopen hpolled hstep hsends hcode
  obtain ⟨α, p, body, hexec, -, -, hclean, -⟩ := isRequest_of_asked hq
  have hst := due_station hpolled.due
  have hline (u : State) (hu : u = s.heard a) :
      Immediate s (u.answer (askerOf a st q.tag) code fields) a st q.tag code fields
        ∧ OnlyChanges [.stations, .poll, .lastFrame] s (u.answer (askerOf a st q.tag) code fields) := by
    subst hu
    exact ⟨Pallets.immediate_answer (l := []) hst .refl (by simp),
      ((heard_frame a).mono (by decide)).trans ((answer_frame _ _ _).mono (by decide))⟩
  have hnext : t = s.handle q.row q.tag p a st body := by
    rw [hexec, request, hpolled.due] at hstep
    exact (Host.Outcome.next.inj hstep).symm
  rcases handle_cases (s := s) (a := a) (st := st) (r := q.row) (tag := q.tag) (p := p) (body := body) with
    ⟨code', hh⟩ | ⟨v, -, hh⟩ <;> rw [hh] at hnext <;> subst hnext
  · have heq := (answer_sends (st := st) (tag := q.tag) (a := a) (code := code') (fields := []) _).symm.trans hsends
    simp only [Option.some.injEq, TxFrame.answer.injEq, Answer.mk.injEq, true_and] at heq
    obtain ⟨rfl, -, rfl⟩ := heq
    exact hline _ rfl
  · have hworking : code ≠ .working := by rintro rfl; exact absurd hcode (by decide)
    obtain ⟨u, hy⟩ := now_of_sends hsends hworking
    have hu := hclean hfetch hopen _ _ _ _ _ _ hy hcode
    rw [hy]
    exact hline u hu

end Sys2Proof.Proofs.Link
end

section
/-! PROOFS. Tables and lists read by index: what the walks of a table over its entries are, entry by entry. -/

namespace Sys2Proof.Proofs.Tables

open Sys2Proof Sys2Proof.Machine

variable {α β : Type} {n : Nat}

/-- A list with its positions is read position by position. -/
theorem filterMap_zipIdx (l : List α) (f : α × Nat → Option β) :
    l.zipIdx.filterMap f = (List.range l.length).filterMap fun i => l[i]?.bind fun a => f (a, i) := by
  induction l using List.reverseRecOn with
  | nil => rfl
  | append_singleton l a ih =>
    rw [List.zipIdx_append, List.filterMap_append, ih, List.length_append, List.length_singleton, List.range_succ,
      List.filterMap_append]
    refine congrArg₂ (· ++ ·) (List.filterMap_congr fun i hi => ?_) ?_
    · rw [List.getElem?_append_left (List.mem_range.1 hi)]
    · simp [List.filterMap_cons]

/-- The positions of the entries that pass a test. -/
theorem positions_filter (l : List α) (p : α → Bool) :
    (l.zipIdx.filter fun e => p e.1).map (·.2) = (List.range l.length).filter fun i => l[i]?.any p := by
  rw [← List.filterMap_eq_filter, ← List.filterMap_eq_map, List.filterMap_filterMap, filterMap_zipIdx]
  rw [← List.filterMap_eq_filter]
  refine List.filterMap_congr fun i _ => ?_
  rcases hl : l[i]? with _ | a
  · simp [Option.guard, hl]
  · by_cases ha : p a = true <;> simp [ha, Option.guard, hl]

theorem indicesWhere_eq (t : Table α n) (p : α → Bool) :
    t.indicesWhere p = (List.range n).filter fun i => (t.get? i).any p := by
  rw [Table.indicesWhere, positions_filter, t.size_eq]
  rfl

/-- The enrolled addresses, as claims speak of them. -/
theorem addressesOf_eq (s : State) (p : Station → Bool) : s.addressesOf p = enrolledWith s p := by
  have hrange : List.range 33 = 0 :: (List.range 32).map (· + 1) := by decide
  rw [State.addressesOf, indicesWhere_eq, enrolledWith, hrange, List.filter_cons_of_neg (by simp [State.station?]),
    List.filter_map]
  refine congrArg (List.map _) (List.filter_congr fun i _ => ?_)
  simp only [Function.comp, State.station?]
  rcases s.stations.get? i with _ | _ | st <;> rfl

theorem mem_enrolledWith {s : State} {p : Station → Bool} {a : Nat} :
    a ∈ enrolledWith s p ↔ ∃ st, s.station? a = some st ∧ p st = true := by
  rw [enrolledWith, List.mem_filter, List.mem_range, Option.any_eq_true]
  refine ⟨fun h => h.2, fun ⟨st, hst, hp⟩ => ⟨?_, st, hst, hp⟩⟩
  have := station?_pos hst
  omega

/-! ## Pools -/

/-- A record of a pool is one that some handle names. -/
theorem pool_any_iff (t : Pool α n) (p : α → Bool) : t.any p = true ↔ ∃ h r, t.find h = some r ∧ p r = true := by
  simp only [Pool.any, List.any_eq_true, List.mem_iff_getElem?]
  constructor
  · rintro ⟨e, ⟨i, hi⟩, he⟩
    rcases hr : e.record with _ | r
    · simp [hr] at he
    · exact ⟨⟨i, e.gen⟩, r, Pool.find_eq_some.2 (by rw [← hr]; exact hi), by simpa [hr] using he⟩
  · rintro ⟨h, r, hr, hp⟩
    exact ⟨⟨h.gen, some r⟩, ⟨h.idx, Pool.find_eq_some.1 hr⟩, hp⟩

theorem mem_handles {t : Pool α n} {p : α → Bool} {h : Handle} :
    h ∈ t.handles p ↔ ∃ r, t.find h = some r ∧ p r = true := by
  rw [Pool.handles, filterMap_zipIdx]
  simp only [List.mem_filterMap, List.mem_range, Option.bind_eq_some_iff]
  constructor
  · rintro ⟨i, -, e, he, hh⟩
    rcases hr : e.record with _ | r
    · simp [hr] at hh
    · simp only [hr, Option.ite_none_right_eq_some, Option.some.injEq] at hh
      obtain ⟨hp, rfl⟩ := hh
      exact ⟨r, Pool.find_eq_some.2 (by rw [← hr]; exact he), hp⟩
  · rintro ⟨r, hr, hp⟩
    have he := Pool.find_eq_some.1 hr
    exact ⟨h.idx, (List.getElem?_eq_some_iff.1 he).1, _, he, by simp [hp]⟩

theorem firstIdx_eq_some {t : Table α n} {p : α → Bool} {i : Nat} {e : α} (he : t.get? i = some e) (hp : p e = true)
    (hlow : ∀ j < i, ∀ d, t.get? j = some d → p d = false) : t.firstIdx? p = some i := by
  obtain ⟨hi, hget⟩ := List.getElem?_eq_some_iff.1 he
  refine List.findIdx?_eq_some_iff_getElem.2 ⟨hi, by rw [hget]; exact hp, fun j hj => ?_⟩
  rw [Bool.not_eq_true]
  exact hlow j hj _ (List.getElem?_eq_getElem _)

theorem firstIdx_isSome {t : Table α n} {p : α → Bool} :
    (t.firstIdx? p).isSome = true ↔ ∃ i e, t.get? i = some e ∧ p e = true := by
  rw [Table.firstIdx?, List.findIdx?_isSome, List.any_eq_true]
  simp only [List.mem_iff_getElem?, Table.get?]
  exact ⟨fun ⟨e, ⟨i, hi⟩, he⟩ => ⟨i, e, hi, he⟩, fun ⟨i, e, hi, he⟩ => ⟨e, ⟨i, hi⟩, he⟩⟩

/-- A record is created in the lowest entry that passes. -/
theorem create_lowest {t : Pool α n} {ok : Entry α → Bool} {i : Nat} {e : Entry α} (r : α) (he : t.get? i = some e)
    (hok : ok e = true) (hlow : ∀ j < i, ∀ d, t.get? j = some d → ok d = false) :
    t.create ok r = some (t.set i ⟨e.newGen, some r⟩, ⟨i, e.newGen⟩) := by
  rw [Pool.create, firstIdx_eq_some he hok hlow]
  simp only [he]

theorem modify_get?_ne {t : Pool α n} {h : Handle} (f : α → α) {j : Nat} (hj : j ≠ h.idx) :
    (Pool.modify t h f).get? j = t.get? j := by
  unfold Pool.modify
  split
  · exact Table.get?_set_ne _ _ hj.symm
  · rfl

theorem namedByLeg_iff {s : State} {h : Handle} : s.namedByLeg h = true ↔
    ∃ g l, s.leg? g = some l ∧ l.state.unfinished = true ∧ l.plate = some h := by
  simp only [State.namedByLeg, pool_any_iff, Bool.and_eq_true, beq_iff_eq]
  rfl

end Sys2Proof.Proofs.Tables
end

section
/-! PROOFS. The poll round and how a poll ends (R164 to R166). -/

namespace Sys2Proof.Proofs.Poll

open Sys2Proof Sys2Proof.Machine
open Sys2Proof.Proofs.Tables

variable {s : State} {a n : Nat} {st : Station}

/-! ## The round (R164) -/

/-- The entries passed over before the next one that names a station. -/
theorem nextEntry_some (k : Nat) (rest : List (Option Nat)) :
    ∀ i, nextEntry i (List.replicate k none ++ some a :: rest) = some (a, i + k + 1) := by
  induction k with
  | zero => intro i; rfl
  | succ k ih =>
    intro i
    rw [List.replicate_succ, List.cons_append, nextEntry, ih]
    simp only [Option.some.injEq, Prod.mk.injEq, true_and]
    omega

theorem nextEntry_none {l : List (Option Nat)} (h : ∀ e ∈ l, e = none) : ∀ i, nextEntry i l = none := by
  induction l with
  | nil => intro i; rfl
  | cons e es ih =>
    intro i
    obtain rfl := h e List.mem_cons_self
    exact ih (fun x hx => h x (List.mem_cons_of_mem _ hx)) _

theorem buildRound_eq (l : List Nat) (hl : l = enrolledWith s fun _ => true) :
    s.buildRound = l.take ((l.length + 1) / 2) ++ enrolledWith s (fun st => st.weight == 2)
      ++ l.drop ((l.length + 1) / 2) := by
  simp only [State.buildRound, addressesOf_eq, hl]

/-- With a poll due, a POLL goes to the next entry of the round, or to the first of a new one. -/
theorem execPoll_due (hrun : s.phase = .running) (hrestart : s.restartPending = false) (hpoll : s.poll = none) :
    exec .poll s = match nextEntry s.roundPos (s.round.drop s.roundPos) with
      | some (a, i) => .next ({ s with roundPos := i }.sendPoll a 1)
      | none =>
        match s.buildRound with
        | [] => .fault .unknownStation
        | a :: rest => .next ({ s with round := (a :: rest).map some, roundPos := 1 }.sendPoll a 1) := by
  simp only [exec, execPoll, hrun, hrestart, hpoll]
  rfl

/-- Settles O2: by the next entry of the round, or the round built. -/
theorem pollServesTheRound : Obligations.PollServesTheRound := by
  unfold Obligations.PollServesTheRound
  intro s hrun hrestart hpoll
  have hexec := execPoll_due hrun hrestart hpoll
  refine ⟨fun k a rest hround => ?_, fun l w rest a hl hw hover hbuilt => ?_, fun henrolled => ?_⟩
  · rw [hround, nextEntry_some] at hexec
    refine ⟨_, hexec, rfl, rfl, rfl, fun f hf => ?_⟩
    cases f <;> first | rfl | exact absurd (by decide) hf
  · rw [nextEntry_none hover, buildRound_eq l hl, ← hw, hbuilt] at hexec
    refine ⟨_, hexec, rfl, rfl, rfl, rfl, fun f hf => ?_⟩
    cases f <;> first | rfl | exact absurd (by decide) hf
  · rcases hnext : nextEntry s.roundPos (s.round.drop s.roundPos) with _ | ⟨a, i⟩
    · rw [hnext] at hexec
      rcases hbuilt : s.buildRound with _ | ⟨a, rest⟩
      · obtain ⟨st, hst⟩ := Option.ne_none_iff_exists'.1 henrolled
        have hmem : 1 ∈ enrolledWith s fun _ => true := mem_enrolledWith.2 ⟨st, hst, rfl⟩
        rw [buildRound_eq _ rfl] at hbuilt
        simp only [List.append_eq_nil_iff] at hbuilt
        obtain ⟨⟨htake, -⟩, hdrop⟩ := hbuilt
        rw [← List.take_append_drop _ (enrolledWith s fun _ => true), htake, hdrop] at hmem
        cases hmem
      · rw [hbuilt] at hexec
        exact ⟨_, hexec⟩
    · rw [hnext] at hexec
      exact ⟨_, hexec⟩

/-! ## The end of a poll (R165, R166) -/

theorem raiseIf_flags_eq (c : Bool) (f : Alarm) :
    (s.raiseIf c f).flags = s.flags ||| (if c = true then f.bit else 0#12) := by
  unfold State.raiseIf
  split
  · rfl
  · rw [BitVec.or_zero]

/-- A miss: the poll over, the count risen, and STATION_SILENT at eight. -/
theorem miss_reads (hst : s.station? a = some st) :
    (s.miss a st).poll = none ∧ (s.miss a st).lastFrame = s.lastFrame
      ∧ (s.miss a st).station? a = some { st with
          misses := min (st.misses + 1) 8
          silent := st.silent || decide (8 ≤ st.misses + 1) }
      ∧ (∀ b, b ≠ a → (s.miss a st).station? b = s.station? b)
      ∧ (s.miss a st).flags
          = s.flags ||| (if st.silent = false ∧ 8 ≤ st.misses + 1 then Alarm.stationSilent.bit else 0#12) := by
  have hsilent : (min (st.misses + 1) 8 == 8) = decide (8 ≤ st.misses + 1) := by
    rw [Bool.eq_iff_iff, beq_iff_eq, decide_eq_true_iff]
    omega
  unfold State.miss
  simp only [show Config.silentAt = 8 from rfl, hsilent]
  refine ⟨by simp, by simp, ?_, fun b hb => ?_, ?_⟩
  · rw [station?_congr (raiseIf_stations ..)]
    exact station?_modifyStation_self (s := { s with poll := none }) _ hst
  · rw [station?_congr (raiseIf_stations ..)]
    exact station?_modifyStation_ne (s := { s with poll := none }) _ (Ne.symm hb)
  · rw [raiseIf_flags_eq]
    rcases st.silent with _ | _ <;> simp

/-- A failed attempt on the state as the frame left it, its flags risen by `bits`. -/
theorem failAttempt_reads {u : State} {bits : BitVec 12} (hpolled : Polled s a n st)
    (hu : u = { s with flags := s.flags ||| bits }) :
    (st.silent = false ∧ n < 3 →
        (u.failAttempt a st).poll = some ⟨a, n + 1⟩ ∧ (u.failAttempt a st).lastFrame = some (.poll a)
          ∧ (u.failAttempt a st).stations = s.stations ∧ (u.failAttempt a st).flags = s.flags ||| bits)
      ∧ (st.silent = true ∨ 3 ≤ n →
        (u.failAttempt a st).poll = none ∧ (u.failAttempt a st).lastFrame = s.lastFrame
          ∧ (u.failAttempt a st).station? a = some { st with
              misses := min (st.misses + 1) 8
              silent := st.silent || decide (8 ≤ st.misses + 1) }
          ∧ (∀ b, b ≠ a → (u.failAttempt a st).station? b = s.station? b)
          ∧ (u.failAttempt a st).flags = s.flags ||| bits
              ||| (if st.silent = false ∧ 8 ≤ st.misses + 1 then Alarm.stationSilent.bit else 0#12))
      ∧ OnlyChanges [.poll, .lastFrame, .stations, .flags] s (u.failAttempt a st) := by
  obtain ⟨-, -, hpoll, hst⟩ := hpolled
  have hstu : u.station? a = some st := by rw [hu]; exact hst
  have hdef : u.failAttempt a st = if st.silent ∨ 3 ≤ n then u.miss a st else u.sendPoll a (n + 1) := by
    simp only [State.failAttempt, hu, hpoll]
    rfl
  have hframe : OnlyChanges [.flags] s u := by
    rw [hu]
    intro f hf
    cases f <;> first | rfl | exact absurd (by decide) hf
  refine ⟨fun ⟨hsilent, hn⟩ => ?_, fun hmiss => ?_,
    (hframe.mono (by decide)).trans ((failAttempt_frame a st).mono (by decide))⟩
  · rw [hdef, if_neg (by simp [hsilent]; omega), hu]
    exact ⟨rfl, rfl, rfl, rfl⟩
  · rw [hdef, if_pos hmiss]
    obtain ⟨hp, hf, hself, hother, hflags⟩ := miss_reads hstu
    rw [hu] at hf hother hflags ⊢
    rw [hu] at hp hself
    exact ⟨hp, hf, hself, hother, hflags⟩

/-- Settles O3: the three failed attempts by the flags their frame raises, and the idle frame. -/
theorem pollsEnd : Obligations.PollsEnd := by
  unfold Obligations.PollsEnd
  refine ⟨fun c s a n st hc hpolled => ?_, fun s a n st hpolled => ?_⟩
  · have hevent (f : Nat → Station → State) : pollEvent s f = .next (f a st) := by
      simp only [pollEvent, hpolled.due]
    rcases hc with rfl | rfl | rfl
    · refine ⟨_, hevent _, failAttempt_reads hpolled ?_⟩
      rw [if_pos rfl, BitVec.or_zero]
    · exact ⟨_, hevent _, failAttempt_reads hpolled rfl⟩
    · exact ⟨_, hevent _, failAttempt_reads hpolled rfl⟩
  · have hst := due_station hpolled.due
    refine ⟨s.heard a, ?_, ⟨by rw [heard_eq], station?_heard_self hst, fun b hb => station?_heard_ne (Ne.symm hb)⟩,
      (heard_frame a).mono (by decide)⟩
    simp only [exec, execIdleFrame, pollEvent, hpolled.due]

end Sys2Proof.Proofs.Poll
end

section
/-! PROOFS. Flag sets flag by flag, and what the causes that stand say of the state (R183, R184, R186). -/

namespace Sys2Proof.Proofs.Flags

open Sys2Proof Sys2Proof.Machine
open Sys2Proof.Proofs.Tables Sys2Proof.Proofs.Pallets

variable {s t : State}

/-! ## Flag sets -/

theorem number_lt (f : Alarm) : f.number < 12 := by cases f <;> decide

theorem flagIn_eq (set : BitVec 12) (f : Alarm) : flagIn set f = set.getLsbD f.number := by
  have hbit : f.bit = BitVec.twoPow 12 f.number := by cases f <;> rfl
  have hne : BitVec.twoPow 12 f.number ≠ 0#12 := by cases f <;> decide
  rw [flagIn, hbit, BitVec.and_twoPow]
  cases set.getLsbD f.number <;> simp [hne]

@[simp] theorem flagIn_or (x y : BitVec 12) (f : Alarm) : flagIn (x ||| y) f = (flagIn x f || flagIn y f) := by
  simp [flagIn_eq]

@[simp] theorem flagIn_and (x y : BitVec 12) (f : Alarm) : flagIn (x &&& y) f = (flagIn x f && flagIn y f) := by
  simp [flagIn_eq]

@[simp] theorem flagIn_not (x : BitVec 12) (f : Alarm) : flagIn (~~~x) f = !flagIn x f := by
  simp [flagIn_eq, number_lt]

@[simp] theorem flagIn_zero (f : Alarm) : flagIn 0#12 f = false := by simp [flagIn_eq]

@[simp] theorem flagIn_bit (g f : Alarm) : flagIn g.bit f = decide (g = f) := by
  cases g <;> cases f <;> rfl

theorem flagIn_ofNat (v : Nat) (f : Alarm) : flagIn (BitVec.ofNat 12 v) f = v.testBit f.number := by
  rw [flagIn_eq, BitVec.getLsbD_ofNat, decide_eq_true (number_lt f), Bool.true_and]

/-- A flag set is empty when it names no flag. -/
theorem ne_zero_iff (x : BitVec 12) : x ≠ 0#12 ↔ ∃ f : Alarm, flagIn x f = true := by
  have hall (n : Nat) (hn : n < 12) : ∃ f : Alarm, f.number = n := by
    match n, hn with
    | 0, _ => exact ⟨.restarted, rfl⟩
    | 1, _ => exact ⟨.storeCorrected, rfl⟩
    | 2, _ => exact ⟨.storeWriteFault, rfl⟩
    | 3, _ => exact ⟨.recordDoubtful, rfl⟩
    | 4, _ => exact ⟨.stationSilent, rfl⟩
    | 5, _ => exact ⟨.linkError, rfl⟩
    | 6, _ => exact ⟨.zoneBreach, rfl⟩
    | 7, _ => exact ⟨.loadMismatch, rfl⟩
    | 8, _ => exact ⟨.unmarkedCut, rfl⟩
    | 9, _ => exact ⟨.legStarving, rfl⟩
    | 10, _ => exact ⟨.powerWarning, rfl⟩
    | 11, _ => exact ⟨.overCapacity, rfl⟩
  constructor
  · intro hx
    by_contra hnone
    refine hx (BitVec.eq_of_getLsbD_eq fun i hi => ?_)
    obtain ⟨f, rfl⟩ := hall i hi
    rw [← flagIn_eq, BitVec.getLsbD_zero]
    exact Bool.eq_false_iff.2 fun hf => hnone ⟨f, hf⟩
  · rintro ⟨f, hf⟩ rfl
    rw [flagIn_zero] at hf
    cases hf

/-! ## The causes that stand -/

theorem enrolledWith_congr (h : t.stations = s.stations) (p : Station → Bool) :
    enrolledWith t p = enrolledWith s p := by
  simp only [enrolledWith, station?_congr h]

theorem station?_iff {a : Nat} {st : Station} :
    s.station? a = some st ↔ ∃ i, a = i + 1 ∧ s.stations.get? i = some (some st) := by
  match a with
  | 0 => simp [State.station?]
  | i + 1 =>
    simp only [State.station?, Nat.add_right_cancel_iff]
    rcases hi : s.stations.get? i with _ | e <;> simp [hi]

/-- The test of some entry of a table. -/
theorem any_entries {α : Type} {n : Nat} (l : Table α n) (p : α → Bool) :
    l.entries.any p = true ↔ ∃ i e, l.get? i = some e ∧ p e = true := by
  simp only [List.any_eq_true, List.mem_iff_getElem?, Table.get?]
  exact ⟨fun ⟨e, ⟨i, hi⟩, he⟩ => ⟨i, e, hi, he⟩, fun ⟨i, e, hi, he⟩ => ⟨e, ⟨i, hi⟩, he⟩⟩

theorem anySilent_iff : s.anySilent = true ↔ ∃ a st, s.station? a = some st ∧ st.silent = true := by
  rw [State.anySilent, any_entries]
  constructor
  · rintro ⟨i, _ | st, hi, hsilent⟩
    · cases hsilent
    · exact ⟨i + 1, st, station?_iff.2 ⟨i, rfl, hi⟩, hsilent⟩
  · rintro ⟨a, st, hst, hsilent⟩
    obtain ⟨i, -, hi⟩ := station?_iff.1 hst
    exact ⟨i, some st, hi, hsilent⟩

theorem anySilent_eq : s.anySilent = (enrolledWith s (fun x => x.silent) != []) := by
  rw [Bool.eq_iff_iff, anySilent_iff, bne_iff_ne, Ne, List.eq_nil_iff_forall_not_mem]
  simp only [mem_enrolledWith, not_forall, not_not]

theorem anyOverCap_iff : s.anyOverCap = true ↔ ∃ k, (s.slot k).overCap = true := by
  rw [State.anyOverCap, any_entries]
  constructor
  · rintro ⟨k, e, hk, hmark⟩
    exact ⟨k, by rw [State.slot, Table.getD, hk]; exact hmark⟩
  · rintro ⟨k, hmark⟩
    rw [State.slot, Table.getD] at hmark
    rcases hk : s.slots.get? k with _ | e
    · rw [hk] at hmark
      cases hmark
    · exact ⟨k, e, hk, by rwa [hk] at hmark⟩

/-- A flag whose cause stands (R183). -/
theorem flagIn_standing (f : Alarm) : flagIn s.standing f = match f with
    | .stationSilent => s.anySilent
    | .powerWarning => s.pfw
    | .overCapacity => s.anyOverCap
    | _ => false := by
  have hif (c : Bool) (g : Alarm) : flagIn (if c = true then g.bit else 0#12) f = (c && decide (g = f)) := by
    cases c <;> simp
  rw [State.standing, flagIn_or, flagIn_or, hif, hif, hif]
  cases f <;> simp

/-- Clearing: a named flag stands again with its cause, another is as it was (R184). -/
theorem flagIn_clearFlags (set : BitVec 12) (f : Alarm) :
    flagIn (s.clearFlags set).flags f = if flagIn set f then flagIn s.standing f else flagIn s.flags f := by
  rw [State.clearFlags, flagIn_or, flagIn_and, flagIn_and, flagIn_not]
  cases flagIn set f <;> simp

/-! ## Alarms -/

theorem alert_running (h : s.phase = .startup ∨ s.phase = .running) :
    s.alert = (s.hall.alarms.enable && (s.flags &&& s.hall.alarms.mask != 0#12)) := by
  rcases h with h | h <;> simp only [State.alert, h]

/-- A list of single fields, on the wire. -/
theorem listTok_singles {α : Type} (l : List α) (f : α → Token) :
    listTok (l.map fun a => [f a]) = .num 1 l.length :: l.map f := by
  rw [listTok, List.length_map]
  refine congrArg _ ?_
  induction l with
  | nil => rfl
  | cons a l ih => rw [List.map_cons, List.flatten_cons, ih, List.map_cons, List.singleton_append]

/-- Addresses as numbers of an answer: the model's coercion of a list. -/
theorem integers (l : List Nat) : (do let a ← l; pure (a : Int)) = l.map fun (a : Nat) => (a : Int) := by
  simp [List.map_eq_flatMap]

theorem readAlarms_answers {a : Nat} {st : Station} {tag : Byte} (h : Asks reqReadAlarms s a st) :
    ∃ t, exec (.readAlarms tag (.fields ())) s = .next t
      ∧ Immediate s t a st tag .done
          ([.num 2 s.flags.toNat, .num 2 s.hall.alarms.mask.toNat,
              .choice (if s.hall.alarms.enable then 1 else 0),
              .choice (if s.hall.alarms.enable ∧ s.flags &&& s.hall.alarms.mask ≠ 0#12 then 0 else 1),
              .num 1 (enrolledWith t fun x => x.silent).length]
            ++ (enrolledWith t fun x => x.silent).map fun b => .num 1 b)
      ∧ OnlyChanges lineFields s t := by
  obtain ⟨hexec, himm, hframe⟩ := request_now (l := []) (tag := tag) h
    (body := fun _ (_ : Unit) s => .now s .done s.alarmTokens) (v := ()) rfl .refl (by simp)
  refine ⟨_, hexec, ?_, hframe⟩
  have hstations : ((s.heard a).answer (askerOf a st tag) .done (s.heard a).alarmTokens).stations
      = (s.heard a).stations := rfl
  rw [enrolledWith_congr hstations, ← addressesOf_eq]
  have hrun : s.phase = .running := (due_polled h.due).1
  have htokens : (s.heard a).alarmTokens
      = [.num 2 s.flags.toNat, .num 2 s.hall.alarms.mask.toNat,
          .choice (if s.hall.alarms.enable then 1 else 0),
          .choice (if s.hall.alarms.enable ∧ s.flags &&& s.hall.alarms.mask ≠ 0#12 then 0 else 1),
          .num 1 (s.heard a).silentAddresses.length]
        ++ (s.heard a).silentAddresses.map fun b => .num 1 b := by
    have halert : (s.heard a).alert = s.alert := by simp [State.alert]
    rw [State.alarmTokens, halert, alert_running (.inr hrun), integers, listTok_singles, List.length_map,
      List.map_map]
    simp [flagSetTok, enableTok, flagTok, enableNum, flagNum, Function.comp_def]
  exact htokens ▸ himm

theorem clearAlarms_answers {a : Nat} {st : Station} {tag : Byte} {v : Nat} (h : Asks reqClearAlarms s a st)
    (hv : v < 4096) :
    ∃ t, exec (.clearAlarms tag (.fields v)) s = .next t
      ∧ (∀ f : Alarm, flagIn t.flags f =
          if v.testBit f.number then
            match f with
            | .stationSilent => (enrolledWith t fun x => x.silent) != []
            | .powerWarning => s.pfw
            | .overCapacity => s.slots.entries.any fun k => k.overCap
            | _ => false
          else flagIn s.flags f)
      ∧ Immediate s t a st tag .done [.num 2 t.flags.toNat]
      ∧ OnlyChanges (lineFields ++ [.flags]) s t := by
  have hbody : clearAlarms (askerOf a st tag) v (s.heard a) = .now ((s.heard a).clearFlags (BitVec.ofNat 12 v)) .done
      [flagSetTok ((s.heard a).clearFlags (BitVec.ofNat 12 v)).flags] := by
    rw [clearAlarms, if_neg (by omega)]
  have hframe : OnlyChanges [.flags] (s.heard a) ((s.heard a).clearFlags (BitVec.ofNat 12 v)) := by
    intro f hf
    cases f <;> first | rfl | exact absurd (by decide) hf
  obtain ⟨hexec, himm, hline⟩ := request_now h hbody hframe (by decide)
  refine ⟨_, hexec, fun f => ?_, himm, hline⟩
  change flagIn ((s.heard a).clearFlags (BitVec.ofNat 12 v)).flags f = _
  rw [flagIn_clearFlags, flagIn_ofNat, flagIn_standing, anySilent_eq]
  cases f <;> simp [State.anyOverCap]
  rfl

/-- Settles O9: the reads field by field, the flags one by one, and ALERT by the phase. -/
theorem alarmsReadAndCleared : Obligations.AlarmsReadAndCleared := by
  unfold Obligations.AlarmsReadAndCleared
  refine ⟨fun s a st tag => ⟨readAlarms_answers, fun v h => ?_⟩, fun s => ⟨fun hphase => ?_, fun hphase => ?_⟩⟩
  · split
    next hv => exact clearAlarms_answers h hv
    next hv => exact request_unchanged h (by rw [clearAlarms, if_pos (by omega)]; rfl)
  · rcases hphase with hphase | hphase <;> simp only [State.alert, hphase]
  · rw [alert_running hphase, Bool.and_eq_true, bne_iff_ne, ne_zero_iff]
    simp only [flagIn_and, Bool.and_eq_true]

end Sys2Proof.Proofs.Flags
end

section
/-! PROOFS. The requests that PFW refuses, and the two that look at it among their checks (R14, R86, R91). -/

namespace Sys2Proof.Proofs.Power

open Sys2Proof Sys2Proof.Machine
open Sys2Proof.Proofs.Pallets (askerOf request_unchanged)
open Sys2Proof.Proofs.Requests Sys2Proof.Proofs.Link

variable {s : State} {a : Nat} {st : Station} {tag : Byte}

/-- A job of the station's own table. -/
theorem tableJob_eq (k : Asker) (h : Handle) :
    s.tableJob k h = if h.idx / 2 = k.unit.getD 0 then s.job? h else none := by
  unfold State.tableJob
  rcases s.job? h with _ | j
  · simp
  · rfl

theorem tableJob_some {k : Asker} {h : Handle} {j : Job} :
    s.tableJob k h = some j ↔ s.job? h = some j ∧ h.idx / 2 = k.unit.getD 0 := by
  rw [tableJob_eq]
  split <;> simp [*]

theorem tableJob_heard (k : Asker) (h : Handle) : (s.heard a).tableJob k h = s.tableJob k h := by
  simp only [tableJob_eq, heard_job?]

theorem torch_iff (v : JobState) : v.torch = true ↔ v = .burning ∨ v = .paused := by cases v <;> decide

theorem live_iff (v : JobState) : v.live = true ↔ v = .admitted ∨ v = .loaded ∨ v.torch = true := by
  cases v <;> decide

theorem isCut_iff (g : Handle) : s.isCut g = true ↔ ∃ p, s.part? g = some p ∧ p.cut = .cut := by
  unfold State.isCut
  rcases s.part? g with _ | p <;> simp

/-- Too few free legs, or no free batch. -/
theorem noRoom_iff (n : Nat) :
    (decide (s.freeLegs < n) || !s.hasFreeBatch) = true ↔ ¬(n ≤ s.freeLegs ∧ s.hasFreeBatch = true) := by
  rw [Bool.or_eq_true, decide_eq_true_iff, not_and_or, Nat.not_le, Bool.not_eq_true', Bool.not_eq_true]

/-- End Job's checks, in their order. -/
theorem endJob_turns (h : Handle) (v : Nat) :
    Turns s (endJob (askerOf a st tag) ⟨h, v⟩ s)
      [(v ≤ 1, .badRequest), (s.pfw = false, .powerDown),
        (∃ j, s.job? h = some j ∧ h.idx / 2 = st.unit.getD 0, .noSuch),
        (∀ j, s.job? h = some j → j.state = .burning ∨ j.state = .paused, .wrongState),
        (∀ j, v = 0 → s.job? h = some j → ∀ g ∈ j.parts, ∃ p, s.part? g = some p ∧ p.cut = .cut, .wrongState),
        (2 ≤ s.freeLegs ∧ s.hasFreeBatch = true, .full)] := by
  have hverdict : Verdict.ofRequest v = none ↔ ¬v ≤ 1 := by
    match v with
    | 0 | 1 => simp [Verdict.ofRequest]
    | n + 2 => simp [Verdict.ofRequest]
  unfold endJob
  rcases hv : Verdict.ofRequest v with _ | w
  · exact turns_cons (fun _ => rfl) fun hok => absurd hok (hverdict.1 hv)
  refine turns_cons (fun hnot => absurd (hverdict.2 hnot) (by simp [hv])) fun hle => turns_ite (by simp) fun _ => ?_
  have hpass : w.passes = true ↔ v = 0 := by
    match v, hle with
    | 0, _ | 1, _ => cases hv; decide
  rcases hj : s.tableJob (askerOf a st tag) h with _ | j
  · exact turns_cons (fun _ => rfl) fun ⟨j, hjob, htable⟩ => by
      rw [tableJob_some.2 ⟨hjob, htable⟩] at hj
      cases hj
  obtain ⟨hjob, htable⟩ := tableJob_some.1 hj
  refine turns_cons (fun hnot => absurd ⟨j, hjob, htable⟩ hnot) fun _ => ?_
  simp only [hjob, Option.some.injEq, forall_eq']
  refine turns_ite (by simp [← torch_iff]) fun _ => turns_ite ?_ fun _ => turns_ite (noRoom_iff 2) fun _ => turns_nil
  rw [Bool.and_eq_true, hpass, Bool.not_eq_true', ← Bool.not_eq_true, List.all_eq_true, ← Classical.not_imp]
  simp only [isCut_iff, forall_comm (α := Job), forall_eq']

/-- A carrying leg of the fetch batch is on a hook, or the plate lies where a RETURN leg can take it (R93, R94). -/
abbrev Returns (s : State) (h : Handle) (j : Job) : Prop :=
  (∃ g ∈ s.batchLegs j.fetchBatch, ∃ l, s.leg? g = some l ∧ (l.kind = .fetch ∨ l.kind = .transferOut)
      ∧ (l.state = .lifted ∨ l.state = .check))
    ∨ ∃ r, s.plate? j.plate = some r ∧ (r.st.location = .bed (h.idx / 2) (h.idx % 2) ∨ r.st.location = .cart)
      ∧ r.st.doubtful = false

theorem carries_iff (l : Leg) : l.carries = true ↔ l.kind = .fetch ∨ l.kind = .transferOut := by
  rw [Leg.carries, Bool.or_eq_true, beq_iff_eq, beq_iff_eq]

theorem onHook_iff (v : LegState) : v.onHook = true ↔ v = .lifted ∨ v = .check := by cases v <;> decide

theorem carryingOnHook_iff (j : Job) : s.carryingOnHook j = true ↔
    ∃ g ∈ s.batchLegs j.fetchBatch, ∃ l, s.leg? g = some l ∧ (l.kind = .fetch ∨ l.kind = .transferOut)
      ∧ (l.state = .lifted ∨ l.state = .check) := by
  rw [State.carryingOnHook, List.any_eq_true]
  refine exists_congr fun g => and_congr_right fun _ => ?_
  rcases s.leg? g with _ | l <;> simp [carries_iff, onHook_iff]

theorem returnable_iff (j : Job) (t b : Nat) : s.returnable j t b = true ↔
    ∃ r, s.plate? j.plate = some r ∧ (r.st.location = .bed t b ∨ r.st.location = .cart) ∧ r.st.doubtful = false := by
  rw [State.returnable]
  rcases s.plate? j.plate with _ | r <;> simp

theorem returns_iff (h : Handle) (j : Job) :
    (s.carryingOnHook j || s.returnable j (jobTable h) (jobBed h)) = true ↔ Returns s h j := by
  rw [Bool.or_eq_true, carryingOnHook_iff, returnable_iff]
  rfl

/-- Abort Job's checks, in their order. -/
theorem abortJob_turns (k : Asker) (h : Handle) :
    Turns s (abortJob k h s)
      [(∃ j, s.job? h = some j, .noSuch),
        (∀ j, s.job? h = some j → j.state = .admitted ∨ j.state = .loaded ∨ j.state = .burning ∨ j.state = .paused,
          .wrongState),
        (∀ j, s.job? h = some j → (j.state = .burning ∨ j.state = .paused) → s.pfw = false, .powerDown),
        (∀ j, s.job? h = some j →
          ((j.state = .burning ∨ j.state = .paused) → 2 ≤ s.freeLegs ∧ s.hasFreeBatch = true)
            ∧ (¬(j.state = .burning ∨ j.state = .paused) → Returns s h j → 1 ≤ s.freeLegs ∧ s.hasFreeBatch = true),
          .full)] := by
  unfold abortJob
  rcases hj : s.job? h with _ | j
  · exact turns_cons (fun _ => rfl) fun ⟨j, hjob⟩ => by cases hjob
  refine turns_cons (fun hnot => absurd ⟨j, rfl⟩ hnot) fun _ => ?_
  simp only [Option.some.injEq, forall_eq', ← torch_iff]
  refine turns_ite (by rw [Bool.not_eq_true', ← live_iff, Bool.not_eq_true]) fun _ => ?_
  split
  next htorch =>
    refine turns_ite (by simp [htorch]) fun _ => turns_ite ((noRoom_iff 2).trans (not_congr ?_)) fun _ => turns_nil
    simp [htorch]
  next htorch =>
    refine turns_cons (fun hnot => absurd (fun h => absurd h htorch) hnot) fun _ => turns_ite ?_ fun _ => turns_nil
    rw [Bool.and_eq_true, returns_iff, noRoom_iff 1]
    simp [htorch]

/-- Settles O17: the fifteen by their first check, End Job and Abort Job by their checks in order. -/
theorem powerDownRefuses : Obligations.PowerDownRefuses := by
  unfold Obligations.PowerDownRefuses
  refine ⟨fun c q s a st hq hexact h hpfw hrow => ?_, fun s a st tag h => ⟨fun v hasks => ?_, fun hasks => ?_⟩⟩
  · obtain ⟨α, p, body, hexec, hpayload, -, -, hpower⟩ := isRequest_of_asked hq
    cases p with
    | malformed => rw [hexact] at hpayload; cases hpayload
    | fields v =>
      rw [hexec]
      exact request_unchanged h (hpower hrow _ _ _ (by simpa using hpfw))
  · exact refusedInOrder_of_block rfl hasks fun u => endJob_turns h v
  · exact refusedInOrder_of_block rfl hasks fun u => abortJob_turns _ h

end Sys2Proof.Proofs.Power
end

section
/-! PROOFS. The order of keys, and what sorting by an order gives (R47, R63, R134). -/

namespace Sys2Proof.Proofs.Order

open Sys2Proof

/-! ## Keys -/

theorem keysBefore_irrefl (l : List Nat) : keysBefore l l = false := by
  induction l with
  | nil => rfl
  | cons a as ih => simp [keysBefore, ih]

theorem keysBefore_cons (a b : Nat) (as bs : List Nat) :
    keysBefore (a :: as) (b :: bs) = true ↔ a < b ∨ (a = b ∧ keysBefore as bs = true) := by
  rw [keysBefore]
  split
  next h => simp [h]
  next h =>
    split
    next h' => simp [h, Nat.ne_of_gt h']
    next h' => simp [Nat.le_antisymm (Nat.le_of_not_lt h') (Nat.le_of_not_lt h)]

theorem keysBefore_trans {l m n : List Nat} (h : keysBefore l m = true) (g : keysBefore m n = true) :
    keysBefore l n = true := by
  induction l generalizing m n with
  | nil => cases m <;> cases h
  | cons a as ih =>
    match m, n, h, g with
    | b :: bs, c :: cs, h, g =>
      rw [keysBefore_cons] at h g ⊢
      rcases h with h | ⟨rfl, h⟩
      · rcases g with g | ⟨rfl, -⟩
        · exact .inl (Nat.lt_trans h g)
        · exact .inl h
      · rcases g with g | ⟨rfl, g⟩
        · exact .inl g
        · exact .inr ⟨rfl, ih h g⟩

/-- Keys of one length that differ come one before the other. -/
theorem keysBefore_total {l m : List Nat} (hlen : l.length = m.length) (hne : l ≠ m) :
    keysBefore l m = true ∨ keysBefore m l = true := by
  induction l generalizing m with
  | nil => exact absurd (List.length_eq_zero_iff.1 hlen.symm).symm hne
  | cons a as ih =>
    match m, hlen, hne with
    | b :: bs, hlen, hne =>
      rw [keysBefore_cons, keysBefore_cons]
      rcases Nat.lt_trichotomy a b with h | rfl | h
      · exact .inl (.inl h)
      · rcases ih (Nat.succ.inj hlen) (fun h => hne (h ▸ rfl)) with h | h
        · exact .inl (.inr ⟨rfl, h⟩)
        · exact .inr (.inr ⟨rfl, h⟩)
      · exact .inr (.inl h)

/-! ## Sorting -/

section Sorted

variable {α : Type} {before : α → α → Bool} {a : α} {l : List α}

theorem insertBy_perm : (insertBy before a l).Perm (a :: l) := by
  induction l with
  | nil => exact .refl _
  | cons b bs ih =>
    rw [insertBy]
    split
    · exact .refl _
    · exact (ih.cons b).trans (.swap a b bs)

/-- An element that comes before or after each of a sorted list is inserted at its rank. -/
theorem insertBy_pairwise (htrans : ∀ x y z, before x y = true → before y z = true → before x z = true)
    (htotal : ∀ b ∈ l, before a b = true ∨ before b a = true) (hl : l.Pairwise fun x y => before x y = true) :
    (insertBy before a l).Pairwise fun x y => before x y = true := by
  induction l with
  | nil => exact List.pairwise_singleton _ _
  | cons b bs ih =>
    rw [List.pairwise_cons] at hl
    obtain ⟨hb, hbs⟩ := hl
    rw [insertBy]
    split
    next hab =>
      refine List.pairwise_cons.2 ⟨fun x hx => ?_, List.pairwise_cons.2 ⟨hb, hbs⟩⟩
      rcases List.mem_cons.1 hx with rfl | hx
      · exact hab
      · exact htrans _ _ _ hab (hb x hx)
    next hab =>
      refine List.pairwise_cons.2 ⟨fun x hx => ?_, ih (fun c hc => htotal c (List.mem_cons_of_mem _ hc)) hbs⟩
      rcases List.mem_cons.1 (insertBy_perm.mem_iff.1 hx) with rfl | hx
      · exact (htotal b List.mem_cons_self).resolve_left hab
      · exact hb x hx

theorem sortBy_perm : (sortBy before l).Perm l := by
  induction l with
  | nil => exact .refl _
  | cons a as ih => exact insertBy_perm.trans (ih.cons a)

/-- A list whose elements come one before the other is sorted. -/
theorem sortBy_pairwise (htrans : ∀ x y z, before x y = true → before y z = true → before x z = true)
    (htotal : l.Pairwise fun x y => before x y = true ∨ before y x = true) :
    (sortBy before l).Pairwise fun x y => before x y = true := by
  induction l with
  | nil => exact .nil
  | cons a as ih =>
    obtain ⟨ha, has⟩ := List.pairwise_cons.1 htotal
    exact insertBy_pairwise htrans (fun b hb => ha b (sortBy_perm.mem_iff.1 hb)) (ih has)

end Sorted

end Sys2Proof.Proofs.Order
end

section
/-! PROOFS. The Fit Search Unit: its queue, the scan entry by entry, the ranking, and a search withdrawn
(R57 to R66). -/

namespace Sys2Proof.Proofs.Search

open Sys2Proof Sys2Proof.Machine
open Sys2Proof.Proofs.Pallets (askerOf request_unchanged)
open Sys2Proof.Proofs.Requests Sys2Proof.Proofs.Order Sys2Proof.Proofs.Blocks

variable {s : State} {a : Nat} {st : Station} {tag : Byte}

/-! ## The queue (R57 to R59) -/

theorem startScan_scanning {c : Scan} (h : s.scan = some c) : s.startScan = s := by
  simp only [State.startScan, h]

theorem startScan_idle (h : s.scan = none) (hq : s.searchQueue = []) : s.startScan = s := by
  simp only [State.startScan, h, hq]

theorem startScan_head {q : SearchRec} {rest : List SearchRec} (h : s.scan = none) (hq : s.searchQueue = q :: rest) :
    s.startScan = { s with searchQueue := rest, scan := some ⟨q, 0, []⟩ } := by
  simp only [State.startScan, h, hq]

theorem findRemnant_ranges (f : FindF) : f.inRanges = true ↔
    f.specFamily ≤ 255 ∧ f.specMask ≤ 255 ∧ 30 ≤ f.thickness ∧ f.thickness ≤ 1500 ∧ f.tolerance ≤ 50
      ∧ 1 ≤ f.length ∧ f.length ≤ 23980 ∧ 1 ≤ f.width ∧ f.width ≤ 4970 ∧ f.rotation ≤ 1
      ∧ 1 ≤ f.wanted ∧ f.wanted ≤ 4 := by
  simp only [FindF.inRanges, inRange, Bool.and_eq_true, decide_eq_true_iff, Nat.zero_le, true_and, and_assoc]

/-- Settles O19: the two refusals, and the search that joins the queue of a busy or an idle unit. -/
theorem findRemnantQueues : Obligations.FindRemnantQueues := by
  unfold Obligations.FindRemnantQueues
  intro s a st tag f q h hq
  simp only [← findRemnant_ranges]
  refine ⟨fun hf => request_unchanged h ?_, fun hf hfull => request_unchanged h ?_, fun hf hroom => ?_⟩
  · rw [findRemnant, if_pos (by simpa using hf)]
    rfl
  · have hfull' : Config.searchQueueMax ≤ (s.heard a).searchQueue.length := by simpa [Config.searchQueueMax] using hfull
    rw [findRemnant, if_neg (by simp [hf]), if_pos hfull']
    rfl
  · have hbody : findRemnant (askerOf a st tag) f (s.heard a)
        = .search ({ s.heard a with searchQueue := (s.heard a).searchQueue ++ [q] }).startScan := by
      have hroom' : ¬Config.searchQueueMax ≤ (s.heard a).searchQueue.length := by
        simpa [Config.searchQueueMax] using hroom
      rw [findRemnant, if_neg (by simp [hf]), if_neg hroom', hq]
      rfl
    have hframe : OnlyChanges [.searchQueue, .scan] (s.heard a)
        ({ s.heard a with searchQueue := (s.heard a).searchQueue ++ [q] }).startScan := by
      refine OnlyChanges.trans (fun f hf => ?_) startScan_frame
      cases f <;> first | rfl | exact absurd (by decide) hf
    obtain ⟨hheard, hsends, hdeferred, hall, hline⟩ :=
      search_line (r := reqFindRemnant) (tag := tag) h.station hframe (by decide)
    refine ⟨_, (h.request (tag := tag) (body := findRemnant)).trans (by rw [hbody]), hheard, hsends, hdeferred,
      fun c hc => ?_, fun hidle head rest hwaiting => ?_, hall⟩
    · rw [read_of_line State.scan hline, read_of_line State.searchQueue hline]
      rw [startScan_scanning (c := c) (by simpa using hc)]
      exact ⟨by simpa using hc, by simp⟩
    · rw [read_of_line State.scan hline, read_of_line State.searchQueue hline]
      rw [startScan_head (q := head) (rest := rest) (by simpa using hidle) (by simpa using hwaiting)]
      exact ⟨rfl, rfl⟩

/-! ## What an entry offers (R60 to R62) -/

theorem fits_iff (q : SearchRec) (p : Panel) : q.fits p = true ↔ q.holds p := by
  simp only [SearchRec.fits, fitsAlong, fitsAcross, SearchRec.holds, Bool.or_eq_true, Bool.and_eq_true,
    decide_eq_true_iff]

/-- The best fitting panel: the least waste, the lower index among equals. -/
def IsBest (q : SearchRec) (i n : Nat) (p : Panel) (l : List Panel) : Prop :=
  ∃ m, n = i + m ∧ l[m]? = some p ∧ q.holds p
    ∧ ∀ j d, l[j]? = some d → q.holds d → q.over p < q.over d ∨ (q.over p = q.over d ∧ m ≤ j)

theorem bestPanel_none (q : SearchRec) (l : List Panel) :
    ∀ i, q.bestPanel i l = none → ∀ p ∈ l, ¬q.holds p := by
  induction l with
  | nil => intro i _ p hp; cases hp
  | cons d ds ih =>
    intro i h p hp
    rw [SearchRec.bestPanel] at h
    split at h
    next hrest =>
      split at h
      · cases h
      next hd =>
        rcases List.mem_cons.1 hp with rfl | hp
        · exact fun hh => hd ((fits_iff q p).2 hh)
        · exact ih _ hrest p hp
    next => split at h <;> cases h

theorem bestPanel_some (q : SearchRec) (l : List Panel) :
    ∀ i n p, q.bestPanel i l = some (n, p) → IsBest q i n p l := by
  induction l with
  | nil => intro i n p h; cases h
  | cons d ds ih =>
    intro i n p h
    rw [SearchRec.bestPanel] at h
    split at h
    next hrest =>
      split at h
      next hd =>
        cases h
        refine ⟨0, rfl, rfl, (fits_iff q d).1 hd, fun j e hj he => ?_⟩
        match j, hj with
        | 0, hj => cases hj; exact .inr ⟨rfl, Nat.le_refl 0⟩
        | j + 1, hj => exact absurd he (bestPanel_none q ds _ hrest e (List.mem_of_getElem? hj))
      · cases h
    next m b hrest =>
      obtain ⟨k, rfl, hk, hb, hbest⟩ := ih _ _ _ hrest
      split at h
      next hd =>
        cases h
        rw [Bool.and_eq_true, fits_iff, decide_eq_true_iff] at hd
        obtain ⟨hd, hle⟩ := hd
        change q.over d ≤ q.over b at hle
        refine ⟨0, rfl, rfl, hd, fun j e hj he => ?_⟩
        match j, hj with
        | 0, hj => cases hj; exact .inr ⟨rfl, Nat.le_refl 0⟩
        | j + 1, hj =>
          have := hbest j e hj he
          omega
      next hd =>
        cases h
        refine ⟨k + 1, by omega, hk, hb, fun j e hj he => ?_⟩
        match j, hj with
        | 0, hj =>
          cases hj
          rw [Bool.and_eq_true, fits_iff, decide_eq_true_iff] at hd
          have hlt : ¬q.over d ≤ q.over p := fun hle => hd ⟨he, hle⟩
          exact .inl (by omega)
        | j + 1, hj =>
          have := hbest j e hj he
          omega

theorem use_free_iff (r : PlateRec) : r.use = .free ↔ r.job = none ∧ r.leg = none := by
  unfold PlateRec.use
  rcases r.leg with _ | l <;> rcases r.job with _ | j <;> simp

theorem fitsSearch_iff (q : SearchRec) (r : PlateRec) : s.fitsSearch q r = true ↔
    r.st.disposition = .stock ∧ r.job = none ∧ r.leg = none
      ∧ r.st.held = false ∧ r.st.massDoubt = false ∧ r.st.doubtful = false
      ∧ (s.grade r.ident.grade).family &&& q.specMask = q.specFamily &&& q.specMask
      ∧ q.thickness ≤ r.ident.thickness ∧ r.ident.thickness ≤ q.thickness + q.tolerance := by
  simp only [State.fitsSearch, Bool.and_eq_true, beq_iff_eq, use_free_iff, Bool.not_eq_true', gradeMatches,
    decide_eq_true_iff, and_assoc]

/-- What an entry offers, as claims speak of it. -/
theorem offer_iff (q : SearchRec) (i : Nat) (c : Candidate) : s.offer q i = some c ↔ Offers s q i c := by
  unfold State.offer Offers
  constructor
  · intro h
    split at h; · cases h
    next e he =>
    split at h; · cases h
    next r hr =>
    split at h; · cases h
    next k level hslot =>
    split at h
    next hfits =>
      have hloc : r.st.location = .slot k level := by
        cases hl : r.st.location <;> rw [hl] at hslot <;> cases hslot
        rfl
      unfold SearchRec.candidate at h
      split at h; · cases h
      next n p hbest =>
      cases hpanels : r.st.panels with
      | none => rw [hpanels] at hbest; cases hbest
      | some panels =>
        rw [hpanels] at hbest
        obtain ⟨m, hm, hp, hholds, hleast⟩ := bestPanel_some q panels 0 n p hbest
        obtain rfl : n = m := by omega
        obtain ⟨h1, h2, h3, h4, h5, h6, h7, h8, h9⟩ := (fitsSearch_iff q r).1 hfits
        refine ⟨e, r, k, level, n, p, panels, he, hr, h1, h2, h3, h4, h5, h6, hloc, hpanels, h7, h8, h9, hp, hholds,
          fun j d hj hd => hleast j d hj hd, ?_⟩
        cases h
        simp [fitsAlong, State.burialDepth, SearchRec.over, wasteOf, Panel.area, bandOf, Bool.decide_and]
    · cases h
  · rintro ⟨e, r, k, level, n, p, panels, he, hr, h1, h2, h3, h4, h5, h6, hloc, hpanels, h7, h8, h9, hp, hholds, hleast,
      rfl⟩
    have hfits := (fitsSearch_iff q r).2 ⟨h1, h2, h3, h4, h5, h6, h7, h8, h9⟩
    have hbest : q.bestPanel 0 panels = some (n, p) := by
      rcases hb : q.bestPanel 0 panels with _ | ⟨m, b⟩
      · exact absurd hholds (bestPanel_none q panels 0 hb p (List.mem_of_getElem? hp))
      · obtain ⟨j, hj, hb', hholds', hleast'⟩ := bestPanel_some q panels 0 m b hb
        have h1 := hleast j b hb' hholds'
        have h2 := hleast' n p hp hholds
        obtain rfl : n = m := by omega
        obtain rfl : n = j := by omega
        rw [hp] at hb'
        cases hb'
        rfl
    simp only [he, hr, hloc, Location.inSlot, hfits, if_true, SearchRec.candidate, hpanels, Option.getD_some, hbest]
    simp [fitsAlong, State.burialDepth, SearchRec.over, wasteOf, Panel.area, bandOf, Bool.decide_and]

theorem workingAfter_reached (q : SearchRec) (i : Nat) (l : List Candidate) :
    Reached s q i l (workingAfter q.wanted l (s.offer q i)) := by
  rcases ho : s.offer q i with _ | c
  · refine .inr ⟨fun c hc => ?_, rfl⟩
    rw [(offer_iff q i c).2 hc] at ho
    cases ho
  · exact .inl ⟨c, (offer_iff q i c).1 ho, rfl⟩

/-! ## The scan (R59, R60, R65) -/

/-- The result of a scan in the answer slot. -/
abbrev heldResult (q : SearchRec) (w : List Candidate) : AnsSlot :=
  .held q.tag 0x28 .done (.num 1 w.length :: (w.map fun d => [Token.handle d.plate, .num 1 d.panel,
    .choice (if d.rotated then 0 else 1), .num 1 d.depth, .num 4 d.waste]).flatten)

theorem heldResult_eq (q : SearchRec) (w : List Candidate) :
    AnsSlot.held q.tag reqFindRemnant.code .done (listTok (w.map Candidate.tokens)) = heldResult q w := by
  rw [listTok, List.length_map]
  rfl

/-- The result handed over, before the next scan starts. -/
def handed (s : State) (q : SearchRec) (w : List Candidate) : State :=
  match s.station? q.station with
  | some st => if st.slot = .inFlight q.tag then s.putAnswer q.station (heldResult q w) else s
  | none => s

theorem endScan_eq (q : SearchRec) (w : List Candidate) :
    s.endScan q w = ({ handed s q w with scan := none }).startScan := by
  unfold State.endScan handed
  rw [heldResult_eq] <;> rfl

theorem handed_searchQueue (q : SearchRec) (w : List Candidate) : (handed s q w).searchQueue = s.searchQueue := by
  unfold handed
  split
  · split
    · exact putAnswer_searchQueue ..
    · rfl
  · rfl

theorem handed_self {q : SearchRec} {w : List Candidate} (hst : s.station? q.station = some st) :
    (handed s q w).station? q.station
      = some (if st.slot = .inFlight q.tag then { st with slot := heldResult q w } else st) := by
  simp only [handed, hst]
  split
  · exact station?_modifyStation_self _ hst
  · exact hst

theorem handed_others {q : SearchRec} {w : List Candidate} {b : Nat} (hb : b ≠ q.station) :
    (handed s q w).station? b = s.station? b := by
  unfold handed
  split
  · split
    · exact station?_modifyStation_ne _ (Ne.symm hb)
    · rfl
  · rfl

/-- The end of a scan: the result handed over, the head of the queue started. -/
theorem endScan_reads (q : SearchRec) (w : List Candidate) :
    (∀ b, (s.endScan q w).station? b = (handed s q w).station? b)
      ∧ (s.searchQueue = [] → (s.endScan q w).scan = none ∧ (s.endScan q w).searchQueue = [])
      ∧ ∀ p rest, s.searchQueue = p :: rest →
          (s.endScan q w).scan = some ⟨p, 0, []⟩ ∧ (s.endScan q w).searchQueue = rest := by
  rw [endScan_eq]
  have hqueue : ({ handed s q w with scan := none } : State).searchQueue = s.searchQueue := handed_searchQueue q w
  refine ⟨fun b => ?_, fun h => ?_, fun p rest h => ?_⟩
  · exact station?_congr (startScan_frame .stations (by decide))
  · rw [startScan_idle rfl (hqueue.trans h)]
    exact ⟨rfl, hqueue.trans h⟩
  · rw [startScan_head rfl (hqueue.trans h)]
    exact ⟨rfl, rfl⟩

/-- The scan reaches its next entry: it advances, or ends after the last. -/
theorem scanReachEntry_steps (c : Scan) (hrun : s.phase = .running) (hscan : s.scan = some c) (w : List Candidate)
    (hw : w = workingAfter c.search.wanted c.working (s.offer c.search c.position)) :
    exec .scanReachEntry s =
      if c.position < 1023 then .next { s with scan := some { c with position := c.position + 1, working := w } }
      else .next (s.endScan c.search w) := by
  simp only [exec, execScanReachEntry, hrun, hscan, ← hw]
  by_cases hlast : c.position < 1023
  · rw [if_pos hlast, if_pos (show c.position + 1 < Config.plateEntries from by simp [Config.plateEntries]; omega)]
  · rw [if_neg hlast, if_neg (show ¬c.position + 1 < Config.plateEntries from by simp [Config.plateEntries]; omega)]

/-! ## The ranking (R63) -/

theorem ranksBefore_iff (c d : Candidate) : c.ranksBefore d = true ↔
    (c.origin = .derived ∧ d.origin = .mill)
      ∨ (c.origin = d.origin ∧ (c.band < d.band
        ∨ (c.band = d.band ∧ (c.depth < d.depth
          ∨ (c.depth = d.depth ∧ (c.waste < d.waste ∨ (c.waste = d.waste ∧ c.seq < d.seq))))))) := by
  simp only [Candidate.ranksBefore, Candidate.keys, keysBefore_cons]
  cases c.origin <;> cases d.origin <;> simp [keysBefore]

theorem ranksBefore_trans (c d e : Candidate) (h : c.ranksBefore d = true) (g : d.ranksBefore e = true) :
    c.ranksBefore e = true :=
  keysBefore_trans h g

theorem ranksBefore_total {c d : Candidate} (h : d.seq ≠ c.seq) : c.ranksBefore d = true ∨ d.ranksBefore c = true :=
  keysBefore_total rfl fun hk => h (by
    simp only [Candidate.keys, List.cons.injEq] at hk
    obtain ⟨-, -, -, -, hseq, -⟩ := hk
    exact hseq.symm)

/-- A candidate ranked in: the best of all of them, in their order, up to the wanted count. -/
theorem rankIn_best (wanted : Nat) (l : List Candidate) (c : Candidate)
    (hl : l.Pairwise fun x y => x.ranksBefore y = true) (hseq : ∀ d ∈ l, d.seq ≠ c.seq) :
    (rankIn wanted l c).Pairwise (fun x y => x.ranksBefore y = true)
      ∧ (rankIn wanted l c).length = min wanted (l.length + 1)
      ∧ (∀ x ∈ rankIn wanted l c, x = c ∨ x ∈ l)
      ∧ ∀ x, x = c ∨ x ∈ l → x ∉ rankIn wanted l c → ∀ y ∈ rankIn wanted l c, y.ranksBefore x = true := by
  have hperm : (insertBy Candidate.ranksBefore c l).Perm (c :: l) := insertBy_perm
  have hsorted : (insertBy Candidate.ranksBefore c l).Pairwise fun x y => x.ranksBefore y = true :=
    insertBy_pairwise ranksBefore_trans (fun d hd => ranksBefore_total (hseq d hd)) hl
  refine ⟨hsorted.sublist (List.take_sublist ..), ?_, fun x hx => ?_, fun x hx hout y hy => ?_⟩
  · rw [rankIn, List.length_take, hperm.length_eq, List.length_cons]
  · exact List.mem_cons.1 (hperm.mem_iff.1 (List.mem_of_mem_take hx))
  · have hmem : x ∈ insertBy Candidate.ranksBefore c l := hperm.mem_iff.2 (List.mem_cons.2 hx)
    rw [← List.take_append_drop wanted (insertBy Candidate.ranksBefore c l)] at hmem hsorted
    exact (List.pairwise_append.1 hsorted).2.2 y hy x ((List.mem_append.1 hmem).resolve_left hout)

/-- Settles O20: by the offer of the entry, the end of the scan, and the order of the keys. -/
theorem scanRanksEntries : Obligations.ScanRanksEntries := by
  unfold Obligations.ScanRanksEntries
  refine ⟨fun s c hrun hscan => ?_, ranksBefore_iff, fun wanted l c hl hseq _ => rankIn_best wanted l c hl hseq⟩
  have hexec := scanReachEntry_steps c hrun hscan _ rfl
  have hreached := workingAfter_reached (s := s) c.search c.position c.working
  generalize workingAfter c.search.wanted c.working (s.offer c.search c.position) = w at hexec hreached
  by_cases hlast : c.position < 1023
  · rw [if_pos hlast] at hexec
    refine ⟨_, w, hexec, hreached, fun _ => ⟨rfl, fun f hf => ?_⟩, fun h => by omega⟩
    cases f <;> first | rfl | exact absurd (by decide) hf
  · rw [if_neg hlast] at hexec
    obtain ⟨hstations, hidle, hhead⟩ := endScan_reads (s := s) c.search w
    refine ⟨_, w, hexec, hreached, fun h => absurd h hlast, fun _ => ⟨fun st result hst hresult => ?_, fun b hb => ?_,
      hidle, hhead, (endScan_frame _ _).mono (by decide)⟩⟩
    · rw [hstations, handed_self hst, hresult]
    · rw [hstations, handed_others hb]

end Sys2Proof.Proofs.Search
end

section
/-! PROOFS. Enrolment and removal of a station, and what goes with it (R171, R172, R66). -/

namespace Sys2Proof.Proofs.Enrol

open Sys2Proof Sys2Proof.Machine
open Sys2Proof.Proofs.Pallets (askerOf request_unchanged)
open Sys2Proof.Proofs.Requests Sys2Proof.Proofs.Search Sys2Proof.Proofs.Blocks Sys2Proof.Proofs.Link
open Sys2Proof.Proofs.Tables

variable {s : State} {a b : Nat} {st : Station} {tag : Byte}

/-! ## The line, for a block that changes the station table itself -/

/-- A deferred request that waits on writes, delivered on any state that still enrols the asking station. -/
theorem waits_delivered {r : Req} {u : State} {x : Station} {images : List ImageId} {code : AnsCode}
    {fields : List Token} (himages : images ≠ []) (hx : u.station? a = some x) :
    let t := State.deliver r (askerOf a st tag) (.waits u images code fields)
    t.poll = u.poll ∧ t.station? a = some { x with slot := .inFlight tag }
      ∧ (∀ b, b ≠ a → t.station? b = u.station? b) ∧ Sends t a st tag .working []
      ∧ t.deferred = u.deferred ++ [waitsOn r a tag images code fields] ∧ OnlyChanges lineFields u t := by
  obtain ⟨i, is, rfl⟩ := List.exists_cons_of_ne_nil himages
  have hput := putAnswer_frame (s := u) a (.inFlight tag)
  have hdefer := defer_frame (s := u.putAnswer a (.inFlight tag)) (waitsOn r a tag (i :: is) code fields)
  refine ⟨hput .poll (by decide), ?_, fun b hb => ?_, answer_sends _, ?_,
    ((hput.mono (by decide)).trans (hdefer.mono (by decide))).trans ((answer_frame _ _ _).mono (by decide))⟩
  · exact (station?_congr (hdefer .stations (by decide))).trans (station?_modifyStation_self _ hx)
  · exact (station?_congr (hdefer .stations (by decide))).trans (station?_modifyStation_ne _ (Ne.symm hb))
  · change (u.putAnswer a (.inFlight tag)).deferred ++ _ = _
    rw [hput .deferred (by decide)]
    rfl

/-! ## A station, as the checks read it -/

/-- Hearing a station leaves every station's kind and unit. -/
theorem heard_station? (b : Nat) : (s.heard a).station? b
    = (s.station? b).map fun x => if b = a then { x with misses := 0, silent := false } else x := by
  by_cases hb : b = a
  · subst hb
    rcases hst : s.station? b with _ | x
    · simp [State.heard, State.modifyStation, station?_congr (s := s), hst]
    · simp [station?_heard_self hst]
  · rw [station?_heard_ne (Ne.symm hb)]
    simp [hb]

theorem kept_heard {p : Station → Prop} (hp : ∀ x : Station, p { x with misses := 0, silent := false } ↔ p x)
    (b : Nat) :
    (∀ x, (s.heard a).station? b = some x → p x) ↔ ∀ x, s.station? b = some x → p x := by
  rw [heard_station?]
  rcases s.station? b with _ | x
  · simp
  · by_cases hb : b = a <;> simp [hb, hp]

/-- Another station of the kind and unit. -/
theorem unitTaken_iff (kind : StationKind) (unit : Option Nat) : s.unitTaken b kind unit = true ↔
    ¬(kind ∈ [StationKind.table, .marker, .crane, .cart] →
      ∀ d x, d ≠ b → s.station? d = some x → ¬(x.kind = kind ∧ x.unit = unit)) := by
  have hsingle : kind.single = true ↔ kind ∈ [StationKind.table, .marker, .crane, .cart] := by cases kind <;> decide
  rw [State.unitTaken, Bool.and_eq_true, hsingle, addressesOf_eq, List.any_eq_true, Classical.not_imp]
  refine and_congr_right fun _ => ?_
  simp only [mem_enrolledWith, Bool.and_eq_true, beq_iff_eq, bne_iff_ne, not_forall, not_not, exists_prop]
  exact ⟨fun ⟨d, ⟨x, hx, hp⟩, hd⟩ => ⟨d, x, hd, hx, hp⟩, fun ⟨d, x, hd, hx, hp⟩ => ⟨d, ⟨x, hx, hp⟩, hd⟩⟩

theorem crane?_iff {x : Station} {c : Nat} : x.crane? = some c ↔ x.kind = .crane ∧ x.unit = some c := by
  unfold Station.crane?
  split <;> simp [*]

theorem boundCrane_iff {kind : StationKind} {unit : Option Nat} {c : Nat} :
    boundCrane kind unit = some c ↔ kind = .crane ∧ unit = some c := by
  unfold boundCrane
  split <;> simp [*]

/-- The station's crane has a leg, and would be bound otherwise. -/
theorem craneHeld_iff (new : Option Nat) : s.craneHeld b new = true ↔
    ¬∀ x c, s.station? b = some x → x.kind = .crane → x.unit = some c → (s.crane c).leg = none ∨ new = some c := by
  unfold State.craneHeld
  rcases s.station? b with _ | x
  · simp
  dsimp only
  split
  next hc =>
    refine iff_of_false (by simp) (not_not.2 fun y c hy hkind hunit => ?_)
    cases hy
    rw [crane?_iff.2 ⟨hkind, hunit⟩] at hc
    cases hc
  next c hc =>
    obtain ⟨hkind, hunit⟩ := crane?_iff.1 hc
    simp [hkind, hunit, State.craneHasLeg, Option.ne_none_iff_isSome]

/-! ## What goes with a station -/

theorem discardOpen_heard (b : Nat) :
    ((s.heard a).discardOpen b).legs = (s.discardOpen b).legs
      ∧ ((s.heard a).discardOpen b).batches = (s.discardOpen b).batches := by
  have hopen : (s.heard a).openBatchOf b = s.openBatchOf b :=
    read_of_line (fun s => s.openBatchOf b) heard_line
  unfold State.discardOpen
  rw [hopen]
  split
  next hb =>
    unfold State.discardBatch
    rw [heard_batch?]
    split
    · simp
    · simp
  · simp

theorem withdrawSearch_withdrawn (b : Nat) : Withdrawn s (s.withdrawSearch b) b := by
  rintro waiting rfl
  unfold State.withdrawSearch
  refine ⟨fun ⟨c, hc, hother⟩ => ?_, fun hown => ⟨fun hnil => ?_, fun q rest hq => ?_⟩⟩
  · rw [startScan_scanning (c := c) (by simp [hc, hother])]
    simp [hc, hother]
  all_goals
    have hidle : (match s.scan with
        | some c => if c.search.station = b then none else some c
        | none => none) = none := by
      rcases hs : s.scan with _ | c
      · rfl
      · simp [hown c hs]
  · rw [startScan_idle hidle hnil]
    exact ⟨hidle, hnil⟩
  · rw [startScan_head hidle hq]
    exact ⟨rfl, rfl⟩

theorem withdrawn_congr {m n t : State} {b : Nat} (h : Withdrawn m n b) (hscan : m.scan = s.scan)
    (hqueue : m.searchQueue = s.searchQueue) (hscan' : t.scan = n.scan) (hqueue' : t.searchQueue = n.searchQueue) :
    Withdrawn s t b := by
  intro waiting hw
  rw [← hscan, hscan', hqueue']
  exact h waiting (by rw [hqueue]; exact hw)

/-- What goes with a station: its draft, OPEN batch, search, and the answers of its requests in flight. -/
theorem forget_reads (b : Nat) :
    (s.forget b).drafts = s.drafts.set (b - 1) [] ∧ (s.forget b).deferred = s.deferred.map (Deferred.orphan b)
      ∧ (s.forget b).legs = (s.discardOpen b).legs ∧ (s.forget b).batches = (s.discardOpen b).batches
      ∧ Withdrawn s (s.forget b) b := by
  unfold State.forget
  have hdiscard (f : Field) (hf : f ∉ [Field.legs, .batches]) := discardOpen_frame (s := s) b f hf
  refine ⟨(withdrawSearch_frame b .drafts (by decide)).trans ?_, withdrawSearch_frame b .deferred (by decide),
    withdrawSearch_frame b .legs (by decide), withdrawSearch_frame b .batches (by decide),
    withdrawn_congr (m := { (s.discardOpen b).putDraft b [] with deferred := s.deferred.map (Deferred.orphan b) })
      (withdrawSearch_withdrawn b) (hdiscard .scan (by decide)) (hdiscard .searchQueue (by decide)) rfl rfl⟩
  exact congrArg (Table.set · (b - 1) []) (hdiscard .drafts (by decide))

theorem crane_craneOff (c d : Nat) : (s.craneOff c).crane d
    = if c = d ∧ d ≤ 5 then ⟨.offline, none, none, none, false⟩ else s.crane d := by
  by_cases hcd : c = d
  · subst hcd
    by_cases hc : c ≤ 5
    · rw [if_pos ⟨rfl, hc⟩, State.craneOff, modifyCrane_crane hc, if_pos rfl]
    · rw [if_neg fun h => hc h.2, State.crane, State.crane, Table.getD_beyond _ _ (by omega),
        Table.getD_beyond _ _ (by omega)]
  · rw [if_neg fun h => hcd h.1]
    exact Table.getD_modify_ne _ _ _ hcd

/-- The crane a station was bound to, where it is bound otherwise now, goes out of service. -/
theorem unbindCrane_crane (b : Nat) (new : Option Nat) :
    (∀ x c, s.station? b = some x → x.kind = .crane → x.unit = some c → c ≤ 5 → new ≠ some c →
        (s.unbindCrane b new).crane c = ⟨.offline, none, none, none, false⟩)
      ∧ ∀ c, (∀ x, s.station? b = some x → x.kind = .crane → x.unit = some c → new = some c) →
        (s.unbindCrane b new).crane c = s.crane c := by
  unfold State.unbindCrane
  rcases s.station? b with _ | x
  · exact ⟨fun x c h => (by cases h), fun c _ => rfl⟩
  dsimp only
  split
  next hnone =>
    refine ⟨fun y c hy hkind hunit => ?_, fun c _ => rfl⟩
    cases hy
    rw [crane?_iff.2 ⟨hkind, hunit⟩] at hnone
    cases hnone
  next d hd =>
    obtain ⟨hkind, hunit⟩ := crane?_iff.1 hd
    refine ⟨fun y c hy _ hc hle hnew => ?_, fun c hc => ?_⟩
    · cases hy
      rw [hunit] at hc
      cases hc
      rw [if_neg hnew, crane_craneOff, if_pos ⟨rfl, hle⟩]
    · split
      · rfl
      next hnew =>
        rw [crane_craneOff, if_neg]
        rintro ⟨rfl, -⟩
        exact hnew (hc x rfl hkind hunit)

/-! ## The station table, with a station enrolled or removed -/

/-- What both leave of a station's entry, its crane and what went with it; the station table is said apart. -/
theorem unbound_reads (b : Nat) (new : Option Nat) (w : State) (hw : OnlyChanges [.stations, .round, .queue]
      ((s.forget b).unbindCrane b new) w) :
    w.drafts = s.drafts.set (b - 1) [] ∧ w.deferred = s.deferred.map (Deferred.orphan b)
      ∧ w.legs = (s.discardOpen b).legs ∧ w.batches = (s.discardOpen b).batches ∧ Withdrawn s w b
      ∧ (∀ c, w.crane c = ((s.forget b).unbindCrane b new).crane c) := by
  obtain ⟨hdrafts, hdeferred, hlegs, hbatches, hsearch⟩ := forget_reads (s := s) b
  have hframe := (unbindCrane_frame (s := s.forget b) b new).mono (m := [.cranes, .stations, .round, .queue])
    (by decide)
    |>.trans (hw.mono (by decide))
  exact ⟨(hframe .drafts (by decide)).trans hdrafts, (hframe .deferred (by decide)).trans hdeferred,
    (hframe .legs (by decide)).trans hlegs, (hframe .batches (by decide)).trans hbatches,
    withdrawn_congr hsearch rfl rfl (hframe .scan (by decide)) (hframe .searchQueue (by decide)),
    fun c => congrArg (Table.getD · c _) (hw .cranes (by decide))⟩

theorem unbound_queue (b : Nat) (new : Option Nat) (e : Option Station) :
    (((s.forget b).unbindCrane b new).putStation b e).queue = s.queue :=
  (((forget_frame b).mono (m := .cranes :: .stations :: forgetFields) (by decide)).trans
    ((unbindCrane_frame b new).mono (by decide))).trans ((putStation_frame b e).mono (by decide)) .queue (by decide)

theorem unitOk_iff (kind : StationKind) (unit : Option Nat) : kind.unitOk unit = true ↔
    match kind with
    | .table => ∃ u, unit = some u ∧ u ≤ 7
    | .marker => ∃ u, unit = some u ∧ u ≤ 7
    | .crane => ∃ u, unit = some u ∧ u ≤ 5
    | _ => unit = none := by
  cases kind <;> cases unit <;> simp [StationKind.unitOk]

theorem weightOk_iff (kind : StationKind) (weight : Nat) :
    kind.weightOk weight = true ↔ if kind = .crane then weight = 2 else weight = 1 ∨ weight = 2 := by
  cases kind <;> simp [StationKind.weightOk, inRange] <;> omega

theorem address_iff (b a : Nat) : (!inRange 2 32 b || b == a) = true ↔ ¬(2 ≤ b ∧ b ≤ 32 ∧ b ≠ a) := by
  simp only [inRange, Bool.or_eq_true, Bool.not_eq_true', Bool.and_eq_false_iff, decide_eq_false_iff_not, beq_iff_eq]
  omega

/-! ## Enrol Station -/

/-- The unit and the weight that a kind takes (R171). -/
abbrev KindFits (f : EnrolF) (kind : StationKind) : Prop :=
  (match kind with
    | .table => ∃ u, f.unit = some u ∧ u ≤ 7
    | .marker => ∃ u, f.unit = some u ∧ u ≤ 7
    | .crane => ∃ u, f.unit = some u ∧ u ≤ 5
    | _ => f.unit = none)
  ∧ (if kind = .crane then f.weight = 2 else f.weight = 1 ∨ f.weight = 2)

/-- No other station has the kind with its unit. -/
abbrev Alone (s : State) (f : EnrolF) (kind : StationKind) : Prop :=
  kind ∈ [StationKind.table, .marker, .crane, .cart] →
    ∀ b x, b ≠ f.address → s.station? b = some x → ¬(x.kind = kind ∧ x.unit = f.unit)

/-- The station's crane has no leg, or stays bound. -/
abbrev Loose (s : State) (f : EnrolF) (kind : StationKind) : Prop :=
  ∀ x c, s.station? f.address = some x → x.kind = .crane → x.unit = some c →
    (s.crane c).leg = none ∨ (kind = .crane ∧ f.unit = some c)

abbrev enrolChecks (s : State) (a : Nat) (f : EnrolF) : List (Prop × AnsCode) :=
  [(s.pfw = false, .powerDown),
    (2 ≤ f.address ∧ f.address ≤ 32 ∧ f.address ≠ a ∧ ∃ kind, StationKind.ofNum f.kind = some kind ∧ KindFits f kind,
      .badRequest),
    (∀ kind, StationKind.ofNum f.kind = some kind → Alone s f kind, .inUse),
    (∀ kind, StationKind.ofNum f.kind = some kind → Loose s f kind, .inUse)]

theorem fits_test (f : EnrolF) (kind : StationKind) :
    (!kind.unitOk f.unit || !kind.weightOk f.weight) = true ↔ ¬KindFits f kind := by
  rw [Bool.or_eq_true, Bool.not_eq_true', Bool.not_eq_true', ← Bool.not_eq_true, ← Bool.not_eq_true, unitOk_iff,
    weightOk_iff, ← not_and_or]

theorem taken_test (f : EnrolF) (kind : StationKind) :
    (s.heard a).unitTaken f.address kind f.unit = true ↔ ¬Alone s f kind := by
  rw [unitTaken_iff]
  refine not_congr (imp_congr_right fun _ => forall_congr' fun d => ?_)
  have hkept := kept_heard (s := s) (a := a) (p := fun x => ¬(x.kind = kind ∧ x.unit = f.unit)) (fun _ => Iff.rfl) d
  simp only [forall_comm (α := Station)]
  exact imp_congr_right fun _ => hkept

theorem held_test (f : EnrolF) (kind : StationKind) (hne : f.address ≠ a) :
    (s.heard a).craneHeld f.address (boundCrane kind f.unit) = true ↔ ¬Loose s f kind := by
  rw [craneHeld_iff, station?_heard_ne hne.symm]
  simp only [heard_crane, boundCrane_iff]

theorem enrolStation_turns (f : EnrolF) :
    Turns (s.heard a) (enrolStation (askerOf a st tag) f (s.heard a)) (enrolChecks s a f) := by
  unfold enrolStation
  refine turns_ite (by simp) fun _ => turns_cons (fun hnot => ?_) fun ⟨hlow, hhigh, hne, kind, hkind, hfits⟩ => ?_
  · split
    · rfl
    next haddress =>
      obtain ⟨hlow, hhigh, hne⟩ := not_not.1 fun h => haddress ((address_iff f.address a).2 h)
      split
      · rfl
      next kind hkind => exact if_pos ((fits_test f kind).2 fun hfits => hnot ⟨hlow, hhigh, hne, kind, hkind, hfits⟩)
  · rw [if_neg fun h => (address_iff f.address a).1 h ⟨hlow, hhigh, hne⟩]
    simp only [hkind, Option.some.injEq, forall_eq']
    rw [if_neg fun h => (fits_test f kind).1 h hfits]
    exact turns_ite (taken_test f kind) fun _ => turns_ite (held_test f kind hne) fun _ => turns_nil

theorem enrolStation_taken {f : EnrolF} {kind : StationKind} (hchecks : AllHold (enrolChecks s a f))
    (hkind : StationKind.ofNum f.kind = some kind) :
    enrolStation (askerOf a st tag) f (s.heard a)
      = .waits ((s.heard a).enrol f.address kind f.unit f.weight) [.group .stations] .done [] := by
  obtain ⟨hpfw, ⟨hlow, hhigh, hne, kind', hkind', hfits⟩, halone, hloose, -⟩ := hchecks
  obtain rfl : kind' = kind := by rw [hkind] at hkind'; cases hkind'; rfl
  unfold enrolStation
  rw [if_neg (by simp [hpfw]), if_neg fun h => (address_iff f.address a).1 h ⟨hlow, hhigh, hne⟩]
  simp only [hkind]
  rw [if_neg fun h => (fits_test f _).1 h hfits, if_neg fun h => (taken_test f _).1 h (halone _ hkind),
    if_neg fun h => (held_test f _ hne).1 h (hloose _ hkind)]

/-- What a station's leaving its crane gives, on the state heard. -/
theorem unbound_crane (hne : b ≠ a) (new : Option Nat) :
    (∀ x c, s.station? b = some x → x.kind = .crane → x.unit = some c → c ≤ 5 → new ≠ some c →
        (((s.heard a).forget b).unbindCrane b new).crane c = ⟨.offline, none, none, none, false⟩)
      ∧ ∀ c, (∀ x, s.station? b = some x → x.kind = .crane → x.unit = some c → new = some c) →
        (((s.heard a).forget b).unbindCrane b new).crane c = s.crane c := by
  have hst : ((s.heard a).forget b).station? b = s.station? b :=
    (station?_congr (forget_frame b .stations (by decide))).trans (station?_heard_ne hne.symm)
  have hcrane (c : Nat) : ((s.heard a).forget b).crane c = s.crane c :=
    (congrArg (Table.getD · c _) (forget_frame (s := s.heard a) b .cranes (by decide))).trans (heard_crane c)
  have h := unbindCrane_crane (s := (s.heard a).forget b) b new
  simpa only [hst, hcrane] using h

/-- Settles O10: by the four checks, and by what the address's former entry takes with it. -/
theorem enrolStationTakes : Obligations.EnrolStationTakes := by
  unfold Obligations.EnrolStationTakes
  intro s a st tag f h
  refine ⟨refusedInOrder rfl h (enrolStation_turns f), fun kind hchecks hkind => ?_⟩
  have hbody := enrolStation_taken (st := st) (tag := tag) hchecks hkind
  obtain ⟨-, ⟨hlow, hhigh, hne, -⟩, -⟩ := hchecks
  have hstation (d : Nat) := station?_enrol (s := s.heard a) (kind := kind) (unit := f.unit) (w := f.weight) d
    (show 1 ≤ f.address ∧ f.address ≤ 32 by omega)
  obtain ⟨hpoll, hself, hothers, hsends, hdeferred, hline⟩ := waits_delivered (r := reqEnrolStation) (st := st)
    (tag := tag) (images := [.group .stations]) (code := .done) (fields := []) (by simp)
    (show ((s.heard a).enrol f.address kind f.unit f.weight).station? a = some _ by
      rw [hstation, if_neg hne, station?_heard_self h.station])
  have htable : OnlyChanges [.stations, .round, .queue]
      (((s.heard a).forget f.address).unbindCrane f.address (boundCrane kind f.unit))
      ((s.heard a).enrol f.address kind f.unit f.weight) :=
    ((putStation_frame _ _).mono (by decide)).trans ((enqueue_frame _).mono (by decide))
  obtain ⟨hdrafts, hdef, hlegs, hbatches, hsearch, hcranes⟩ := unbound_reads _ _ _ htable
  obtain ⟨hoff, hkept⟩ := unbound_crane (s := s) hne (boundCrane kind f.unit)
  have hframe := enrol_frame (s := s.heard a) f.address kind f.unit f.weight
  have hdraft : s.drafts = (s.heard a).drafts := by simp
  refine ⟨_, (h.request (tag := tag) (body := enrolStation)).trans (by rw [hbody]), ?_, ?_, hself, ?_, hsends, ?_,
    ?_, ?_,
    ?_, ?_, ?_, ?_, ?_, ?_, ?_⟩
  · rw [hpoll, hframe .poll (by decide)]
    simp [State.heard]
  · rw [hothers _ hne, hstation, if_pos rfl]
  · intro b hba hbf
    rw [hothers _ hba, hstation, if_neg hbf.symm, station?_heard_ne hba.symm]
  · rw [hdeferred, hdef]
    simp only [heard_deferred]
    rfl
  · rw [read_of_line State.queue hline]
    exact (enqueue_queue_joining _).trans (by rw [unbound_queue, heard_queue])
  · rw [read_of_line State.drafts hline, hdrafts, Table.get?_set_self _ _ (by omega)]
  · intro i hi
    rw [read_of_line State.drafts hline, hdrafts, Table.get?_set_ne _ _ hi.symm, hdraft]
  · rw [read_of_line State.legs hline, hlegs, (discardOpen_heard _).1]
  · rw [read_of_line State.batches hline, hbatches, (discardOpen_heard _).2]
  · exact withdrawn_congr hsearch (by simp) (by simp) (read_of_line State.scan hline)
      (read_of_line State.searchQueue hline)
  · intro x c hx hk hu hc hnew
    rw [read_of_line (fun s => s.crane c) hline, hcranes, hoff x c hx hk hu hc fun hb => hnew (boundCrane_iff.1 hb)]
  · intro c hc
    rw [read_of_line (fun s => s.crane c) hline, hcranes, hkept c fun x hx hk hu => boundCrane_iff.2 (hc x hx hk hu)]
  · exact (((heard_frame a).mono (by decide)).trans (hframe.mono (by decide))).trans (hline.mono (by decide))

/-! ## Remove Station -/

abbrev removeChecks (s : State) (a b : Nat) : List (Prop × AnsCode) :=
  [(s.pfw = false, .powerDown), (2 ≤ b ∧ b ≤ 32 ∧ b ≠ a, .badRequest), (∃ x, s.station? b = some x, .noSuch),
    (∀ x c, s.station? b = some x → x.kind = .crane → x.unit = some c → (s.crane c).leg = none, .inUse)]

theorem free_test (hne : b ≠ a) : (s.heard a).craneHeld b none = true ↔
    ¬∀ x c, s.station? b = some x → x.kind = .crane → x.unit = some c → (s.crane c).leg = none := by
  rw [craneHeld_iff, station?_heard_ne hne.symm]
  simp only [heard_crane, reduceCtorEq, or_false]

theorem removeStation_turns :
    Turns (s.heard a) (removeStation (askerOf a st tag) b (s.heard a)) (removeChecks s a b) := by
  unfold removeStation
  refine turns_ite (by simp) fun _ => turns_ite (address_iff b a) fun ⟨_, _, hne⟩ => ?_
  rw [station?_heard_ne hne.symm]
  rcases hx : s.station? b with _ | x
  · exact turns_cons (fun _ => rfl) fun ⟨x, hx⟩ => by cases hx
  · rw [← hx]
    refine turns_cons (fun hnot => absurd ⟨x, hx⟩ hnot) fun _ => ?_
    simp only [hx]
    rw [← hx]
    exact turns_ite (free_test hne) fun _ => turns_nil

theorem removeStation_taken {x : Station} (hchecks : AllHold (removeChecks s a b)) (hx : s.station? b = some x) :
    removeStation (askerOf a st tag) b (s.heard a)
      = .waits ((s.heard a).removeStation b) [.group .stations] .done [] := by
  obtain ⟨hpfw, ⟨hlow, hhigh, hne⟩, -, hfree, -⟩ := hchecks
  unfold removeStation
  rw [if_neg (by simp [hpfw]), if_neg fun h => (address_iff b a).1 h ⟨hlow, hhigh, hne⟩, station?_heard_ne hne.symm]
  simp only [hx]
  rw [if_neg fun h => (free_test hne).1 h hfree]

/-- Settles O11: by the four checks, and by what the entry takes with it. -/
theorem removeStationTakes : Obligations.RemoveStationTakes := by
  unfold Obligations.RemoveStationTakes
  intro s a st tag b h
  refine ⟨refusedInOrder rfl h removeStation_turns, fun x hchecks hx => ?_⟩
  have hbody := removeStation_taken (st := st) (tag := tag) hchecks hx
  obtain ⟨-, ⟨hlow, hhigh, hne⟩, -⟩ := hchecks
  have hstation (d : Nat) := station?_removeStation (s := s.heard a) d (show 1 ≤ b ∧ b ≤ 32 by omega)
  obtain ⟨hpoll, hself, hothers, hsends, hdeferred, hline⟩ := waits_delivered (r := reqRemoveStation) (st := st)
    (tag := tag) (images := [.group .stations]) (code := .done) (fields := []) (by simp)
    (show ((s.heard a).removeStation b).station? a = some _ by
      rw [hstation, if_neg hne, station?_heard_self h.station])
  have htable : OnlyChanges [.stations, .round, .queue] (((s.heard a).forget b).unbindCrane b none)
      ((s.heard a).removeStation b) :=
    (((putStation_frame _ _).mono (by decide)).trans ((leaveRound_frame _).mono (by decide))).trans
      ((enqueue_frame _).mono (by decide))
  obtain ⟨hdrafts, hdef, hlegs, hbatches, hsearch, hcranes⟩ := unbound_reads _ _ _ htable
  obtain ⟨hoff, hkept⟩ := unbound_crane (s := s) hne none
  have hframe := removeStation_frame (s := s.heard a) b
  have hdraft : s.drafts = (s.heard a).drafts := by simp
  have hround : ((((s.heard a).forget b).unbindCrane b none).putStation b none).round = s.round :=
    ((((forget_frame b).mono (m := .cranes :: .stations :: forgetFields) (by decide)).trans
      ((unbindCrane_frame b none).mono (by decide))).trans ((putStation_frame b none).mono (by decide)) .round
        (by decide)).trans (by simp)
  refine ⟨_, (h.request (tag := tag) (body := removeStation)).trans (by rw [hbody]), ?_, ?_, hself, ?_, ?_, hsends, ?_,
    ?_, ?_, ?_, ?_, ?_, ?_, ?_, ?_, ?_⟩
  · rw [hpoll, hframe .poll (by decide)]
    simp [State.heard]
  · rw [hothers _ hne, hstation, if_pos rfl]
  · intro d hda hdb
    rw [hothers _ hda, hstation, if_neg hdb.symm, station?_heard_ne hda.symm]
  · rw [read_of_line State.round hline, State.removeStation, enqueue_round, State.leaveRound, hround]
  · rw [hdeferred, hdef, heard_deferred]
    rfl
  · rw [read_of_line State.queue hline]
    exact (enqueue_queue_joining _).trans (by
      rw [leaveRound_frame _ .queue (by decide), unbound_queue, heard_queue])
  · rw [read_of_line State.drafts hline, hdrafts, Table.get?_set_self _ _ (by omega)]
  · intro i hi
    rw [read_of_line State.drafts hline, hdrafts, Table.get?_set_ne _ _ hi.symm, hdraft]
  · rw [read_of_line State.legs hline, hlegs, (discardOpen_heard _).1]
  · rw [read_of_line State.batches hline, hbatches, (discardOpen_heard _).2]
  · exact withdrawn_congr hsearch (by simp) (by simp) (read_of_line State.scan hline)
      (read_of_line State.searchQueue hline)
  · intro c hk hu hc
    rw [read_of_line (fun s => s.crane c) hline, hcranes, hoff x c hx hk hu hc (by simp)]
  · intro c hc
    rw [read_of_line (fun s => s.crane c) hline, hcranes, hkept c fun y hy hk hu => ?_]
    rw [hx] at hy
    cases hy
    exact absurd ⟨hk, hu⟩ hc
  · exact (((heard_frame a).mono (by decide)).trans (hframe.mono (by decide))).trans (hline.mono (by decide))

end Sys2Proof.Proofs.Enrol
end

section
/-! PROOFS. Plates leaving and joining places, read by read (R24, R42, R47, R50, R51, R54). -/

namespace Sys2Proof.Proofs.Places

open Sys2Proof Sys2Proof.Machine
open Sys2Proof.Proofs.Requests

variable {s t : State} {g h : Handle} {r : PlateRec} {k : Nat}

/-! ## Single reads -/

/-- An update that fixes what lies beyond the table's end is read alike everywhere. -/
theorem getD_modify_fix {α : Type} {n : Nat} {l : Table α n} {d : α} {f : α → α} (hf : f d = d) (i j : Nat) :
    (l.modify i f).getD j d = if i = j then f (l.getD j d) else l.getD j d := by
  split
  next hij =>
    subst hij
    by_cases hi : i < n
    · rw [Table.getD_modify_self _ _ _ hi]
    · rw [Table.getD_beyond _ _ (by omega), Table.getD_beyond _ _ (by omega), hf]
  next hij => exact Table.getD_modify_ne _ _ _ hij

theorem slot_modifySlot {f : Slot → Slot} (hf : f ⟨[], [], false⟩ = ⟨[], [], false⟩) (i : Nat) :
    (s.modifySlot k f).slot i = if k = i then f (s.slot i) else s.slot i :=
  getD_modify_fix hf k i

theorem bed_modifyBed {f : Bed → Bed} (hf : f ⟨[], false⟩ = ⟨[], false⟩) (t b j c : Nat) :
    (s.modifyBed t b f).bed j c = if bedIndex t b = bedIndex j c then f (s.bed j c) else s.bed j c :=
  getD_modify_fix hf _ _

theorem bedIndex_inj {t b j c : Nat} (hb : b ≤ 1) (hc : c ≤ 1) : bedIndex t b = bedIndex j c ↔ t = j ∧ b = c := by
  unfold bedIndex
  omega

theorem putLocation_plate? (l : Location) : (s.putLocation h l).plate? g
    = if h = g then (s.plate? g).map (fun r => { r with st := { r.st with location := l } }) else s.plate? g :=
  modifyPlate_plate? _

theorem stackShare_congr {t : State} {g : Handle}
    (h : (t.plate? g).map (fun r => (r.st.doubtful, r.mass)) = (s.plate? g).map fun r => (r.st.doubtful, r.mass)) :
    t.stackShare g = s.stackShare g := by
  unfold State.stackShare
  revert h
  rcases t.plate? g with _ | x <;> rcases s.plate? g with _ | y <;> intro h <;> simp_all

/-- An update of a plate that leaves its mass and DOUBTFUL leaves what every plate counts for. -/
theorem stackShare_modifyPlate {f : PlateRec → PlateRec}
    (hf : ∀ r, (f r).st.doubtful = r.st.doubtful ∧ (f r).mass = r.mass) (g : Handle) :
    (s.modifyPlate h f).stackShare g = s.stackShare g := by
  refine stackShare_congr ?_
  rw [modifyPlate_plate?]
  split
  · rcases s.plate? g with _ | x
    · rfl
    · simp [hf]
  · rfl

theorem stackShare_putLocation (l : Location) (g : Handle) : (s.putLocation h l).stackShare g = s.stackShare g :=
  stackShare_modifyPlate (f := fun r => { r with st := { r.st with location := l } }) (fun _ => ⟨rfl, rfl⟩) g

theorem stackMass_congr (hstack : (t.slot k).stack = (s.slot k).stack)
    (hshare : ∀ g ∈ (s.slot k).stack, t.stackShare g = s.stackShare g) : t.stackMass k = s.stackMass k := by
  rw [State.stackMass, State.stackMass, hstack, List.map_congr_left hshare]

/-- What is said of a slot that a plate has left holds after anything that leaves the slot and the masses of its plates
alone. -/
theorem unstacked_congr {m : State} {rest : List Handle} (h : Unstacked s m k rest) (hslot : t.slot k = m.slot k)
    (hshare : ∀ g ∈ rest, t.stackShare g = m.stackShare g) : Unstacked s t k rest := by
  obtain ⟨hstack, hincoming, hmark⟩ := h
  refine ⟨by rw [hslot, hstack], by rw [hslot, hincoming], ?_⟩
  rw [hslot, hmark, stackMass_congr (t := t) (by rw [hslot]) fun g hg => hshare g (hstack ▸ hg)]

/-! ## Above and below in a stack -/

theorem getElem?_erase_above {l : List Handle} {i : Nat} (hi : l.idxOf h ≤ i) :
    (l.erase h)[i]? = (l.drop (l.idxOf h + 1))[i - l.idxOf h]? := by
  rw [← List.eraseIdx_idxOf_eq_erase, List.getElem?_eraseIdx, if_neg (by omega), List.getElem?_drop]
  congr 1
  omega

theorem not_mem_above {l : List Handle} (hnd : l.Nodup) {i : Nat} (hi : i ≤ l.idxOf h) (hg : l[i]? = some g) :
    g ∉ l.drop (l.idxOf h + 1) := by
  intro hm
  obtain ⟨j, hj⟩ := List.mem_iff_getElem?.1 hm
  rw [List.getElem?_drop] at hj
  have hlt : i < l.length := (List.getElem?_eq_some_iff.1 hg).1
  have hij := (List.getElem?_inj hlt hnd).1 (hg.trans hj.symm)
  omega

theorem own_not_above {l : List Handle} (hnd : l.Nodup) : h ∉ l.drop (l.idxOf h + 1) := by
  by_cases hm : h ∈ l
  · exact not_mem_above hnd (Nat.le_refl _) (List.getElem?_idxOf hm)
  · rw [List.drop_eq_nil_of_le (by rw [List.idxOf_eq_length_iff.2 hm]; omega)]
    exact List.not_mem_nil

theorem mem_joining {q l : List ImageId} {i : ImageId} : i ∈ joining q l ↔ i ∈ q ∨ i ∈ l := by
  unfold joining
  induction l generalizing q with
  | nil => simp
  | cons j l ih =>
    rw [List.foldl_cons, ih, List.mem_cons]
    split
    next hj => exact ⟨fun h => h.imp_right .inr, fun h => h.elim .inl fun h => h.elim (fun e => .inl (e ▸ hj)) .inr⟩
    next => simp [or_assoc]

theorem plate?_enqueue (i : ImageId) (g : Handle) : (s.enqueue i).plate? g = s.plate? g := by simp [State.plate?]

/-! ## A stack closes up (R42, R47) -/

theorem relevel_reads (k : Nat) (l : List Handle) : ∀ (n : Nat) (s : State),
    (∀ g, g ∉ l → (relevel k n l s).plate? g = s.plate? g)
      ∧ (l.Nodup → ∀ i g q, l[i]? = some g → s.plate? g = some q →
          (relevel k n l s).plate? g = some { q with st := { q.st with location := .slot k (n + i) } })
      ∧ (∀ g q, s.plate? g = some q →
          ∃ x, (relevel k n l s).plate? g = some { q with st := { q.st with location := x } })
      ∧ (∀ g, (relevel k n l s).stackShare g = s.stackShare g)
      ∧ (relevel k n l s).queue = joining s.queue (l.map fun g => ImageId.state g.idx) := by
  induction l with
  | nil => exact fun n s => ⟨fun _ _ => rfl, fun _ i g q hg => (by cases hg), fun g q hq => ⟨_, hq⟩, fun _ => rfl, rfl⟩
  | cons h hs ih =>
    intro n s
    obtain ⟨hothers, hmoved, hplaced, hshare, hqueue⟩ :=
      ih (n + 1) ((s.putLocation h (.slot k n)).enqueue (.state h.idx))
    have hplate (g : Handle) : ((s.putLocation h (.slot k n)).enqueue (.state h.idx)).plate? g
        = (s.putLocation h (.slot k n)).plate? g := by simp [State.plate?]
    refine ⟨fun g hg => ?_, fun hnd i g q hg hq => ?_, fun g q hq => ?_, fun g => ?_, ?_⟩
    · rw [List.mem_cons, not_or] at hg
      obtain ⟨hne, hg⟩ := hg
      exact (hothers g hg).trans ((hplate g).trans ((putLocation_plate? _).trans (if_neg fun e => hne e.symm)))
    · obtain ⟨hout, hnd⟩ := List.nodup_cons.1 hnd
      match i, hg with
      | 0, hg =>
        obtain rfl : h = g := by simpa using hg
        refine (hothers h hout).trans ((hplate h).trans ((putLocation_plate? _).trans ?_))
        rw [if_pos rfl, hq]
        rfl
      | i + 1, hg =>
        have hne : h ≠ g := fun e => hout (e ▸ List.mem_of_getElem? hg)
        have := hmoved hnd i g q hg ((hplate g).trans ((putLocation_plate? _).trans ((if_neg hne).trans hq)))
        rw [show n + (i + 1) = n + 1 + i by omega]
        exact this
    · by_cases hgh : h = g
      · exact hplaced g { q with st := { q.st with location := .slot k n } }
          ((hplate g).trans ((putLocation_plate? _).trans (by rw [if_pos hgh, hq]; rfl)))
      · exact hplaced g q ((hplate g).trans ((putLocation_plate? _).trans ((if_neg hgh).trans hq)))
    · refine (hshare g).trans (Eq.trans ?_ (stackShare_putLocation (h := h) (.slot k n) g))
      exact stackShare_congr (by rw [hplate])
    · rw [relevel, hqueue, enqueue_queue]
      rfl

/-- A marked slot is examined: the mark stands while a bound is passed (R54). -/
theorem examineSlot_slot (k j : Nat) : (s.examineSlot k).slot j = if k = j then
      { s.slot k with overCap := (s.slot k).overCap
          && (decide ((s.slotCfg k).capacity < (s.slot k).stack.length)
            || decide ((s.slotCfg k).limit < s.stackMass k)) }
    else s.slot j := by
  unfold State.examineSlot
  split
  next hwithin =>
    simp only [Bool.and_eq_true, decide_eq_true_iff] at hwithin
    obtain ⟨⟨-, hlen⟩, hmass⟩ := hwithin
    rw [slot_modifySlot rfl]
    split
    next hkj =>
      subst hkj
      simp [Nat.not_lt.2 hlen, Nat.not_lt.2 hmass]
    · rfl
  next hover =>
    split
    next hkj =>
      subst hkj
      have hmark : ((s.slot k).overCap && (decide ((s.slotCfg k).capacity < (s.slot k).stack.length)
          || decide ((s.slotCfg k).limit < s.stackMass k))) = (s.slot k).overCap := by
        rw [Bool.eq_iff_iff]
        simp only [Bool.and_eq_true, Bool.or_eq_true, decide_eq_true_iff] at hover ⊢
        refine ⟨fun h => h.1, fun h => ⟨h, ?_⟩⟩
        by_contra hnone
        exact hover ⟨⟨h, by omega⟩, by omega⟩
      rw [hmark]
    · rfl

theorem examineSlot_stackMass (k j : Nat) : (s.examineSlot k).stackMass j = s.stackMass j := by
  refine stackMass_congr ?_ fun g _ => stackShare_congr ?_
  · rw [examineSlot_slot]
    split
    next hkj => rw [hkj]
    · rfl
  · rw [State.plate?, examineSlot_frame (s := s) k .plates (by decide)]
    rfl

/-! ## A plate leaves its place -/

/-- The plates above one, where its location is a slot. -/
def aboveOf (s : State) (h : Handle) (l : Location) : List Handle :=
  match l with
  | .slot k _ => s.platesAbove h k
  | _ => []

/-- From `s` to `t` the plate `h` has left the place of its location `l`. -/
structure Left (s t : State) (h : Handle) (l : Location) : Prop where
  plates : ∀ g, g ∉ aboveOf s h l → t.plate? g = s.plate? g
  lowered : ∀ k n, l = .slot k n → (s.slot k).stack.Nodup → ∀ i g q, (aboveOf s h l)[i]? = some g →
    s.plate? g = some q →
      t.plate? g = some { q with st := { q.st with location := .slot k ((s.slot k).stack.idxOf h + i) } }
  placed : ∀ g q, s.plate? g = some q → ∃ x, t.plate? g = some { q with st := { q.st with location := x } }
  shares : ∀ g, t.stackShare g = s.stackShare g
  stack : ∀ k n, l = .slot k n → Unstacked s t k ((s.slot k).stack.erase h)
  slots : ∀ k, l.place ≠ .slot k → t.slot k = s.slot k
  bed : ∀ j b, l = .bed j b → t.bed j b = { s.bed j b with plates := (s.bed j b).plates.erase h }
  beds : ∀ j b, b ≤ 1 → (∀ i c, l = .bed i c → c ≤ 1) → l ≠ .bed j b → t.bed j b = s.bed j b
  cart : t.cart = { s.cart with plates := if l = .cart then s.cart.plates.erase h else s.cart.plates }

theorem leaveSlot_left (h : Handle) (k n : Nat) : Left s (s.leaveSlot h k) h (.slot k n) := by
  have hslots {f : Slot → Slot} (l : List Handle) (m j : Nat) :
      (relevel k m l (s.modifySlot k f)).slot j = (s.modifySlot k f).slot j :=
    congrArg (Table.getD · j _) (relevel_frame k l m (s.modifySlot k f) .slots (by decide))
  obtain ⟨hothers, hmoved, hplaced, hshare, hqueue⟩ := relevel_reads k (s.platesAbove h k) ((s.slot k).stack.idxOf h)
    (s.modifySlot k fun c => { c with stack := c.stack.erase h })
  have hframe := leaveSlot_frame (s := s) h k
  have hplates (g : Handle) := congrArg (Pool.find · g)
    (examineSlot_frame (s := relevel k ((s.slot k).stack.idxOf h) (s.platesAbove h k)
      (s.modifySlot k fun c => { c with stack := c.stack.erase h })) k .plates (by decide))
  refine ⟨fun g hg => (hplates g).trans (hothers g hg), ?_, fun g q hq => ?_, fun g => ?_, ?_, fun j hj => ?_,
    fun _ _ hl => (by cases hl),
    fun j b _ _ _ => congrArg (Table.getD · (bedIndex j b) _) (hframe .beds (by decide)), hframe .cart (by decide)⟩
  · intro k' n' hl hnd i g q hg hq
    cases hl
    exact (hplates g).trans (hmoved (hnd.sublist (List.drop_sublist _ _)) i g q hg hq)
  · obtain ⟨x, hx⟩ := hplaced g q hq
    exact ⟨x, (hplates g).trans hx⟩
  · exact (stackShare_congr (congrArg (Option.map _) (hplates g))).trans (hshare g)
  · intro k' n' hl
    cases hl
    have hslot := hslots (f := fun c => { c with stack := c.stack.erase h }) (s.platesAbove h k)
      ((s.slot k).stack.idxOf h) k
    rw [slot_modifySlot rfl, if_pos rfl] at hslot
    have hcfg := congrArg (fun m : HallMap => m.slots.getD k (SlotCfg.factory k))
      (relevel_frame k (s.platesAbove h k) ((s.slot k).stack.idxOf h)
        (s.modifySlot k fun c => { c with stack := c.stack.erase h }) .hall (by decide))
    unfold Unstacked State.leaveSlot
    rw [examineSlot_stackMass, examineSlot_slot, if_pos rfl, hslot]
    refine ⟨rfl, rfl, ?_⟩
    change (_ && (decide ((State.slotCfg _ k).capacity < _) || _)) = _
    rw [show State.slotCfg _ k = s.slotCfg k from hcfg]
  · have hne : k ≠ j := fun e => hj (e ▸ rfl)
    unfold State.leaveSlot
    rw [examineSlot_slot, if_neg hne, hslots, slot_modifySlot rfl, if_neg hne]

/-- The images of the plates that moved down are queued from the lowest up. -/
theorem leavePlace_queue (hr : s.plate? h = some r) :
    (s.leavePlace h).queue
      = joining s.queue ((aboveOf s h r.st.location).map fun g => ImageId.state g.idx) := by
  unfold State.leavePlace
  rw [hr]
  dsimp only
  split
  next k n hl =>
    obtain ⟨-, -, -, -, hqueue⟩ := relevel_reads k (s.platesAbove h k) ((s.slot k).stack.idxOf h)
      (s.modifySlot k fun c => { c with stack := c.stack.erase h })
    rw [hl, State.leaveSlot, examineSlot_frame k .queue (by decide), hqueue]
    rfl
  all_goals
    next hl => rw [hl]; rfl

theorem leavePlace_left (hr : s.plate? h = some r) : Left s (s.leavePlace h) h r.st.location := by
  unfold State.leavePlace
  rw [hr]
  dsimp only
  split
  next k n hl => rw [hl]; exact leaveSlot_left h k n
  next t b hl =>
    rw [hl]
    have hbed (j c : Nat) := bed_modifyBed (s := s) (f := fun d => { d with plates := d.plates.erase h }) rfl t b j c
    exact ⟨fun _ _ => rfl, fun _ _ hl => (by cases hl), fun _ _ hq => ⟨_, hq⟩, fun _ => rfl,
      fun _ _ hl => (by cases hl), fun _ _ => rfl,
      fun j c hl => by cases hl; rw [hbed, if_pos rfl],
      fun j c hc hb hne => by
        rw [hbed, if_neg]
        rw [bedIndex_inj (hb t b rfl) hc]
        rintro ⟨rfl, rfl⟩
        exact hne rfl, rfl⟩
  next hl =>
    rw [hl]
    exact ⟨fun _ _ => rfl, fun _ _ hl => (by cases hl), fun _ _ hq => ⟨_, hq⟩, fun _ => rfl,
      fun _ _ hl => (by cases hl), fun _ _ => rfl,
      fun _ _ hl => (by cases hl), fun _ _ _ _ _ => rfl, rfl⟩
  next c hl =>
    rw [hl]
    exact ⟨fun _ _ => rfl, fun _ _ hl => (by cases hl), fun _ _ hq => ⟨_, hq⟩, fun _ => rfl,
      fun _ _ hl => (by cases hl), fun _ _ => rfl,
      fun _ _ hl => (by cases hl), fun _ _ _ _ _ => rfl, rfl⟩
  next hl =>
    rw [hl]
    exact ⟨fun _ _ => rfl, fun _ _ hl => (by cases hl), fun _ _ hq => ⟨_, hq⟩, fun _ => rfl,
      fun _ _ hl => (by cases hl), fun _ _ => rfl,
      fun _ _ hl => (by cases hl), fun _ _ _ _ _ => rfl, rfl⟩

/-- An image handed over first leaves nothing else to say. -/
theorem Left.of_enqueue {i : ImageId} {l : Location} (h' : Left (s.enqueue i) t h l) : Left s t h l := by
  have heq : s.enqueue i = { s with queue := (s.enqueue i).queue } := by
    unfold State.enqueue
    split <;> rfl
  rw [heq] at h'
  exact ⟨h'.plates, h'.lowered, h'.placed, h'.shares, h'.stack, h'.slots, h'.bed, h'.beds, h'.cart⟩

/-! ## A plate joins a place -/

/-- A place that can hold a plate. -/
def CanHold (p : Place) : Prop :=
  match p with
  | .slot k => k ≤ 95
  | .bed t b => t ≤ 7 ∧ b ≤ 1
  | .cart | .hook _ | .nowhere => True
  | .scrapBin | .choose => False

/-- From `s` to `t` the plate `h` has joined place `p`. -/
structure Joined (s t : State) (h : Handle) (p : Place) : Prop where
  plate : ∀ r, s.plate? h = some r → t.plate? h = some { r with st := { r.st with location := landing s p } }
  plates : ∀ g, g ≠ h → t.plate? g = s.plate? g
  shares : ∀ g, t.stackShare g = s.stackShare g
  slot : ∀ k, p = .slot k → t.slot k = { s.slot k with stack := (s.slot k).stack ++ [h] }
  slots : ∀ k, p ≠ .slot k → t.slot k = s.slot k
  bed : ∀ j b, p = .bed j b → t.bed j b = { s.bed j b with plates := (s.bed j b).plates ++ [h] }
  beds : ∀ j b, b ≤ 1 → p ≠ .bed j b → t.bed j b = s.bed j b
  cart : t.cart = { s.cart with plates := if p = .cart then s.cart.plates ++ [h] else s.cart.plates }

theorem putLocation_own {l : Location} (hr : s.plate? h = some r) :
    (s.putLocation h l).plate? h = some { r with st := { r.st with location := l } } := by
  rw [putLocation_plate?, if_pos rfl, hr]
  rfl

theorem putLocation_other {l : Location} (hne : g ≠ h) : (s.putLocation h l).plate? g = s.plate? g := by
  rw [putLocation_plate?, if_neg hne.symm]

theorem joinPlace_joined {p : Place} (hp : CanHold p) : Joined s (s.joinPlace h p) h p := by
  match p, hp with
  | .slot k, hk =>
    refine ⟨fun r hr => putLocation_own hr, fun g hne => putLocation_other hne, stackShare_putLocation _,
      fun j hj => ?_, fun j hj => ?_, fun _ _ hl => (by cases hl), fun _ _ _ _ => rfl, rfl⟩
    · cases hj
      exact (modifySlot_slot k _ hk).trans (if_pos rfl)
    · exact Table.getD_modify_ne _ _ _ fun e => hj (e ▸ rfl)
  | .bed t b, ⟨ht, hb⟩ =>
    refine ⟨fun r hr => putLocation_own hr, fun g hne => putLocation_other hne, stackShare_putLocation _,
      fun _ hl => (by cases hl), fun _ _ => rfl, fun j c hl => ?_, fun j c hc hne => ?_, rfl⟩
    · cases hl
      exact Table.getD_modify_self _ _ _ (by unfold bedIndex; omega)
    · refine Table.getD_modify_ne _ _ _ fun e => hne ?_
      obtain ⟨rfl, rfl⟩ := (bedIndex_inj hb hc).1 e
      rfl
  | .cart, _ =>
    exact ⟨fun r hr => putLocation_own hr, fun g hne => putLocation_other hne, stackShare_putLocation _,
      fun _ hl => (by cases hl), fun _ _ => rfl, fun _ _ hl => (by cases hl), fun _ _ _ _ => rfl, rfl⟩
  | .hook c, _ =>
    exact ⟨fun r hr => putLocation_own hr, fun g hne => putLocation_other hne, stackShare_putLocation _,
      fun _ hl => (by cases hl), fun _ _ => rfl, fun _ _ hl => (by cases hl), fun _ _ _ _ => rfl, rfl⟩
  | .nowhere, _ =>
    exact ⟨fun r hr => putLocation_own hr, fun g hne => putLocation_other hne, stackShare_putLocation _,
      fun _ hl => (by cases hl), fun _ _ => rfl, fun _ _ hl => (by cases hl), fun _ _ _ _ => rfl, rfl⟩

theorem joinPlace_queue (p : Place) : (s.joinPlace h p).queue = s.queue := by
  cases p <;> rfl

/-! ## A plate moves -/

/-- From `s` to `t` the plate `h`, of record `r`, has moved from its place to another, `p`. -/
structure Moved (s t : State) (h : Handle) (r : PlateRec) (p : Place) : Prop where
  plate : t.plate? h = some { r with st := { r.st with location := landing s p } }
  plates : ∀ g, g ≠ h → g ∉ aboveOf s h r.st.location → t.plate? g = s.plate? g
  lowered : ∀ k n, r.st.location = .slot k n → (s.slot k).stack.Nodup → ∀ i g q,
    (aboveOf s h r.st.location)[i]? = some g → s.plate? g = some q →
      t.plate? g = some { q with st := { q.st with location := .slot k ((s.slot k).stack.idxOf h + i) } }
  shares : ∀ g, t.stackShare g = s.stackShare g
  slot : ∀ k, p = .slot k → t.slot k = { s.slot k with stack := (s.slot k).stack ++ [h] }
  stack : ∀ k n, r.st.location = .slot k n → Unstacked s t k ((s.slot k).stack.erase h)
  slots : ∀ k, p ≠ .slot k → r.st.location.place ≠ .slot k → t.slot k = s.slot k
  bedTo : ∀ j b, p = .bed j b → t.bed j b = { s.bed j b with plates := (s.bed j b).plates ++ [h] }
  bedFrom : ∀ j b, r.st.location = .bed j b → t.bed j b = { s.bed j b with plates := (s.bed j b).plates.erase h }
  beds : ∀ j b, b ≤ 1 → p ≠ .bed j b → r.st.location ≠ .bed j b → t.bed j b = s.bed j b
  cart : t.cart = { s.cart with plates :=
    if p = .cart then s.cart.plates ++ [h]
    else if r.st.location = .cart then s.cart.plates.erase h else s.cart.plates }
  queue : t.queue
    = joining s.queue (.state h.idx :: (aboveOf s h r.st.location).map fun g => ImageId.state g.idx)

theorem location_eq_of_place {l : Location} {j b : Nat} : l = .bed j b ↔ l.place = .bed j b := by
  cases l <;> simp [Location.place]

theorem location_cart_iff {l : Location} : l = .cart ↔ l.place = .cart := by cases l <;> simp [Location.place]

theorem aboveOf_enqueue (i : ImageId) (l : Location) : aboveOf (s.enqueue i) h l = aboveOf s h l := by
  unfold aboveOf State.platesAbove
  split
  · simp [State.slot]
  · rfl

theorem movePlate_moved {p : Place} (hr : s.plate? h = some r) (hp : CanHold p) (hne : p ≠ r.st.location.place)
    (hbed : ∀ j b, r.st.location = .bed j b → b ≤ 1) : Moved s (s.movePlate h p) h r p := by
  have hr' : (s.enqueue (.state h.idx)).plate? h = some r := (plate?_enqueue _ _).trans hr
  have hleft := (leavePlace_left hr').of_enqueue
  have hqueue := leavePlace_queue hr'
  have hjoined := joinPlace_joined (s := (s.enqueue (.state h.idx)).leavePlace h) (h := h) hp
  have hqueue' : (s.movePlate h p).queue = ((s.enqueue (.state h.idx)).leavePlace h).queue := joinPlace_queue p
  change Joined _ (s.movePlate h p) h p at hjoined
  generalize (s.enqueue (.state h.idx)).leavePlace h = m at hleft hqueue hjoined hqueue'
  have hlanding : landing m p = landing s p := by
    cases p with
    | slot k => simp only [landing, hleft.slots k (Ne.symm hne)]
    | _ => rfl
  have hnotown (k n : Nat) (hl : r.st.location = .slot k n) (hnd : (s.slot k).stack.Nodup) :
      h ∉ aboveOf s h r.st.location := by
    rw [hl]
    exact own_not_above hnd
  refine ⟨?_, fun g hg hout => (hjoined.plates g hg).trans (hleft.plates g hout), fun k n hl hnd i g q hg hq => ?_,
    fun g => (hjoined.shares g).trans (hleft.shares g), fun k hk => ?_, fun k n hl => ?_, fun k hk hl => ?_,
    fun j b hj => ?_, fun j b hl => ?_, fun j b hb hj hl => ?_, ?_, ?_⟩
  · obtain ⟨l, hl⟩ := hleft.placed h r hr
    rw [hjoined.plate _ hl, hlanding]
  · have hgh : g ≠ h := by
      rintro rfl
      exact hnotown k n hl hnd (List.mem_of_getElem? hg)
    exact (hjoined.plates g hgh).trans (hleft.lowered k n hl hnd i g q hg hq)
  · rw [hjoined.slot k hk, hleft.slots k fun e => hne (hk.trans e.symm)]
  · refine unstacked_congr (hleft.stack k n hl) (hjoined.slots k fun e => hne ?_) fun g _ => hjoined.shares g
    rw [e, hl]
    rfl
  · rw [hjoined.slots k hk, hleft.slots k hl]
  · have hb : b ≤ 1 := by subst hj; exact hp.2
    rw [hjoined.bed j b hj, hleft.beds j b hb hbed fun e => hne (hj.trans (location_eq_of_place.1 e).symm)]
  · rw [hjoined.beds j b (hbed j b hl) fun e => hne (e.trans (location_eq_of_place.1 hl).symm), hleft.bed j b hl]
  · rw [hjoined.beds j b hb hj, hleft.beds j b hb hbed hl]
  · rw [hjoined.cart, hleft.cart]
    by_cases hcart : p = .cart
    · have hfrom : r.st.location ≠ .cart := fun e => hne (hcart.trans (location_cart_iff.1 e).symm)
      simp only [if_pos hcart, if_neg hfrom]
    · simp only [if_neg hcart]
  · rw [hqueue', hqueue, aboveOf_enqueue, enqueue_queue_joining]
    rfl

end Sys2Proof.Proofs.Places
end

section
/-! PROOFS. A stack that closes up, and the plate requests that move or retire a plate (R18 to R22, R42, R47). -/

namespace Sys2Proof.Proofs.Stack

open Sys2Proof Sys2Proof.Machine
open Sys2Proof.Proofs.Pallets (askerOf request_unchanged)
open Sys2Proof.Proofs.Requests Sys2Proof.Proofs.Places Sys2Proof.Proofs.Blocks
open Sys2Proof.Proofs.Search (use_free_iff)

variable {s t : State} {g h : Handle} {r : PlateRec} {k n : Nat}

/-- Settles O14: by what leaving a slot's stack gives, level by level. -/
theorem stackClosesUp : Obligations.StackClosesUp := by
  unfold Obligations.StackClosesUp
  intro s h r k n hr hloc hk hnd hmem _
  have hleft := hloc ▸ leavePlace_left hr
  have hframe : OnlyChanges [.plates, .slots, .queue] s (s.leavePlace h) := by
    unfold State.leavePlace
    rw [hr]
    simp only [hloc]
    exact leaveSlot_frame h k
  obtain ⟨hstack, -, hmark⟩ := hleft.stack k n rfl
  refine ⟨hstack, fun i g hg hi => ?_, fun i g hg hi => hleft.plates g ?_, hleft.plates h (own_not_above hnd), ?_, ?_,
    hframe⟩
  · have hg' := (getElem?_erase_above hi).symm.trans hg
    refine ⟨fun q hq => ?_, ?_⟩
    · have := hleft.lowered k n rfl hnd _ g q hg' hq
      rwa [show (s.slot k).stack.idxOf h + (i - (s.slot k).stack.idxOf h) = i by omega] at this
    · rw [leavePlace_queue hr, mem_joining, hloc]
      exact .inr (List.mem_map.2 ⟨g, List.mem_of_getElem? hg', rfl⟩)
  · rw [← List.eraseIdx_idxOf_eq_erase, List.getElem?_eraseIdx, if_pos hi] at hg
    exact not_mem_above hnd (Nat.le_of_lt hi) hg
  · intro hclear
    rw [hmark, hclear]
    rfl
  · intro hset
    rw [hmark, Bool.and_eq_true, Bool.or_eq_true, decide_eq_true_iff, decide_eq_true_iff] at hset
    rw [hstack]
    exact hset.2

/-! ## Hold Plate and Release Plate -/

/-- The plate with HELD set or cleared. -/
abbrev withHeld (v : Bool) (r : PlateRec) : PlateRec := { r with st := { r.st with held := v } }

/-- The body that both requests share, by the checks it makes in order. -/
theorem setHeld_steps {row : Req} {body : Asker → Handle → State → Reply} {v : Bool} {a : Nat} {st : Station}
    {tag : Byte} (hasks : Asks row s a st) (hbody : body = setHeld v) :
    let refused (code : AnsCode) : Prop :=
      ∃ t, request row tag (.fields h) s body = .next t ∧ Immediate s t a st tag code [] ∧ OnlyChanges lineFields s t
    (s.pfw = true → refused .powerDown)
    ∧ (s.pfw = false → s.plate? h = none → refused .noSuch)
    ∧ ∀ r, s.pfw = false → s.plate? h = some r →
        (r.st.disposition ≠ .stock → refused .wrongState)
        ∧ (r.st.disposition = .stock → r.st.doubtful = true → refused .blocked)
        ∧ (r.st.disposition = .stock → r.st.doubtful = false → r.st.held = v →
            ∃ t, request row tag (.fields h) s body = .next t ∧ AtOnce row s t a st tag .done []
              ∧ OnlyChanges lineFields s t)
        ∧ (r.st.disposition = .stock → r.st.doubtful = false → r.st.held ≠ v →
            ∃ t, request row tag (.fields h) s body = .next t
              ∧ t.plate? h = some { r with st := { r.st with held := v } }
              ∧ (∀ g, g ≠ h → t.plate? g = s.plate? g)
              ∧ t.queue = joining s.queue [.state h.idx]
              ∧ Awaits row s t a st tag [.state h.idx] .done []
              ∧ OnlyChanges (lineFields ++ [.plates, .queue]) s t) := by
  subst hbody
  intro refused
  refine ⟨fun hpfw => request_unchanged hasks ?_, fun hpfw hnone => request_unchanged hasks ?_, fun r hpfw hr => ?_⟩
  · exact if_pos (by simpa using hpfw)
  · rw [setHeld, if_neg (by simp [hpfw]), heard_plate?, hnone]
    rfl
  have hsteps : setHeld v (askerOf a st tag) h (s.heard a) =
      if r.st.disposition ≠ .stock then .refuse (s.heard a) .wrongState
      else if r.st.doubtful then .refuse (s.heard a) .blocked
      else if r.st.held = v then .complete (s.heard a) .done []
      else .waits (((s.heard a).modifyPlate h (withHeld v)).enqueue (.state h.idx)) [.state h.idx] .done [] := by
    rw [setHeld, if_neg (by simp [hpfw]), heard_plate?, hr]
  refine ⟨fun hout => request_unchanged hasks ?_, fun hstock hdoubt => request_unchanged hasks ?_,
    fun hstock hclear hheld => ?_, fun hstock hclear hheld => ?_⟩
  · rw [hsteps, if_pos hout]
    rfl
  · rw [hsteps, if_neg (by simp [hstock]), if_pos hdoubt]
    rfl
  · have hbody : setHeld v (askerOf a st tag) h (s.heard a) = .complete (s.heard a) .done [] := by
      rw [hsteps, if_neg (by simp [hstock]), if_neg (by simp [hclear]), if_pos hheld]
    obtain ⟨t, hexec, hdone, hframe, -⟩ := request_completes (own := []) hasks hbody .refl rfl
    exact ⟨t, hexec, hdone, hframe⟩
  · have hbody := hsteps
    rw [if_neg (by simp [hstock]), if_neg (by simp [hclear]), if_neg hheld] at hbody
    obtain ⟨t, hexec, hwaits, hframe, hline⟩ := request_waits (own := [.plates, .queue]) hasks (by simp) hbody
      (((modifyPlate_frame _ _).mono (by decide)).trans ((enqueue_frame _).mono (by decide))) (by decide)
    refine ⟨t, hexec, ?_, fun g hg => ?_, ?_, hwaits, hframe⟩
    · rw [read_of_line (fun s => s.plate? h) hline, plate?_enqueue, modifyPlate_plate?, if_pos rfl, heard_plate?, hr]
      rfl
    · rw [read_of_line (fun s => s.plate? g) hline, plate?_enqueue, modifyPlate_plate?, if_neg hg.symm, heard_plate?]
    · rw [read_of_line State.queue hline, enqueue_queue_joining, modifyPlate_queue, heard_queue]

/-- Settles O15: the two requests share one body. -/
theorem heldSetAndCleared : Obligations.HeldSetAndCleared := by
  unfold Obligations.HeldSetAndCleared
  rintro s a st tag h v c row (⟨rfl, rfl, rfl⟩ | ⟨rfl, rfl, rfl⟩) hasks
  · exact setHeld_steps hasks rfl
  · exact setHeld_steps hasks rfl

/-! ## Retire Plate -/

/-- The record of a plate that is retired (R6). -/
abbrev retiredRecord (why : RetireReason) (r : PlateRec) : PlateRec :=
  { r with
    st := { r.st with disposition := .retired why, location := .nowhere }
    job := none, leg := none, mass := none }

theorem aboveOf_top {l : Location} (htop : ∀ k n, l = .slot k n → (s.slot k).stack.length ≤ n + 1)
    (hthere : ∀ k n, l = .slot k n → (s.slot k).stack[n]? = some h ∧ (s.slot k).stack.Nodup) : aboveOf s h l = [] := by
  unfold aboveOf
  split
  next k n =>
    obtain ⟨hn, hnd⟩ := hthere k n rfl
    have hlen := htop k n rfl
    have hat : (s.slot k).stack.idxOf h = n := by
      have hm := List.mem_of_getElem? hn
      have hlt := List.idxOf_lt_length_iff.2 hm
      exact (List.getElem?_inj hlt hnd).1 ((List.getElem?_idxOf hm).trans hn.symm)
    exact List.drop_eq_nil_of_le (by omega)
  · rfl

theorem erase_last {l : List Handle} {n : Nat} (hn : l[n]? = some h) (hlen : l.length ≤ n + 1) (hnd : l.Nodup) :
    l.erase h = l.dropLast ∧ h ∉ l.dropLast := by
  have hlast : l = l.dropLast ++ [h] := by
    have hlt := (List.getElem?_eq_some_iff.1 hn).1
    have hne : l ≠ [] := List.ne_nil_of_length_pos (by omega)
    conv_lhs => rw [← List.dropLast_append_getLast hne]
    rw [List.getLast_eq_getElem]
    have : l[l.length - 1]? = some h := by rw [show l.length - 1 = n by omega]; exact hn
    rw [(List.getElem?_eq_some_iff.1 this).2]
  have hout : h ∉ l.dropLast := by
    rw [hlast, List.nodup_append] at hnd
    exact fun hm => hnd.2.2 h hm h (List.mem_singleton.2 rfl) rfl
  refine ⟨?_, hout⟩
  conv_lhs => rw [hlast]
  rw [List.erase_append_right _ hout]
  simp

/-- What is left of a plate retired from the top of its stack, or from another place. -/
abbrev RetiredFrom (why : RetireReason) (h : Handle) (r : PlateRec) (s t : State) : Prop :=
  t.plate? h = some (retiredRecord why r)
    ∧ (∀ g, g ≠ h → t.plate? g = s.plate? g)
    ∧ (∀ k n, r.st.location = .slot k n → Unstacked s t k (s.slot k).stack.dropLast)
    ∧ (∀ k, r.st.location.place ≠ .slot k → t.slot k = s.slot k)
    ∧ (∀ j b, r.st.location = .bed j b → t.bed j b = { s.bed j b with plates := (s.bed j b).plates.erase h })
    ∧ (∀ j b, b ≤ 1 → r.st.location ≠ .bed j b → t.bed j b = s.bed j b)
    ∧ t.cart = { s.cart with plates := if r.st.location = .cart then s.cart.plates.erase h else s.cart.plates }
    ∧ t.queue = joining s.queue [.state h.idx]

/-- What a plate's retirement leaves, the plate on top of its stack where it lies in a slot. -/
theorem retirePlate_reads {why : RetireReason} (hr : s.plate? h = some r)
    (htop : ∀ k n, r.st.location = .slot k n → (s.slot k).stack.length ≤ n + 1)
    (hthere : ∀ k n, r.st.location = .slot k n → (s.slot k).stack[n]? = some h ∧ (s.slot k).stack.Nodup)
    (hbed : ∀ j b, r.st.location = .bed j b → b ≤ 1) :
    RetiredFrom why h r s (s.retirePlate h why) := by
  have hr' : (s.enqueue (.state h.idx)).plate? h = some r := (plate?_enqueue _ _).trans hr
  have hleft := (leavePlace_left hr').of_enqueue
  have habove : aboveOf s h r.st.location = [] := aboveOf_top htop hthere
  have hown : ((s.enqueue (.state h.idx)).leavePlace h).plate? h = some r := by
    rw [hleft.plates h (by simp [habove]), hr]
  have hplate (g : Handle) : (s.retirePlate h why).plate? g
      = if h = g then (((s.enqueue (.state h.idx)).leavePlace h).plate? g).map (retiredRecord why)
        else ((s.enqueue (.state h.idx)).leavePlace h).plate? g := modifyPlate_plate? _
  refine ⟨by rw [hplate, if_pos rfl, hown]; rfl, fun g hg => ?_, fun k n hl => ?_, hleft.slots, hleft.bed,
    fun j b hb => hleft.beds j b hb hbed, hleft.cart, ?_⟩
  · rw [hplate, if_neg hg.symm, hleft.plates g (by simp [habove])]
  · obtain ⟨hn, hnd⟩ := hthere k n hl
    obtain ⟨herase, hout⟩ := erase_last hn (htop k n hl) hnd
    have hstack := hleft.stack k n hl
    rw [herase] at hstack
    refine unstacked_congr hstack rfl fun g hg => stackShare_congr ?_
    rw [hplate, if_neg]
    rintro rfl
    exact hout hg
  · change ((s.enqueue (.state h.idx)).leavePlace h).queue = _
    rw [leavePlace_queue hr', enqueue_queue_joining]
    have habove' : aboveOf (s.enqueue (.state h.idx)) h r.st.location = aboveOf s h r.st.location := by
      unfold aboveOf State.platesAbove
      split
      · simp [State.slot]
      · rfl
    rw [habove', habove]
    rfl

theorem atTop_iff (r : PlateRec) :
    s.atTop r = true ↔ ∀ k n, r.st.location = .slot k n → (s.slot k).stack.length ≤ n + 1 := by
  unfold State.atTop State.burialDepth
  split
  next k n hl =>
    rw [beq_iff_eq]
    refine ⟨fun h j m hj => ?_, fun h => ?_⟩
    · rw [hl] at hj
      cases hj
      omega
    · have := h k n hl
      omega
  next hnot => exact iff_of_true rfl fun k n hl => absurd hl (hnot k n)

theorem reason_iff {reason : Nat} {why : RetireReason} : RetireReason.ofRequest reason = some why ↔
    (reason = 1 ∧ why = .scrapped) ∨ (reason = 2 ∧ why = .shipped) := by
  match reason with
  | 0 => simp [RetireReason.ofRequest]
  | 1 => cases why <;> simp [RetireReason.ofRequest]
  | 2 => cases why <;> simp [RetireReason.ofRequest]
  | n + 3 => simp [RetireReason.ofRequest]

/-- Retire Plate's checks of the record, as claims list them. -/
abbrev retireChecks (s : State) (h : Handle) (r : PlateRec) : List (Prop × AnsCode) :=
  [(r.st.disposition = .stock ∧ r.job = none ∧ r.leg = none, .wrongState),
    (∀ k n, r.st.location = .slot k n → (s.slot k).stack.length ≤ n + 1, .wrongState),
    (∀ g l, s.leg? g = some l → l.state.unfinished = true → l.plate ≠ some h, .wrongState)]

theorem stockFree_test (r : PlateRec) :
    r.st.disposition ≠ .stock ∨ r.use ≠ .free ↔ ¬(r.st.disposition = .stock ∧ r.job = none ∧ r.leg = none) := by
  rw [← use_free_iff, not_and_or]

theorem named_test : s.namedByLeg h = true ↔
    ¬∀ g l, s.leg? g = some l → l.state.unfinished = true → l.plate ≠ some h := by
  rw [Tables.namedByLeg_iff]
  simp only [not_forall, not_not, exists_prop, ne_eq]

theorem retirePlate_steps {k : Asker} {reason : Nat} {why : RetireReason} (hpfw : s.pfw = false)
    (hreason : RetireReason.ofRequest reason = some why) (hr : s.plate? h = some r) :
    retirePlate k ⟨h, reason⟩ s = if r.st.disposition ≠ .stock || r.use ≠ .free then .refuse s .wrongState
      else if !s.atTop r then .refuse s .wrongState
      else if s.namedByLeg h then .refuse s .wrongState
      else .waits (s.retirePlate h why) [.state h.idx] .done [] := by
  rw [retirePlate, if_neg (by simp [hpfw])]
  simp only [hreason, hr]

theorem retirePlate_turns (k : Asker) (reason : Nat) : Turns s (retirePlate k ⟨h, reason⟩ s)
    [(s.pfw = false, .powerDown), (reason = 1 ∨ reason = 2, .badRequest), (∃ r, s.plate? h = some r, .noSuch)] := by
  refine turns_ite (by simp) fun _ => ?_
  rcases hwhy : RetireReason.ofRequest reason with _ | why
  · refine turns_cons (fun _ => rfl) fun hok => ?_
    rcases hok with rfl | rfl <;> cases hwhy
  · refine turns_cons (fun hnot => absurd ((reason_iff.1 hwhy).imp And.left And.left) hnot) fun _ => ?_
    rcases hr : s.plate? h with _ | r
    · exact turns_cons (fun _ => rfl) fun ⟨r, hr⟩ => by cases hr
    · exact turns_cons (fun hnot => absurd ⟨r, rfl⟩ hnot) fun _ => turns_nil

theorem retirePlate_turns_record {k : Asker} {reason : Nat} {why : RetireReason} (hpfw : s.pfw = false)
    (hreason : RetireReason.ofRequest reason = some why) (hr : s.plate? h = some r) :
    Turns s (retirePlate k ⟨h, reason⟩ s) (retireChecks s h r) := by
  rw [retirePlate_steps hpfw hreason hr]
  exact turns_ite (by rw [Bool.or_eq_true, decide_eq_true_iff, decide_eq_true_iff]; exact stockFree_test r) fun _ =>
    turns_ite (by rw [Bool.not_eq_true', ← Bool.not_eq_true, atTop_iff]) fun _ => turns_ite named_test fun _ =>
      turns_nil

theorem retirePlate_taken {k : Asker} {reason : Nat} {why : RetireReason} (hpfw : s.pfw = false)
    (hreason : RetireReason.ofRequest reason = some why) (hr : s.plate? h = some r)
      (hchecks : AllHold (retireChecks s h r)) :
    retirePlate k ⟨h, reason⟩ s = .waits (s.retirePlate h why) [.state h.idx] .done [] := by
  obtain ⟨hstock, htop, hnamed, -⟩ := hchecks
  rw [retirePlate_steps hpfw hreason hr, if_neg, if_neg, if_neg fun h => named_test.1 h hnamed]
  · rw [Bool.not_eq_true', ← Bool.not_eq_true, not_not]
    exact (atTop_iff r).2 htop
  · rw [Bool.or_eq_true, decide_eq_true_iff, decide_eq_true_iff, stockFree_test]
    exact not_not.2 hstock

/-- Settles O16: by the checks in their order, and by what retirement leaves. -/
theorem retirePlateRetires : Obligations.RetirePlateRetires := by
  unfold Obligations.RetirePlateRetires
  intro s a st tag h reason hasks
  refine ⟨refusedInOrder_of_block rfl hasks fun u => retirePlate_turns _ reason, fun why r hpfw hreason hr => ?_⟩
  have hpfw' : (s.heard a).pfw = false := by simpa using hpfw
  have hr' : (s.heard a).plate? h = some r := by simpa using hr
  refine ⟨refusedInOrder_of_heard (fun s => retireChecks s h r) rfl hasks
    (retirePlate_turns_record hpfw' (reason_iff.2 hreason) hr'), fun hchecks hthere hbed => ?_⟩
  obtain ⟨t, hexec, hwaits, hframe, hanswer⟩ := request_waits (own := placeFields) (tag := tag) hasks (by simp)
    (retirePlate_taken (k := askerOf a st tag) hpfw' (reason_iff.2 hreason) hr'
      (allHold_heard (fun s => retireChecks s h r) hchecks)) (retirePlate_frame h why) (by decide)
  obtain ⟨-, htop, -⟩ := hchecks
  obtain ⟨hown, hothers, hstack, hslots, hbed', hbeds, hcart, hqueue⟩ := taken_of_line (RetiredFrom why h r)
    (retirePlate_reads hr' (by simpa using htop) (by simpa using hthere) hbed) hanswer
  exact ⟨t, hexec, hown, hothers, hstack, hslots, hbed', hbeds, hcart, hqueue, hwaits, hframe⟩

end Sys2Proof.Proofs.Stack
end

section
/-! PROOFS. Register Plate and Amend Plate (R15, R16, R18, R19). -/

namespace Sys2Proof.Proofs.Amend

open Sys2Proof Sys2Proof.Machine
open Sys2Proof.Proofs.Pallets (askerOf)
open Sys2Proof.Proofs.Requests Sys2Proof.Proofs.Places Sys2Proof.Proofs.Blocks Sys2Proof.Proofs.Stack

variable {s t : State} {f : AmendF} {r : PlateRec} {mass : Nat}

/-! ## Amend Plate: the checks -/

/-- The load of the slot a plate stays in, with its new mass, is within the bound. -/
abbrev Stays (s : State) (r : PlateRec) (mass k : Nat) : Prop :=
  s.stackMass k - (if r.st.doubtful then 0 else r.mass.getD 0) + mass + s.incomingMass k ≤ (s.slotCfg k).limit

/-- The checks of Amend Plate of a plate found (R18). -/
abbrev amendChecks (s : State) (f : AmendF) (r : PlateRec) (mass : Nat) : List (Prop × AnsCode) :=
  [(r.st.disposition = .stock ∧ r.job = none ∧ r.leg = none, .wrongState),
    (panelsValid f.panels (r.ident.length - r.ident.headTrim - r.ident.tailTrim)
        (r.ident.width - r.ident.sideATrim - r.ident.sideBTrim) = true
      ∧ (∀ n, f.area = some n → r.ident.origin = .derived
        ∧ (f.panels.map fun p => p.length * p.width).sum ≤ n ∧ n ≤ r.ident.length * r.ident.width)
      ∧ (∀ p, f.location = some p → match p with
        | .slot k => k ≤ 95
        | .bed t b => t ≤ 7 ∧ b ≤ 1
        | .cart => True
        | .nowhere => True
        | _ => False), .badRequest),
    (∀ c, r.st.location = .hook c → f.location ≠ none, .wrongState),
    (∀ t b, f.location = some (.bed t b) →
      s.bedJob t b = none ∧ (s.bed t b).skeleton = false ∧ ∀ g ∈ (s.bed t b).plates, g = f.plate, .wrongState),
    (match f.location with
      | none => ∀ k n, r.st.location = .slot k n → Stays s r mass k
      | some (.slot k) =>
        (r.st.location.place = .slot k → Stays s r mass k)
          ∧ (r.st.location.place ≠ .slot k → s.hasRoom k (some mass) = true)
      | some .cart => r.st.location = .cart ∨ (s.cart.plates = [] ∧ s.cart.incoming = [])
      | _ => True, .full)]

theorem placeOk_iff (p : Place) : amendPlaceOk p = true ↔ match p with
    | .slot k => k ≤ 95
    | .bed t b => t ≤ 7 ∧ b ≤ 1
    | .cart => True
    | .nowhere => True
    | _ => False := by
  cases p <;> simp [amendPlaceOk]

theorem areaOk_iff : f.areaOk r = true ↔ ∀ n, f.area = some n → r.ident.origin = .derived
    ∧ (f.panels.map fun p => p.length * p.width).sum ≤ n ∧ n ≤ r.ident.length * r.ident.width := by
  unfold AmendF.areaOk
  rcases f.area with _ | n
  · simp
  · cases ho : r.ident.origin
    · simp
    · simp only [Bool.and_eq_true, decide_eq_true_iff, Option.some.injEq, forall_eq', true_and]
      rfl

theorem inRanges_iff : f.inRanges r = true ↔
    panelsValid f.panels (r.ident.length - r.ident.headTrim - r.ident.tailTrim)
        (r.ident.width - r.ident.sideATrim - r.ident.sideBTrim) = true
      ∧ (∀ n, f.area = some n → r.ident.origin = .derived
        ∧ (f.panels.map fun p => p.length * p.width).sum ≤ n ∧ n ≤ r.ident.length * r.ident.width)
      ∧ (∀ p, f.location = some p → amendPlaceOk p = true) := by
  rw [AmendF.inRanges, Bool.and_eq_true, Bool.and_eq_true, areaOk_iff, and_assoc]
  refine and_congr_right fun _ => and_congr_right fun _ => ?_
  rcases f.location with _ | p <;> simp

theorem leavesOnHook_iff : f.leavesOnHook r = true ↔ ¬∀ c, r.st.location = .hook c → f.location ≠ none := by
  unfold AmendF.leavesOnHook
  rcases hl : r.st.location with _ | _ | c | _ | _ <;> rcases f.location with _ | p <;> simp

theorem bedTakes_iff {h : Handle} {j b : Nat} : s.bedTakes h j b = true ↔
    s.bedJob j b = none ∧ (s.bed j b).skeleton = false ∧ ∀ g ∈ (s.bed j b).plates, g = h := by
  simp only [State.bedTakes, Bool.and_eq_true, Option.isNone_iff_eq_none, Bool.not_eq_true', List.all_eq_true,
    beq_iff_eq,
    and_assoc]

theorem bed_test : (match f.location with
      | some (.bed t b) => !s.bedTakes f.plate t b
      | _ => false) = true ↔
    ¬∀ t b, f.location = some (.bed t b) →
      s.bedJob t b = none ∧ (s.bed t b).skeleton = false ∧ ∀ g ∈ (s.bed t b).plates, g = f.plate := by
  simp only [← bedTakes_iff]
  split
  next j b hl => simp [hl]
  next hnot => exact iff_of_false (by simp) (not_not.2 fun j b hl => absurd hl (hnot j b))

theorem stackShare_own {h : Handle} (hr : s.plate? h = some r) :
    s.stackShare h = if r.st.doubtful then 0 else r.mass.getD 0 := by
  rw [State.stackShare, hr]

theorem amendRoom_iff (hr : s.plate? f.plate = some r) : s.amendRoom f.plate r f mass = true ↔
    match f.location with
    | none => ∀ k n, r.st.location = .slot k n → Stays s r mass k
    | some (.slot k) =>
      (r.st.location.place = .slot k → Stays s r mass k)
        ∧ (r.st.location.place ≠ .slot k → s.hasRoom k (some mass) = true)
    | some .cart => r.st.location = .cart ∨ (s.cart.plates = [] ∧ s.cart.incoming = [])
    | _ => True := by
  unfold State.amendRoom
  rw [stackShare_own hr]
  rcases f.location with _ | p
  · rcases r.st.location with ⟨k, n⟩ | _ | _ | _ | _ <;> simp
  · cases p with
    | slot k =>
      dsimp only
      split
      next hk => simp [hk]
      next hk => simp [hk]
    | cart => simp [State.cartHasRoom]
    | _ => simp

/-! ## Amend Plate: what is taken -/

/-- The record with the request's panels, area and mass (R19). -/
abbrev amended (f : AmendF) (r : PlateRec) (area mass : Nat) : PlateRec :=
  { r with
    st := { r.st with panels := some f.panels, area := some area, massDoubt := false, doubtful := false }
    mass := some mass }

theorem newArea_eq : f.newArea r = (match r.ident.origin with
    | .mill => r.ident.length * r.ident.width
    | .derived => f.area.getD ((f.panels.map fun p => p.length * p.width).sum)) := by
  unfold AmendF.newArea
  cases r.ident.origin <;> rfl

theorem amendPlate_steps {k : Asker} (hpfw : s.pfw = false) (hr : s.plate? f.plate = some r)
    (hmass : mass = s.massFor r.ident (f.newArea r)) :
    amendPlate k f s =
      if r.st.disposition ≠ .stock || r.use ≠ .free then .refuse s .wrongState
      else if !f.inRanges r then .refuse s .badRequest
      else if f.leavesOnHook r then .refuse s .wrongState
      else if (match f.location with
          | some (.bed t b) => !s.bedTakes f.plate t b
          | _ => false) then .refuse s .wrongState
      else if !s.amendRoom f.plate r f mass then .refuse s .full
      else match f.moves r with
        | none =>
          if (f.apply mass r).st = r.st then .complete (s.modifyPlate f.plate (f.apply mass)) .done []
          else .waits ((s.modifyPlate f.plate (f.apply mass)).enqueue
            (.state f.plate.idx)) [.state f.plate.idx] .done []
        | some place =>
          .waits ((s.modifyPlate f.plate (f.apply mass)).movePlate f.plate place)
            (.state f.plate.idx :: s.movedImages f.plate) .done [] := by
  rw [amendPlate, if_neg (by simp [hpfw])]
  simp only [hr, hmass] <;> rfl

theorem amendPlate_turns (k : Asker) : Turns s (amendPlate k f s)
    [(s.pfw = false, .powerDown), (∃ r, s.plate? f.plate = some r, .noSuch)] := by
  refine turns_ite (by simp) fun _ => ?_
  rcases hr : s.plate? f.plate with _ | r
  · exact turns_cons (fun _ => rfl) fun ⟨r, hr⟩ => by cases hr
  · exact turns_cons (fun hnot => absurd ⟨r, rfl⟩ hnot) fun _ => turns_nil

theorem stockFree_bool (r : PlateRec) : (decide (r.st.disposition ≠ .stock) || decide (r.use ≠ .free)) = true ↔
    ¬(r.st.disposition = .stock ∧ r.job = none ∧ r.leg = none) := by
  rw [Bool.or_eq_true, decide_eq_true_iff, decide_eq_true_iff]
  exact stockFree_test r

theorem ranges_test : (!f.inRanges r) = true ↔ ¬(panelsValid f.panels
        (r.ident.length - r.ident.headTrim - r.ident.tailTrim)
        (r.ident.width - r.ident.sideATrim - r.ident.sideBTrim) = true
      ∧ (∀ n, f.area = some n → r.ident.origin = .derived
        ∧ (f.panels.map fun p => p.length * p.width).sum ≤ n ∧ n ≤ r.ident.length * r.ident.width)
      ∧ (∀ p, f.location = some p → match p with
        | .slot k => k ≤ 95
        | .bed t b => t ≤ 7 ∧ b ≤ 1
        | .cart => True
        | .nowhere => True
        | _ => False)) := by
  rw [Bool.not_eq_true', ← Bool.not_eq_true, inRanges_iff]
  simp only [placeOk_iff]

theorem amendPlate_turns_record {k : Asker} (hpfw : s.pfw = false) (hr : s.plate? f.plate = some r)
    (hmass : mass = s.massFor r.ident (f.newArea r)) : Turns s (amendPlate k f s) (amendChecks s f r mass) := by
  rw [amendPlate_steps hpfw hr hmass]
  exact turns_ite (stockFree_bool r) fun _ => turns_ite ranges_test fun _ => turns_ite leavesOnHook_iff fun _ =>
    turns_ite bed_test fun _ =>
      turns_ite (by rw [Bool.not_eq_true', ← Bool.not_eq_true, amendRoom_iff hr]) fun _ => turns_nil

theorem amendPlate_taken {k : Asker} (hpfw : s.pfw = false) (hr : s.plate? f.plate = some r)
    (hmass : mass = s.massFor r.ident (f.newArea r)) (hchecks : AllHold (amendChecks s f r mass)) :
    amendPlate k f s = match f.moves r with
      | none =>
        if (f.apply mass r).st = r.st then .complete (s.modifyPlate f.plate (f.apply mass)) .done []
        else .waits ((s.modifyPlate f.plate (f.apply mass)).enqueue (.state f.plate.idx)) [.state f.plate.idx] .done []
      | some place =>
        .waits ((s.modifyPlate f.plate (f.apply mass)).movePlate f.plate place)
          (.state f.plate.idx :: s.movedImages f.plate) .done [] := by
  obtain ⟨hstock, hranges, hhook, hbed, hroom, -⟩ := hchecks
  rw [amendPlate_steps hpfw hr hmass, if_neg fun h => (stockFree_bool r).1 h hstock,
    if_neg fun h => ranges_test.1 h hranges,
    if_neg fun h => leavesOnHook_iff.1 h hhook, if_neg fun h => bed_test.1 h hbed, if_neg]
  rw [Bool.not_eq_true', ← Bool.not_eq_true, not_not]
  exact (amendRoom_iff hr).2 hroom

theorem moves_none : f.moves r = none ↔ f.location = none ∨ f.location = some r.st.location.place := by
  unfold AmendF.moves
  rcases f.location with _ | p
  · simp
  · simp [eq_comm]

theorem moves_some {p : Place} (hl : f.location = some p) (hne : p ≠ r.st.location.place) : f.moves r = some p := by
  simp only [AmendF.moves, hl, if_neg hne.symm]

theorem amend_plate? (hr : s.plate? f.plate = some r) (g : Handle) :
    (s.modifyPlate f.plate (f.apply mass)).plate? g = if f.plate = g then some (f.apply mass r) else s.plate? g := by
  rw [modifyPlate_plate?]
  split
  next h => rw [← h, hr]; rfl
  next => rfl

/-- What is left of a plate that an amendment moves to `p`. -/
abbrev AmendMoved (f : AmendF) (r new : PlateRec) (p : Place) (above : List Handle) (s t : State) : Prop :=
  t.plate? f.plate = some { new with st := { new.st with location := landing s p } }
    ∧ (∀ g, g ≠ f.plate → g ∉ above → t.plate? g = s.plate? g)
    ∧ (∀ k n i g q, r.st.location = .slot k n → (s.slot k).stack.Nodup → above[i]? = some g →
        s.plate? g = some q → t.plate? g = some { q with
          st := { q.st with location := .slot k ((s.slot k).stack.idxOf f.plate + i) } })
    ∧ (∀ k, p = .slot k → t.slot k = { s.slot k with stack := (s.slot k).stack ++ [f.plate] })
    ∧ (∀ k n, r.st.location = .slot k n → Unstacked s t k ((s.slot k).stack.erase f.plate))
    ∧ (∀ k, p ≠ .slot k → r.st.location.place ≠ .slot k → t.slot k = s.slot k)
    ∧ (∀ j b, p = .bed j b → t.bed j b = { s.bed j b with plates := (s.bed j b).plates ++ [f.plate] })
    ∧ (∀ j b, r.st.location = .bed j b →
        t.bed j b = { s.bed j b with plates := (s.bed j b).plates.erase f.plate })
    ∧ (∀ j b, b ≤ 1 → p ≠ .bed j b → r.st.location ≠ .bed j b → t.bed j b = s.bed j b)
    ∧ t.cart = { s.cart with plates :=
        if p = .cart then s.cart.plates ++ [f.plate]
        else if r.st.location = .cart then s.cart.plates.erase f.plate else s.cart.plates }
    ∧ t.queue = joining s.queue (.state f.plate.idx :: above.map fun g => ImageId.state g.idx)

theorem amendMoved_reads {p : Place} (hr : s.plate? f.plate = some r) (hp : CanHold p) (hne : p ≠ r.st.location.place)
    (hbed : ∀ j b, r.st.location = .bed j b → b ≤ 1) :
    AmendMoved f r (f.apply mass r) p (aboveOf s f.plate r.st.location) s
      ((s.modifyPlate f.plate (f.apply mass)).movePlate f.plate p) := by
  have hplate := amend_plate? (f := f) (mass := mass) hr
  have hmoved := movePlate_moved (s := s.modifyPlate f.plate (f.apply mass)) (h := f.plate) (r := f.apply mass r)
    (by rw [hplate, if_pos rfl]) hp hne hbed
  refine ⟨hmoved.plate, fun g hg hout => (hmoved.plates g hg hout).trans (by rw [hplate, if_neg hg.symm]),
    fun k n i g q hl hnd hg hq => hmoved.lowered k n hl hnd i g q hg ?_, hmoved.slot, hmoved.stack, hmoved.slots,
    hmoved.bedTo, hmoved.bedFrom, hmoved.beds, hmoved.cart, hmoved.queue⟩
  rw [hplate, if_neg, hq]
  rintro rfl
  rw [hl] at hg
  exact own_not_above hnd (List.mem_of_getElem? hg)

theorem movedImages_eq (hr : s.plate? f.plate = some r) :
    s.movedImages f.plate = (aboveOf s f.plate r.st.location).map fun g => ImageId.state g.idx := by
  unfold State.movedImages aboveOf
  rw [hr]
  dsimp only
  cases r.st.location <;> rfl

/-- Settles O13: by the checks in their order, a plate amended where it lies, and one that moves. -/
theorem amendPlateSets : Obligations.AmendPlateSets := by
  unfold Obligations.AmendPlateSets
  intro s a st tag f hasks
  refine ⟨refusedInOrder_of_block rfl hasks fun u => amendPlate_turns _,
    fun r new area mass hpfw hr harea hmass hnew => ?_⟩
  have hpfw' : (s.heard a).pfw = false := by simpa using hpfw
  have hr' : (s.heard a).plate? f.plate = some r := by simpa using hr
  have harea' : f.newArea r = area := newArea_eq.trans harea.symm
  have hmass' : mass = (s.heard a).massFor r.ident (f.newArea r) := by
    rw [harea', hmass, read_of_line (fun s => s.massFor r.ident area) heard_line]
    rfl
  have hnew' : f.apply mass r = new := by
    rw [hnew, AmendF.apply, harea']
  refine ⟨refusedInOrder_of_heard (fun s => amendChecks s f r mass) rfl hasks
    (amendPlate_turns_record hpfw' hr' hmass'), fun hchecks hstays => ?_, fun p above hchecks hl hne hbed habove => ?_⟩
  · have hbody := amendPlate_taken (k := askerOf a st tag) hpfw' hr' hmass'
      (allHold_heard (fun s => amendChecks s f r mass) hchecks)
    rw [moves_none.2 hstays] at hbody
    dsimp only at hbody
    have hplates (g : Handle) := amend_plate? (f := f) (mass := mass) hr' g
    have hframe := modifyPlate_frame (s := s.heard a) f.plate (f.apply mass)
    split
    next hsame =>
      rw [hnew', if_pos hsame] at hbody
      obtain ⟨t, hexec, hdone, hall, hline⟩ := request_completes (own := [.plates, .queue]) hasks hbody
        (hframe.mono (by decide)) (by decide)
      refine ⟨t, hexec, ?_, fun g hg => ?_, ⟨hdone, ?_⟩, hall⟩
      · rw [read_of_line (fun s => s.plate? f.plate) hline, hplates, if_pos rfl, hnew']
      · rw [read_of_line (fun s => s.plate? g) hline, hplates, if_neg hg.symm, heard_plate?]
      · rw [read_of_line State.queue hline, modifyPlate_queue, heard_queue]
    next hchanged =>
      rw [hnew', if_neg hchanged] at hbody
      obtain ⟨t, hexec, hwaits, hall, hline⟩ := request_waits (own := [.plates, .queue]) hasks (by simp) hbody
        ((hframe.mono (by decide)).trans ((enqueue_frame _).mono (by decide))) (by decide)
      refine ⟨t, hexec, ?_, fun g hg => ?_, ⟨hwaits, ?_⟩, hall⟩
      · rw [read_of_line (fun s => s.plate? f.plate) hline, plate?_enqueue, hplates, if_pos rfl, hnew']
      · rw [read_of_line (fun s => s.plate? g) hline, plate?_enqueue, hplates, if_neg hg.symm, heard_plate?]
      · rw [read_of_line State.queue hline, enqueue_queue_joining, modifyPlate_queue, heard_queue]
  · have hbody := amendPlate_taken (k := askerOf a st tag) hpfw' hr' hmass'
      (allHold_heard (fun s => amendChecks s f r mass) hchecks)
    rw [moves_some hl hne] at hbody
    dsimp only at hbody
    have hp : CanHold p := by
      obtain ⟨-, ⟨-, -, hforms⟩, -⟩ := hchecks
      have hform := hforms p hl
      cases p <;> simp_all [CanHold]
    have habove' : above = aboveOf (s.heard a) f.plate r.st.location := by
      rw [read_of_line (fun s => aboveOf s f.plate r.st.location) heard_line, habove]
      cases r.st.location <;> rfl
    obtain ⟨t, hexec, hwaits, hall, hline⟩ := request_waits (own := placeFields) hasks (by simp) hbody
      (((modifyPlate_frame _ _).mono (by decide)).trans (movePlate_frame _ _)) (by decide)
    obtain ⟨h1, h2, h3, h4, h5, h6, h7, h8, h9, h10, h11⟩ := taken_of_line (AmendMoved f r new p above)
      (by rw [← hnew', habove']; exact amendMoved_reads hr' hp hne hbed) hline
    rw [movedImages_eq hr', ← habove'] at hwaits
    refine ⟨t, hexec, h1, h2, h3, h4, h5, h6, h7, h8, h9, h10, ?_, hall⟩
    rintro images rfl
    exact ⟨hwaits, h11⟩

end Sys2Proof.Proofs.Amend
end

section
/-! PROOFS. Register Plate (R2, R3, R4, R15, R16). -/

namespace Sys2Proof.Proofs.Register

open Sys2Proof Sys2Proof.Machine
open Sys2Proof.Proofs.Pallets (askerOf)
open Sys2Proof.Proofs.Requests Sys2Proof.Proofs.Tables Sys2Proof.Proofs.Places Sys2Proof.Proofs.Blocks

variable {s t : State} {f : RegisterF} {length width mass : Nat}

/-- The checks of Register Plate (R15). -/
abbrev registerChecks (s : State) (f : RegisterF) (length width mass : Nat) : List (Prop × AnsCode) :=
  [(s.pfw = false, .powerDown),
    (textIn 1 12 f.heat = true ∧ f.grade ≤ 63 ∧ 30 ≤ f.thickness ∧ f.thickness ≤ 1500
        ∧ 500 ≤ f.length ∧ f.length ≤ 24000 ∧ 300 ≤ f.width ∧ f.width ≤ 5000
        ∧ 10 ≤ f.headTrim ∧ f.headTrim ≤ 250 ∧ 10 ≤ f.tailTrim ∧ f.tailTrim ≤ 250
        ∧ 15 ≤ f.sideATrim ∧ f.sideATrim ≤ 250 ∧ 15 ≤ f.sideBTrim ∧ f.sideBTrim ≤ 250 ∧ f.slot ≤ 95, .badRequest),
    (300 ≤ length ∧ 200 ≤ width, .badRequest),
    ((∃ i e, s.plates.get? i = some e ∧ ∀ r, e.record = some r → r.st.disposition ≠ .stock)
        ∧ s.seqCounter < 4294967296, .full),
    (s.hasRoom f.slot (some mass) = true, .full)]

theorem ranges_test : (!f.inRanges) = true ↔ ¬(textIn 1 12 f.heat = true ∧ f.grade ≤ 63 ∧ 30 ≤ f.thickness
    ∧ f.thickness ≤ 1500 ∧ 500 ≤ f.length ∧ f.length ≤ 24000 ∧ 300 ≤ f.width ∧ f.width ≤ 5000
    ∧ 10 ≤ f.headTrim ∧ f.headTrim ≤ 250 ∧ 10 ≤ f.tailTrim ∧ f.tailTrim ≤ 250
    ∧ 15 ≤ f.sideATrim ∧ f.sideATrim ≤ 250 ∧ 15 ≤ f.sideBTrim ∧ f.sideBTrim ≤ 250 ∧ f.slot ≤ 95) := by
  rw [Bool.not_eq_true', ← Bool.not_eq_true]
  simp only [RegisterF.inRanges, inRange, Bool.and_eq_true, decide_eq_true_iff, Nat.zero_le, true_and, and_assoc]

theorem usable_test (hlength : length = f.length - f.headTrim - f.tailTrim)
    (hwidth : width = f.width - f.sideATrim - f.sideBTrim) :
    (decide (f.ident.usableLength < 300) || decide (f.ident.usableWidth < 200)) = true ↔
      ¬(300 ≤ length ∧ 200 ≤ width) := by
  rw [Bool.or_eq_true, decide_eq_true_iff, decide_eq_true_iff, hlength, hwidth, not_and_or, Nat.not_le, Nat.not_le]
  rfl

theorem plateEntryFree_iff (e : Entry PlateRec) :
    plateEntryFree e = true ↔ ∀ r, e.record = some r → r.st.disposition ≠ .stock := by
  unfold plateEntryFree
  rcases e.record with _ | r <;> simp

theorem create_test : (!s.canCreatePlate) = true ↔
    ¬((∃ i e, s.plates.get? i = some e ∧ ∀ r, e.record = some r → r.st.disposition ≠ .stock)
        ∧ s.seqCounter < 4294967296) := by
  rw [Bool.not_eq_true', ← Bool.not_eq_true, State.canCreatePlate, Bool.and_eq_true, firstIdx_isSome,
    decide_eq_true_iff]
  simp only [plateEntryFree_iff]
  rfl

theorem registerPlate_turns (k : Asker) (hlength : length = f.length - f.headTrim - f.tailTrim)
    (hwidth : width = f.width - f.sideATrim - f.sideBTrim) (hmass : mass = s.massFor f.ident (f.length * f.width)) :
    Turns s (registerPlate k f s) (registerChecks s f length width mass) := by
  subst hmass
  exact turns_ite (by simp) fun _ => turns_ite ranges_test fun _ => turns_ite (usable_test hlength hwidth) fun _ =>
    turns_ite create_test fun _ => turns_ite (by simp) fun _ => turns_nil

/-- The record that Register Plate makes (R16). -/
abbrev registered (s : State) (f : RegisterF) (length width mass : Nat) : PlateRec :=
  { ident :=
      { origin := .mill, parent := none, depth := 0, heat := f.heat, grade := f.grade
        thickness := f.thickness, length := f.length, width := f.width
        headTrim := f.headTrim, tailTrim := f.tailTrim
        sideATrim := f.sideATrim, sideBTrim := f.sideBTrim, seq := s.seqCounter }
    st :=
      { disposition := .stock
        location := .slot f.slot (s.slot f.slot).stack.length
        panels := some [⟨0, 0, length, width⟩]
        area := some (f.length * f.width)
        held := false, massDoubt := false, doubtful := false }
    job := none, leg := none
    mass := some mass }

/-- A created plate record: in the lowest entry that R3 gives, its three images queued. -/
theorem createPlate_lowest {ident : PlateId} {st : PlateSt} {i : Nat} {e : Entry PlateRec}
    (hcount : s.seqCounter < 4294967296) (he : s.plates.get? i = some e) (hfree : plateEntryFree e = true)
    (hlow : ∀ j < i, ∀ d, s.plates.get? j = some d → plateEntryFree d = false) :
    s.createPlate ident st mass = some
      (({ s with
          plates := s.plates.set i ⟨e.newGen, some ⟨{ ident with seq := s.seqCounter }, st, none, none, some mass⟩⟩
          seqCounter := s.seqCounter + 1 } : State).enqueueAll [.genWord i, .identity i, .state i], ⟨i, e.newGen⟩) := by
  have hcount' : s.seqCounter < Config.counterEnd := hcount
  rw [State.createPlate, if_pos hcount', create_lowest _ he hfree hlow]

theorem newGen_eq (e : Entry PlateRec) : e.newGen = if e.record = none then e.gen else (e.gen + 1) % 64 := by
  unfold Entry.newGen
  rcases e.record with _ | r <;> rfl

/-- What Register Plate leaves: the record, and the plate on top of its slot's stack. -/
abbrev RegisteredAt (f : RegisterF) (length width mass i g : Nat) (s t : State) : Prop :=
  t.plates.get? i = some ⟨g, some (registered s f length width mass)⟩
    ∧ (∀ j, j ≠ i → t.plates.get? j = s.plates.get? j)
    ∧ t.seqCounter = s.seqCounter + 1
    ∧ t.slot f.slot = { s.slot f.slot with stack := (s.slot f.slot).stack ++ [⟨i, g⟩] }
    ∧ (∀ k, k ≠ f.slot → t.slot k = s.slot k)
    ∧ t.queue = joining s.queue [.genWord i, .identity i, .state i]

theorem registerPlate_taken (k : Asker) {i : Nat} {e : Entry PlateRec}
    (hlength : length = f.length - f.headTrim - f.tailTrim) (hwidth : width = f.width - f.sideATrim - f.sideBTrim)
    (hmass : mass = s.massFor f.ident (f.length * f.width)) (hchecks : AllHold (registerChecks s f length width mass))
    (he : s.plates.get? i = some e) (hfree : ∀ r, e.record = some r → r.st.disposition ≠ .stock)
    (hlow : ∀ j < i, ∀ d, s.plates.get? j = some d → ∃ r, d.record = some r ∧ r.st.disposition = .stock) :
    ∃ u, registerPlate k f s = .waits u [.genWord i, .identity i, .state i] .done
          [.handle ⟨i, e.newGen⟩, .num 1 (s.slot f.slot).stack.length]
      ∧ RegisteredAt f length width mass i e.newGen s u
      ∧ OnlyChanges [.plates, .seqCounter, .slots, .queue] s u := by
  obtain ⟨hpfw, hranges, husable, hcreate, hroom, -⟩ := hchecks
  obtain ⟨-, -, -, -, -, -, -, -, -, -, -, -, -, -, -, -, hslot⟩ := id hranges
  have hi : i < 1024 := by
    by_contra hn
    rw [s.plates.get?_eq_none.2 (by omega)] at he
    cases he
  have hcreated := createPlate_lowest (ident := f.ident) (st := f.ident.millState) (mass := mass) hcreate.2 he
    ((plateEntryFree_iff e).2 hfree) fun j hj d hd => by
      obtain ⟨r, hr, hstock⟩ := hlow j hj d hd
      simp [plateEntryFree, hr, hstock]
  have hframe := createPlate_frame hcreated
  have hfind := (Pool.find_eq_some (t := s.plates.set i ⟨e.newGen, some
    ⟨{ f.ident with seq := s.seqCounter }, f.ident.millState, none, none, some mass⟩⟩) (h := ⟨i, e.newGen⟩)).2
      (Table.get?_set_self _ _ hi)
  generalize hm : ({ s with
      plates := s.plates.set i ⟨e.newGen, some ⟨{ f.ident with seq := s.seqCounter }, f.ident.millState, none, none,
        some mass⟩⟩
      seqCounter := s.seqCounter + 1 } : State).enqueueAll [.genWord i, .identity i, .state i] = m at hcreated hframe
  have hplates : m.plates = s.plates.set i ⟨e.newGen, some
      ⟨{ f.ident with seq := s.seqCounter }, f.ident.millState, none, none, some mass⟩⟩ := by
    rw [← hm, enqueueAll_frame _ .plates (by decide)]
  have hslots : m.slots = s.slots := hframe .slots (by decide)
  have hjoined := joinPlace_joined (s := m) (h := ⟨i, e.newGen⟩) (p := .slot f.slot) hslot
  have hlanding : (m.slot f.slot).stack.length = (s.slot f.slot).stack.length := by rw [State.slot, hslots]; rfl
  refine ⟨m.joinPlace ⟨i, e.newGen⟩ (.slot f.slot), ?_, ⟨?_, fun j hj => ?_, ?_, ?_, fun k hk => ?_, ?_⟩, ?_⟩
  · rw [registerPlate, if_neg (by simp [hpfw]), if_neg fun h => ranges_test.1 h hranges,
      if_neg fun h => (usable_test hlength hwidth).1 h husable]
    dsimp only
    rw [if_neg fun h => create_test.1 h hcreate, ← hmass, if_neg (by simp [hroom]), hcreated]
  · have := hjoined.plate _ (by rw [State.plate?, hplates]; exact hfind)
    rw [State.plate?, Pool.find_eq_some] at this
    rw [this]
    simp only [landing, hlanding, hlength, hwidth]
    rfl
  · refine (modify_get?_ne _ hj).trans ?_
    change m.plates.get? j = _
    rw [hplates, Table.get?_set_ne _ _ hj.symm]
  · have : m.seqCounter = s.seqCounter + 1 := by rw [← hm, enqueueAll_frame _ .seqCounter (by decide)]
    exact this
  · rw [hjoined.slot _ rfl, State.slot, hslots]
    rfl
  · rw [hjoined.slots k fun e => hk (Place.slot.inj e).symm, State.slot, hslots]
    rfl
  · rw [joinPlace_queue, ← hm, enqueueAll_queue]
  · exact (hframe.mono (by decide)).trans
      (((modifySlot_frame _ _).mono (by decide)).trans ((putLocation_frame _ _).mono (by decide)))

/-- Settles O12: by the checks in their order, and the record created in the lowest entry. -/
theorem registerPlateCreates : Obligations.RegisterPlateCreates := by
  unfold Obligations.RegisterPlateCreates
  intro s a st tag f length width mass hasks hlength hwidth hmass
  have hmass' : mass = (s.heard a).massFor f.ident (f.length * f.width) := by
    rw [read_of_line (fun s => s.massFor f.ident (f.length * f.width)) heard_line, hmass]
    rfl
  refine ⟨refusedInOrder_of_heard (fun s => registerChecks s f length width mass) rfl hasks
    (registerPlate_turns _ hlength hwidth hmass'), fun i e hchecks he hfree hlow => ?_⟩
  have hplates : (s.heard a).plates = s.plates := by simp
  obtain ⟨u, hbody, htaken, hframe⟩ := registerPlate_taken (s := s.heard a) (askerOf a st tag) hlength hwidth hmass'
    (allHold_heard (fun s => registerChecks s f length width mass) hchecks) (hplates ▸ he) hfree (hplates ▸ hlow)
  obtain ⟨t, hexec, hwaits, hall, hline⟩ := request_waits hasks (by simp) hbody hframe (by decide)
  obtain ⟨hrecord, hothers, hcount, hslot, hslots, hqueue⟩ :=
    taken_of_line (RegisteredAt f length width mass i e.newGen) htaken hline
  rw [heard_slot] at hwaits
  exact ⟨t, e.newGen, hexec, newGen_eq e, hrecord, hothers, hcount, hslot, hslots, hqueue, hwaits, hall⟩

end Sys2Proof.Proofs.Register
end

section
/-! PROOFS. Parts and marks (sections 6.2 to 6.5): the next part to mark, confirmations, marks by hand, scrapping. -/

namespace Sys2Proof.Proofs.Marks

open Sys2Proof Sys2Proof.Machine
open Sys2Proof.Proofs.Pallets
open Sys2Proof.Proofs.Requests Sys2Proof.Proofs.Blocks

variable {s t : State} {k : Asker} {h g : Handle} {j : Job} {p : Part}

/-! ## Windows and parts -/

theorem window_putWindow_self {t : Nat} (ht : t ≤ 7) (w : Window) : (s.putWindow t w).window t = w :=
  Table.getD_set_self _ _ _ (by omega)

theorem window_putWindow_ne {t i : Nat} (hi : i ≠ t) (w : Window) : (s.putWindow t w).window i = s.window i :=
  Table.getD_set_ne _ _ _ hi.symm

/-- A part's record changed, and no other. -/
theorem part?_modifyPart_reads {f : Part → Part} (hp : s.part? h = some p) :
    (s.modifyPart h f).part? h = some (f p) ∧ ∀ g, g ≠ h → (s.modifyPart h f).part? g = s.part? g :=
  ⟨by rw [part?_modifyPart, if_pos rfl, hp]; rfl, fun g hg => by rw [part?_modifyPart, if_neg hg.symm]⟩

/-- The lowest nest index whose part is UNCUT. -/
theorem resumeOf_eq (l : List Handle) : s.resumeOf l = resumePoint s l := by
  unfold State.resumeOf resumePoint
  refine congrArg (List.findIdx · l) (funext fun h => ?_)
  rcases s.part? h with _ | p <;> rfl

theorem resumePoint_congr (l : List Handle)
    (h : ∀ g, (t.part? g).any (fun p => p.cut == .uncut) = (s.part? g).any fun p => p.cut == .uncut) :
    resumePoint t l = resumePoint s l :=
  congrArg (List.findIdx · l) (funext h)

/-! ## Next Mark (R105, R106) -/

/-- The job whose parts a marker marks: ACTIVE, on a bed of its table. -/
theorem activeJob_some {u : Nat} : s.activeJob u = some (h, j) →
    ∃ b, b ≤ 1 ∧ s.bedJob u b = some (h, j) ∧ j.role = some .active := by
  unfold State.activeJob
  intro he
  have second : (match s.bedJob u 1 with
        | some (h', j') => if j'.role = some .active then some (h', j') else none
        | none => none) = some (h, j) → ∃ b, b ≤ 1 ∧ s.bedJob u b = some (h, j) ∧ j.role = some .active := by
    intro h1
    split at h1
    next x y hb =>
      split at h1
      next hrole => cases h1; exact ⟨1, Nat.le_refl 1, hb, hrole⟩
      · cases h1
    · cases h1
  split at he
  next x y hb =>
    split at he
    next hrole => cases he; exact ⟨0, Nat.zero_le 1, hb, hrole⟩
    · exact second he
  · exact second he

/-- A table with an ACTIVE job on a bed has one. -/
theorem activeJob_isSome {u b : Nat} (hb : b ≤ 1) (hj : s.bedJob u b = some (h, j)) (hrole : j.role = some .active) :
    ∃ e, s.activeJob u = some e := by
  unfold State.activeJob
  have hb : b = 0 ∨ b = 1 := by omega
  rcases hb with rfl | rfl
  · rw [hj]
    exact ⟨_, if_pos hrole⟩
  · rw [hj]
    split
    next x y _ =>
      split
      · exact ⟨_, rfl⟩
      · exact ⟨_, if_pos hrole⟩
    · exact ⟨_, if_pos hrole⟩

/-- A part to be marked next. -/
abbrev MarksNext (p : Part) : Prop := p.mark = .planned ∧ p.cut = .uncut

theorem nextPart_none {l : List Handle} : s.nextPart l = none ↔ ∀ g ∈ l, ∀ p, s.part? g = some p → ¬MarksNext p := by
  unfold State.nextPart
  rw [List.findSome?_eq_none_iff]
  refine forall_congr' fun g => imp_congr_right fun _ => ?_
  rcases s.part? g with _ | p
  · simp
  · simp

theorem nextPart_some {l : List Handle} {i : Nat} (hi : l[i]? = some h) (hp : s.part? h = some p) (hn : MarksNext p)
    (hlow : ∀ k g q, k < i → l[k]? = some g → s.part? g = some q → ¬MarksNext q) : s.nextPart l = some (h, p) := by
  induction l generalizing i with
  | nil => cases hi
  | cons g l ih =>
    rw [State.nextPart, List.findSome?_cons]
    match i, hi with
    | 0, hi =>
      obtain rfl : g = h := by simpa using hi
      simp [hp, hn]
    | i + 1, hi =>
      have hrest : s.nextPart l = some (h, p) :=
        ih hi fun k x q hk hx => hlow (k + 1) x q (Nat.succ_lt_succ hk) hx
      rcases hq : s.part? g with _ | q
      · exact hrest
      · simp only [if_neg (hlow 0 g q (Nat.succ_pos i) rfl hq)]
        exact hrest

/-- The part of a job that is marked next joins the window (R106). -/
abbrev MarkIssued (u : Nat) (h : Handle) (p : Part) (s t : State) : Prop :=
  t.part? h = some { p with mark := .issued }
    ∧ (∀ g, g ≠ h → t.part? g = s.part? g)
    ∧ t.window u = { s.window u with parts := (s.window u).parts ++ [h] }
    ∧ ∀ i, i ≠ u → t.window i = s.window i

/-- A job that a marker can mark. -/
abbrev Markable (v : JobState) : Prop := v = .loaded ∨ v = .burning ∨ v = .paused

/-- Next Mark with a markable ACTIVE job, by its next part. -/
theorem nextMark_active (ha : s.activeJob k.unitNum = some (g, j)) (hj : Markable j.state) :
    nextMark k () s = match s.nextPart j.parts with
      | none => .refuse s .noResult
      | some (h, p) =>
        if 4 ≤ (s.window k.unitNum).parts.length then .refuse s .full
        else
          .now ((s.modifyPart h fun p => { p with mark := .issued }).putWindow k.unitNum
                { s.window k.unitNum with parts := (s.window k.unitNum).parts ++ [h] })
            .done
            [.handle h, .num 1 p.index, .text p.hull, .text p.block, .num 4 p.number, .text p.heat,
              .num 1 p.grade, .text (s.grade p.grade).label, .num 2 p.thickness] := by
  simp only [nextMark, ha, if_pos hj] <;> rfl

theorem nextMark_inactive (h : ∀ g j, s.activeJob k.unitNum = some (g, j) → ¬Markable j.state) :
    nextMark k () s = .now s .noResult [] := by
  unfold nextMark
  rcases ha : s.activeJob k.unitNum with _ | ⟨g, j⟩
  · rfl
  · exact if_neg (h g j ha)

/-- Settles O27: by the ACTIVE job of the table, its next part, and the room in the window. -/
theorem nextMarkIssues : Obligations.NextMarkIssues := by
  unfold Obligations.NextMarkIssues
  intro s a st tag u hasks hu
  have hunit : (askerOf a st tag).unitNum = u := hu.symm
  have hactive : (s.heard a).activeJob u = s.activeJob u := read_of_line (fun s => s.activeJob u) heard_line
  refine ⟨fun hnone => request_unchanged hasks (nextMark_inactive fun g j hj hstate => ?_), fun j hj honly => ?_⟩
  · rw [hunit, hactive] at hj
    obtain ⟨b, hb, hbed, hrole⟩ := activeJob_some hj
    exact hnone j ⟨g, b, hbed, hb, hrole, hstate⟩
  obtain ⟨h0, b, hbed, hb, hrole, hstate⟩ := hj
  obtain ⟨⟨g, i⟩, hi⟩ := activeJob_isSome hb hbed hrole
  obtain rfl : i = j := by
    obtain ⟨c, hc, hbed', hrole'⟩ := activeJob_some hi
    exact honly c g i hc hbed' hrole'
  have hsteps := nextMark_active (k := askerOf a st tag) (by rw [hunit, hactive]; exact hi) hstate
  have hnext : (s.heard a).nextPart i.parts = s.nextPart i.parts :=
    read_of_line (fun s => s.nextPart i.parts) heard_line
  rw [hunit, hnext, heard_window] at hsteps
  refine ⟨fun hnone => request_unchanged hasks ?_, fun n h p hn hp hmark hlow => ?_⟩
  · rw [hsteps, nextPart_none.2 hnone]
    rfl
  rw [nextPart_some hn hp hmark fun c x q hc hx hq => hlow c x q hc hx hq] at hsteps
  dsimp only at hsteps
  refine ⟨fun hfull => request_unchanged hasks ?_, fun hroom hle => ?_⟩
  · rw [hsteps, if_pos hfull]
    rfl
  · rw [if_neg (Nat.not_le.2 hroom)] at hsteps
    obtain ⟨t, hexec, himm, hframe, hline⟩ := request_answers (own := [.parts, .windows]) (tag := tag) hasks hsteps
      (((modifyPart_frame _ _).mono (by decide)).trans ((putWindow_frame _ _).mono (by decide))) (by decide)
    rw [read_of_line (fun s => s.grade p.grade) heard_line] at himm
    obtain ⟨hpart, hparts⟩ := part?_modifyPart_reads (s := s.heard a) (h := h) (p := p)
      (f := fun p => { p with mark := .issued }) (by simpa using hp)
    have hissued : MarkIssued u h p (s.heard a)
      (((s.heard a).modifyPart h fun p => { p with mark := .issued }).putWindow
        u { s.window u with parts := (s.window u).parts ++ [h] }) :=
      ⟨hpart, hparts, (window_putWindow_self hle _).trans (by rw [heard_window]), fun i hi => window_putWindow_ne hi _⟩
    obtain ⟨h1, h2, h3, h4⟩ := taken_of_line (MarkIssued u h p) hissued hline
    exact ⟨t, hexec, h1, h2, h3, h4, himm, hframe⟩

/-! ## Mark Made and Mark Failed (R107 to R109) -/

/-- The mark state that an outcome gives. -/
abbrev outcomeMark (o : MarkOutcome) : MarkState := if o = .made then .marked else .failed

/-- The head of a window is confirmed. -/
abbrev Confirmed (u : Nat) (o : MarkOutcome) (h : Handle) (p : Part) (rest : List Handle) (s t : State) : Prop :=
  t.part? h = some { p with mark := outcomeMark o }
    ∧ (∀ g, g ≠ h → t.part? g = s.part? g)
    ∧ t.window u = ⟨rest, some ⟨h, o⟩⟩
    ∧ (∀ i, i ≠ u → t.window i = s.window i)
    ∧ t.flags = if o = .failed ∧ p.cut = .cut then s.flags ||| Alarm.unmarkedCut.bit else s.flags

/-- The state in which the head of a window is confirmed. -/
def confirmed (s : State) (u : Nat) (o : MarkOutcome) (h : Handle) (p : Part) (rest : List Handle) : State :=
  ((s.modifyPart h fun p => { p with mark := outcomeMark o }).putWindow u ⟨rest, some ⟨h, o⟩⟩).raiseIf
    (o == .failed && p.cut == .cut) .unmarkedCut

theorem confirmed_reads {u : Nat} {o : MarkOutcome} {rest : List Handle} (hu : u ≤ 7) (hp : s.part? h = some p) :
    Confirmed u o h p rest s (confirmed s u o h p rest) := by
  obtain ⟨hpart, hparts⟩ := part?_modifyPart_reads (f := fun p => { p with mark := outcomeMark o }) hp
  unfold confirmed
  refine ⟨?_, fun g hg => ?_, ?_, fun i hi => ?_, ?_⟩
  · simpa [State.part?] using hpart
  · simpa [State.part?] using hparts g hg
  · simpa [State.window] using window_putWindow_self hu _
  · rw [State.window, raiseIf_windows]
    exact window_putWindow_ne hi _
  · unfold State.raiseIf
    simp only [Bool.and_eq_true, beq_iff_eq]
    split <;> rfl

theorem confirmed_frame (u : Nat) (o : MarkOutcome) (rest : List Handle) :
    OnlyChanges [.parts, .windows, .flags] s (confirmed s u o h p rest) :=
  (((modifyPart_frame _ _).mono (by decide)).trans ((putWindow_frame _ _).mono (by decide))).trans
    ((raiseIf_frame _ _).mono (by decide))

theorem confirmMark_unknown {o : MarkOutcome} (hp : s.part? h = none) :
    confirmMark o k h s = .now s .noSuch [] := by
  unfold confirmMark
  rw [hp]
  rfl

/-- A confirmation by a marker, by its window. -/
theorem confirmMark_known {o : MarkOutcome} (hp : s.part? h = some p) :
    confirmMark o k h s =
      if (s.window k.unitNum).parts.head? = some h then
        .now (confirmed s k.unitNum o h p (s.window k.unitNum).parts.tail) .done
          [.num 1 (s.window k.unitNum).parts.tail.length]
      else if (s.window k.unitNum).last = some ⟨h, o⟩ then .now s .done []
      else .now s .wrongState [] := by
  unfold confirmMark
  rw [hp]
  cases o <;> rfl

/-- Mark Made and Mark Failed are one request with the outcome that the head reports. -/
theorem markReport_exec {o : MarkOutcome} {c : Instr} {row : Req} {tag : Byte}
    (hc : (c = .markMade tag (.fields h) ∧ row = reqMarkMade ∧ o = .made)
      ∨ (c = .markFailed tag (.fields h) ∧ row = reqMarkFailed ∧ o = .failed)) :
    exec c s = request row tag (.fields h) s (confirmMark o) := by
  obtain ⟨rfl, rfl, rfl⟩ | ⟨rfl, rfl, rfl⟩ := hc <;> rfl

/-! ## Confirm Manual Mark (R111) -/

theorem confirmManualMark_unknown (hp : s.part? h = none) : confirmManualMark k h s = .now s .noSuch [] := by
  unfold confirmManualMark
  rw [hp]
  rfl

/-- Confirm Manual Mark, by the part's cut state and its mark. -/
theorem confirmManualMark_known (hp : s.part? h = some p) :
    confirmManualMark k h s =
      if p.cut = .scrapped then .now s .wrongState []
      else
        match p.mark with
        | .planned => .now (s.modifyPart h fun p => { p with mark := .marked, manual := true }) .done []
        | .failed => .now (s.modifyPart h fun p => { p with mark := .marked, manual := true }) .done []
        | .marked => .now s .done []
        | .issued => .now s .wrongState [] := by
  unfold confirmManualMark
  rw [hp] <;> rfl

/-- A part is marked by hand. -/
abbrev MarkedByHand (h : Handle) (p : Part) (s t : State) : Prop :=
  t.part? h = some { p with mark := .marked, manual := true } ∧ ∀ g, g ≠ h → t.part? g = s.part? g

/-- Settles O28: a head's report by the window of its table, a mark by hand by the part's states. -/
theorem marksConfirmed : Obligations.MarksConfirmed := by
  unfold Obligations.MarksConfirmed
  refine ⟨fun s a st tag h o c row u hc hasks hu hle => ?_, fun s a st tag h hasks => ?_⟩
  · dsimp only
    simp only [markReport_exec hc]
    have hunit : (askerOf a st tag).unitNum = u := hu.symm
    refine ⟨fun hp => request_unchanged hasks (confirmMark_unknown (by simpa using hp)), fun p hp => ?_⟩
    have hsteps := confirmMark_known (k := askerOf a st tag) (o := o) (s := s.heard a) (by simpa using hp)
    rw [hunit, heard_window] at hsteps
    refine ⟨fun rest hrest => ?_, fun hhead hlast => ?_, fun hhead hlast => ?_⟩
    · rw [hrest, if_pos List.head?_cons, List.tail_cons] at hsteps
      obtain ⟨t, hexec, himm, hframe, hline⟩ := request_answers (own := [.parts, .windows, .flags]) (tag := tag)
        hasks hsteps (confirmed_frame u o rest) (by decide)
      obtain ⟨h1, h2, h3, h4, h5⟩ := taken_of_line (Confirmed u o h p rest)
        (confirmed_reads hle (by simpa using hp)) hline
      exact ⟨t, hexec, h1, h2, h3, h4, h5, himm, hframe⟩
    · rw [if_neg hhead, if_pos hlast] at hsteps
      exact request_unchanged hasks hsteps
    · rw [if_neg hhead, if_neg hlast] at hsteps
      exact request_unchanged hasks hsteps
  · refine ⟨fun hp => request_unchanged hasks (confirmManualMark_unknown (by simpa using hp)), fun p hp => ?_⟩
    have hp' : (s.heard a).part? h = some p := by simpa using hp
    have hsteps := confirmManualMark_known (k := askerOf a st tag) hp'
    refine ⟨fun hcut => ?_, fun hcut hmark => ?_, fun hcut hmark => ?_, fun hcut hmark => ?_⟩
    · rw [if_pos hcut] at hsteps
      exact request_unchanged hasks hsteps
    · rw [if_neg hcut, hmark] at hsteps
      exact request_unchanged hasks hsteps
    · rw [if_neg hcut, hmark] at hsteps
      exact request_unchanged hasks hsteps
    · have htaken : confirmManualMark (askerOf a st tag) h (s.heard a) =
          .now ((s.heard a).modifyPart h fun p => { p with mark := .marked, manual := true }) .done [] := by
        rw [hsteps, if_neg hcut]
        rcases hmark with hmark | hmark <;> rw [hmark]
      obtain ⟨t, hexec, himm, hframe, hline⟩ := request_answers (own := [.parts]) (tag := tag) hasks htaken
        (modifyPart_frame _ _) (by decide)
      obtain ⟨h1, h2⟩ := taken_of_line (MarkedByHand h p) (part?_modifyPart_reads hp') hline
      exact ⟨t, hexec, h1, h2, himm, hframe⟩

/-! ## Scrap Part (R112, R113) -/

/-- Whether the job of a part is CLEARED, or its handle names none. -/
abbrev jobEnded (s : State) (p : Part) : Bool :=
  match s.job? p.job with
  | some j => j.state == .cleared
  | none => true

/-- A part is scrapped, and retires where its job is gone. -/
abbrev Scrapped (h : Handle) (p : Part) (s t : State) : Prop :=
  (t.part? h = if jobEnded s p then none else some { p with cut := .scrapped, placement := .nowhere })
    ∧ (∀ g, g ≠ h → t.part? g = s.part? g)
    ∧ (∀ n, n ≤ 15 → t.pallet n = if p.placement = .pallet n then (s.pallet n).erase h else s.pallet n)
    ∧ (∀ j, s.job? p.job = some j → t.job? p.job = some { j with resume := resumePoint t j.parts })
    ∧ ∀ g, g ≠ p.job → t.job? g = s.job? g

theorem part?_offPallet (pl : Placement) : (s.offPallet h pl).part? g = s.part? g := by
  unfold State.offPallet
  split <;> rfl

theorem pallet_offPallet (pl : Placement) {n : Nat} (hn : n ≤ 15) :
    (s.offPallet h pl).pallet n = if pl = .pallet n then (s.pallet n).erase h else s.pallet n := by
  unfold State.offPallet
  split
  next m =>
    by_cases hm : m = n
    · subst hm
      rw [if_pos rfl, pallet_putPallet_self _ hn]
    · rw [if_neg (by simpa using hm), pallet_putPallet_ne _ (Ne.symm hm)]
  next hno => rw [if_neg (hno n)]

/-- The part off its pallet and SCRAPPED, before its job's resume point is recomputed. -/
abbrev cutOff (s : State) (h : Handle) (p : Part) : State :=
  (s.offPallet h p.placement).modifyPart h fun p => { p with cut := .scrapped, placement := .nowhere }

theorem cutOff_part? (hp : s.part? h = some p) :
    (cutOff s h p).part? h = some { p with cut := .scrapped, placement := .nowhere }
      ∧ ∀ g, g ≠ h → (cutOff s h p).part? g = s.part? g := by
  obtain ⟨hself, hothers⟩ := part?_modifyPart_reads (s := s.offPallet h p.placement)
    (f := fun p => { p with cut := .scrapped, placement := .nowhere }) ((part?_offPallet _).trans hp)
  exact ⟨hself, fun g hg => (hothers g hg).trans (part?_offPallet _)⟩

theorem cutOff_job? : (cutOff s h p).job? g = s.job? g := by
  unfold cutOff State.offPallet
  split <;> rfl

theorem jobGone_eq (job : Handle) : s.jobGone job = match s.job? job with
    | some j => j.state == .cleared
    | none => true := by
  unfold State.jobGone
  rcases s.job? job with _ | j <;> rfl

/-- The SCRAPPED part, its job's resume point recomputed. -/
abbrev scrappedState (s : State) (h : Handle) (p : Part) : State := (cutOff s h p).recomputeResume p.job

theorem scrappedState_job? : (scrappedState s h p).job? g =
    if p.job = g then (s.job? g).map fun j => { j with resume := resumePoint (cutOff s h p) j.parts }
      else s.job? g := by
  unfold scrappedState State.recomputeResume
  rw [modifyJob_job?, cutOff_job?]
  simp only [resumeOf_eq]

theorem scrappedState_gone : (scrappedState s h p).jobGone p.job = jobEnded s p := by
  rw [jobGone_eq, scrappedState_job?, if_pos rfl, jobEnded]
  rcases s.job? p.job with _ | j <;> rfl

/-- The part's own record is not UNCUT, retired or not: the resume points are the same. -/
theorem resumePoint_scrapped (hp : s.part? h = some p)
    (hself : t.part? h = if jobEnded s p then none else some { p with cut := .scrapped, placement := .nowhere })
    (hothers : ∀ g, g ≠ h → t.part? g = s.part? g) (l : List Handle) :
    resumePoint (cutOff s h p) l = resumePoint t l := by
  obtain ⟨hcut, hrest⟩ := cutOff_part? hp
  refine resumePoint_congr l fun g => ?_
  by_cases hg : g = h
  · subst hg
    rw [hcut, hself]
    split <;> rfl
  · rw [hrest g hg, hothers g hg]

theorem scrapPart_reads (hp : s.part? h = some p) : Scrapped h p s (s.scrapPart h p) := by
  obtain ⟨hcut, hrest⟩ := cutOff_part? hp
  have hdef : s.scrapPart h p = if jobEnded s p then
      { scrappedState s h p with parts := (scrappedState s h p).parts.release h } else scrappedState s h p := by
    unfold State.scrapPart
    dsimp only
    rw [scrappedState_gone]
  have hself : (s.scrapPart h p).part? h =
      if jobEnded s p then none else some { p with cut := .scrapped, placement := .nowhere } := by
    rw [hdef]
    split
    · exact Pool.release_self _ _
    · exact hcut
  have hothers : ∀ g, g ≠ h → (s.scrapPart h p).part? g = s.part? g := by
    intro g hg
    rw [hdef]
    split
    · exact (find_release _ h g).trans ((if_neg hg).trans (hrest g hg))
    · exact hrest g hg
  have hjob : ∀ g, (s.scrapPart h p).job? g = (scrappedState s h p).job? g := by
    intro g
    rw [hdef]
    split <;> rfl
  refine ⟨hself, hothers, fun n hn => ?_, fun j hj => ?_, fun g hg => ?_⟩
  · rw [hdef]
    split <;> exact pallet_offPallet p.placement hn
  · rw [hjob, scrappedState_job?, if_pos rfl, hj, Option.map_some, resumePoint_scrapped hp hself hothers]
  · rw [hjob, scrappedState_job?, if_neg hg.symm]

theorem scrapPart_unknown (hp : s.part? h = none) : Machine.scrapPart k h s = .now s .noSuch [] := by
  unfold Machine.scrapPart
  rw [hp]
  rfl

theorem scrapPart_known (hp : s.part? h = some p) :
    Machine.scrapPart k h s = if p.cut = .scrapped then .now s .done [] else .now (s.scrapPart h p) .done [] := by
  unfold Machine.scrapPart
  rw [hp]

/-- Settles O29: by the part's record and its cut state. -/
theorem scrapPartScraps : Obligations.ScrapPartScraps := by
  unfold Obligations.ScrapPartScraps
  intro s a st tag h hasks
  refine ⟨fun hp => request_unchanged hasks (scrapPart_unknown (by simpa using hp)), fun p hp => ?_⟩
  have hp' : (s.heard a).part? h = some p := by simpa using hp
  have hsteps := scrapPart_known (k := askerOf a st tag) hp'
  refine ⟨fun hcut => request_unchanged hasks (hsteps.trans (if_pos hcut)), fun hcut => ?_⟩
  obtain ⟨t, hexec, himm, hframe, hline⟩ := request_answers (own := [.pallets, .parts, .jobs]) (tag := tag) hasks
    (hsteps.trans (if_neg hcut)) (scrapPart_frame h p) (by decide)
  obtain ⟨h1, h2, h3, h4, h5⟩ := taken_of_line (Scrapped h p) (scrapPart_reads hp') hline
  exact ⟨t, hexec, fun gone hgone => hgone ▸ h1, h2, h3, h4, h5, himm, hframe.mono (by decide)⟩

end Sys2Proof.Proofs.Marks
end

section
/-! PROOFS. The tables' smaller requests (sections 5.3, 5.4, 5.7): staging parts, the torch's reports, clearing a
bed. -/

namespace Sys2Proof.Proofs.Burn

open Sys2Proof Sys2Proof.Machine
open Sys2Proof.Proofs.Pallets
open Sys2Proof.Proofs.Requests Sys2Proof.Proofs.Blocks Sys2Proof.Proofs.Power Sys2Proof.Proofs.Marks
open Sys2Proof.Proofs.Places

variable {s t : State} {k : Asker} {h g : Handle} {j : Job} {p : Part} {a : Nat} {st : Station} {tag : Byte}

/-! ## Stage Parts (R76) -/

/-- The fields of Stage Parts in their ranges. -/
abbrev StageRanges (f : StageF) : Prop :=
  f.afresh ≤ 1 ∧ 1 ≤ f.parts.length ∧ f.parts.length ≤ 6
    ∧ ∀ d ∈ f.parts, textIn 1 4 d.hull = true ∧ textIn 1 5 d.block = true
      ∧ 1 ≤ d.number ∧ d.number ≤ 99999 ∧ 1 ≤ d.area ∧ d.area ≤ 120000000

/-- The draft that Stage Parts would leave. -/
abbrev stagedDraft (s : State) (a : Nat) (f : StageF) : List DraftEntry :=
  (if f.afresh = 0 then [] else s.draft a) ++ f.parts

theorem inRange_iff (lo hi v : Nat) : inRange lo hi v = true ↔ lo ≤ v ∧ v ≤ hi := by simp [inRange]

theorem stageTest_iff (f : StageF) : (inRange 1 6 f.parts.length && f.parts.all DraftEntry.ok) = true ↔
    1 ≤ f.parts.length ∧ f.parts.length ≤ 6
      ∧ ∀ d ∈ f.parts, textIn 1 4 d.hull = true ∧ textIn 1 5 d.block = true
        ∧ 1 ≤ d.number ∧ d.number ≤ 99999 ∧ 1 ≤ d.area ∧ d.area ≤ 120000000 := by
  simp only [Bool.and_eq_true, inRange_iff, List.all_eq_true, DraftEntry.ok, and_assoc]

/-- Stage Parts, by its ranges and the room in the draft. -/
theorem stageParts_eq (f : StageF) (hr : StageRanges f) :
    stageParts k f s = if 64 < (stagedDraft s k.address f).length then .now s .full []
      else .now (s.putDraft k.address (stagedDraft s k.address f)) .done
        [.num 1 (stagedDraft s k.address f).length] := by
  obtain ⟨hflag, hrest⟩ := hr
  have htest := (stageTest_iff f).2 hrest
  have hflag : f.afresh = 0 ∨ f.afresh = 1 := by omega
  unfold stageParts stagedDraft
  rcases hflag with h0 | h1
  · simp only [h0, flagOfNum, htest]
    rfl
  · simp only [h1, flagOfNum, htest]
    rfl

theorem stageParts_badRequest (f : StageF) (hr : ¬StageRanges f) : stageParts k f s = .now s .badRequest [] := by
  unfold stageParts
  by_cases hflag : f.afresh ≤ 1
  · have htest : (inRange 1 6 f.parts.length && f.parts.all DraftEntry.ok) = false :=
      Bool.eq_false_iff.2 fun ht => hr ⟨hflag, (stageTest_iff f).1 ht⟩
    rw [htest]
    split <;> rfl
  · have hnone : flagOfNum f.afresh = none := by
      match f.afresh, hflag with
      | n + 2, _ => rfl
    rw [hnone]
    rfl

/-- A station's draft is replaced, and no other. -/
abbrev DraftIs (a : Nat) (l : List DraftEntry) (s t : State) : Prop :=
  t.draft a = l ∧ ∀ i, i ≠ a - 1 → t.drafts.get? i = s.drafts.get? i

theorem putDraft_reads (ha : 1 ≤ a ∧ a ≤ 32) (l : List DraftEntry) : DraftIs a l s (s.putDraft a l) :=
  ⟨Table.getD_set_self _ _ _ (by omega), fun _ hi => Table.get?_set_ne _ _ hi.symm⟩

/-- Settles O21: by the ranges and the room in the draft. -/
theorem stagePartsAppends : Obligations.StagePartsAppends := by
  unfold Obligations.StagePartsAppends
  intro s a st tag f hasks
  have hdraft : (s.heard a).draft a = s.draft a := read_of_line (fun s => s.draft a) heard_line
  have hsteps (hr : StageRanges f) := stageParts_eq (k := askerOf a st tag) (s := s.heard a) f hr
  simp only [stagedDraft, hdraft] at hsteps
  refine ⟨fun hr hroom => ?_, fun hr hfull => request_unchanged hasks ((hsteps hr).trans (if_pos hfull)),
    fun hr => request_unchanged hasks (stageParts_badRequest f hr)⟩
  obtain ⟨t, hexec, himm, hframe, hline⟩ := request_answers (own := [.drafts]) (tag := tag) hasks
    ((hsteps hr).trans (if_neg (Nat.not_lt.2 hroom))) (putDraft_frame _ _) (by decide)
  obtain ⟨hself, hothers⟩ := taken_of_line (DraftIs a (stagedDraft s a f))
    (putDraft_reads (station?_pos hasks.station) _)
    hline
  exact ⟨t, hexec, hself, hothers, himm, hframe⟩

/-! ## The torch (R81 to R85) -/

/-- A job's record changed, and no other. -/
theorem job?_modifyJob_reads {f : Job → Job} (hj : s.job? h = some j) :
    (s.modifyJob h f).job? h = some (f j) ∧ ∀ g, g ≠ h → (s.modifyJob h f).job? g = s.job? g :=
  ⟨by rw [modifyJob_job?, if_pos rfl, hj]; rfl, fun g hg => by rw [modifyJob_job?, if_neg hg.symm]⟩

/-- A job is left as named, and no other is changed. -/
abbrev JobIs (h : Handle) (j : Job) (s t : State) : Prop :=
  t.job? h = some j ∧ ∀ g, g ≠ h → t.job? g = s.job? g

theorem startJob_eq (hj : s.tableJob k h = some j) :
    startJob k h s = if j.state = .loaded ∧ j.role = some .active ∧ s.namedByLeg j.plate = false then
      .now (s.modifyJob h fun j => { j with state := .burning, pierced := true }) .done [.num 1 j.resume]
    else .now s .wrongState [] := by
  unfold startJob
  simp only [hj, Bool.not_eq_true']
  rfl

theorem pauseJob_eq {w : Nat} (hj : s.tableJob k h = some j) :
    pauseJob k ⟨h, w⟩ s = if j.state = .burning ∨ j.state = .paused then
      match PauseCause.ofNum w with
      | none => .now s .badRequest []
      | some c =>
        if j.state = .burning then
          .now (s.modifyJob h fun j => { j with state := .paused, pauseCause := some c }) .done []
        else .now s .done []
    else .now s .wrongState [] := by
  unfold pauseJob
  simp only [hj, ← torch_iff]
  cases j.state.torch <;> rfl

theorem resumeJob_eq (hj : s.tableJob k h = some j) :
    resumeJob k h s = if j.state = .burning ∨ j.state = .paused then
      .now (s.modifyJob h fun j => { j with state := .burning }) .done [.num 1 j.resume]
    else .now s .wrongState [] := by
  unfold resumeJob
  simp only [hj, ← torch_iff]
  cases j.state.torch <;> rfl

/-- Part Cut of a job that the torch is at, whose list has a live part at the index. -/
theorem partCut_eq {i : Nat} (hj : s.tableJob k h = some j) (htorch : j.state = .burning ∨ j.state = .paused)
    (hg : j.parts[i]? = some g) (hp : s.part? g = some p) :
    partCut k ⟨h, i⟩ s = match p.cut with
      | .uncut => .now (s.cutPart g p) .done [.num 1 ((s.cutPart g p).resumeNow h)]
      | .cut => .now s .done [.num 1 j.resume]
      | .scrapped => .now s .wrongState [] := by
  unfold partCut
  simp only [hj, (torch_iff _).2 htorch, hg, hp] <;> rfl

theorem partCut_wrongState {i : Nat} (hj : s.tableJob k h = some j)
    (htorch : ¬(j.state = .burning ∨ j.state = .paused)) :
    partCut k ⟨h, i⟩ s = .now s .wrongState [] := by
  have hno : j.state.torch = false := Bool.eq_false_iff.2 fun ht => htorch ((torch_iff _).1 ht)
  unfold partCut
  simp only [hj, hno]
  rfl

theorem partCut_badRequest {i : Nat} (hj : s.tableJob k h = some j) (htorch : j.state = .burning ∨ j.state = .paused)
    (hi : j.parts.length ≤ i) : partCut k ⟨h, i⟩ s = .now s .badRequest [] := by
  unfold partCut
  simp only [hj, (torch_iff _).2 htorch, List.getElem?_eq_none hi]
  rfl

/-- A request of the torch about a job of another table, or of none. -/
theorem torch_noSuch (hj : s.tableJob k h = none) :
    startJob k h s = .now s .noSuch [] ∧ (∀ w, pauseJob k ⟨h, w⟩ s = .now s .noSuch [])
      ∧ resumeJob k h s = .now s .noSuch [] ∧ ∀ i, partCut k ⟨h, i⟩ s = .now s .noSuch [] := by
  unfold startJob pauseJob resumeJob partCut
  simp only [hj]
  exact ⟨rfl, fun _ => rfl, rfl, fun _ => rfl⟩

/-- A part is cut: its record, its job's resume point, and the alarm of an unmarked cut. -/
abbrev PartIsCut (g h : Handle) (p : Part) (j : Job) (s t : State) : Prop :=
  t.part? g = some { p with cut := .cut }
    ∧ (∀ x, x ≠ g → t.part? x = s.part? x)
    ∧ t.job? h = some { j with resume := resumePoint t j.parts }
    ∧ (∀ x, x ≠ h → t.job? x = s.job? x)
    ∧ t.flags = if p.mark = .planned ∨ p.mark = .failed then s.flags ||| Alarm.unmarkedCut.bit else s.flags

/-- A part's cut state changed, and with it its job's resume point. -/
theorem putCut_reads {v : CutState} (hp : s.part? g = some p) (hj : s.job? p.job = some j) :
    (s.putCut g v).part? g = some { p with cut := v }
      ∧ (∀ x, x ≠ g → (s.putCut g v).part? x = s.part? x)
      ∧ (s.putCut g v).job? p.job = some { j with resume := resumePoint (s.putCut g v) j.parts }
      ∧ ∀ x, x ≠ p.job → (s.putCut g v).job? x = s.job? x := by
  have hdef : s.putCut g v = (s.modifyPart g fun p => { p with cut := v }).recomputeResume p.job := by
    unfold State.putCut
    rw [hp]
  obtain ⟨hself, hothers⟩ := part?_modifyPart_reads (f := fun p => { p with cut := v }) hp
  obtain ⟨hjself, hjothers⟩ := job?_modifyJob_reads (s := s.modifyPart g fun p => { p with cut := v })
    (f := fun j => { j with resume := (s.modifyPart g fun p => { p with cut := v }).resumeOf j.parts }) hj
  rw [hdef]
  refine ⟨hself, hothers, hjself.trans ?_, hjothers⟩
  rw [resumeOf_eq]
  rfl

theorem cutPart_reads (hp : s.part? g = some p) (hj : s.job? p.job = some j) :
    PartIsCut g p.job p j s (s.cutPart g p) := by
  obtain ⟨hself, hothers, hjself, hjothers⟩ := putCut_reads (v := .cut) hp hj
  have hpart (x : Handle) : (s.cutPart g p).part? x = (s.putCut g .cut).part? x := by
    simp [State.cutPart, State.part?]
  have hjob (x : Handle) : (s.cutPart g p).job? x = (s.putCut g .cut).job? x := by
    simp [State.cutPart, State.job?]
  have hflags : (s.putCut g .cut).flags = s.flags := putCut_frame g .cut .flags (by decide)
  refine ⟨(hpart g).trans hself, fun x hx => (hpart x).trans (hothers x hx), ?_,
    fun x hx => (hjob x).trans (hjothers x hx), ?_⟩
  · rw [hjob, hjself, resumePoint_congr j.parts fun x => by rw [hpart x]]
  · rw [State.cutPart, Poll.raiseIf_flags_eq, hflags]
    simp only [Bool.or_eq_true, beq_iff_eq]
    split
    · rfl
    · exact BitVec.or_zero

theorem resumeNow_of_job (hj : s.job? h = some j) : s.resumeNow h = j.resume := by
  rw [State.resumeNow, hj]

/-- Settles O23: each report by the job of the table that its handle names, and that job's state. -/
theorem torchRequests : Obligations.TorchRequests := by
  unfold Obligations.TorchRequests
  intro s a st tag h
  dsimp only
  have hnamed {j : Job} (hown : s.job? h = some j ∧ h.idx / 2 = st.unit.getD 0) :
      (s.heard a).tableJob (askerOf a st tag) h = some j := by
    rw [tableJob_heard]
    exact tableJob_some.2 hown
  have hjob {j : Job} (hown : s.job? h = some j ∧ h.idx / 2 = st.unit.getD 0) : (s.heard a).job? h = some j := by
    simpa using hown.1
  have hlegs (x : Handle) : (s.heard a).namedByLeg x = s.namedByLeg x := read_of_line (·.namedByLeg x) heard_line
  -- A job changed in one way, and answered at once.
  have changes {α : Type} {c : Instr} {row : Req} {v : α} {body : Asker → α → State → Reply} {fields : List Token}
      {j : Job} {f : Job → Job} (hexec : exec c s = request row tag (.fields v) s body) (hasks : Asks row s a st)
      (hj : (s.heard a).job? h = some j)
      (hbody : body (askerOf a st tag) v (s.heard a) = .now ((s.heard a).modifyJob h f) .done fields) :
      ∃ t, exec c s = .next t ∧ t.job? h = some (f j) ∧ (∀ g, g ≠ h → t.job? g = s.job? g)
        ∧ Immediate s t a st tag .done fields ∧ OnlyChanges (lineFields ++ [.jobs]) s t := by
    obtain ⟨t, ht, himm, hframe, hline⟩ := request_answers (own := [.jobs]) (tag := tag) hasks hbody
      (modifyJob_frame h f) (by decide)
    obtain ⟨hself, hothers⟩ := taken_of_line (JobIs h (f j)) (job?_modifyJob_reads hj) hline
    exact ⟨t, hexec.trans ht, hself, hothers, himm, hframe⟩
  refine ⟨fun c row hasks hnone hc => ?_, fun j hown hasks => ?_, fun j w cause hown hasks hw => ?_,
    fun j w hown hasks hw => ?_, fun j hown hasks => ?_, fun i j hown hasks => ?_⟩
  · have htable : (s.heard a).tableJob (askerOf a st tag) h = none := by
      rw [tableJob_heard, Option.eq_none_iff_forall_not_mem]
      exact fun j hj => hnone ⟨j, tableJob_some.1 hj⟩
    obtain ⟨hstart, hpause, hresume, hcut⟩ := torch_noSuch htable
    obtain ⟨rfl, rfl⟩ | ⟨w, rfl, rfl⟩ | ⟨rfl, rfl⟩ | ⟨i, rfl, rfl⟩ := hc
    · exact request_unchanged hasks hstart
    · exact request_unchanged hasks (hpause w)
    · exact request_unchanged hasks hresume
    · exact request_unchanged hasks (hcut i)
  · have hsteps := startJob_eq (hnamed hown)
    rw [hlegs] at hsteps
    split
    next hstarts => exact changes rfl hasks (hjob hown) (hsteps.trans (if_pos hstarts))
    next hstays => exact request_unchanged hasks (hsteps.trans (if_neg hstays))
  · have hsteps := pauseJob_eq (w := w) (hnamed hown)
    rw [hw] at hsteps
    refine ⟨fun hburns => ?_, fun hpaused => ?_, fun hburns hpaused => ?_⟩
    · exact changes rfl hasks (hjob hown) (hsteps.trans ((if_pos (.inl hburns)).trans (if_pos hburns)))
    · obtain ⟨t, ht, himm, hline⟩ := request_unchanged (tag := tag) hasks
        (hsteps.trans ((if_pos (.inr hpaused)).trans (if_neg (by rw [hpaused]; decide))))
      exact ⟨t, ht, (read_of_line (·.job? h) hline).trans hown.1, fun g _ => read_of_line (·.job? g) hline, himm,
        hline.mono (by decide)⟩
    · exact request_unchanged hasks (hsteps.trans (if_neg fun ht => ht.elim hburns hpaused))
  · have hsteps := pauseJob_eq (w := w) (hnamed hown)
    rw [hw] at hsteps
    split
    next htorch => exact request_unchanged hasks (hsteps.trans (if_pos htorch))
    next htorch => exact request_unchanged hasks (hsteps.trans (if_neg htorch))
  · have hsteps := resumeJob_eq (hnamed hown)
    exact ⟨fun htorch => changes rfl hasks (hjob hown) (hsteps.trans (if_pos htorch)),
      fun hburns hpaused => request_unchanged hasks (hsteps.trans (if_neg fun ht => ht.elim hburns hpaused))⟩
  · refine ⟨fun htorch => request_unchanged hasks (partCut_wrongState (hnamed hown) htorch),
      fun htorch hi => request_unchanged hasks (partCut_badRequest (hnamed hown) htorch hi),
      fun g p htorch hg hp hof => ?_⟩
    have hp' : (s.heard a).part? g = some p := by simpa using hp
    have hsteps := partCut_eq (hnamed hown) htorch hg hp'
    refine ⟨fun hcut => ?_, fun hcut => ?_, fun hcut => ?_⟩
    · rw [hcut] at hsteps
      exact request_unchanged hasks hsteps
    · rw [hcut] at hsteps
      exact request_unchanged hasks hsteps
    · rw [hcut] at hsteps
      obtain ⟨t, ht, himm, hframe, hline⟩ := request_answers (own := [.parts, .jobs, .flags]) (tag := tag) hasks hsteps
        (cutPart_frame g p) (by decide)
      subst hof
      have hreads := cutPart_reads hp' (hjob hown)
      obtain ⟨h1, h2, h3, h4, h5⟩ := taken_of_line (PartIsCut g p.job p j) hreads hline
      have hresume : ((s.heard a).cutPart g p).resumeNow p.job = resumePoint t j.parts := by
        rw [resumeNow_of_job (j := _) (by obtain ⟨-, -, hj, -⟩ := hreads; exact hj)]
        exact (read_of_line (resumePoint · j.parts) hline).symm
      rw [hresume] at himm
      exact ⟨t, ht, h1, h2, h3, h4, h5, himm, hframe⟩

/-! ## Clear Bed (R95, R96, R120) -/

/-- A job of a bed stands under its handle. -/
theorem bedJob_job? {tbl bd : Nat} (hj : s.bedJob tbl bd = some (h, j)) : s.job? h = some j := by
  unfold State.bedJob at hj
  split at hj
  · cases hj
  next e he =>
    split at hj
    · cases hj
    next i hi =>
      split at hj
      · cases hj
      · obtain ⟨rfl, rfl⟩ : _ ∧ _ := by simpa using hj
        exact Pool.find_eq_some.2 (he.trans (by rw [← hi]))

theorem unfinished_iff (v : LegState) :
    v.unfinished = true ↔ v = .queued ∨ v = .assigned ∨ v = .lifted ∨ v = .check := by
  cases v <;> decide

theorem firstUnfinished_none (l : List Handle) : s.firstUnfinished l = none ↔
    ∀ g ∈ l, ∀ r, s.leg? g = some r →
      r.state ≠ .queued ∧ r.state ≠ .assigned ∧ r.state ≠ .lifted ∧ r.state ≠ .check := by
  unfold State.firstUnfinished
  rw [List.findSome?_eq_none_iff]
  refine forall_congr' fun g => imp_congr_right fun _ => ?_
  rcases s.leg? g with _ | r
  · simp
  · have hstate := not_congr (unfinished_iff r.state)
    simp only [not_or] at hstate
    simp [← hstate]

/-- A job's clear or return batch that nothing of is left to do. -/
abbrev NothingLeft (s : State) (j : Job) : Prop :=
  ∀ hb b, j.clearBatch = some hb → s.batch? hb = some b →
    b.state ≠ .opened ∧ (b.state = .committed → ∀ g ∈ b.legs, ∀ l, s.leg? g = some l →
      l.state ≠ .queued ∧ l.state ≠ .assigned ∧ l.state ≠ .lifted ∧ l.state ≠ .check)

theorem clearing_iff (j : Job) : s.clearing j = false ↔ NothingLeft s j := by
  unfold State.clearing NothingLeft
  rcases j.clearBatch with _ | x
  · simp
  simp only [← firstUnfinished_none]
  constructor
  · rintro hno y b ⟨⟩ hb
    rw [hb] at hno
    rcases hstate : b.state with _ | _ | _ | _ | _ <;> simp_all
  · intro hall
    rcases hb : s.batch? x with _ | b
    · rfl
    · obtain ⟨hopen, hleft⟩ := hall x b rfl hb
      rcases hstate : b.state with _ | _ | _ | _ | _ <;> simp_all

theorem sorted_iff (l : List Handle) : s.sorted l = true ↔
    ∀ g ∈ l, ∀ p, s.part? g = some p → ¬(p.cut = .cut ∧ p.placement = .onBed) := by
  unfold State.sorted
  rw [List.all_eq_true]
  refine forall_congr' fun g => imp_congr_right fun _ => ?_
  rcases s.part? g with _ | p <;> simp [-not_and, not_and_or]

/-- Clear Bed's checks, in their order. -/
abbrev clearChecks (tbl bd : Nat) (s : State) : List (Prop × AnsCode) :=
  [(tbl ≤ 7 ∧ bd ≤ 1, .badRequest),
    (∃ h j, s.bedJob tbl bd = some (h, j) ∧ j.state = .ended ∧ NothingLeft s j, .wrongState),
    ((s.bed tbl bd).plates = [], .wrongState),
    (∀ h j, s.bedJob tbl bd = some (h, j) →
      ∀ g ∈ j.parts, ∀ p, s.part? g = some p → ¬(p.cut = .cut ∧ p.placement = .onBed), .wrongState)]

theorem clearBed_turns (tbl bd : Nat) (s : State) : Turns s (clearBed k ⟨tbl, bd⟩ s) (clearChecks tbl bd s) := by
  unfold clearBed
  refine turns_ite (by dsimp only; omega) fun _ => ?_
  rcases hj : s.bedJob tbl bd with _ | ⟨h, j⟩
  · exact turns_cons (fun _ => rfl) fun ⟨_, _, hsome, _⟩ => by cases hsome
  refine turns_ite (by simp [← clearing_iff, imp_iff_not_or]) fun _ => ?_
  refine turns_ite (by simp) fun _ => ?_
  refine turns_ite ?_ fun _ => turns_nil
  rw [Bool.not_eq_true', Bool.eq_false_iff, Ne, sorted_iff]
  simp

theorem clearBed_takes {tbl bd : Nat} (hj : s.bedJob tbl bd = some (h, j)) (hchecks : AllHold (clearChecks tbl bd s)) :
    clearBed k ⟨tbl, bd⟩ s = .now ((s.putSkeleton tbl bd false).clearJob h) .done [] := by
  obtain ⟨⟨htbl, hbd⟩, ⟨h', j', hj', hended, hleft⟩, hbare, hsorted, -⟩ := hchecks
  rw [hj] at hj'
  cases hj'
  unfold clearBed
  rw [if_neg (by dsimp only; omega), hj]
  dsimp only
  rw [if_neg (by simp [hended, (clearing_iff j).2 hleft]), if_neg (by simp [hbare]),
    if_neg (by simp [(sorted_iff j.parts).2 (hsorted h j hj)])]

/-- A bed is cleared of its job. -/
abbrev BedCleared (tbl bd : Nat) (h : Handle) (j : Job) (s t : State) : Prop :=
  t.bed tbl bd = ⟨[], false⟩
    ∧ (∀ i, i ≠ 2 * tbl + bd → t.beds.get? i = s.beds.get? i)
    ∧ t.job? h = some { j with state := .cleared, role := none }
    ∧ (∀ g, g ≠ h → t.job? g = s.job? g)
    ∧ ∀ g p, s.part? g = some p → t.part? g = if g ∈ j.parts ∧ p.cut = .scrapped then none else some p

theorem clearJob_reads (hj : s.job? h = some j) :
    (s.clearJob h).job? h = some { j with state := .cleared, role := none }
      ∧ (∀ g, g ≠ h → (s.clearJob h).job? g = s.job? g)
      ∧ ∀ g p, s.part? g = some p → (s.clearJob h).part? g =
        if g ∈ j.parts ∧ p.cut = .scrapped then none else some p := by
  have hdef : s.clearJob h =
      (s.modifyJob h fun j => { j with state := .cleared, role := none }).retireScrapped j.parts := by
    unfold State.clearJob
    rw [hj]
  obtain ⟨hself, hothers⟩ := job?_modifyJob_reads (f := fun j => { j with state := .cleared, role := none }) hj
  have hjobs : (s.clearJob h).jobs = (s.modifyJob h fun j => { j with state := .cleared, role := none }).jobs := by
    rw [hdef]
    exact retireScrapped_frame j.parts .jobs (by decide)
  have hjob (g : Handle) := job?_of_kept (g := g) hjobs
  refine ⟨(hjob h).trans hself, fun g hg => (hjob g).trans (hothers g hg), fun g p hp => ?_⟩
  rw [hdef]
  exact retireScrapped_part? j.parts _ g p hp

theorem clearBed_reads {tbl bd : Nat} (hj : s.bedJob tbl bd = some (h, j))
    (hbare : (s.bed tbl bd).plates = []) :
    BedCleared tbl bd h j s ((s.putSkeleton tbl bd false).clearJob h) := by
  obtain ⟨hself, hothers, hparts⟩ := clearJob_reads (s := s.putSkeleton tbl bd false) (bedJob_job? hj)
  have hbeds : ((s.putSkeleton tbl bd false).clearJob h).beds = (s.putSkeleton tbl bd false).beds :=
    clearJob_frame h .beds (by decide)
  refine ⟨?_, fun i hi => ?_, hself, hothers, hparts⟩
  · have hbed : ((s.putSkeleton tbl bd false).clearJob h).bed tbl bd = (s.putSkeleton tbl bd false).bed tbl bd := by
      rw [State.bed, hbeds, State.bed]
    rw [hbed, State.putSkeleton, bed_modifyBed rfl, if_pos rfl, hbare]
  · rw [hbeds]
    exact (Table.get?_modify ..).trans (if_neg hi.symm)

/-- Settles O26: by the job of the bed, what its batch has left, and the bed's contents. -/
theorem clearBedClears : Obligations.ClearBedClears := by
  unfold Obligations.ClearBedClears
  intro s a st tag tbl bd hasks
  refine ⟨refusedInOrder_of_block (checks := clearChecks tbl bd) rfl hasks (clearBed_turns tbl bd),
    fun h j hchecks hj => ?_⟩
  have ⟨_, _, hbare, _⟩ := hchecks
  have hj' : (s.heard a).bedJob tbl bd = some (h, j) := (read_of_line (·.bedJob tbl bd) heard_line).trans hj
  have hbare' : ((s.heard a).bed tbl bd).plates = [] :=
    (congrArg Bed.plates (read_of_line (·.bed tbl bd) heard_line)).trans hbare
  obtain ⟨t, hexec, himm, hframe, hline⟩ := request_answers (own := [.beds, .jobs, .parts]) (tag := tag) hasks
    (clearBed_takes hj' (allHold_heard (clearChecks tbl bd) hchecks))
    (((modifyBed_frame _ _ _).mono (by decide)).trans ((clearJob_frame h).mono (by decide))) (by decide)
  obtain ⟨h1, h2, h3, h4, h5⟩ := taken_of_line (BedCleared tbl bd h j) (clearBed_reads hj' hbare') hline
  exact ⟨t, hexec, h1, h2, h3, h4, h5, himm, hframe⟩

end Sys2Proof.Proofs.Burn
end

section
/-! PROOFS. Masses, loads and panels (chapter 2): rounding, the tolerance, valid panels, and what a derivation
leaves. -/

namespace Sys2Proof.Proofs.Geometry

open Sys2Proof Sys2Proof.Machine
open Sys2Proof.Proofs.Order

variable {p q r : Panel} {l : List Panel} {g : Grade}

/-! ## Panels -/

/-- Two panels share no interior area: one ends before the other begins, along one axis. -/
abbrev Apart (p q : Panel) : Prop :=
  p.x + p.length ≤ q.x ∨ q.x + q.length ≤ p.x ∨ p.y + p.width ≤ q.y ∨ q.y + q.width ≤ p.y

theorem overlaps_false_iff : p.overlaps q = false ↔ Apart p q := by
  unfold Panel.overlaps
  simp only [Bool.and_eq_false_iff, decide_eq_false_iff_not]
  omega

theorem within_iff {length width : Nat} : p.within length width = true ↔
    1 ≤ p.length ∧ 1 ≤ p.width ∧ p.x + p.length ≤ length ∧ p.y + p.width ≤ width := by
  simp [Panel.within, and_assoc]

theorem panelsApart_iff : panelsApart l = true ↔ l.Pairwise Apart := by
  induction l with
  | nil => simp [panelsApart]
  | cons p ps ih => simp [panelsApart, ih, overlaps_false_iff, List.pairwise_cons]

theorem panelsValid_iff {length width : Nat} : panelsValid l length width = true ↔
    1 ≤ l.length ∧ l.length ≤ 4
      ∧ (∀ p ∈ l, 1 ≤ p.length ∧ 1 ≤ p.width ∧ p.x + p.length ≤ length ∧ p.y + p.width ≤ width)
      ∧ l.Pairwise Apart := by
  have hlength : inRange 1 Config.maxPanels l.length = true ↔ 1 ≤ l.length ∧ l.length ≤ 4 := by
    rw [inRange, Bool.and_eq_true, decide_eq_true_iff, decide_eq_true_iff]
    rfl
  simp only [panelsValid, hlength, Bool.and_eq_true, List.all_eq_true, within_iff, panelsApart_iff, and_assoc]

/-- A panel lies in another. -/
abbrev Inside (q p : Panel) : Prop :=
  p.x ≤ q.x ∧ q.x + q.length ≤ p.x + p.length ∧ p.y ≤ q.y ∧ q.y + q.width ≤ p.y + p.width

theorem apart_symm (h : Apart p q) : Apart q p := by omega

theorem apart_of_inside (h : Apart r p) (hq : Inside q p) : Apart r q := by omega

/-! ## The pieces of a derivation (R33, R34) -/

theorem tailPiece_eq (p : Panel) (e d : Nat) (g : Grade) : tailPiece p (e, d) g =
    if 1 ≤ p.width ∧ g.minWidth ≤ p.width ∧ e + g.clearance + max 1 g.minLength ≤ p.length then
      [⟨p.x + e + g.clearance, p.y, p.length - e - g.clearance, p.width⟩] else [] := by
  unfold tailPiece keptPiece
  dsimp only
  split
  next h =>
    rw [if_pos (by omega)]
    simp only [List.cons.injEq, Panel.mk.injEq, true_and, and_true]
    omega
  next h => rw [if_neg (by omega)]

theorem sidePiece_eq (p : Panel) (e d : Nat) (g : Grade) : sidePiece p (e, d) g =
    if 1 ≤ e ∧ g.minLength ≤ e ∧ d + g.clearance + max 1 g.minWidth ≤ p.width then
      [⟨p.x, p.y + d + g.clearance, e, p.width - d - g.clearance⟩] else [] := by
  unfold sidePiece keptPiece
  dsimp only
  split
  next h =>
    rw [if_pos (by omega)]
    simp only [List.cons.injEq, Panel.mk.injEq, true_and, and_true]
    omega
  next h => rw [if_neg (by omega)]

/-- A tail piece lies in its panel, beyond the envelope. -/
theorem mem_tailPiece {e d : Nat} (h : q ∈ tailPiece p (e, d) g) :
    1 ≤ q.length ∧ 1 ≤ q.width ∧ Inside q p ∧ p.x + e ≤ q.x := by
  rw [tailPiece_eq] at h
  split at h
  · rw [List.mem_singleton.1 h]
    refine ⟨?_, ?_, ⟨?_, ?_, ?_, ?_⟩, ?_⟩ <;> dsimp only <;> omega
  · cases h

/-- A side piece lies in its panel, beside the envelope that the panel holds. -/
theorem mem_sidePiece {e d : Nat} (he : e ≤ p.length) (h : q ∈ sidePiece p (e, d) g) :
    1 ≤ q.length ∧ 1 ≤ q.width ∧ Inside q p ∧ q.x + q.length ≤ p.x + e := by
  rw [sidePiece_eq] at h
  split at h
  · rw [List.mem_singleton.1 h]
    refine ⟨?_, ?_, ⟨?_, ?_, ?_, ?_⟩, ?_⟩ <;> dsimp only <;> omega
  · cases h

theorem tailPiece_pairwise {e d : Nat} : (tailPiece p (e, d) g).Pairwise Apart := by
  rw [tailPiece_eq]
  split
  · exact List.pairwise_singleton _ _
  · exact .nil

theorem sidePiece_pairwise {e d : Nat} : (sidePiece p (e, d) g).Pairwise Apart := by
  rw [sidePiece_eq]
  split
  · exact List.pairwise_singleton _ _
  · exact .nil

/-- Panels of at least 1 by 1 within the usable rectangle, none sharing area with another. -/
abbrev Laid (l : List Panel) (length width : Nat) : Prop :=
  (∀ p ∈ l, p.within length width = true) ∧ l.Pairwise Apart

/-- The panels that a derivation chooses among are laid as the plate's were. -/
theorem pieces_laid {i e d length width : Nat} (hl : Laid l length width) (hp : l[i]? = some p) (he : e ≤ p.length) :
    Laid (l.eraseIdx i ++ tailPiece p (e, d) g ++ sidePiece p (e, d) g) length width := by
  obtain ⟨hwithin, hapart⟩ := hl
  obtain ⟨hi, hp⟩ := List.getElem?_eq_some_iff.1 hp
  have hperm : (p :: l.eraseIdx i).Perm l := hp ▸ List.getElem_cons_eraseIdx_perm hi
  obtain ⟨hothers, herased⟩ := List.pairwise_cons.1 ((hperm.pairwise_iff apart_symm).2 hapart)
  have hp_within := within_iff.1 (hwithin p (hperm.mem_iff.1 List.mem_cons_self))
  refine ⟨fun q hq => ?_, ?_⟩
  · simp only [List.mem_append] at hq
    obtain (hq | hq) | hq := hq
    · exact hwithin q (hperm.mem_iff.1 (List.mem_cons_of_mem _ hq))
    · obtain ⟨h1, h2, hin, -⟩ := mem_tailPiece hq
      exact within_iff.2 (by omega)
    · obtain ⟨h1, h2, hin, -⟩ := mem_sidePiece he hq
      exact within_iff.2 (by omega)
  · rw [List.pairwise_append, List.pairwise_append]
    refine ⟨⟨herased, tailPiece_pairwise, fun r hr q hq => ?_⟩, sidePiece_pairwise, fun r hr q hq => ?_⟩
    · obtain ⟨-, -, hin, -⟩ := mem_tailPiece hq
      exact apart_of_inside (apart_symm (hothers r hr)) hin
    · obtain ⟨-, -, hin, hbeside⟩ := mem_sidePiece he hq
      rcases List.mem_append.1 hr with hr | hr
      · exact apart_of_inside (apart_symm (hothers r hr)) hin
      · obtain ⟨-, -, -, hbeyond⟩ := mem_tailPiece hr
        omega

/-! ## The best of a list -/

section Best

variable {α : Type} {before : α → α → Bool} {m : List α} {x y : α} {n : Nat}

/-- The elements that fewer than `n` others come before. -/
abbrev bestOf (before : α → α → Bool) (n : Nat) (m : List α) : List α :=
  m.filter fun x => m.countP (before · x) < n

/-- Of a sorted list, the best are the first. -/
theorem filter_countP_sorted (hirrefl : ∀ x, before x x = false)
    (hanti : ∀ x y, before x y = true → before y x = false) (hm : m.Pairwise fun x y => before x y = true) (k : Nat) :
    (m.filter fun x => k + m.countP (before · x) < n) = m.take (n - k) := by
  induction m generalizing k with
  | nil => simp
  | cons a m ih =>
    obtain ⟨ha, hm⟩ := List.pairwise_cons.1 hm
    have hfirst : (a :: m).countP (before · a) = 0 := by
      rw [List.countP_eq_zero]
      intro b hb
      rcases List.mem_cons.1 hb with rfl | hb
      · simp [hirrefl]
      · simp [hanti a b (ha b hb)]
    have hrest : (m.filter fun x => k + (a :: m).countP (before · x) < n) = m.take (n - (k + 1)) := by
      rw [← ih hm (k + 1)]
      refine List.filter_congr fun x hx => ?_
      have hcount : (a :: m).countP (before · x) = m.countP (before · x) + 1 := List.countP_cons_of_pos (ha x hx)
      rw [hcount, Nat.add_right_comm, Nat.add_assoc]
    rw [List.filter_cons, hfirst, hrest]
    split
    next hk =>
      obtain ⟨c, hc⟩ : ∃ c, n - k = c + 1 := ⟨n - k - 1, by simp at hk; omega⟩
      rw [hc, List.take_succ_cons]
      congr 2
      omega
    next hk =>
      have hzero : n - k = 0 := by simp at hk; omega
      rw [hzero, show n - (k + 1) = 0 by omega]
      rfl

/-- As many are best as asked, or all. -/
theorem bestOf_length (hirrefl : ∀ x, before x x = false)
    (htrans : ∀ x y z, before x y = true → before y z = true → before x z = true)
    (htotal : m.Pairwise fun x y => before x y = true ∨ before y x = true) :
    (bestOf before n m).length = min n m.length := by
  have hanti (x y : α) (hxy : before x y = true) : before y x = false :=
    Bool.eq_false_iff.2 fun hyx => by have := htrans _ _ _ hxy hyx; rw [hirrefl] at this; cases this
  have hperm : (sortBy before m).Perm m := sortBy_perm
  calc (bestOf before n m).length
      = ((sortBy before m).filter fun x => m.countP (before · x) < n).length := ((hperm.filter _).length_eq).symm
    _ = ((sortBy before m).filter fun x => 0 + (sortBy before m).countP (before · x) < n).length := by
        simp only [hperm.countP_eq, Nat.zero_add]
    _ = min n m.length := by
        rw [filter_countP_sorted hirrefl hanti (sortBy_pairwise htrans htotal), Nat.sub_zero, List.length_take,
          hperm.length_eq]

/-- A best element comes before every one that is not. -/
theorem before_of_bestOf (htrans : ∀ x y z, before x y = true → before y z = true → before x z = true)
    (htotal : m.Pairwise fun x y => before x y = true ∨ before y x = true) (hx : x ∈ bestOf before n m) (hy : y ∈ m)
    (hout : y ∉ bestOf before n m) : before x y = true := by
  obtain ⟨hxm, hxn⟩ := List.mem_filter.1 hx
  have hyn : ¬m.countP (before · y) < n := fun h => hout (List.mem_filter.2 ⟨hy, by simpa using h⟩)
  have hxn : m.countP (before · x) < n := by simpa using hxn
  have hne : x ≠ y := fun e => hyn (e ▸ hxn)
  have hsymm : Std.Symm fun x y => before x y = true ∨ before y x = true := ⟨fun _ _ h => h.symm⟩
  rcases htotal.forall hxm hy hne with h | h
  · exact h
  · have hle : m.countP (before · y) ≤ m.countP (before · x) :=
      List.countP_mono_left fun z _ hz => htrans z y x hz h
    omega

end Best

/-! ## What a derivation leaves (R35) -/

theorem keptBefore_iff : p.keptBefore q = true ↔
    q.area < p.area ∨ (p.area = q.area ∧ (p.x < q.x ∨ (p.x = q.x ∧ p.y < q.y))) := by
  simp [Panel.keptBefore]

theorem keptBefore_irrefl (p : Panel) : p.keptBefore p = false := by
  rw [Bool.eq_false_iff, Ne, keptBefore_iff]
  omega

theorem keptBefore_trans (p q r : Panel) (h : p.keptBefore q = true) (h' : q.keptBefore r = true) :
    p.keptBefore r = true := by
  rw [keptBefore_iff] at *
  omega

/-- Panels that share no area stand at different places. -/
theorem laid_total {length width : Nat} (hl : Laid l length width) :
    l.Pairwise fun p q => p.keptBefore q = true ∨ q.keptBefore p = true := by
  obtain ⟨hwithin, hapart⟩ := hl
  refine hapart.imp_of_mem fun {p q} hp hq h => ?_
  have hpw := within_iff.1 (hwithin p hp)
  have hqw := within_iff.1 (hwithin q hq)
  simp only [keptBefore_iff]
  omega

theorem derivedPanels_eq {i : Nat} (hp : l[i]? = some p) (e : Nat × Nat) :
    derivedPanels l i e g = bestOf Panel.keptBefore 4 (l.eraseIdx i ++ tailPiece p e g ++ sidePiece p e g) := by
  rw [derivedPanels, hp]
  rfl

/-! ## Masses and loads (R32, R39) -/

theorem massOf_rounds (area thickness density : Nat) :
    2 * (area * thickness * density) < 1000000000 * (2 * massOf area thickness density + 1)
      ∧ 1000000000 * (2 * massOf area thickness density) ≤ 2 * (area * thickness * density) + 1000000000 := by
  unfold massOf
  omega

theorem clampLoad_cases (v : Int) : (v < 0 → clampLoad v = 0) ∧ (4000000 < v → clampLoad v = 4000000)
    ∧ (0 ≤ v → v ≤ 4000000 → (clampLoad v : Int) = v) := by
  unfold clampLoad Config.maxLoad
  refine ⟨fun h => if_pos h, fun h => ?_, fun h h' => ?_⟩
  · rw [if_neg (by omega), if_pos (by omega)]
  · rw [if_neg (by omega), if_neg (by omega)]
    omega

theorem loadAgrees_iff (expected load : Nat) : loadAgrees expected load = true ↔
    ((expected : Int) - load).natAbs ≤ expected * 3 / 100 + 2000 := by
  rw [loadAgrees, Bool.and_eq_true, decide_eq_true_iff, decide_eq_true_iff, tolerance]
  omega

/-- Settles O18: the arithmetic by cases, and the panels of a derivation by their order and their places. -/
theorem derivationArithmetic : Obligations.DerivationArithmetic := by
  unfold Obligations.DerivationArithmetic
  refine ⟨⟨massOf_rounds, clampLoad_cases, loadAgrees_iff⟩, fun l length width => panelsValid_iff,
    fun p o l w e d g ho => ?_, fun panels i p o l w length width g hvalid hp hfits => ?_⟩
  · have hextent : envExtent o l w = (e, d) := by
      obtain ⟨rfl, rfl, rfl⟩ | ⟨rfl, rfl, rfl⟩ := ho <;> rfl
    exact ⟨hextent, by simp [envFits], tailPiece_eq p e d g, sidePiece_eq p e d g⟩
  · dsimp only
    rw [derivedPanels_eq hp]
    obtain ⟨he, -⟩ : (envExtent o l w).1 ≤ p.length ∧ (envExtent o l w).2 ≤ p.width := by simpa [envFits] using hfits
    obtain ⟨-, -, hwithin, hapart⟩ := panelsValid_iff.1 hvalid
    have hlaid := pieces_laid (d := (envExtent o l w).2) (g := g)
      ⟨fun q hq => within_iff.2 (hwithin q hq), hapart⟩ hp he
    obtain ⟨hpieces, hpiecesApart⟩ := hlaid
    have htotal := laid_total ⟨hpieces, hpiecesApart⟩
    refine ⟨bestOf_length keptBefore_irrefl keptBefore_trans htotal, fun q hq => hpieces q (List.mem_of_mem_filter hq),
      panelsApart_iff.2 (hpiecesApart.sublist List.filter_sublist), List.filter_sublist, fun q hq d hd hout => ?_⟩
    exact (keptBefore_iff.1 (before_of_bestOf keptBefore_trans htotal hq hd hout)).imp_right (And.imp_left Eq.symm)

end Sys2Proof.Proofs.Geometry
end

section
/-! PROOFS. The Hall Map's Set requests and the alarm settings (sections 10.3 and 11.3). -/

namespace Sys2Proof.Proofs.Hall

open Sys2Proof Sys2Proof.Machine
open Sys2Proof.Proofs.Pallets
open Sys2Proof.Proofs.Requests Sys2Proof.Proofs.Blocks Sys2Proof.Proofs.Tables Sys2Proof.Proofs.Places
open Sys2Proof.Proofs.Burn (inRange_iff)

variable {s t w : State} {k : Asker} {a : Nat} {st : Station} {tag : Byte}

/-! ## The end of a Set request (R179) -/

section Replies

variable {α : Type} {c : Instr} {r : Req} {v : α} {body : Asker → α → State → Reply} {g : Group} {own : List Field}

/-- A Set request that changes no field is complete at once. -/
theorem set_same (hexec : exec c s = request r tag (.fields v) s body) (hasks : Asks r s a st)
    (hbody : body (askerOf a st tag) v (s.heard a) = setReply (s.heard a) w g true) :
    ∃ t, exec c s = .next t ∧ AtOnce r s t a st tag .done [] ∧ OnlyChanges lineFields s t := by
  obtain ⟨t, ht, honce, hframe, -⟩ := request_completes (own := []) (tag := tag) hasks
    (hbody.trans (if_pos rfl)) .refl (by decide)
  exact ⟨t, hexec.trans ht, honce, hframe.mono (by simp)⟩

/-- A Set request that changes a field waits for its group's image. -/
theorem set_changes (hexec : exec c s = request r tag (.fields v) s body) (hasks : Asks r s a st)
    (hbody : body (askerOf a st tag) v (s.heard a) = setReply (s.heard a) w g false)
    (hw : OnlyChanges own (s.heard a) w) (hkeeps : w.queue = (s.heard a).queue) (hqueue : own.contains .queue = true)
    (hown : own.all (!lineFields.contains ·) = true) :
    ∃ t, exec c s = .next t ∧ Awaits r s t a st tag [.group g] .done [] ∧ t.queue = joining s.queue [.group g]
      ∧ OnlyChanges (lineFields ++ own) s t ∧ OnlyChanges lineFields (w.enqueue (.group g)) t := by
  obtain ⟨t, ht, hawaits, hframe, hline⟩ := request_waits (own := own) (tag := tag) hasks (by simp)
    (hbody.trans (if_neg Bool.false_ne_true))
    (hw.trans ((enqueue_frame _).mono (by rw [List.all_cons, hqueue]; rfl))) hown
  refine ⟨t, hexec.trans ht, hawaits, ?_, hframe, hline⟩
  rw [← heard_queue s a, ← hkeeps, ← enqueue_queue_joining]
  exact read_of_line State.queue hline

/-- A Set request that changes the Hall Map alone, by whether it changes a field. -/
theorem set_replies {same : Prop} {b : Bool} {new : HallMap} (hexec : exec c s = request r tag (.fields v) s body)
    (hasks : Asks r s a st) (hbody : body (askerOf a st tag) v (s.heard a) = setReply (s.heard a) w g b)
    (hb : b = true ↔ same) (hw : OnlyChanges [.hall] (s.heard a) w) (hnew : w.hall = new) :
    (same → ∃ t, exec c s = .next t ∧ AtOnce r s t a st tag .done [] ∧ OnlyChanges lineFields s t)
      ∧ (¬same → ∃ t, exec c s = .next t ∧ t.hall = new
        ∧ Awaits r s t a st tag [.group g] .done [] ∧ t.queue = joining s.queue [.group g]
        ∧ OnlyChanges (lineFields ++ [.hall, .queue]) s t) := by
  refine ⟨fun hsame => ?_, fun hdiffers => ?_⟩
  · rw [hb.2 hsame] at hbody
    exact set_same hexec hasks hbody
  · rw [Bool.eq_false_iff.2 fun ht => hdiffers (hb.1 ht)] at hbody
    obtain ⟨t, ht, hawaits, hqueue, hframe, hline⟩ := set_changes (own := [.hall, .queue]) hexec hasks hbody
      (hw.mono (by decide)) (hw .queue (by decide)) (by decide) (by decide)
    exact ⟨t, ht, by rw [read_of_line State.hall hline, enqueue_hall, hnew], hawaits, hqueue, hframe⟩

end Replies

/-- The Hall Map alone replaced. -/
theorem hall_frame (m : HallMap) : OnlyChanges [.hall] s { s with hall := m } := by
  intro f hf
  cases f <;> first | rfl | exact absurd (by decide) hf

/-! ## Ranges -/

theorem gradeRanges_iff (f : SetGradeF) : f.inRanges = true ↔
    f.grade ≤ 63 ∧ (1 ≤ f.label.length ∧ f.label.length ≤ 8 ∧ textOk f.label = true) ∧ f.family ≤ 255
      ∧ (1000 ≤ f.density ∧ f.density ≤ 9999) ∧ (300 ≤ f.minLength ∧ f.minLength ≤ 6000)
      ∧ (200 ≤ f.minWidth ∧ f.minWidth ≤ 3000) ∧ f.clearance ≤ 50 := by
  simp only [SetGradeF.inRanges, textIn, Bool.and_eq_true, decide_eq_true_eq, inRange_iff, and_assoc]

theorem textOk_iff (l : Text) : textOk l = true ↔ ∀ ch ∈ l,
    (65 ≤ ch.toNat ∧ ch.toNat ≤ 90) ∨ (48 ≤ ch.toNat ∧ ch.toNat ≤ 57) ∨ ch.toNat = 45 := by
  unfold textOk
  rw [List.all_eq_true]
  refine forall_congr' fun ch => imp_congr_right fun _ => ?_
  simp only [Bool.or_eq_true, Bool.and_eq_true, decide_eq_true_iff, beq_iff_eq, BitVec.le_def,
    ← BitVec.toNat_inj, or_assoc]
  rfl

theorem bay_ofNum {n : Nat} (h : 1 < n) : Bay.ofNum n = none := by
  match n, h with
  | m + 2, _ => rfl

theorem purpose_ofNum {n : Nat} (h : 2 < n) : Purpose.ofNum n = none := by
  match n, h with
  | m + 3, _ => rfl

theorem slotEntry_eq {f : SetSlotF} {bay : Bay} {p : Purpose} (hbay : Bay.ofNum f.bay = some bay)
    (hp : Purpose.ofNum f.purpose = some p) : f.entry =
    if f.slot ≤ 95 ∧ f.position ≤ 4000 ∧ (1 ≤ f.capacity ∧ f.capacity ≤ 12) ∧ 1 ≤ f.limit ∧ f.limit ≤ 4000000 then
      some ⟨bay, f.position, p, f.capacity, f.limit⟩ else none := by
  unfold SetSlotF.entry
  simp only [hbay, hp, inRange_iff]
  rfl

theorem slotEntry_none {f : SetSlotF} (h : 95 < f.slot ∨ 1 < f.bay ∨ 4000 < f.position ∨ 2 < f.purpose
    ∨ f.capacity < 1 ∨ 12 < f.capacity ∨ f.limit < 1 ∨ 4000000 < f.limit) : f.entry = none := by
  rcases hbay : Bay.ofNum f.bay with _ | bay
  · rw [SetSlotF.entry, hbay]
  rcases hp : Purpose.ofNum f.purpose with _ | p
  · rw [SetSlotF.entry, hbay, hp]
  have hbay' : f.bay ≤ 1 := Nat.not_lt.1 fun hlt => by rw [bay_ofNum hlt] at hbay; cases hbay
  have hp' : f.purpose ≤ 2 := Nat.not_lt.1 fun hlt => by rw [purpose_ofNum hlt] at hp; cases hp
  rw [slotEntry_eq hbay hp, if_neg (by omega)]

theorem craneEntry_eq {f : SetCraneF} {bay : Bay} (hbay : Bay.ofNum f.runway = some bay) : f.entry =
    if f.crane ≤ 5 ∧ f.order ≤ 2 ∧ (1 ≤ f.swl ∧ f.swl ≤ 4000000) ∧ (1 ≤ f.tare ∧ f.tare ≤ 1000000)
      ∧ (1 ≤ f.hw ∧ f.hw ≤ 500) ∧ 30 ≤ f.minThickness ∧ f.minThickness ≤ 1500 then
      some ⟨bay, f.order, f.swl, f.tare, f.hw, f.minThickness⟩ else none := by
  unfold SetCraneF.entry
  simp only [hbay, inRange_iff]
  rfl

theorem craneEntry_none {f : SetCraneF} (h : 5 < f.crane ∨ 1 < f.runway ∨ 2 < f.order ∨ f.swl < 1 ∨ 4000000 < f.swl
    ∨ f.tare < 1 ∨ 1000000 < f.tare ∨ f.hw < 1 ∨ 500 < f.hw ∨ f.minThickness < 30 ∨ 1500 < f.minThickness) :
    f.entry = none := by
  rcases hbay : Bay.ofNum f.runway with _ | bay
  · rw [SetCraneF.entry, hbay]
  have hbay' : f.runway ≤ 1 := Nat.not_lt.1 fun hlt => by rw [bay_ofNum hlt] at hbay; cases hbay
  rw [craneEntry_eq hbay, if_neg (by omega)]

theorem gradeInUse_iff (n : Nat) : s.gradeInUse n = true ↔
    ∃ h r, s.plate? h = some r ∧ r.st.disposition = .stock ∧ r.ident.grade = n := by
  simp only [State.gradeInUse, pool_any_iff, Bool.and_eq_true, beq_iff_eq]
  rfl

theorem keeps_iff (o n : Grade) :
    o.keeps n = true ↔ o.density = n.density ∧ o.family = n.family ∧ o.clearance = n.clearance := by
  simp [Grade.keeps, and_assoc]

/-! ## The settings taken (R27, R179, R185) -/

section Taken

variable (hpfw : s.pfw = false)
include hpfw

theorem setGrade_takes {f : SetGradeF} (hf : f.inRanges = true)
    (hkeeps : s.gradeInUse f.grade = true → (s.grade f.grade).keeps f.entry = true) :
    setGrade k f s = setReply s (s.putGrade f.grade f.entry) .grades (s.grade f.grade == f.entry) := by
  unfold setGrade
  rw [if_neg (by simp [hpfw]), if_neg (by simp [hf]), if_neg (by simpa using hkeeps)]

theorem setTable_takes {f : SetTableF} (hf : f.table ≤ 7 ∧ f.bed0 ≤ 4000 ∧ f.bed1 ≤ 4000) :
    setTable k f s = setReply s (s.putTableCfg f.table ⟨f.bed0, f.bed1⟩) .tables
      (s.tableCfg f.table == ⟨f.bed0, f.bed1⟩) := by
  unfold setTable Config.maxPosition
  rw [if_neg (by simp [hpfw]), if_neg (by omega)]

theorem setCart_takes {n v : Nat} {bay : Bay} (hbay : Bay.ofNum n = some bay) (hv : v ≤ 4000) :
    setCart k ⟨n, v⟩ s = setReply s (s.putCartCfg (s.hall.cart.set bay v)) .cart (s.hall.cart.get bay == v) := by
  unfold setCart Config.maxPosition
  rw [if_neg (by simp [hpfw])]
  simp only [hbay, if_neg (Nat.not_lt.2 hv)]

theorem setScrapBin_takes {n v : Nat} {bay : Bay} (hbay : Bay.ofNum n = some bay) (hv : v ≤ 4000) :
    setScrapBin k ⟨n, v⟩ s = setReply s (s.putBins (s.hall.bins.set bay v)) .bins (s.hall.bins.get bay == v) := by
  unfold setScrapBin Config.maxPosition
  rw [if_neg (by simp [hpfw])]
  simp only [hbay, if_neg (Nat.not_lt.2 hv)]

theorem setRunway_takes {n v : Nat} {bay : Bay} (hbay : Bay.ofNum n = some bay) (hv : 1 ≤ v ∧ v ≤ 4000) :
    setRunway k ⟨n, v⟩ s =
      setReply s (s.putRunways (s.hall.runways.set bay v)) .runways (s.hall.runways.get bay == v) := by
  unfold setRunway
  have hrange : inRange 1 Config.maxPosition v = true := (inRange_iff ..).2 hv
  rw [if_neg (by simp [hpfw])]
  simp only [hbay, hrange]
  rfl

theorem setAlertMask_takes {v : Nat} {on : Bool} (hv : v < 4096) :
    setAlertMask k ⟨v, if on then 1 else 0⟩ s = setReply s (s.putAlarms ⟨BitVec.ofNat 12 v, on⟩) .alarms
      (s.hall.alarms == ⟨BitVec.ofNat 12 v, on⟩) := by
  unfold setAlertMask
  rw [if_neg (by simp [hpfw]), if_neg (by dsimp only; omega)]
  cases on <;> rfl

end Taken

/-- Settles O48: each request by whether it changes a field of its group. -/
theorem settingsReplaced : Obligations.SettingsReplaced := by
  unfold Obligations.SettingsReplaced
  intro s a st tag hpfw
  dsimp only
  have hpfw' : (s.heard a).pfw = false := (heard_pfw ..).trans hpfw
  have hall : (s.heard a).hall = s.hall := heard_hall ..
  refine ⟨fun f old new h1 h2 h3 h4 h5 h6 h7 h8 h9 h10 h11 h12 hold hnew hfree hasks => ?_,
    fun f h1 h2 h3 hasks => ?_, fun v hv => ⟨fun hasks => ?_, fun hasks => ?_⟩,
    fun v hv => ⟨fun hasks => ?_, fun hasks => ?_⟩, fun v hlo hv => ⟨fun hasks => ?_, fun hasks => ?_⟩,
    fun v on hv hasks => ?_⟩
  · have hgrade : (s.heard a).grade f.grade = old := by rw [State.grade, hall, hold, State.grade]
    have hentry : f.entry = new := hnew.symm
    have hbody := setGrade_takes (k := askerOf a st tag) hpfw' (f := f)
      ((gradeRanges_iff f).2 ⟨h1, ⟨h2, h3, h4⟩, h5, ⟨h6, h7⟩, ⟨h8, h9⟩, ⟨h10, h11⟩, h12⟩) fun huse => by
        rw [hgrade, hentry, keeps_iff]
        obtain ⟨h, r, hr, hstock, hof⟩ := (gradeInUse_iff _).1 huse
        exact hfree.resolve_right fun hnone => hnone h r (by simpa using hr) hstock hof
    rw [hgrade, hentry] at hbody
    exact set_replies rfl hasks hbody beq_iff_eq (hall_frame _) (by rw [State.putGrade, hall])
  · have hbody := setTable_takes (k := askerOf a st tag) hpfw' ⟨h1, h2, h3⟩
    refine set_replies rfl hasks hbody ?_ (hall_frame _) (by rw [State.putTableCfg, hall])
    obtain ⟨cfg, hcfg⟩ := s.hall.tables.get?_isSome (i := f.table) (by omega)
    simp [State.tableCfg, Table.getD, hcfg]
  · exact set_replies rfl hasks (setCart_takes hpfw' rfl hv) (by rw [hall]; exact beq_iff_eq) (hall_frame _)
      (by rw [State.putCartCfg, hall]; rfl)
  · exact set_replies rfl hasks (setCart_takes hpfw' rfl hv) (by rw [hall]; exact beq_iff_eq) (hall_frame _)
      (by rw [State.putCartCfg, hall]; rfl)
  · exact set_replies rfl hasks (setScrapBin_takes hpfw' rfl hv) (by rw [hall]; exact beq_iff_eq) (hall_frame _)
      (by rw [State.putBins, hall]; rfl)
  · exact set_replies rfl hasks (setScrapBin_takes hpfw' rfl hv) (by rw [hall]; exact beq_iff_eq) (hall_frame _)
      (by rw [State.putBins, hall]; rfl)
  · exact set_replies rfl hasks (setRunway_takes hpfw' rfl ⟨hlo, hv⟩) (by rw [hall]; exact beq_iff_eq)
      (hall_frame _) (by rw [State.putRunways, hall]; rfl)
  · exact set_replies rfl hasks (setRunway_takes hpfw' rfl ⟨hlo, hv⟩) (by rw [hall]; exact beq_iff_eq)
      (hall_frame _) (by rw [State.putRunways, hall]; rfl)
  · exact set_replies rfl hasks (setAlertMask_takes hpfw' hv) (by rw [hall]; exact beq_iff_eq) (hall_frame _)
      (by rw [State.putAlarms, hall])

/-! ## The settings refused -/

section Refused

variable (hpfw : s.pfw = false)
include hpfw

theorem setGrade_badRequest {f : SetGradeF} (hf : ¬f.inRanges = true) : setGrade k f s = .now s .badRequest [] := by
  unfold setGrade
  rw [if_neg (by simp [hpfw]), if_pos (by simpa using hf)]
  rfl

theorem setGrade_inUse {f : SetGradeF} (hf : f.inRanges = true) (huse : s.gradeInUse f.grade = true)
    (hkeeps : ¬(s.grade f.grade).keeps f.entry = true) : setGrade k f s = .now s .inUse [] := by
  unfold setGrade
  rw [if_neg (by simp [hpfw]), if_neg (by simp [hf]), if_pos (by simp [huse, Bool.eq_false_iff.2 hkeeps])]
  rfl

theorem setSlot_eq {f : SetSlotF} : setSlot k f s = match f.entry with
    | none => .now s .badRequest []
    | some v => if s.slotInUse f.slot v then .now s .inUse []
      else setReply s (s.putSlotCfg f.slot v) .slots (s.slotCfg f.slot == v) := by
  unfold setSlot
  rw [if_neg (by simp [hpfw])]
  cases f.entry <;> rfl

theorem setCrane_eq {f : SetCraneF} : setCrane k f s = match f.entry with
    | none => .now s .badRequest []
    | some v => if s.craneInUse f.crane v then .now s .inUse []
      else setReply s (s.placeCrane f.crane v) .cranes (s.craneCfg f.crane == v) := by
  unfold setCrane
  rw [if_neg (by simp [hpfw])]
  cases f.entry <;> rfl

theorem setTable_badRequest {f : SetTableF} (hf : 7 < f.table ∨ 4000 < f.bed0 ∨ 4000 < f.bed1) :
    setTable k f s = .now s .badRequest [] := by
  unfold setTable Config.maxPosition
  rw [if_neg (by simp [hpfw]), if_pos hf]
  rfl

theorem setCart_badRequest {f : SetBayF} (hf : 1 < f.bay ∨ 4000 < f.value) : setCart k f s = .now s .badRequest [] := by
  unfold setCart Config.maxPosition
  rw [if_neg (by simp [hpfw])]
  rcases hbay : Bay.ofNum f.bay with _ | bay
  · rfl
  · exact if_pos (hf.resolve_left fun hlt => by rw [bay_ofNum hlt] at hbay; cases hbay)

theorem setScrapBin_badRequest {f : SetBayF} (hf : 1 < f.bay ∨ 4000 < f.value) :
    setScrapBin k f s = .now s .badRequest [] := by
  unfold setScrapBin Config.maxPosition
  rw [if_neg (by simp [hpfw])]
  rcases hbay : Bay.ofNum f.bay with _ | bay
  · rfl
  · exact if_pos (hf.resolve_left fun hlt => by rw [bay_ofNum hlt] at hbay; cases hbay)

theorem setRunway_badRequest {f : SetBayF} (hf : 1 < f.bay ∨ f.value < 1 ∨ 4000 < f.value) :
    setRunway k f s = .now s .badRequest [] := by
  unfold setRunway
  rw [if_neg (by simp [hpfw])]
  rcases hbay : Bay.ofNum f.bay with _ | bay
  · rfl
  · have hrange : inRange 1 Config.maxPosition f.value = false := Bool.eq_false_iff.2 fun hin => by
      have hin : 1 ≤ f.value ∧ f.value ≤ 4000 := (inRange_iff ..).1 hin
      have hbay' : f.bay ≤ 1 := Nat.not_lt.1 fun hlt => by rw [bay_ofNum hlt] at hbay; cases hbay
      omega
    simp only [hrange]
    rfl

theorem setAlertMask_badRequest {f : AlertF} (hf : 4096 ≤ f.mask ∨ 2 ≤ f.enable) :
    setAlertMask k f s = .now s .badRequest [] := by
  unfold setAlertMask
  rw [if_neg (by simp [hpfw])]
  split
  · rfl
  next hmask =>
    have hnone : enableOfNum f.enable = none := by
      match f.enable, hf.resolve_left hmask with
      | m + 2, _ => rfl
    rw [hnone]
    rfl

end Refused

theorem slotInUse_iff {n : Nat} {v : SlotCfg} : s.slotInUse n v = true ↔
    v.capacity < (s.slot n).stack.length + (s.slot n).incoming.length
      ∨ v.limit < s.stackMass n + s.incomingMass n
      ∨ (v.bay ≠ (s.slotCfg n).bay ∧ ((s.slot n).stack ≠ [] ∨ (s.slot n).incoming ≠ [])) := by
  simp [State.slotInUse, or_assoc]

/-- Settles O49: each request by the range, or the use, that it breaks. -/
theorem settingsRefused : Obligations.SettingsRefused := by
  unfold Obligations.SettingsRefused
  intro s a st tag
  dsimp only
  intro hpfw
  have hpfw' : (s.heard a).pfw = false := (heard_pfw ..).trans hpfw
  refine ⟨fun f hf hasks => ?_, fun f hf hasks => ?_, fun f hf hasks => ?_, fun f hf hasks => ?_, fun f hf hasks => ?_,
    fun f hf hasks => ?_, fun f hf hasks => ?_, fun f hf hasks => ?_, fun f h r hf hr hstock hof hdiffers hasks => ?_,
    fun f v hv huse hasks => ?_⟩
  · refine request_unchanged hasks (setGrade_badRequest hpfw' fun hin => ?_)
    obtain ⟨h1, ⟨h2, h3, htext⟩, h5⟩ := (gradeRanges_iff f).1 hin
    have hchars := (textOk_iff _).1 htext
    rcases hf with hf | hf | hf | ⟨ch, hch, hf⟩ | hf
    · omega
    · omega
    · omega
    · exact hf (hchars ch hch)
    · omega
  · exact request_unchanged hasks (by rw [setSlot_eq hpfw', slotEntry_none hf])
  · exact request_unchanged hasks (setTable_badRequest hpfw' hf)
  · exact request_unchanged hasks (by rw [setCrane_eq hpfw', craneEntry_none hf])
  · exact request_unchanged hasks (setCart_badRequest hpfw' hf)
  · exact request_unchanged hasks (setScrapBin_badRequest hpfw' hf)
  · exact request_unchanged hasks (setRunway_badRequest hpfw' hf)
  · exact request_unchanged hasks (setAlertMask_badRequest hpfw' hf)
  · have hgrade : (s.heard a).grade f.grade = s.grade f.grade := read_of_line (·.grade f.grade) heard_line
    refine request_unchanged hasks (setGrade_inUse hpfw' hf
      ((gradeInUse_iff _).2 ⟨h, r, by simpa using hr, hstock, hof⟩) fun hkeeps => ?_)
    rw [hgrade, keeps_iff] at hkeeps
    obtain ⟨hdensity, hfamily, hclearance⟩ := hkeeps
    rcases hdiffers with hne | hne | hne
    · exact hne hdensity
    · exact hne hfamily
    · exact hne hclearance
  · have hinuse : (s.heard a).slotInUse f.slot v = s.slotInUse f.slot v :=
      read_of_line (·.slotInUse f.slot v) heard_line
    refine request_unchanged hasks ?_
    rw [setSlot_eq hpfw', hv]
    exact if_pos (hinuse.trans (slotInUse_iff.2 huse))

/-! ## Set Slot (R55, R180) -/

/-- A slot's configuration is replaced, and its mark examined. -/
abbrev SlotSet (n : Nat) (v : SlotCfg) (s t : State) : Prop :=
  t.hall = { s.hall with slots := s.hall.slots.set n v } ∧ t.slot n = { s.slot n with overCap := false }
    ∧ ∀ i, i ≠ n → t.slot i = s.slot i

theorem putSlotCfg_reads {n : Nat} {v : SlotCfg} (hn : n ≤ 95)
    (hstack : (s.slot n).stack.length ≤ v.capacity) (hmass : s.stackMass n ≤ v.limit) :
    SlotSet n v s (s.putSlotCfg n v) := by
  unfold State.putSlotCfg
  have hcfg : ({ s with hall := { s.hall with slots := s.hall.slots.set n v } } : State).slotCfg n = v :=
    Table.getD_set_self _ _ _ (by omega)
  have hmass' : ({ s with hall := { s.hall with slots := s.hall.slots.set n v } } : State).stackMass n =
    s.stackMass n :=
    stackMass_congr rfl fun g _ => stackShare_congr rfl
  refine ⟨examineSlot_frame n .hall (by decide), ?_, fun i hi => ?_⟩
  · rw [examineSlot_slot, if_pos rfl, hcfg, hmass']
    have hmark : (decide (v.capacity < (s.slot n).stack.length) || decide (v.limit < s.stackMass n)) = false := by
      rw [Bool.or_eq_false_iff, decide_eq_false_iff_not, decide_eq_false_iff_not]
      omega
    exact congrArg (Slot.mk (s.slot n).stack (s.slot n).incoming) ((congrArg _ hmark).trans (Bool.and_false _))
  · rw [examineSlot_slot, if_neg hi.symm]
    rfl

/-- Settles O50: by whether the configuration differs from the one that stands. -/
theorem setSlotApplies : Obligations.SetSlotApplies := by
  unfold Obligations.SetSlotApplies
  intro s a st tag f new hasks hpfw hslot hbay hpurpose hpos hpos' hcap1 hcap hcap' hlim1 hlim hlim' hroom hmass hkeeps
  have hpfw' : (s.heard a).pfw = false := (heard_pfw ..).trans hpfw
  have hbay' : Bay.ofNum f.bay = some new.bay := by
    obtain ⟨h1, h2⟩ | ⟨h1, h2⟩ := hbay <;> rw [h1, h2] <;> rfl
  have hpurpose' : Purpose.ofNum f.purpose = some new.purpose := by
    obtain ⟨h1, h2⟩ | ⟨h1, h2⟩ | ⟨h1, h2⟩ := hpurpose <;> rw [h1, h2] <;> rfl
  have hentry : f.entry = some new := by
    rw [slotEntry_eq hbay' hpurpose', if_pos ⟨hslot, hpos, ⟨hcap1, hcap⟩, hlim1, hlim⟩, ← hpos', ← hcap', ← hlim']
  have hfree : ¬(s.heard a).slotInUse f.slot new = true := by
    rw [read_of_line (·.slotInUse f.slot new) heard_line, slotInUse_iff]
    rintro (h | h | ⟨h1, h2⟩)
    · omega
    · omega
    · obtain he | ⟨he, he'⟩ := hkeeps
      · exact h1 he
      · exact h2.elim (· he) (· he')
  have hcfg : (s.heard a).slotCfg f.slot = s.slotCfg f.slot := read_of_line (·.slotCfg f.slot) heard_line
  have hbody : setSlot (askerOf a st tag) f (s.heard a) =
    setReply (s.heard a) ((s.heard a).putSlotCfg f.slot new) .slots
      (s.slotCfg f.slot == new) := by
    rw [setSlot_eq hpfw', hentry]
    exact (if_neg hfree).trans (by rw [hcfg])
  refine ⟨fun hsame => ?_, fun hdiffers => ?_⟩
  · rw [beq_iff_eq.2 hsame] at hbody
    exact set_same rfl hasks hbody
  · rw [beq_eq_false_iff_ne.2 hdiffers] at hbody
    obtain ⟨t, ht, hawaits, hqueue, hframe, hline⟩ := set_changes (own := [.hall, .slots, .queue])
      (c := .setSlot tag (.fields f)) rfl hasks hbody ((putSlotCfg_frame f.slot new).mono (by decide))
      (putSlotCfg_frame f.slot new .queue (by decide)) (by decide) (by decide)
    have hstack : ((s.heard a).slot f.slot).stack.length ≤ new.capacity := by
      rw [read_of_line (·.slot f.slot) heard_line]
      omega
    have hmass' : (s.heard a).stackMass f.slot ≤ new.limit := by
      rw [read_of_line (·.stackMass f.slot) heard_line]
      omega
    obtain ⟨hhall, hself, hothers⟩ := putSlotCfg_reads hslot hstack hmass'
    have htaken : SlotSet f.slot new (s.heard a) (((s.heard a).putSlotCfg f.slot new).enqueue (.group .slots)) :=
      ⟨(enqueue_hall ..).trans hhall, by simpa [State.slot] using hself, fun i hi => by
        simpa [State.slot] using hothers i hi⟩
    obtain ⟨h1, h2, h3⟩ := taken_of_line (SlotSet f.slot new) htaken hline
    exact ⟨t, ht, h1, h2, h3, hawaits, hqueue, hframe⟩

/-! ## Set Crane (R151, R180) -/

section Cranes

variable {c d n : Nat} {v : CraneCfg}

theorem samePlace_iff (x y : CraneCfg) : x.samePlace y = true ↔ x.runway = y.runway ∧ x.order = y.order := by
  simp [CraneCfg.samePlace]

theorem craneBusy_iff : s.craneBusy c = true ↔ (s.crane c).claim ≠ none ∨ (s.crane c).leg ≠ none := by
  simp [State.craneBusy, Option.isSome_iff_ne_none]

/-- Another crane stands where a new configuration would put crane `c`. -/
abbrev Placed (s : State) (c : Nat) (v : CraneCfg) (d : Nat) : Prop :=
  d ≤ 5 ∧ d ≠ c ∧ (s.craneCfg d).runway = v.runway ∧ (s.craneCfg d).order = v.order

theorem exchanged_none : s.exchanged c v = none ↔ ∀ d, ¬Placed s c v d := by
  simp only [State.exchanged, List.find?_eq_none, List.mem_range, Bool.and_eq_true, bne_iff_ne, samePlace_iff]
  constructor
  · rintro h d ⟨hd, hrest⟩
    exact h d (by omega) hrest
  · intro h d hd hrest
    exact h d ⟨by omega, hrest⟩

theorem placed_of_exchanged (h : s.exchanged c v = some d) : Placed s c v d := by
  have hmem := List.mem_of_find?_eq_some h
  have hplace := List.find?_some h
  simp only [Bool.and_eq_true, bne_iff_ne, samePlace_iff] at hplace
  exact ⟨Nat.le_of_lt_succ (List.mem_range.1 hmem), hplace⟩

/-- What a Set Crane that IN_USE refuses meets (R180). -/
theorem craneInUse_iff (huniq : ∀ d e, Placed s c v d → Placed s c v e → d = e) : s.craneInUse c v = true ↔
    (((s.craneCfg c).runway ≠ v.runway ∨ (s.craneCfg c).order ≠ v.order)
        ∧ ((s.crane c).claim ≠ none ∨ (s.crane c).leg ≠ none))
      ∨ (((s.craneCfg c).swl ≠ v.swl ∨ (s.craneCfg c).tare ≠ v.tare) ∧ (s.crane c).leg ≠ none)
      ∨ ∃ d, Placed s c v d ∧ ((s.crane d).claim ≠ none ∨ (s.crane d).leg ≠ none) := by
  have hplace : (!(s.craneCfg c).samePlace v) = true ↔
      (s.craneCfg c).runway ≠ v.runway ∨ (s.craneCfg c).order ≠ v.order := by
    rw [Bool.not_eq_true', Bool.eq_false_iff, Ne, samePlace_iff, not_and_or]
  have hother : (match s.exchanged c v with
      | some d => s.craneBusy d
      | none => false) = true ↔ ∃ d, Placed s c v d ∧ ((s.crane d).claim ≠ none ∨ (s.crane d).leg ≠ none) := by
    rcases hx : s.exchanged c v with _ | d
    · simp only [Bool.false_eq_true, false_iff, not_exists]
      exact fun d hd => exchanged_none.1 hx d hd.1
    · have hd := placed_of_exchanged hx
      rw [craneBusy_iff]
      exact ⟨fun hbusy => ⟨d, hd, hbusy⟩, fun ⟨e, he, hbusy⟩ => huniq e d he hd ▸ hbusy⟩
  unfold State.craneInUse
  rw [Bool.or_eq_true, Bool.or_eq_true, or_assoc]
  refine or_congr ?_ (or_congr ?_ hother)
  · rw [Bool.and_eq_true, hplace, craneBusy_iff]
  · simp only [Bool.and_eq_true, Bool.or_eq_true, bne_iff_ne, Option.isSome_iff_ne_none]

/-- A crane without a position, a claim or STOPPED, as one that leaves its runway. -/
abbrev offRunway (k : Crane) : Crane := { k with position := none, claim := none, stopped := false }

theorem putCraneCfg_hall : (s.putCraneCfg c v).hall = { s.hall with cranes := s.hall.cranes.set c v } := by
  unfold State.putCraneCfg
  dsimp only
  split <;> rfl

theorem putCraneCfg_craneCfg (hc : c ≤ 5) (d : Nat) :
    (s.putCraneCfg c v).craneCfg d = if d = c then v else s.craneCfg d := by
  unfold State.craneCfg
  rw [putCraneCfg_hall]
  split
  next hd => rw [hd]; exact Table.getD_set_self _ _ _ (by omega)
  next hd => exact Table.getD_set_ne _ _ _ (Ne.symm hd)

theorem putCraneCfg_crane (hc : c ≤ 5) (d : Nat) : (s.putCraneCfg c v).crane d =
    if d = c ∧ (s.craneCfg c).runway ≠ v.runway then offRunway (s.crane d) else s.crane d := by
  unfold State.putCraneCfg
  dsimp only
  split
  next hsame => rw [if_neg fun h => h.2 hsame]; rfl
  next hleaves =>
    rw [modifyCrane_crane hc]
    split
    next hd => rw [if_pos ⟨hd, hleaves⟩, hd]; rfl
    next hd => rw [if_neg fun h => hd h.1]; rfl

/-- A crane is given a new configuration, and one that stood there its former place. -/
abbrev CraneSet (c : Nat) (old new : CraneCfg) (s t : State) : Prop :=
  t.craneCfg c = new
    ∧ (∀ d, Placed s c new d → t.craneCfg d = { s.craneCfg d with runway := old.runway, order := old.order })
    ∧ (∀ d, d ≠ c → ¬Placed s c new d → t.craneCfg d = s.craneCfg d ∧ t.crane d = s.crane d)
    ∧ (∀ d, d = c ∨ Placed s c new d → t.crane d =
        if old.runway = new.runway then s.crane d else offRunway (s.crane d))
    ∧ t.hall = { s.hall with cranes := t.hall.cranes }

theorem placeCrane_reads (hc : c ≤ 5) (huniq : ∀ d e, Placed s c v d → Placed s c v e → d = e) :
    CraneSet c (s.craneCfg c) v s (s.placeCrane c v) := by
  unfold State.placeCrane
  split
  next hnone =>
    rw [exchanged_none] at hnone
    refine ⟨by rw [putCraneCfg_craneCfg hc, if_pos rfl], fun d hd => (hnone d hd).elim, fun d hd _ => ⟨?_, ?_⟩,
      fun d hd => ?_, by rw [putCraneCfg_hall]⟩
    · rw [putCraneCfg_craneCfg hc, if_neg hd]
    · rw [putCraneCfg_crane hc, if_neg fun h => hd h.1]
    · obtain rfl := hd.resolve_right (hnone d)
      rw [putCraneCfg_crane hc]
      split
      next h => rw [if_neg h.2]
      next h => rw [if_pos (not_not.1 fun hne => h ⟨rfl, hne⟩)]
  next d hsome =>
    have hd := placed_of_exchanged hsome
    obtain ⟨hd5, hdc, hrunway, -⟩ := hd
    have honly (e : Nat) : Placed s c v e ↔ e = d :=
      ⟨fun he => huniq e d he (placed_of_exchanged hsome), fun he => he ▸ placed_of_exchanged hsome⟩
    have hcfg (e : Nat) := putCraneCfg_craneCfg (s := s) hd5 e
      (v := { s.craneCfg d with runway := (s.craneCfg c).runway, order := (s.craneCfg c).order })
    have hcrane (e : Nat) := putCraneCfg_crane (s := s) hd5 e
      (v := { s.craneCfg d with runway := (s.craneCfg c).runway, order := (s.craneCfg c).order })
    have hcfgc := hcfg c
    rw [if_neg hdc.symm] at hcfgc
    rw [hrunway] at hcrane
    refine ⟨by rw [putCraneCfg_craneCfg hc, if_pos rfl], fun e he => ?_, fun e he hno => ⟨?_, ?_⟩,
      fun e he => ?_, by rw [putCraneCfg_hall, putCraneCfg_hall]⟩
    · obtain rfl := (honly e).1 he
      rw [putCraneCfg_craneCfg hc, if_neg hdc, hcfg, if_pos rfl]
    · rw [honly] at hno
      rw [putCraneCfg_craneCfg hc, if_neg he, hcfg, if_neg hno]
    · rw [honly] at hno
      rw [putCraneCfg_crane hc, if_neg fun h => he h.1, hcrane, if_neg fun h => hno h.1]
    · rw [putCraneCfg_crane hc, hcrane, hcfgc]
      rw [honly] at he
      by_cases hsame : (s.craneCfg c).runway = v.runway
      · rw [if_pos hsame, if_neg fun h => h.2 hsame, if_neg fun h => h.2 hsame.symm]
      · rw [if_neg hsame]
        rcases he with rfl | rfl
        · rw [if_pos ⟨rfl, hsame⟩, if_neg fun h => hdc h.1.symm]
        · rw [if_neg fun h => hdc h.1, if_pos ⟨rfl, Ne.symm hsame⟩]

end Cranes

/-- Settles O51: by the refusals of IN_USE, and by whether the configuration differs from the one that stands. -/
theorem setCraneApplies : Obligations.SetCraneApplies := by
  unfold Obligations.SetCraneApplies
  intro s a st tag f old new hasks hpfw hc hold hnew hrunway horder hs1 hs2 ht1 ht2 hh1 hh2 hm1 hm2 huniq
  dsimp only
  have hpfw' : (s.heard a).pfw = false := (heard_pfw ..).trans hpfw
  have hbay : Bay.ofNum f.runway = some new.runway := by
    rw [hnew]
    have h01 : f.runway = 0 ∨ f.runway = 1 := by omega
    rcases h01 with h | h <;> rw [h] <;> rfl
  have hentry : f.entry = some new := by
    rw [craneEntry_eq hbay, if_pos ⟨hc, horder, ⟨hs1, hs2⟩, ⟨ht1, ht2⟩, ⟨hh1, hh2⟩, hm1, hm2⟩, hnew]
  have honly (d e : Nat) (hd : Placed s f.crane new d) (he : Placed s f.crane new e) : d = e := by
    obtain ⟨hd5, -, hdr, hdo⟩ := hd
    obtain ⟨he5, -, her, heo⟩ := he
    exact huniq d e hd5 he5 (hdr.trans her.symm) (hdo.trans heo.symm)
  have hcfg : (s.heard a).craneCfg f.crane = old := (read_of_line (·.craneCfg f.crane) heard_line).trans hold.symm
  have hinuse : (s.heard a).craneInUse f.crane new = s.craneInUse f.crane new :=
    read_of_line (·.craneInUse f.crane new) heard_line
  have huse := craneInUse_iff honly
  rw [← hold] at huse
  have hbody (hno : ¬s.craneInUse f.crane new = true) : setCrane (askerOf a st tag) f (s.heard a) =
      setReply (s.heard a) ((s.heard a).placeCrane f.crane new) .cranes (old == new) := by
    rw [setCrane_eq hpfw', hentry]
    exact (if_neg (by rw [hinuse]; exact hno)).trans (by rw [hcfg])
  refine ⟨fun hin => request_unchanged hasks ?_, fun hno hsame => ?_, fun hno hdiffers => ?_⟩
  · rw [setCrane_eq hpfw', hentry]
    exact if_pos (hinuse.trans (huse.2 hin))
  · have hbody := hbody (mt huse.1 hno)
    rw [beq_iff_eq.2 hsame] at hbody
    exact set_same rfl hasks hbody
  · have hbody := hbody (mt huse.1 hno)
    rw [beq_eq_false_iff_ne.2 hdiffers] at hbody
    obtain ⟨t, ht, hawaits, hqueue, hframe, hline⟩ := set_changes (own := [.hall, .cranes, .queue])
      (c := .setCrane tag (.fields f)) rfl hasks hbody ((placeCrane_frame f.crane new).mono (by decide))
      (placeCrane_frame f.crane new .queue (by decide)) (by decide) (by decide)
    have hreads : CraneSet f.crane old new (s.heard a)
        (((s.heard a).placeCrane f.crane new).enqueue (.group .cranes)) := by
      have honly' (d e : Nat) := honly d e
      have hplaced (d : Nat) : Placed (s.heard a) f.crane new d = Placed s f.crane new d :=
        read_of_line (fun s => Placed s f.crane new d) heard_line
      simp only [← hplaced] at honly'
      have hread := placeCrane_reads (s := s.heard a) hc honly'
      rw [hcfg] at hread
      simpa [CraneSet, State.craneCfg, State.crane] using hread
    obtain ⟨h1, h2, h3, h4, h5⟩ := taken_of_line (CraneSet f.crane old new) hreads hline
    exact ⟨t, ht, h1, h2, h3, h4, h5, hawaits, hqueue, hframe⟩

end Sys2Proof.Proofs.Hall
end

section
/-! PROOFS. Room in slots, positions, and the destination a leg would go to (sections 3.1 to 3.3, R135). -/

namespace Sys2Proof.Proofs.Rooms

open Sys2Proof Sys2Proof.Machine

variable {s : State} {l : Leg} {r : PlateRec} {p h : Handle} {bay : Bay} {k : Nat}

/-! ## Masses and room (R43 to R45) -/

/-- What a plate weighs. -/
abbrev weighs (s : State) (h : Handle) : Nat := ((s.plate? h).bind fun r => r.mass).getD 0

/-- A plate found and not DOUBTFUL. -/
abbrev sound (s : State) (h : Handle) : Bool := (s.plate? h).any fun r => !r.st.doubtful

theorem massOfPlate_eq (h : Handle) : s.massOfPlate h = weighs s h := by
  unfold State.massOfPlate weighs
  rcases s.plate? h with _ | r <;> rfl

theorem stackShare_eq (h : Handle) : s.stackShare h = if sound s h then weighs s h else 0 := by
  unfold State.stackShare
  rcases hr : s.plate? h with _ | r
  · simp [sound, hr]
  · rcases hd : r.st.doubtful with _ | _ <;> simp [sound, weighs, hr, hd]

/-- The plates that are not DOUBTFUL weigh on their stack. -/
theorem sum_stackShare (m : List Handle) : (m.map s.stackShare).sum = ((m.filter (sound s)).map (weighs s)).sum := by
  induction m with
  | nil => rfl
  | cons h m ih =>
    rw [List.map_cons, List.sum_cons, ih, stackShare_eq, List.filter_cons]
    split <;> simp

theorem sum_legPlateMass (m : List Handle) : (m.map s.legPlateMass).sum =
    ((m.filterMap fun g => (s.leg? g).bind fun l => l.plate).map (weighs s)).sum := by
  induction m with
  | nil => rfl
  | cons g m ih =>
    rw [List.map_cons, List.sum_cons, ih, State.legPlateMass]
    rcases hl : s.leg? g with _ | x
    · simp [hl]
    · rcases hp : x.plate with _ | p
      · simp [hl, hp]
      · simp [hl, hp, massOfPlate_eq]

theorem hasRoom_iff (mass : Option Nat) : s.hasRoom k mass = true ↔
    (s.slot k).stack.length + (s.slot k).incoming.length < (s.slotCfg k).capacity
      ∧ (∀ m, mass = some m → s.stackMass k + s.incomingMass k + m ≤ (s.slotCfg k).limit)
      ∧ (s.slot k).overCap = false := by
  cases mass <;> simp [State.hasRoom, and_assoc]

theorem bedBare_iff (t d : Nat) : s.bedBare t d = true ↔ (s.bed t d).plates = [] ∧ (s.bed t d).skeleton = false := by
  simp [State.bedBare]

theorem cartHasRoom_iff : s.cartHasRoom = true ↔ s.cart.plates = [] ∧ s.cart.incoming = [] := by
  simp [State.cartHasRoom]

/-! ## The nearest slot of the first group (R53) -/

theorem distance_eq (a b : Nat) : distance a b = ((a : Int) - b).natAbs := by
  unfold distance
  omega

/-- A slot is nearer than another, or as near and of a lower number. -/
abbrev Nearer (s : State) (pos k j : Nat) : Prop :=
  distance pos (s.slotCfg k).position < distance pos (s.slotCfg j).position
    ∨ (distance pos (s.slotCfg k).position = distance pos (s.slotCfg j).position ∧ k ≤ j)

theorem nearest_none {pos : Nat} {m : List Nat} : s.nearest pos m = none ↔ m = [] := by
  cases m with
  | nil => exact ⟨fun _ => rfl, fun _ => rfl⟩
  | cons a m =>
    rw [State.nearest]
    rcases s.nearest pos m with _ | j
    · simp
    · dsimp only
      split <;> simp

/-- The nearest of ascending slots is among them, and no other is nearer. -/
theorem nearest_spec {pos : Nat} {m : List Nat} (hm : m.Pairwise (· < ·)) (hk : s.nearest pos m = some k) :
    k ∈ m ∧ ∀ j ∈ m, Nearer s pos k j := by
  induction m generalizing k with
  | nil => cases hk
  | cons a m ih =>
    obtain ⟨ha, hm⟩ := List.pairwise_cons.1 hm
    rw [State.nearest] at hk
    split at hk
    next hnone =>
      obtain rfl : a = k := Option.some.inj hk
      obtain rfl := nearest_none.1 hnone
      refine ⟨List.mem_singleton_self a, fun j hj => ?_⟩
      rw [List.mem_singleton.1 hj]
      exact .inr ⟨rfl, le_rfl⟩
    next i hi =>
      obtain ⟨hmem, hbest⟩ := ih hm hi
      split at hk
      next hle =>
        obtain rfl : a = k := Option.some.inj hk
        refine ⟨List.mem_cons_self, fun j hj => ?_⟩
        rcases List.mem_cons.1 hj with rfl | hj
        · exact .inr ⟨rfl, le_rfl⟩
        · have := hbest j hj
          have := ha j hj
          have := ha i hmem
          omega
      next hgt =>
        obtain rfl : i = k := Option.some.inj hk
        refine ⟨List.mem_cons_of_mem _ hmem, fun j hj => ?_⟩
        rcases List.mem_cons.1 hj with rfl | hj
        · exact .inl (Nat.not_le.1 hgt)
        · exact hbest j hj

/-- The nearest slot is the one that no other is nearer than. -/
theorem nearest_eq {pos : Nat} {m : List Nat} (hm : m.Pairwise (· < ·)) (hk : k ∈ m)
    (hbest : ∀ j ∈ m, Nearer s pos k j) : s.nearest pos m = some k := by
  rcases hn : s.nearest pos m with _ | i
  · rw [nearest_none.1 hn] at hk
    cases hk
  · obtain ⟨hi, hnear⟩ := nearest_spec hm hn
    have := hbest i hi
    have := hnear k hk
    exact congrArg some (by omega)

/-- A candidate of a preference group (R53, step 2). -/
abbrev Candidate (s : State) (bay : Bay) (source : Place) (mass : Option Nat) (group : List Purpose) (k : Nat) : Prop :=
  k ≤ 95 ∧ (s.slotCfg k).bay = bay ∧ (s.slotCfg k).purpose ∈ group ∧ source ≠ .slot k ∧ s.hasRoom k mass = true

section Groups

variable {source : Place} {mass : Option Nat} {g : List Purpose} {groups : List (List Purpose)}

theorem mem_candidates : k ∈ s.candidates bay source mass g ↔ Candidate s bay source mass g k := by
  simp only [State.candidates, List.mem_filter, List.mem_range, Bool.and_eq_true, decide_eq_true_iff,
    List.contains_iff_mem, bne_iff_ne, and_assoc]
  exact and_congr_left fun _ => Nat.lt_succ_iff

theorem candidates_ascend : (s.candidates bay source mass g).Pairwise (· < ·) := List.pairwise_lt_range.filter _

theorem firstGroup_none (h : ∀ g ∈ groups, ∀ k, ¬Candidate s bay source mass g k) :
    s.firstGroup bay source mass groups = none := by
  induction groups with
  | nil => rfl
  | cons g gs ih =>
    have hempty : s.candidates bay source mass g = [] :=
      List.eq_nil_iff_forall_not_mem.2 fun k hk => h g List.mem_cons_self k (mem_candidates.1 hk)
    rw [State.firstGroup, nearest_none.2 hempty]
    exact ih fun e he => h e (List.mem_cons_of_mem _ he)

/-- The first group with a candidate decides. -/
theorem firstGroup_some {front rest : List (List Purpose)} (hfront : ∀ e ∈ front, ∀ j, ¬Candidate s bay source mass e j)
    (hk : Candidate s bay source mass g k)
    (hbest : ∀ j, Candidate s bay source mass g j → Nearer s (s.placePos bay source) k j) :
    s.firstGroup bay source mass (front ++ g :: rest) = some k := by
  induction front with
  | nil =>
    rw [List.nil_append, State.firstGroup,
      nearest_eq candidates_ascend (mem_candidates.2 hk) fun j hj => hbest j (mem_candidates.1 hj)]
  | cons e front ih =>
    have hempty : s.candidates bay source mass e = [] :=
      List.eq_nil_iff_forall_not_mem.2 fun j hj => hfront e List.mem_cons_self j (mem_candidates.1 hj)
    rw [List.cons_append, State.firstGroup, nearest_none.2 hempty]
    exact ih fun e he => hfront e (List.mem_cons_of_mem _ he)

end Groups

/-! ## A leg's destination (R53, R135) -/

theorem legPlate_eq : s.legPlate l = l.plate.bind s.plate? := by
  unfold State.legPlate
  rcases l.plate with _ | p <;> rfl

theorem choiceFor_none (h : ∀ p, l.plate = some p → s.plate? p = none) : s.choiceFor l = none := by
  have hnone : s.legPlate l = none := by
    rw [legPlate_eq, Option.bind_eq_none_iff]
    exact h
  rw [State.choiceFor, hnone]

theorem legSource_plate (hbed : l.sourceBed = none) (hr : s.legPlate l = some r) :
    s.legSource l = r.st.location.place := by
  rw [State.legSource, hbed, hr]

theorem choiceFor_eq (hbed : l.sourceBed = none) (hr : s.legPlate l = some r) : s.choiceFor l =
    (s.firstGroup l.bay r.st.location.place r.roomMass (preference l.kind r.ident.origin)).map .slot := by
  rw [State.choiceFor, hr, legSource_plate hbed hr]
  dsimp only [State.chooseSlot]
  rcases s.firstGroup l.bay r.st.location.place r.roomMass (preference l.kind r.ident.origin) with _ | k <;> rfl

/-- Settles O35: the sums plate by plate, the tests by their conditions, and the choice by the first group with a
candidate and the nearest slot in it. -/
theorem roomAndDestinationChosen : Obligations.RoomAndDestinationChosen := by
  unfold Obligations.RoomAndDestinationChosen
  intro s
  refine ⟨fun k => sum_stackShare _, fun k => sum_legPlateMass _, fun k mass => hasRoom_iff mass,
    fun bay => ⟨fun k => rfl, fun t e he => ?_, by cases bay <;> rfl, by cases bay <;> rfl⟩, fun l => ?_⟩
  · have htable : s.hall.tables.getD t (TableCfg.factory t) = e := by rw [Table.getD, he]; rfl
    exact ⟨congrArg TableCfg.bed0 htable, congrArg TableCfg.bed1 htable⟩
  · refine ⟨choiceFor_none, fun h => by rw [State.destinationFor, h], fun t d h => ?_, fun h => ?_,
      fun h => by rw [State.destinationFor, h], fun p r mass groups hp hr hbed hmass hgroups => ?_⟩
    · rw [State.destinationFor, h]
      exact if_congr (bedBare_iff t d) rfl rfl
    · rw [State.destinationFor, h]
      exact if_congr cartHasRoom_iff rfl rfl
    · have hplate : s.legPlate l = some r := by rw [legPlate_eq, hp]; exact hr
      have hroom : r.roomMass = mass := hmass.symm
      have hprefer : preference l.kind r.ident.origin = groups := by
        rw [hgroups]
        rcases l.kind with _ | _ | _ | _ | _ | _ | _ | _ <;> cases r.ident.origin <;> rfl
      have hchoice := choiceFor_eq hbed hplate
      rw [hroom, hprefer] at hchoice
      refine ⟨fun k hk => ?_, fun hnone => ?_, fun front g rest k hg hfront hk hbest => ?_⟩
      · rw [State.destinationFor, hk, hplate]
        dsimp only
        rw [hroom]
      · rw [hchoice, firstGroup_none hnone]
        rfl
      · rw [hchoice, hg, firstGroup_some hfront hk fun j hj => ?_]
        · rfl
        · simpa only [Nearer, distance_eq] using hbest j hj

end Sys2Proof.Proofs.Rooms
end

section
/-! PROOFS. The walk over the legs that may be given to a crane, and what the cart is sent for (sections 7.4, 7.5,
7.8). -/

namespace Sys2Proof.Proofs.Walk

open Sys2Proof Sys2Proof.Machine
open Sys2Proof.Proofs.Pallets (askerOf request_unchanged)
open Sys2Proof.Proofs.Requests Sys2Proof.Proofs.Blocks
open Sys2Proof.Proofs.Tables Sys2Proof.Proofs.Order Sys2Proof.Proofs.Rooms Sys2Proof.Proofs.Burn

variable {s : State} {l x : Leg} {h g : Handle} {bay : Bay} {a : Nat} {st : Station} {tag : Byte}

/-! ## Sorting by keys that may be equal -/

section Sorted

variable {α : Type} {before : α → α → Bool} {m : List α} {a b : α}

theorem insertBy_not_before (hanti : ∀ x y, before x y = true → before y x = false)
    (htrans : ∀ x y z, before x y = true → before y z = true → before x z = true)
    (hm : m.Pairwise fun x y => before y x = false) : (insertBy before a m).Pairwise fun x y => before y x = false := by
  induction m with
  | nil => exact List.pairwise_singleton _ _
  | cons b bs ih =>
    obtain ⟨hb, hbs⟩ := List.pairwise_cons.1 hm
    rw [insertBy]
    split
    next hab =>
      refine List.pairwise_cons.2 ⟨fun x hx => ?_, hm⟩
      rcases List.mem_cons.1 hx with rfl | hx
      · exact hanti _ _ hab
      · exact Bool.eq_false_iff.2 fun hxa => Bool.eq_false_iff.1 (hb x hx) (htrans _ _ _ hxa hab)
    next hab =>
      refine List.pairwise_cons.2 ⟨fun x hx => ?_, ih hbs⟩
      rcases List.mem_cons.1 (insertBy_perm.mem_iff.1 hx) with rfl | hx
      · exact Bool.eq_false_iff.2 hab
      · exact hb x hx

/-- In a sorted list none comes after one that it is before. -/
theorem sortBy_not_before (hanti : ∀ x y, before x y = true → before y x = false)
    (htrans : ∀ x y z, before x y = true → before y z = true → before x z = true) :
    (sortBy before m).Pairwise fun x y => before y x = false := by
  induction m with
  | nil => exact .nil
  | cons a as ih => exact insertBy_not_before hanti htrans ih

end Sorted

theorem keysBefore_anti {k m : List Nat} (h : keysBefore k m = true) : keysBefore m k = false :=
  Bool.eq_false_iff.2 fun h' => Bool.eq_false_iff.1 (keysBefore_irrefl k) (keysBefore_trans h h')

theorem mem_inWalkOrder (m : List (Handle × Leg)) (e : Handle × Leg) : e ∈ s.inWalkOrder m ↔ e ∈ m :=
  sortBy_perm.mem_iff

/-- Walk order: no leg stands behind one that its keys put it before. -/
theorem inWalkOrder_pairwise (m : List (Handle × Leg)) :
    (s.inWalkOrder m).Pairwise fun x y => keysBefore (s.walkKeys y.2) (s.walkKeys x.2) = false :=
  sortBy_not_before (fun _ _ => keysBefore_anti) fun _ _ _ => keysBefore_trans

/-! ## The legs that wait at the head of their batch -/

/-- A leg stands first among the unfinished legs of a COMMITTED batch. -/
def FirstOf (s : State) (h : Handle) (l : Leg) : Prop :=
  ∃ hb b front rest, s.batch? hb = some b ∧ b.state = .committed ∧ b.legs = front ++ h :: rest
    ∧ (∀ g ∈ front, ∀ y, s.leg? g = some y → y.state.unfinished = false) ∧ s.leg? h = some l
    ∧ l.state.unfinished = true

theorem firstUnfinished_some {m : List Handle} : s.firstUnfinished m = some (h, l) ↔
    ∃ front rest, m = front ++ h :: rest ∧ (∀ g ∈ front, ∀ y, s.leg? g = some y → y.state.unfinished = false)
      ∧ s.leg? h = some l ∧ l.state.unfinished = true := by
  unfold State.firstUnfinished
  rw [List.findSome?_eq_some_iff]
  refine ⟨?_, ?_⟩
  · rintro ⟨front, g, rest, rfl, hg, hfront⟩
    have htest : g = h ∧ s.leg? g = some l ∧ l.state.unfinished = true := by
      rcases hleg : s.leg? g with _ | y
      · simp [hleg] at hg
      · simp only [hleg, Option.ite_none_right_eq_some, Option.some.injEq, Prod.mk.injEq] at hg
        obtain ⟨hun, rfl, rfl⟩ := hg
        exact ⟨rfl, rfl, hun⟩
    obtain ⟨rfl, hleg, hun⟩ := htest
    refine ⟨front, rest, rfl, fun e he y hy => ?_, hleg, hun⟩
    have hnone := hfront e he
    simpa [hy] using hnone
  · rintro ⟨front, rest, rfl, hfront, hleg, hun⟩
    refine ⟨front, h, rest, rfl, by simp [hleg, hun], fun e he => ?_⟩
    rcases hy : s.leg? e with _ | y
    · rfl
    · simp [hfront e he y hy]

theorem mem_frontLegs {p : Leg → Bool} : (h, l) ∈ s.frontLegs p ↔ FirstOf s h l ∧ p l = true := by
  unfold State.frontLegs FirstOf
  simp only [List.mem_filterMap, mem_handles, beq_iff_eq]
  constructor
  · rintro ⟨hb, ⟨b, hb', hstate⟩, htest⟩
    have hbatch : s.batch? hb = some b := hb'
    simp only [hbatch] at htest
    rcases hf : s.firstUnfinished b.legs with _ | ⟨g, y⟩
    · simp [hf] at htest
    · simp only [hf, Option.ite_none_right_eq_some, Option.some.injEq, Prod.mk.injEq] at htest
      obtain ⟨hp, rfl, rfl⟩ := htest
      obtain ⟨front, rest, hlegs, hfront, hleg, hun⟩ := firstUnfinished_some.1 hf
      exact ⟨⟨hb, b, front, rest, hbatch, hstate, hlegs, hfront, hleg, hun⟩, hp⟩
  · rintro ⟨⟨hb, b, front, rest, hbatch, hstate, hlegs, hfront, hleg, hun⟩, hp⟩
    refine ⟨hb, ⟨b, hbatch, hstate⟩, ?_⟩
    have hf := firstUnfinished_some.2 ⟨front, rest, hlegs, hfront, hleg, hun⟩
    simp [hbatch, hf, hp]

/-- A QUEUED leg at the head of its batch, as the statements write it. -/
theorem firstOf_queued (hq : x.state = .queued) : FirstOf s g x ↔
    ∃ hb b front rest, s.batch? hb = some b ∧ b.state = .committed ∧ b.legs = front ++ g :: rest
      ∧ (∀ e ∈ front, ∀ y, s.leg? e = some y → y.state.unfinished = false) ∧ s.leg? g = some x := by
  have hun : x.state.unfinished = true := by rw [hq]; rfl
  simp only [FirstOf, hun, and_true]

/-! ## Eligibility (R132) -/

/-- A bay can lift from where a plate lies. -/
abbrev Reach (s : State) (r : PlateRec) (bay : Bay) : Prop :=
  match r.st.location with
  | .slot k _ => (s.slotCfg k).bay = bay
  | .bed t _ => tableBay t = bay
  | .cart => s.cart.side = some bay
  | _ => False

/-- What makes a leg eligible. -/
abbrev Eligible (s : State) (l : Leg) : Prop :=
  l.state = .queued
    ∧ (∀ p, l.plate = some p → ∃ r, s.plate? p = some r ∧ r.st.doubtful = false ∧ Reach s r l.bay)
    ∧ (l.kind = .transferOut → s.cart.plates = [] ∧ s.cart.incoming = [] ∧ s.cart.side = some l.bay)
    ∧ (l.kind = .clearSkeleton → ∃ t d b jh j, l.sourceBed = some (t, d) ∧ (s.bed t d).skeleton = true
      ∧ s.batch? l.batch = some b ∧ b.origin = .job jh ∧ s.job? jh = some j
      ∧ ∀ g ∈ j.parts, ∀ p, s.part? g = some p → ¬(p.cut = .cut ∧ p.placement = .onBed))

theorem reaches_iff (r : PlateRec) : s.reaches bay r.st.location = true ↔ Reach s r bay := by
  unfold State.reaches Reach
  split <;> simp_all

theorem plateReady_iff : s.plateReady l = true ↔
    ∀ p, l.plate = some p → ∃ r, s.plate? p = some r ∧ r.st.doubtful = false ∧ Reach s r l.bay := by
  unfold State.plateReady
  rcases l.plate with _ | p
  · simp
  · rcases hr : s.plate? p with _ | r <;> simp [hr, ← reaches_iff]

theorem batchJob_iff {hb jh : Handle} {j : Job} : s.batchJob hb = some (jh, j) ↔
    ∃ b, s.batch? hb = some b ∧ b.origin = .job jh ∧ s.job? jh = some j := by
  unfold State.batchJob
  constructor
  · intro h
    split at h
    · cases h
    next b hb =>
      split at h
      · cases h
      next ho =>
        split at h
        next hj =>
          cases h
          exact ⟨b, hb, ho, hj⟩
        · cases h
  · rintro ⟨b, hb, ho, hj⟩
    simp only [hb, ho, hj]

theorem skeletonReady_iff : s.skeletonReady l = true ↔
    ∃ t d b jh j, l.sourceBed = some (t, d) ∧ (s.bed t d).skeleton = true
      ∧ s.batch? l.batch = some b ∧ b.origin = .job jh ∧ s.job? jh = some j
      ∧ ∀ g ∈ j.parts, ∀ p, s.part? g = some p → ¬(p.cut = .cut ∧ p.placement = .onBed) := by
  unfold State.skeletonReady
  rw [Bool.and_eq_true]
  constructor
  · rintro ⟨hbed, hjob⟩
    split at hbed
    next t d he =>
      split at hjob
      next jh j hj =>
        obtain ⟨b, hb, ho, hj⟩ := batchJob_iff.1 hj
        exact ⟨t, d, b, jh, j, he, hbed, hb, ho, hj, (sorted_iff _).1 hjob⟩
      · cases hjob
    · cases hbed
  · rintro ⟨t, d, b, jh, j, he, hbed, hb, ho, hj, hsorted⟩
    rw [he, batchJob_iff.2 ⟨b, hb, ho, hj⟩]
    exact ⟨hbed, (sorted_iff _).2 hsorted⟩

theorem eligible_iff : s.eligible l = true ↔ Eligible s l := by
  unfold State.eligible Eligible
  simp only [Bool.and_eq_true, Bool.or_eq_true, beq_iff_eq, bne_iff_ne, plateReady_iff, skeletonReady_iff,
    State.cartReady, cartHasRoom_iff, and_assoc, ← imp_iff_not_or]

/-! ## The walk (R134) and its spans (R159) -/

theorem mem_walk : (h, l) ∈ s.walk bay ↔ FirstOf s h l ∧ l.bay = bay ∧ Eligible s l := by
  rw [State.walk, mem_inWalkOrder, mem_frontLegs, Bool.and_eq_true, beq_iff_eq, eligible_iff]

/-- The sequence number by which a leg's batch was committed. -/
abbrev sequence (s : State) (l : Leg) : Nat := ((s.batch? l.batch).bind fun b => b.seq).getD 0

theorem walkKeys_eq : s.walkKeys l =
    [if l.starving then 0 else 1, 3 - l.priority, sequence s l, l.batch.idx, l.position] := by
  unfold State.walkKeys sequence
  rcases s.batch? l.batch with _ | b <;> rfl

/-- What it says that a leg does not come behind another in walk order. -/
theorem walk_order {x y : Leg} (hx : x.priority ≤ 3) (hy : y.priority ≤ 3)
    (h : keysBefore (s.walkKeys y) (s.walkKeys x) = false) :
    (x.starving = true ∧ y.starving = false)
      ∨ (x.starving = y.starving ∧ (y.priority < x.priority
        ∨ (x.priority = y.priority ∧ (sequence s x < sequence s y
          ∨ (sequence s x = sequence s y ∧ (x.batch.idx < y.batch.idx
            ∨ (x.batch.idx = y.batch.idx ∧ x.position ≤ y.position))))))) := by
  rw [Bool.eq_false_iff, Ne, walkKeys_eq, walkKeys_eq] at h
  simp only [keysBefore_cons, keysBefore_irrefl, Bool.false_eq_true, and_false, or_false] at h
  rcases hxs : x.starving with _ | _ <;> rcases hys : y.starving with _ | _ <;> simp [hxs, hys] at h ⊢ <;> omega

/-- Where a leg's plate or skeleton lies. -/
abbrev sourceOf (s : State) (l : Leg) : Place :=
  match l.sourceBed, l.plate.bind s.plate? with
  | some e, _ => .bed e.1 e.2
  | none, some r => r.st.location.place
  | none, none => .nowhere

theorem legSource_eq : s.legSource l = sourceOf s l := by
  unfold State.legSource sourceOf
  rw [legPlate_eq]
  rcases l.sourceBed with _ | ⟨t, d⟩
  · rcases l.plate.bind s.plate? with _ | r <;> rfl
  · rfl

/-- The needed span of a leg. -/
abbrev spanAt (s : State) (l : Leg) : Nat × Nat :=
  let start := s.placePos l.bay (sourceOf s l)
  match if l.destination = .choose then s.choiceFor l else some l.destination with
  | some p => (min start (s.placePos l.bay p), max start (s.placePos l.bay p))
  | none => (start, start)

theorem aim_eq : s.aim l = if l.destination = .choose then s.choiceFor l else some l.destination := by
  unfold State.aim
  split
  next hd => rw [if_pos hd]
  next hd => rw [if_neg hd]

theorem spanOf_eq : s.spanOf l = spanAt s l := by
  unfold State.spanOf spanAt
  rw [legSource_eq, aim_eq] <;> rfl

/-- Settles O36: by the legs first in their batches, their keys, and the spans leg by leg. -/
theorem walkTakesEligibleLegs : Obligations.WalkTakesEligibleLegs := by
  unfold Obligations.WalkTakesEligibleLegs
  intro s
  refine ⟨fun l => eligible_iff, fun bay => ⟨fun h l => ?_, fun hpri => ?_, ?_⟩⟩
  · rw [mem_walk]
    constructor
    · rintro ⟨hfirst, hbay, helig⟩
      have ⟨hq, _⟩ := helig
      obtain ⟨hb, b, front, rest, h1, h2, h3, h4, h5⟩ := (firstOf_queued hq).1 hfirst
      exact ⟨hb, b, front, rest, h1, h2, h3, h4, h5, hbay, helig⟩
    · rintro ⟨hb, b, front, rest, h1, h2, h3, h4, h5, hbay, helig⟩
      have ⟨hq, _⟩ := helig
      exact ⟨(firstOf_queued hq).2 ⟨hb, b, front, rest, h1, h2, h3, h4, h5⟩, hbay, helig⟩
  · exact (inWalkOrder_pairwise _).imp_of_mem fun hx hy hk => walk_order (hpri _ hx) (hpri _ hy) hk
  · unfold State.spans
    exact List.map_congr_left fun e _ => congrArg (Prod.mk e.1) spanOf_eq

/-! ## Next Trip (R148) -/

/-- A leg in a crane's hands has the cart as its source or destination. -/
abbrev CartInUse (s : State) : Prop :=
  ∃ g x, s.leg? g = some x ∧ x.state.inHand = true ∧ (x.source = some .cart ∨ x.target = some .cart)

theorem cartInUse_iff : s.cartInUse = true ↔ CartInUse s := by
  simp only [State.cartInUse, pool_any_iff, Bool.and_eq_true, Bool.or_eq_true, beq_iff_eq]
  rfl

/-- A QUEUED leg that is the first unfinished one of a COMMITTED batch. -/
abbrev Waiting (s : State) (g : Handle) (x : Leg) : Prop :=
  ∃ hb b front rest, s.batch? hb = some b ∧ b.state = .committed ∧ b.legs = front ++ g :: rest
    ∧ (∀ e ∈ front, ∀ y, s.leg? e = some y → y.state.unfinished = false)
    ∧ s.leg? g = some x ∧ x.state = .queued

theorem waiting_iff : Waiting s g x ↔ FirstOf s g x ∧ x.state = .queued := by
  constructor
  · rintro ⟨hb, b, front, rest, h1, h2, h3, h4, h5, hq⟩
    exact ⟨(firstOf_queued hq).2 ⟨hb, b, front, rest, h1, h2, h3, h4, h5⟩, hq⟩
  · rintro ⟨hfirst, hq⟩
    obtain ⟨hb, b, front, rest, h1, h2, h3, h4, h5⟩ := (firstOf_queued hq).1 hfirst
    exact ⟨hb, b, front, rest, h1, h2, h3, h4, h5, hq⟩

/-- A waiting TRANSFER_OUT whose plate is not DOUBTFUL. -/
abbrev WaitingOut (s : State) (g : Handle) (x : Leg) : Prop :=
  Waiting s g x ∧ x.kind = .transferOut ∧ ∃ p r, x.plate = some p ∧ s.plate? p = some r ∧ r.st.doubtful = false

theorem plateSound_iff : s.plateSound x = true ↔
    ∃ p r, x.plate = some p ∧ s.plate? p = some r ∧ r.st.doubtful = false := by
  unfold State.plateSound
  rw [legPlate_eq]
  rcases x.plate with _ | p
  · simp
  · rcases hr : s.plate? p with _ | r <;> simp [hr]

/-- The legs that a plate on the cart waits for. -/
theorem mem_cartLegs {p : Handle} : (g, x) ∈ (s.frontLegs fun l => l.state == .queued && l.plate == some p) ↔
    Waiting s g x ∧ x.plate = some p := by
  rw [mem_frontLegs, Bool.and_eq_true, beq_iff_eq, beq_iff_eq, waiting_iff, and_assoc]

theorem mem_transferLegs : (g, x) ∈ (s.inWalkOrder
      (s.frontLegs fun l => l.state == .queued && l.kind == .transferOut && s.plateSound l)) ↔ WaitingOut s g x := by
  simp only [mem_inWalkOrder, mem_frontLegs, Bool.and_eq_true, beq_iff_eq, plateSound_iff, WaitingOut, waiting_iff,
    and_assoc]

theorem cartPlateBay_none {p : Handle} (h : ∀ g x, Waiting s g x → x.plate ≠ some p) : s.cartPlateBay p = none := by
  unfold State.cartPlateBay
  split
  next g x rest he =>
    obtain ⟨hw, hp⟩ := mem_cartLegs.1 (he ▸ List.mem_cons_self)
    exact (h g x hw hp).elim
  · rfl

theorem cartPlateBay_some {p : Handle} (hw : Waiting s g x) (hp : x.plate = some p)
    (honly : ∀ e y, Waiting s e y → y.plate = some p → y.bay = x.bay) : s.cartPlateBay p = some x.bay := by
  unfold State.cartPlateBay
  split
  next e y rest he =>
    obtain ⟨hw', hp'⟩ := mem_cartLegs.1 (he ▸ List.mem_cons_self)
    rw [honly e y hw' hp']
  next he =>
    have := mem_cartLegs.2 ⟨hw, hp⟩
    rw [he] at this
    cases this

theorem transferBay_none (h : ∀ g x, ¬WaitingOut s g x) : s.transferBay = none := by
  unfold State.transferBay
  split
  next g x rest he => exact (h g x (mem_transferLegs.1 (he ▸ List.mem_cons_self))).elim
  · rfl

/-- The first in walk order is of the bay of a leg that comes before every leg of the other bay. -/
theorem transferBay_some (hx : WaitingOut s g x)
    (hfirst : ∀ e y, WaitingOut s e y → y.bay = x.bay ∨ keysBefore (s.walkKeys x) (s.walkKeys y) = true) :
    s.transferBay = some x.bay := by
  have hmem := mem_transferLegs.2 hx
  unfold State.transferBay
  split
  next e y rest he =>
    have hy := mem_transferLegs.1 (he ▸ List.mem_cons_self)
    rcases hfirst e y hy with hbay | hbefore
    · rw [hbay]
    · have hsorted := inWalkOrder_pairwise (s := s)
        (s.frontLegs fun l => l.state == .queued && l.kind == .transferOut && s.plateSound l)
      rw [he] at hmem hsorted
      obtain ⟨hhead, -⟩ := List.pairwise_cons.1 hsorted
      rcases List.mem_cons.1 hmem with heq | hin
      · cases heq
        rfl
      · rw [hhead _ hin] at hbefore
        cases hbefore
  next he =>
    rw [he] at hmem
    cases hmem

/-- What Next Trip does for a trip that it settled on. -/
theorem nextTrip_eq (k : Asker) : nextTrip k () s = match s.trip with
    | .go bay => .now { s with cart := { s.cart with side := none } } .done [.choice 0, .choice bay.num]
    | .stay => .now s .done [.choice 1] := by
  unfold nextTrip
  cases s.trip <;> rfl

/-- The cart stays. -/
abbrev Stays (s : State) (a : Nat) (st : Station) (tag : Byte) : Prop :=
  ∃ t, exec (.nextTrip tag (.fields ())) s = .next t ∧ Immediate s t a st tag .done [.choice 1]
    ∧ OnlyChanges lineFields s t

/-- The cart is wanted at a side. -/
abbrev Wants (s : State) (a : Nat) (st : Station) (tag : Byte) (bay : Bay) : Prop :=
  if s.cart.side = some bay then Stays s a st tag
  else
    ∃ t, exec (.nextTrip tag (.fields ())) s = .next t ∧ t.cart = { s.cart with side := none }
      ∧ Immediate s t a st tag .done [.choice 0, .choice (match bay with
          | .a => 0
          | .b => 1)]
      ∧ OnlyChanges (lineFields ++ [.cart]) s t

theorem cart_frame (c : Cart) : OnlyChanges [.cart] s { s with cart := c } := by
  intro f hf
  cases f <;> first | rfl | exact absurd (by decide) hf

theorem trip_heard : (s.heard a).trip = s.trip := read_of_line State.trip heard_line

theorem stays_of_trip (hasks : Asks reqNextTrip s a st) (ht : s.trip = .stay) : Stays s a st tag :=
  request_unchanged hasks (by rw [nextTrip_eq, trip_heard, ht])

theorem wants_of_trip (hasks : Asks reqNextTrip s a st) (ht : s.trip = s.tripTo (some bay)) :
    Wants s a st tag bay := by
  rw [State.tripTo] at ht
  unfold Wants
  split
  next hside => exact stays_of_trip hasks (by rw [ht, if_pos hside])
  next hside =>
    rw [if_neg hside] at ht
    have hbody : nextTrip (askerOf a st tag) () (s.heard a) =
        .now { s.heard a with cart := { (s.heard a).cart with side := none } } .done [.choice 0, .choice bay.num] := by
      rw [nextTrip_eq, trip_heard, ht]
    obtain ⟨t, hexec, himm, hframe, hline⟩ := request_answers (own := [.cart]) (tag := tag) hasks hbody
      (cart_frame _) (by decide)
    refine ⟨t, hexec, (read_of_line State.cart hline).trans (by rw [heard_cart]), ?_, hframe⟩
    cases bay <;> exact himm

/-- Next Trip by the legs in hand and the cart's contents. -/
theorem trip_of_free (hfree : ¬CartInUse s) : s.trip = match s.cart.plates with
    | [p] => s.tripTo (s.cartPlateBay p)
    | [] => if s.cart.incoming.isEmpty then s.tripTo s.transferBay else .stay
    | _ => .stay := by
  unfold State.trip
  rw [if_neg (mt cartInUse_iff.1 hfree)] <;> rfl

theorem trip_of_inUse (huse : CartInUse s) : s.trip = .stay := by
  unfold State.trip
  rw [if_pos (cartInUse_iff.2 huse)]

/-! ## Cart Arrived (R149) -/

/-- The cart stands at a side, and the legs that wait for it there have it. -/
abbrev StandsAt (bay : Bay) (s t : State) : Prop :=
  t.cart = { s.cart with side := some bay } ∧ t.reaches bay .cart = true ∧ t.reaches bay.other .cart = false
    ∧ t.cartReady bay = s.cartHasRoom ∧ t.cartReady bay.other = false

theorem standsAt_arrived (bay : Bay) : StandsAt bay s { s with cart := { s.cart with side := some bay } } := by
  cases bay <;>
    simp [StandsAt, State.reaches, State.cartReady, State.cartHasRoom, Bay.other]

/-- Settles O46: the trip by the legs at the head of their batches, the arrival by the cart's new side. -/
theorem cartSentAndArrives : Obligations.CartSentAndArrives := by
  unfold Obligations.CartSentAndArrives
  refine ⟨fun s a st tag hasks => ?_, fun s a st tag v hasks => ⟨fun bay hbay => ?_, fun hv => ?_⟩⟩
  · refine ⟨fun huse => stays_of_trip hasks (trip_of_inUse huse), fun p hfree hplates => ?_,
      fun hfree hplates hincoming => ?_, fun hfull => ?_⟩
    · have htrip := trip_of_free hfree
      rw [hplates] at htrip
      exact ⟨fun g x hw hp honly => wants_of_trip hasks
        (htrip.trans (congrArg s.tripTo (cartPlateBay_some hw hp honly))),
        fun hnone => stays_of_trip hasks (htrip.trans (congrArg s.tripTo (cartPlateBay_none hnone)))⟩
    · have htrip := trip_of_free hfree
      rw [hplates, hincoming] at htrip
      exact ⟨fun g x hx hfirst => wants_of_trip hasks (htrip.trans (congrArg s.tripTo (transferBay_some hx hfirst))),
        fun hnone => stays_of_trip hasks (htrip.trans (congrArg s.tripTo (transferBay_none hnone)))⟩
    · by_cases huse : CartInUse s
      · exact stays_of_trip hasks (trip_of_inUse huse)
      · refine stays_of_trip hasks ((trip_of_free huse).trans ?_)
        rcases hplates : s.cart.plates with _ | ⟨p, _ | ⟨q, rest⟩⟩
        · rcases hfull with hmany | ⟨-, hincoming⟩
          · rw [hplates] at hmany
            exact absurd hmany (by simp)
          · exact if_neg (by simpa using hincoming)
        · rw [hplates] at hfull
          exact absurd hfull (by simp)
        · rfl
  · have hnum : Bay.ofNum v = some bay := by
      obtain ⟨rfl, rfl⟩ | ⟨rfl, rfl⟩ := hbay <;> rfl
    have hbody : cartArrived (askerOf a st tag) v (s.heard a) =
        .now { s.heard a with cart := { (s.heard a).cart with side := some bay } } .done [] := by
      rw [cartArrived, hnum]
    obtain ⟨t, hexec, himm, hframe, hline⟩ := request_answers (own := [.cart]) (tag := tag) hasks hbody
      (cart_frame _) (by decide)
    obtain ⟨h1, h2, h3, h4, h5⟩ := taken_of_line (StandsAt bay) (standsAt_arrived bay) hline
    refine ⟨t, hexec, h1, h2, h3, h4, h5, himm, hframe, fun hside => ?_⟩
    intro f hf
    by_cases hcart : f = .cart
    · subst hcart
      show t.cart = s.cart
      rw [h1, ← hside]
    · exact hframe f fun hm => (List.mem_append.1 hm).elim hf fun hm => hcart (List.mem_singleton.1 hm)
  · have hnum : Bay.ofNum v = none := by
      match v, hv with
      | m + 2, _ => rfl
    exact request_unchanged hasks (by rw [cartArrived, hnum] <;> rfl)

end Sys2Proof.Proofs.Walk
end

section
/-! PROOFS. Crane Report and the claims of the runways (sections 8.2 and 8.3). -/

namespace Sys2Proof.Proofs.Zones

open Sys2Proof Sys2Proof.Machine
open Sys2Proof.Proofs.Pallets (askerOf)
open Sys2Proof.Proofs.Requests Sys2Proof.Proofs.Blocks

variable {s u : State} {c d p : Nat} {k : Crane}

/-! ## Cranes changed one way after another -/

theorem insideClaim_iff : s.insideClaim c p = true ↔ Covers (s.crane c) (idleAt s c p) := by
  unfold State.insideClaim Covers
  rcases (s.crane c).claim with _ | q
  · simp
  · simp only [Claim.within, Bool.and_eq_true, decide_eq_true_iff, Option.some.injEq, exists_eq_left']
    rfl

/-- A crane's record replaced, and no other. -/
theorem modifyCrane_reads (hc : c ≤ 5) (f : Crane → Crane) :
    (s.modifyCrane c f).crane c = f (s.crane c) ∧ ∀ d, d ≠ c → (s.modifyCrane c f).crane d = s.crane d :=
  ⟨by rw [modifyCrane_crane hc, if_pos rfl], fun d hd => by rw [modifyCrane_crane hc, if_neg hd]⟩

theorem breach_reads (hc : c ≤ 5) : (s.breach c).crane c = { s.crane c with stopped := true }
    ∧ (∀ d, d ≠ c → (s.breach c).crane d = s.crane d)
    ∧ (s.breach c).flags = if (s.crane c).stopped then s.flags else s.flags ||| Alarm.zoneBreach.bit := by
  have hcrane (d : Nat) : (s.raiseIf (!(s.crane c).stopped) .zoneBreach).crane d = s.crane d := by
    simp [State.crane]
  obtain ⟨hself, hothers⟩ := modifyCrane_reads (s := s.raiseIf (!(s.crane c).stopped) .zoneBreach) hc
    fun k => { k with stopped := true }
  refine ⟨hself.trans (by rw [hcrane]), fun d hd => (hothers d hd).trans (hcrane d), ?_⟩
  have hflags : (s.breach c).flags = (s.raiseIf (!(s.crane c).stopped) .zoneBreach).flags := rfl
  rw [hflags]
  unfold State.raiseIf
  rcases (s.crane c).stopped with _ | _ <;> rfl

/-! ## Crane Report (R155, R156) -/

/-- What a report at `p` makes of crane `c`, whose record was `k`, by the claims of `u`. -/
abbrev Judged (u : State) (c p : Nat) (k : Crane) (q : Claim) (s t : State) : Prop :=
  (k.state = .offline → Apart u c q →
      t.crane c = { k with state := .idle, position := some p, claim := some q, stopped := false } ∧ t.flags = s.flags)
    ∧ (k.state = .offline → ¬Apart u c q →
      t.crane c = { k with stopped := true } ∧ t.flags = s.flags ||| Alarm.zoneBreach.bit)
    ∧ (k.state = .idle → Apart u c q →
      t.crane c = { k with position := some p, claim := some q, stopped := false } ∧ t.flags = s.flags)
    ∧ (k.state = .idle → ¬Apart u c q →
      t.crane c = { k with position := some p, stopped := true }
        ∧ t.flags = (if k.stopped then s.flags else s.flags ||| Alarm.zoneBreach.bit))
    ∧ (k.state ∈ [CraneState.assigned, .loaded, .check] → Covers k q →
      t.crane c = { k with position := some p, stopped := false } ∧ t.flags = s.flags)
    ∧ (k.state ∈ [CraneState.assigned, .loaded, .check] → ¬Covers k q →
      t.crane c = { k with position := some p, stopped := true }
        ∧ t.flags = (if k.stopped then s.flags else s.flags ||| Alarm.zoneBreach.bit))
    ∧ ∀ d, d ≠ c → t.crane d = s.crane d

/-- The crane at the position it reported. -/
abbrev placedAt (s : State) (c p : Nat) : State := s.modifyCrane c fun k => { k with position := some p }

theorem reportOffline_judged (hc : c ≤ 5) (hstate : (s.crane c).state = .offline) :
    Judged s c p (s.crane c) (idleAt s c p) s (s.reportOffline c p) := by
  have hgrant : s.grantable c (s.idleClaim c p) = true ↔ Apart s c (idleAt s c p) := grantable_iff _
  unfold State.reportOffline
  simp only [Judged, hstate, hgrant, reduceCtorEq, false_imp_iff, true_imp_iff, List.mem_cons, List.not_mem_nil,
    or_false,
    true_and]
  split
  next hgrants =>
    obtain ⟨hself, hothers⟩ := modifyCrane_reads (s := s) hc fun k =>
      { k with state := .idle, position := some p, claim := some (s.idleClaim c p), stopped := false }
    exact ⟨fun _ => ⟨hself, rfl⟩, fun hno => (hno (hgrant.1 hgrants)).elim, hothers⟩
  next hmeets =>
    obtain ⟨hself, hothers⟩ := modifyCrane_reads (s := s.raise .zoneBreach) hc fun k => { k with stopped := true }
    exact ⟨fun hapart => (hmeets (hgrant.2 hapart)).elim, fun _ => ⟨hself.trans (by rw [← hstate]; rfl), rfl⟩, hothers⟩

theorem reportIdle_judged (hc : c ≤ 5) (hstate : (s.crane c).state = .idle) :
    Judged s c p (s.crane c) (idleAt s c p) s (s.reportIdle c p) := by
  have hgrant : s.grantable c (s.idleClaim c p) = true ↔ Apart s c (idleAt s c p) := grantable_iff _
  obtain ⟨hplaced, hplacedOthers⟩ := modifyCrane_reads (s := s) hc fun k => { k with position := some p }
  unfold State.reportIdle
  simp only [Judged, hstate, hgrant, reduceCtorEq, false_imp_iff, true_imp_iff, List.mem_cons, List.not_mem_nil,
    or_false,
    true_and]
  split
  next hgrants =>
    obtain ⟨hclaim, hclaimOthers⟩ := modifyCrane_reads (s := placedAt s c p) hc
      fun k => { k with claim := some (s.idleClaim c p) }
    obtain ⟨hself, hothers⟩ := modifyCrane_reads (s := (placedAt s c p).putClaim c (s.idleClaim c p)) hc
      fun k => { k with stopped := false }
    refine ⟨fun _ => ⟨hself.trans ?_, rfl⟩, fun hno => (hno (hgrant.1 hgrants)).elim,
      fun d hd => (hothers d hd).trans ((hclaimOthers d hd).trans (hplacedOthers d hd))⟩
    rw [State.putClaim, hclaim, hplaced, ← hstate]
    rfl
  next hmeets =>
    obtain ⟨hself, hothers, hflags⟩ := breach_reads (s := placedAt s c p) hc
    rw [hplaced] at hself hflags
    exact ⟨fun hapart => (hmeets (hgrant.2 hapart)).elim, fun _ => ⟨hself.trans (by rw [← hstate]), hflags⟩,
      fun d hd => (hothers d hd).trans (hplacedOthers d hd)⟩

theorem reportBusy_judged (hc : c ≤ 5) (hstate : (s.crane c).state ∈ [CraneState.assigned, .loaded, .check]) :
    Judged s c p (s.crane c) (idleAt s c p) s (s.reportBusy c p) := by
  obtain ⟨hplaced, hplacedOthers⟩ := modifyCrane_reads (s := s) hc fun k => { k with position := some p }
  have hoff : (s.crane c).state ≠ .offline := fun h => by rw [h] at hstate; exact absurd hstate (by decide)
  have hidle : (s.crane c).state ≠ .idle := fun h => by rw [h] at hstate; exact absurd hstate (by decide)
  unfold State.reportBusy
  simp only [Judged, hoff, hidle, hstate, insideClaim_iff, false_imp_iff, true_imp_iff, true_and]
  split
  next hinside =>
    obtain ⟨hself, hothers⟩ := modifyCrane_reads (s := placedAt s c p) hc fun k => { k with stopped := false }
    exact ⟨fun _ => ⟨hself.trans (by rw [hplaced]), rfl⟩, fun hno => (hno (insideClaim_iff.1 hinside)).elim,
      fun d hd => (hothers d hd).trans (hplacedOthers d hd)⟩
  next houtside =>
    obtain ⟨hself, hothers, hflags⟩ := breach_reads (s := placedAt s c p) hc
    rw [hplaced] at hself hflags
    exact ⟨fun hcovers => (houtside (insideClaim_iff.2 hcovers)).elim, fun _ => ⟨hself, hflags⟩,
      fun d hd => (hothers d hd).trans (hplacedOthers d hd)⟩

/-- A report is judged by the crane's state. -/
theorem report_judged (hc : c ≤ 5) : Judged s c p (s.crane c) (idleAt s c p) s (s.report c p) := by
  unfold State.report
  rcases hstate : (s.crane c).state with _ | _ | _ | _ | _
  · exact reportOffline_judged hc hstate
  · exact reportIdle_judged hc hstate
  all_goals exact reportBusy_judged hc (by rw [hstate]; decide)

theorem clampPosition_eq (bay : Bay) (v : Int) : s.clampPosition bay v =
    (min (max v 0) (match bay with
      | .a => s.hall.runways.onA
      | .b => s.hall.runways.onB : Nat)).toNat := by
  unfold State.clampPosition
  cases bay <;> dsimp only [PerBay.get] <;> split <;> omega

theorem claimTokens_eq (o : Option Claim) : claimTokens o = match o with
    | none => [.choice 0]
    | some q => [.choice 1, .num 2 q.lo, .num 2 q.hi] := by
  cases o <;> rfl

theorem permit_eq : s.permit c = if (s.crane c).claim = none ∨ (s.crane c).stopped = true then .stop else .go := by
  unfold State.permit
  rcases (s.crane c).claim with _ | q
  · simp
  · simp

/-- Settles O47: by the crane's state, and by what its idle claim at the position meets. -/
theorem craneReportJudged : Obligations.CraneReportJudged := by
  unfold Obligations.CraneReportJudged
  rintro s u a st tag v c p k hasks rfl hc hc5 rfl hp
  have hunit : (askerOf a st tag).unitNum = c := hc.symm
  have hbay : (s.heard a).craneBay c = (s.craneCfg c).runway := read_of_line (·.craneBay c) heard_line
  have hclamp : (s.heard a).clampPosition ((s.heard a).craneBay c) v = p := by
    rw [hp, clampPosition_eq, hbay, heard_hall] <;> rfl
  have hcrane : (s.heard a).crane c = s.crane c := read_of_line (·.crane c) heard_line
  have hidle : idleAt (s.heard a) c p = idleAt s c p := read_of_line (idleAt · c p) heard_line
  have hbody : craneReport (askerOf a st tag) v (s.heard a) = .now ((s.heard a).report c p) .done
      (.num 2 p :: claimTokens (((s.heard a).report c p).crane c).claim) := by
    rw [craneReport, hunit, hclamp]
  obtain ⟨t, hexec, himm, hframe, hline⟩ := request_answers (own := [.cranes, .flags]) (tag := tag) hasks hbody
    (report_frame c p) (by decide)
  have hjudged := report_judged (s := s.heard a) (p := p) hc5
  rw [hcrane, hidle] at hjudged
  obtain ⟨h1, h2, h3, h4, h5, h6, h7⟩ := taken_of_line (Judged (s.heard a) c p (s.crane c) (idleAt s c p)) hjudged hline
  have hcraneT : t.crane c = ((s.heard a).report c p).crane c := read_of_line (·.crane c) hline
  rw [← hcraneT, claimTokens_eq] at himm
  exact ⟨t, hexec, h1, h2, h3, h4, h5, h6, h7, himm, permit_eq, hframe⟩

end Sys2Proof.Proofs.Zones
end

section
/-! PROOFS. The checks of the reports about legs (sections 7.6 and 7.7), each block by the case it turns on. -/

namespace Sys2Proof.Proofs.Reports

open Sys2Proof Sys2Proof.Machine
open Sys2Proof.Proofs.Pallets (askerOf request_unchanged)
open Sys2Proof.Proofs.Requests Sys2Proof.Proofs.Blocks
open Sys2Proof.Proofs.Rooms (bedBare_iff cartHasRoom_iff)

variable {s : State} {k : Asker} {h g : Handle} {l : Leg} {p : Place} {a : Nat} {st : Station} {tag : Byte}

/-! ## Set Down (R141) -/

theorem setDownPlaceOk_iff : setDownPlaceOk p = true ↔ InRange p := by
  cases p <;> simp [setDownPlaceOk, InRange]

theorem setDown_badRequest (hp : ¬InRange p) : setDownReport k ⟨h, p⟩ s = .now s .badRequest [] := by
  unfold setDownReport
  rw [if_pos (by simpa [← setDownPlaceOk_iff] using hp)] <;> rfl

theorem setDown_noSuch (hp : InRange p) (hl : s.leg? h = none) : setDownReport k ⟨h, p⟩ s = .now s .noSuch [] := by
  unfold setDownReport
  rw [if_neg (by simpa [← setDownPlaceOk_iff] using hp)]
  simp only [hl] <;> rfl

/-- Set Down at a place in range, of a leg found. -/
theorem setDown_known (hp : InRange p) (hl : s.leg? h = some l) : setDownReport k ⟨h, p⟩ s =
    if l.crane ≠ some k.unitNum then .now s .wrongState []
    else if l.plate.isSome && s.pfw then .now s .powerDown []
    else
      match l.state with
      | .check => s.setBack h l p
      | .lifted => s.setDownLifted h l p
      | _ => .now s .wrongState [] := by
  unfold setDownReport
  rw [if_neg (by simpa [← setDownPlaceOk_iff] using hp)]
  simp only [hl] <;> rfl

theorem setDown_notHis (hp : InRange p) (hl : s.leg? h = some l) (hc : l.crane ≠ some k.unitNum) :
    setDownReport k ⟨h, p⟩ s = .now s .wrongState [] := (setDown_known hp hl).trans (if_pos hc)

theorem setDown_powerDown (hp : InRange p) (hl : s.leg? h = some l) (hc : l.crane = some k.unitNum)
    (hplate : l.plate ≠ none) (hpfw : s.pfw = true) : setDownReport k ⟨h, p⟩ s = .now s .powerDown [] := by
  rw [setDown_known hp hl, if_neg (not_not.2 hc), if_pos (by simp [Option.isSome_iff_ne_none.2 hplate, hpfw])]

/-- Set Down that comes to its judgement, by the state of the leg. -/
theorem setDown_judges (hp : InRange p) (hl : s.leg? h = some l) (hc : l.crane = some k.unitNum)
    (hpower : l.plate = none ∨ s.pfw = false) : setDownReport k ⟨h, p⟩ s =
      match l.state with
      | .check => s.setBack h l p
      | .lifted => s.setDownLifted h l p
      | _ => .now s .wrongState [] := by
  rw [setDown_known hp hl, if_neg (not_not.2 hc), if_neg (by rcases hpower with h | h <;> simp [h])]

/-! ## Lifted (R138) -/

theorem lifted_noSuch {v : Int} (hl : s.leg? h = none) : liftedReport k ⟨h, v⟩ s = .now s .noSuch [] := by
  unfold liftedReport
  simp only [hl] <;> rfl

theorem lifted_notHis {v : Int} (hl : s.leg? h = some l) (hc : l.crane ≠ some k.unitNum) :
    liftedReport k ⟨h, v⟩ s = .now s .wrongState [] := by
  unfold liftedReport
  simp only [hl]
  exact if_pos hc

/-- Lifted of a leg of the crane, by the state of the leg. -/
theorem lifted_known {v : Int} (hl : s.leg? h = some l) (hc : l.crane = some k.unitNum) : liftedReport k ⟨h, v⟩ s =
    match l.state with
    | .lifted => .complete s .done []
    | .check => .complete s .mismatch (mismatchTokens (l.checkLoad.getD 0) (l.expected.getD 0))
    | .assigned =>
      if l.plate.isSome && s.pfw then .now s .powerDown []
      else if !s.liftable l then .now s .blocked []
      else if loadAgrees (l.expected.getD 0) (clampLoad v) then
        l.reported (s.lift k.unitNum h l (clampLoad v) true) .done []
      else l.reported (s.lift k.unitNum h l (clampLoad v) false) .mismatch
        (mismatchTokens (clampLoad v) (l.expected.getD 0))
    | _ => .now s .wrongState [] := by
  unfold liftedReport
  simp only [hl]
  rw [if_neg (not_not.2 hc)] <;> rfl

theorem lifted_wrongState {v : Int} (hl : s.leg? h = some l) (hc : l.crane = some k.unitNum) (h1 : l.state ≠ .lifted)
    (h2 : l.state ≠ .check) (h3 : l.state ≠ .assigned) : liftedReport k ⟨h, v⟩ s = .now s .wrongState [] := by
  rw [lifted_known hl hc]
  rcases hstate : l.state with _ | _ | _ | _ | _ | _ | _ <;> simp_all

theorem lifted_powerDown {v : Int} (hl : s.leg? h = some l) (hc : l.crane = some k.unitNum)
    (hstate : l.state = .assigned) (hplate : l.plate ≠ none) (hpfw : s.pfw = true) :
    liftedReport k ⟨h, v⟩ s = .now s .powerDown [] := by
  rw [lifted_known hl hc, hstate]
  exact if_pos (by simp [Option.isSome_iff_ne_none.2 hplate, hpfw])

theorem lifted_blocked {v : Int} (hl : s.leg? h = some l) (hc : l.crane = some k.unitNum)
    (hstate : l.state = .assigned) (hpower : l.plate = none ∨ s.pfw = false) (hlift : s.liftable l = false) :
    liftedReport k ⟨h, v⟩ s = .now s .blocked [] := by
  rw [lifted_known hl hc, hstate]
  exact (if_neg (by rcases hpower with h | h <;> simp [h])).trans (if_pos (by simp [hlift]))

/-- A plate that its resolved source does not give. -/
abbrev Missing (s : State) (l : Leg) (q : Handle) (src : Place) : Prop :=
  match src with
  | .slot k => (s.slot k).stack.getLast? ≠ some q
  | .bed b d => q ∉ (s.bed b d).plates
  | .cart => q ∉ s.cart.plates ∨ s.cart.side ≠ some l.bay
  | _ => True

theorem not_liftable_plate {q : Handle} {src : Place} (hq : l.plate = some q) (hsrc : l.source = some src)
    (hmissing : Missing s l q src) : s.liftable l = false := by
  unfold State.liftable
  simp only [hq, hsrc]
  cases src <;> simp_all [imp_iff_not_or]

theorem not_liftable_skeleton {b d : Nat} (hplate : l.plate = none) (hbed : l.sourceBed = some (b, d))
    (hmark : (s.bed b d).skeleton = false) : s.liftable l = false := by
  unfold State.liftable
  simp only [hplate, hbed, hmark]

/-! ## Accept Load, Leg Fault, Cancel Leg (R140, R143, R144) -/

theorem acceptLoad_noSuch (hl : s.leg? h = none) : acceptLoad k h s = .now s .noSuch [] := by
  unfold acceptLoad
  simp only [hl] <;> rfl

theorem acceptLoad_wrongState (hl : s.leg? h = some l) (hstate : l.state ≠ .check) :
    acceptLoad k h s = .now s .wrongState [] := by
  unfold acceptLoad
  simp only [hl]
  rcases hv : l.state with _ | _ | _ | _ | _ | _ | _ <;> first | rfl | exact absurd hv hstate

theorem legFault_noSuch (hl : s.leg? h = none) : legFault k h s = .now s .noSuch [] := by
  unfold legFault
  simp only [hl] <;> rfl

theorem legFault_known (hl : s.leg? h = some l) : legFault k h s =
    if l.crane = some k.unitNum ∧ l.state = .assigned then .now (s.requeueLeg h) .done []
      else .now s .wrongState [] := by
  unfold legFault
  simp only [hl] <;> rfl

theorem cancelLeg_noSuch (hl : s.leg? h = none) : cancelLeg k h s = .now s .noSuch [] := by
  unfold cancelLeg
  simp only [hl] <;> rfl

theorem cancelLeg_known (hl : s.leg? h = some l) : cancelLeg k h s =
    match l.state with
    | .queued => if s.inCommitted l then .now (s.endLeg h .cancelled) .done [] else .now s .wrongState []
    | .assigned => .now (s.requeueLeg h) .done []
    | _ => .now s .wrongState [] := by
  unfold cancelLeg
  simp only [hl] <;> rfl

theorem cancelLeg_wrongState (hl : s.leg? h = some l) (hno : (l.state ≠ .queued ∧ l.state ≠ .assigned)
    ∨ (l.state = .queued ∧ ∃ b, s.batch? l.batch = some b ∧ b.state = .opened)) :
    cancelLeg k h s = .now s .wrongState [] := by
  rw [cancelLeg_known hl]
  rcases hno with ⟨h1, h2⟩ | ⟨hq, b, hb, ho⟩
  · rcases hv : l.state with _ | _ | _ | _ | _ | _ | _ <;> first | rfl | exact absurd hv h1 | exact absurd hv h2
  · rw [hq]
    exact if_neg (by simp [State.inCommitted, hb, ho])

/-! ## Break Hook (R146) -/

/-- A place that Break Hook lists, in range. -/
abbrev Listed (p : Place) : Prop :=
  match p with
  | .slot k => k ≤ 95
  | .bed b d => b ≤ 7 ∧ d ≤ 1
  | .cart => True
  | .nowhere => True
  | .scrapBin => True
  | _ => False

theorem breakHookPlaceOk_iff : breakHookPlaceOk p = true ↔ Listed p := by
  cases p <;> simp [breakHookPlaceOk, Listed]

section BreakHook

variable {f : BreakHookF}

theorem breakHook_badRequest (hf : 5 < f.crane ∨ ¬Listed f.place) : breakHook k f s = .now s .badRequest [] := by
  unfold breakHook
  rw [if_pos (by simpa [← breakHookPlaceOk_iff] using hf)] <;> rfl

/-- A crane whose hook may be broken: SILENT or OFFLINE. -/
abbrev Out (s : State) (c : Nat) : Prop := s.craneSilent c = true ∨ (s.crane c).state = .offline

theorem out_test (c : Nat) : (!(s.craneSilent c || (s.crane c).state == .offline)) = true ↔ ¬Out s c := by
  rw [Bool.not_eq_true', Bool.eq_false_iff, Ne, Bool.or_eq_true, beq_iff_eq]

theorem breakHook_notOut (hc : f.crane ≤ 5) (hp : Listed f.place) (hout : ¬Out s f.crane) :
    breakHook k f s = .now s .wrongState [] := by
  unfold breakHook
  rw [if_neg (by simpa [breakHookPlaceOk_iff.2 hp] using hc), if_pos ((out_test _).2 hout)] <;> rfl

/-- Break Hook of a plate, on a crane that is out. -/
theorem breakHook_plate {q : Handle} (hc : f.crane ≤ 5) (hp : Listed f.place) (hout : Out s f.crane)
    (hq : f.plate = some q) : breakHook k f s =
      if s.pfw then .now s .powerDown []
      else
        match s.plate? q with
        | none => .now s .noSuch []
        | some r =>
          if r.st.location ≠ .hook f.crane then .now s .wrongState []
          else if !s.takesBroken f.place then .now s .wrongPlace []
          else .waits (s.breakPlate q r f.place) [.state q.idx] .done [] := by
  unfold breakHook
  rw [if_neg (by simpa [breakHookPlaceOk_iff.2 hp] using hc), if_neg (mt (out_test _).1 (not_not.2 hout))]
  simp only [hq] <;> rfl

/-- Break Hook of a skeleton, on a crane that is out. -/
theorem breakHook_skeleton (hc : f.crane ≤ 5) (hp : Listed f.place) (hout : Out s f.crane)
    (hq : f.plate = none) : breakHook k f s =
      match s.skeletonOnHook f.crane with
      | none => .now s .wrongState []
      | some (h, l) => s.breakSkeleton h l f.place := by
  unfold breakHook
  rw [if_neg (by simpa [breakHookPlaceOk_iff.2 hp] using hc), if_neg (mt (out_test _).1 (not_not.2 hout))]
  simp only [hq] <;> rfl

end BreakHook

/-- A place that takes no plate off a broken hook. -/
theorem takesBroken_false (h : match p with
    | .slot k => s.hasRoom k none = false
    | .bed b d => (s.bed b d).plates ≠ [] ∨ (s.bed b d).skeleton = true ∨ s.bedJob b d ≠ none
    | .cart => s.cart.plates ≠ [] ∨ s.cart.incoming ≠ []
    | .nowhere => False
    | _ => True) : s.takesBroken p = false := by
  rw [Bool.eq_false_iff]
  unfold State.takesBroken
  cases p <;> simp_all [bedBare_iff, cartHasRoom_iff, imp_iff_not_or, or_assoc]

theorem skeletonOnHook_none {c : Nat} (h : ∀ g l, (s.crane c).leg = some g → s.leg? g = some l →
    l.kind ≠ .clearSkeleton ∨ l.state.onHook = false) : s.skeletonOnHook c = none := by
  unfold State.skeletonOnHook
  split
  · rfl
  next g hg =>
    split
    next l hl =>
      rw [if_neg]
      rintro ⟨h1, h2⟩
      rcases h g l hg hl with h | h
      · exact h h1
      · rw [h] at h2
        cases h2
    · rfl

theorem skeletonOnHook_some {c : Nat} (hg : (s.crane c).leg = some g) (hl : s.leg? g = some l)
    (hkind : l.kind = .clearSkeleton) (hhook : l.state.onHook = true) : s.skeletonOnHook c = some (g, l) := by
  unfold State.skeletonOnHook
  simp only [hg, hl]
  exact if_pos ⟨hkind, hhook⟩

theorem breakSkeleton_wrongPlace (hbin : p ≠ .scrapBin) (hbed : ∀ b d, p = .bed b d → l.sourceBed ≠ some (b, d)) :
    s.breakSkeleton h l p = .now s .wrongPlace [] := by
  unfold State.breakSkeleton
  split
  · exact absurd rfl hbin
  next b d => exact if_neg (hbed b d rfl)
  · rfl

/-- Settles O42: each request by the first of its checks that fails. -/
theorem legReportsRefused : Obligations.LegReportsRefused := by
  unfold Obligations.LegReportsRefused
  intro s a st tag h
  have hleg (g : Handle) : (s.heard a).leg? g = s.leg? g := by simp
  have hpfw : (s.heard a).pfw = s.pfw := heard_pfw ..
  refine ⟨fun p hasks => ?_, fun hasks => ?_, fun hasks => ?_, fun hasks => ?_, fun load hasks => ?_, fun f hasks => ?_⟩
  · refine ⟨fun hp => request_unchanged hasks (setDown_badRequest hp),
      fun hp hl => request_unchanged hasks (setDown_noSuch hp ((hleg h).trans hl)), fun l hp hl => ?_⟩
    rw [← hleg h] at hl
    refine ⟨fun hc => request_unchanged hasks (setDown_notHis hp hl hc), fun hc hplate hdown => ?_,
      fun hc hpower hhook => ?_⟩
    · exact request_unchanged hasks (setDown_powerDown hp hl hc hplate (hpfw.trans hdown))
    · refine request_unchanged hasks ((setDown_judges (k := askerOf a st tag) hp hl hc (by rwa [hpfw])).trans ?_)
      rcases hv : l.state with _ | _ | _ | _ | _ | _ | _ <;> first | rfl | (rw [hv] at hhook; cases hhook)
  · exact ⟨fun hl => request_unchanged hasks (acceptLoad_noSuch ((hleg h).trans hl)), fun l hl hstate =>
      request_unchanged hasks (acceptLoad_wrongState ((hleg h).trans hl) hstate)⟩
  · refine ⟨fun hl => request_unchanged hasks (legFault_noSuch ((hleg h).trans hl)), fun l hl hno => ?_⟩
    exact request_unchanged hasks ((legFault_known ((hleg h).trans hl)).trans
      (if_neg fun ⟨hc, hstate⟩ => hno.elim (· hc) (· hstate)))
  · exact ⟨fun hl => request_unchanged hasks (cancelLeg_noSuch ((hleg h).trans hl)), fun l hl hno =>
      request_unchanged hasks (cancelLeg_wrongState ((hleg h).trans hl) (by simpa using hno))⟩
  · refine ⟨fun hl => request_unchanged hasks (lifted_noSuch ((hleg h).trans hl)), fun l hl => ?_⟩
    rw [← hleg h] at hl
    refine ⟨fun hc => request_unchanged hasks (lifted_notHis hl hc), fun hc hstate => ?_,
      fun first e hc hstate hfirst he => ?_, fun hc h1 h2 h3 => request_unchanged hasks
        (lifted_wrongState hl hc h1 h2 h3),
      fun hc hstate hplate hdown => request_unchanged hasks (lifted_powerDown hl hc hstate hplate (hpfw.trans hdown)),
      fun q src hc hstate hq hdown hsrc hmissing => ?_, fun b d hc hstate hplate hbed hmark => ?_⟩
    · have hbody := lifted_known (k := askerOf a st tag) (v := load) hl hc
      rw [hstate] at hbody
      obtain ⟨t, ht, honce, hframe, -⟩ := request_completes (own := []) (tag := tag) hasks hbody .refl (by decide)
      exact ⟨t, ht, honce, hframe.mono (by simp)⟩
    · have hbody := lifted_known (k := askerOf a st tag) (v := load) hl hc
      rw [hstate, hfirst, he] at hbody
      obtain ⟨t, ht, honce, hframe, -⟩ := request_completes (own := []) (tag := tag) hasks hbody .refl (by decide)
      exact ⟨t, ht, honce, hframe.mono (by simp)⟩
    · exact request_unchanged hasks (lifted_blocked hl hc hstate (.inr (hpfw.trans hdown))
        (not_liftable_plate hq hsrc ((read_of_line (Missing · l q src) heard_line).mpr hmissing)))
    · exact request_unchanged hasks (lifted_blocked hl hc hstate (.inl hplate) (not_liftable_skeleton hplate hbed
        ((congrArg Bed.skeleton (read_of_line (·.bed b d) heard_line)).trans hmark)))
  · dsimp only
    have hcrane : (s.heard a).crane f.crane = s.crane f.crane := read_of_line (·.crane f.crane) heard_line
    have hplate (q : Handle) : (s.heard a).plate? q = s.plate? q := by simp
    have hout (h : (s.heard a).craneSilent f.crane = true ∨ (s.crane f.crane).state = .offline) :
        Out (s.heard a) f.crane := by rwa [Out, hcrane]
    refine ⟨fun hf => request_unchanged hasks (breakHook_badRequest hf), fun hc hp hno => ?_,
      fun q hc hp ho hq => ⟨fun hdown => ?_, fun hdown hnone => ?_,
        fun r hdown hr => ⟨fun hloc => ?_, fun hloc htakes => ?_⟩⟩,
      fun hc hp ho hq => ⟨fun hnone => ?_, fun g l hg hl hkind hhook hbin hbed => ?_⟩⟩
    · exact request_unchanged hasks (breakHook_notOut hc hp (by rwa [Out, hcrane]))
    · exact request_unchanged hasks ((breakHook_plate hc hp (hout ho) hq).trans (if_pos (hpfw.trans hdown)))
    · refine request_unchanged hasks ((breakHook_plate hc hp (hout ho) hq).trans ?_)
      simp only [hpfw, hdown, hplate, hnone] <;> rfl
    · refine request_unchanged hasks ((breakHook_plate hc hp (hout ho) hq).trans ?_)
      simp only [hpfw, hdown, hplate, hr]
      exact if_pos hloc
    · have htakes' : (s.heard a).takesBroken f.place = false :=
        (read_of_line (·.takesBroken f.place) heard_line).trans (takesBroken_false htakes)
      refine request_unchanged hasks ((breakHook_plate hc hp (hout ho) hq).trans ?_)
      simp only [hpfw, hdown, hplate, hr, htakes']
      exact (if_neg (not_not.2 hloc))
    · refine request_unchanged hasks ((breakHook_skeleton hc hp (hout ho) hq).trans ?_)
      rw [skeletonOnHook_none fun g l hg hl => hnone g l (hcrane ▸ hg) ((hleg g).symm.trans hl)]
    · refine request_unchanged hasks ((breakHook_skeleton hc hp (hout ho) hq).trans ?_)
      rw [skeletonOnHook_some (g := g) (l := l) (by rw [hcrane, hg]) ((hleg g).trans hl) hkind hhook]
      exact breakSkeleton_wrongPlace hbin hbed

end Sys2Proof.Proofs.Reports
end

section
/-! PROOFS. A load taken up (section 7.6): the plate goes on the hook, or the skeleton mark goes, and the lift is
judged. -/

namespace Sys2Proof.Proofs.Lifts

open Sys2Proof Sys2Proof.Machine
open Sys2Proof.Proofs.Pallets (askerOf)
open Sys2Proof.Proofs.Requests Sys2Proof.Proofs.Blocks
open Sys2Proof.Proofs.Places Sys2Proof.Proofs.Reports

variable {s t u : State} {k : Asker} {h g p : Handle} {l : Leg} {r : PlateRec} {a c load : Nat} {st : Station}
  {tag : Byte}
  {agrees : Bool}

/-- An image handed over changes what no reader of the queue reads. -/
theorem read_enqueue {β : Type} (read : State → β) (i : ImageId)
    (hread : ∀ q, read { s with queue := q } = read s := by intros; rfl) : read (s.enqueue i) = read s := by
  have heq : s.enqueue i = { s with queue := (s.enqueue i).queue } := by
    unfold State.enqueue
    split <;> rfl
  rw [heq, hread]

/-! ## The plate goes on the hook -/

/-- What a source shows when a plate was lifted from it. -/
abbrev LiftedFrom (src : Place) (p : Handle) (s t : State) : Prop :=
  match src with
  | .slot k => Unstacked s t k (s.slot k).stack.dropLast ∧ (∀ j, j ≠ k → t.slot j = s.slot j)
      ∧ t.beds = s.beds ∧ t.cart = s.cart
  | .bed b d => t.bed b d = { s.bed b d with plates := (s.bed b d).plates.erase p }
      ∧ (∀ i, i ≠ 2 * b + d → t.beds.get? i = s.beds.get? i) ∧ t.slots = s.slots ∧ t.cart = s.cart
  | _ => t.cart = { s.cart with plates := s.cart.plates.erase p } ∧ t.slots = s.slots ∧ t.beds = s.beds

/-- A plate lies at its source, where the crane can take it up. -/
abbrev LiesAt (s : State) (src : Place) (p : Handle) (r : PlateRec) (bay : Bay) : Prop :=
  match src with
  | .slot k => ∃ level below, r.st.location = .slot k level ∧ (s.slot k).stack = below ++ [p] ∧ p ∉ below
  | .bed b d => r.st.location = .bed b d ∧ p ∈ (s.bed b d).plates
  | .cart => r.st.location = .cart ∧ p ∈ s.cart.plates ∧ s.cart.side = some bay
  | _ => False

theorem liftable_of_liesAt {src : Place} (hp : l.plate = some p) (hsrc : l.source = some src)
    (hlies : LiesAt s src p r l.bay) : s.liftable l = true := by
  unfold State.liftable
  simp only [hp, hsrc]
  match src, hlies with
  | .slot k, ⟨_, below, _, hstack, _⟩ => simp [hstack]
  | .bed b d, ⟨_, hmem⟩ => simpa using hmem
  | .cart, ⟨_, hmem, hside⟩ => simp [hmem, hside]

/-- Nothing lies above the top of a stack. -/
theorem aboveOf_top {n level : Nat} {below : List Handle} (hstack : (s.slot n).stack = below ++ [p]) (hp : p ∉ below) :
    aboveOf s p (.slot n level) = [] := by
  have hidx : (below ++ [p]).idxOf p = below.length := by
    rw [List.idxOf_append_of_notMem hp, List.idxOf_cons_self, Nat.add_zero]
  simp [aboveOf, State.platesAbove, hstack, hidx]

/-- A plate at its source has none above it. -/
theorem aboveOf_liesAt {src : Place} {bay : Bay} (hlies : LiesAt s src p r bay) : aboveOf s p r.st.location = [] := by
  match src, hlies with
  | .slot n, ⟨_, below, hloc, hstack, hp⟩ => rw [hloc, aboveOf_top hstack hp]
  | .bed b d, ⟨hloc, _⟩ => rw [hloc] <;> rfl
  | .cart, ⟨hloc, _, _⟩ => rw [hloc] <;> rfl

/-- A plate that was taken from its source, wherever it then goes that is no such place. -/
theorem leavePlace_liftedFrom {src : Place} {bay : Bay} (hr : s.plate? p = some r) (hlies : LiesAt s src p r bay) :
    LiftedFrom src p s (s.leavePlace p) := by
  have hleft := leavePlace_left hr
  match src, hlies with
  | .slot n, ⟨level, below, hloc, hstack, hp⟩ =>
    have herase : (s.slot n).stack.erase p = (s.slot n).stack.dropLast := by
      rw [hstack, List.erase_append_right _ hp, List.erase_cons_head, List.dropLast_concat, List.append_nil]
    have hdef : s.leavePlace p = s.leaveSlot p n := by
      unfold State.leavePlace
      simp only [hr, hloc]
    refine ⟨herase ▸ hleft.stack n level hloc,
      fun j hj => hleft.slots j (by rw [hloc]; simpa [Location.place] using hj.symm),
      ?_, ?_⟩
    · rw [hdef]
      exact leaveSlot_frame p n .beds (by decide)
    · rw [hdef]
      exact leaveSlot_frame p n .cart (by decide)
  | .bed b d, ⟨hloc, hmem⟩ =>
    have hdef : s.leavePlace p = s.modifyBed b d fun x => { x with plates := x.plates.erase p } := by
      unfold State.leavePlace
      simp only [hr, hloc]
    refine ⟨hleft.bed b d hloc, fun i hi => ?_, ?_, ?_⟩
    · rw [hdef]
      exact (Table.get?_modify ..).trans (if_neg hi.symm)
    · rw [hdef, modifyBed_slots]
    · rw [hdef, modifyBed_cart]
  | .cart, ⟨hloc, _, _⟩ =>
    have hdef : s.leavePlace p = { s with cart := { s.cart with plates := s.cart.plates.erase p } } := by
      unfold State.leavePlace
      simp only [hr, hloc]
    rw [hdef]
    exact ⟨rfl, rfl, rfl⟩

/-- What a source shows reads its place and the masses of the plates alone. -/
theorem LiftedFrom.congr {src : Place} (hm : LiftedFrom src p s u) (hslots : t.slots = u.slots)
    (hbeds : t.beds = u.beds)
    (hcart : t.cart = u.cart) (hshare : ∀ g, t.stackShare g = u.stackShare g) : LiftedFrom src p s t := by
  have hslot (n : Nat) : t.slot n = u.slot n := by rw [State.slot, hslots, State.slot]
  match src with
  | .slot n =>
    obtain ⟨hstack, hothers, hb, hc⟩ := hm
    exact ⟨unstacked_congr hstack (hslot n) fun g _ => hshare g, fun j hj => (hslot j).trans (hothers j hj),
      hbeds.trans hb, hcart.trans hc⟩
  | .bed b d =>
    obtain ⟨hbed, hothers, hs, hc⟩ := hm
    exact ⟨(by rw [State.bed, hbeds]; exact hbed), fun i hi => by rw [hbeds, hothers i hi], hslots.trans hs,
      hcart.trans hc⟩
  | .cart | .hook _ | .nowhere | .scrapBin | .choose =>
    obtain ⟨hc, hs, hb⟩ := hm
    exact ⟨hcart.trans hc, hslots.trans hs, hbeds.trans hb⟩

/-! ## A lift (R139) -/

/-- What a lift makes of the leg, the crane and the flags. -/
abbrev LiftJudged (h : Handle) (l : Leg) (c load : Nat) (agrees : Bool) (s t : State) : Prop :=
  t.leg? h = some { l with
      state := if agrees then .lifted else .check
      checkLoad := if agrees then none else some load }
    ∧ (∀ g, g ≠ h → t.leg? g = s.leg? g)
    ∧ t.crane c = { s.crane c with state := if agrees then .loaded else .check }
    ∧ (∀ d, d ≠ c → t.crane d = s.crane d)
    ∧ t.flags = if agrees then s.flags else s.flags ||| Alarm.loadMismatch.bit

theorem lift_judged (hc : c ≤ 5) (hl : s.leg? h = some l) :
    LiftJudged h l c load agrees s (s.lift c h l load agrees) := by
  have hframe := liftLoad_frame (s := s) c l agrees
  have hlegs : (s.liftLoad c l agrees).legs = s.legs := hframe .legs (by decide)
  have hcranes : (s.liftLoad c l agrees).cranes = s.cranes := hframe .cranes (by decide)
  have hflags : (s.liftLoad c l agrees).flags = s.flags := hframe .flags (by decide)
  have hcrane (d : Nat) : (s.liftLoad c l agrees).crane d = s.crane d := by rw [State.crane, hcranes, State.crane]
  have hleg (g : Handle) := modifyLeg_leg? (s := s.liftLoad c l agrees) (h := h) (g := g) fun r =>
    { r with
      state := if agrees then .lifted else .check
      checkLoad := if agrees then none else some load }
  have hmod (d : Nat) := modifyCrane_crane (s := (s.liftLoad c l agrees).modifyLeg h fun r =>
    { r with
      state := if agrees then .lifted else .check
      checkLoad := if agrees then none else some load }) hc (fun k =>
      { k with state := if agrees then CraneState.loaded else .check }) d
  unfold LiftJudged State.lift
  refine ⟨?_, fun g hg => ?_, ?_, fun d hd => ?_, ?_⟩
  · rw [leg?_of_kept (raiseIf_legs ..), leg?_of_kept (modifyCrane_legs ..), hleg, if_pos rfl, leg?_of_kept hlegs, hl]
    rfl
  · rw [leg?_of_kept (raiseIf_legs ..), leg?_of_kept (modifyCrane_legs ..), hleg, if_neg hg.symm, leg?_of_kept hlegs]
  · rw [State.crane, raiseIf_cranes]
    exact (hmod c).trans ((if_pos rfl).trans (by rw [← hcrane]; rfl))
  · rw [State.crane, raiseIf_cranes]
    exact (hmod d).trans ((if_neg hd).trans (hcrane d))
  · unfold State.raiseIf
    cases agrees
    · exact congrArg (· ||| Alarm.loadMismatch.bit) hflags
    · exact hflags

/-- A lift leaves of the plates and the places what the load's leaving leaves. -/
theorem lift_rest : OnlyChanges [.legs, .cranes, .flags] (s.liftLoad c l agrees) (s.lift c h l load agrees) :=
  (((modifyLeg_frame _ _).mono (by decide)).trans ((modifyCrane_frame _ _).mono (by decide))).trans
    ((raiseIf_frame _ _).mono (by decide))

/-- A plate on the hook, in MASS_DOUBT after a mismatch. -/
abbrev PlateLifted (p : Handle) (r : PlateRec) (c : Nat) (agrees : Bool) (s t : State) : Prop :=
  t.plate? p = some { r with st := { r.st with location := .hook c, massDoubt := r.st.massDoubt || !agrees } }
    ∧ ∀ g, g ≠ p → t.plate? g = s.plate? g

theorem liftPlate_reads {src : Place} (hp : l.plate = some p) (hr : s.plate? p = some r)
    (hlies : LiesAt s src p r l.bay) :
    PlateLifted p r c agrees s (s.liftLoad c l agrees) ∧ LiftedFrom src p s (s.liftLoad c l agrees)
      ∧ (s.liftLoad c l agrees).queue = joining s.queue [.state p.idx] := by
  have hdef : s.liftLoad c l agrees = (s.movePlate p (.hook c)).modifyPlate p fun r =>
      { r with st := { r.st with massDoubt := r.st.massDoubt || !agrees } } := by
    unfold State.liftLoad
    simp only [hp]
  have hr' : (s.enqueue (.state p.idx)).plate? p = some r := (plate?_enqueue _ _).trans hr
  have hlies' : LiesAt (s.enqueue (.state p.idx)) src p r l.bay :=
    (read_enqueue (LiesAt · src p r l.bay) (.state p.idx)).mpr hlies
  have habove := aboveOf_liesAt hlies
  have hleft := (leavePlace_left hr').of_enqueue
  have hfrom := leavePlace_liftedFrom hr' hlies'
  have hqueue := leavePlace_queue hr'
  rw [aboveOf_enqueue, habove, enqueue_queue_joining] at hqueue
  have hown : ((s.enqueue (.state p.idx)).leavePlace p).plate? p = some r :=
    (hleft.plates p (by rw [habove]; exact List.not_mem_nil)).trans hr
  have hjoined := joinPlace_joined (s := (s.enqueue (.state p.idx)).leavePlace p) (h := p) (p := .hook c) trivial
  have hplate : (s.movePlate p (.hook c)).plate? p = some { r with st := { r.st with location := .hook c } } :=
    hjoined.plate r hown
  have hfrom' : LiftedFrom src p s ((s.enqueue (.state p.idx)).leavePlace p) :=
    (read_enqueue (LiftedFrom src p · ((s.enqueue (.state p.idx)).leavePlace p)) (.state p.idx)).mp hfrom
  rw [hdef]
  refine ⟨⟨?_, fun g hg => ?_⟩, hfrom'.congr rfl rfl rfl fun g => ?_, hqueue⟩
  · rw [modifyPlate_plate?, if_pos rfl, hplate]
    rfl
  · rw [modifyPlate_plate?, if_neg hg.symm]
    exact (hjoined.plates g hg).trans (hleft.plates g (by rw [habove]; exact List.not_mem_nil))
  · exact (stackShare_modifyPlate (s := s.movePlate p (.hook c)) (h := p)
      (f := fun r => { r with st := { r.st with massDoubt := r.st.massDoubt || !agrees } })
        (fun _ => ⟨rfl, rfl⟩) g).trans
      (hjoined.shares g)

/-- A plate lifted, the leg and the crane judged. -/
theorem lift_plate_reads {src : Place} (hp : l.plate = some p) (hr : s.plate? p = some r)
    (hlies : LiesAt s src p r l.bay) :
    PlateLifted p r c agrees s (s.lift c h l load agrees) ∧ LiftedFrom src p s (s.lift c h l load agrees)
      ∧ (s.lift c h l load agrees).queue = joining s.queue [.state p.idx] := by
  obtain ⟨⟨hplate, hothers⟩, hfrom, hqueue⟩ := liftPlate_reads (c := c) (agrees := agrees) hp hr hlies
  have hrest := lift_rest (s := s) (h := h) (c := c) (l := l) (load := load) (agrees := agrees)
  have hread (g : Handle) : (s.lift c h l load agrees).plate? g = (s.liftLoad c l agrees).plate? g := by
    rw [State.plate?, hrest .plates (by decide), State.plate?]
  exact ⟨⟨(hread p).trans hplate, fun g hg => (hread g).trans (hothers g hg)⟩,
    hfrom.congr (hrest .slots (by decide)) (hrest .beds (by decide)) (hrest .cart (by decide))
      fun g => stackShare_congr (by rw [hread]),
    (hrest .queue (by decide)).trans hqueue⟩

/-! ## Lifted taken -/

theorem clampLoad_eq (v : Int) : clampLoad v = (min (max v 0) 4000000).toNat := by
  unfold clampLoad Config.maxLoad
  split
  · omega
  · split <;> omega

theorem loadAgrees_eq (expected load : Nat) : loadAgrees expected load =
    decide (load ≤ expected + (expected * 3 / 100 + 2000) ∧ expected ≤ load + (expected * 3 / 100 + 2000)) := by
  rw [loadAgrees, Bool.decide_and] <;> rfl

/-- The code and the fields that a lift taken answers. -/
abbrev liftCode (agrees : Bool) : AnsCode := if agrees then .done else .mismatch

abbrev liftTokens (agrees : Bool) (load e : Nat) : List Token :=
  if agrees then [] else [.num 4 load, .num 4 e, .num 4 ((e * 3 / 100 + 2000 : Nat) : Int)]

/-- Lifted that nothing refuses: the load is judged. -/
theorem lifted_taken {v : Int} {e : Nat} (hl : s.leg? h = some l) (hc : l.crane = some k.unitNum)
    (hstate : l.state = .assigned) (he : l.expected = some e) (hload : load = clampLoad v)
    (hagrees : agrees = loadAgrees e load) (hpower : l.plate = none ∨ s.pfw = false) (hlift : s.liftable l = true) :
    liftedReport k ⟨h, v⟩ s =
      l.reported (s.lift k.unitNum h l load agrees) (liftCode agrees) (liftTokens agrees load e) := by
  subst hload hagrees
  have hpfw : ¬(l.plate.isSome && s.pfw) = true := by rcases hpower with h | h <;> simp [h]
  rw [lifted_known hl hc, hstate]
  refine (if_neg hpfw).trans ((if_neg (by simp [hlift])).trans ?_)
  rw [he]
  cases hv : loadAgrees e (clampLoad v) with
  | true => exact if_pos hv
  | false => exact if_neg (by rw [Option.getD_some, hv]; exact Bool.false_ne_true)

/-- The skeleton mark goes with a skeleton that was lifted. -/
theorem liftSkeleton_reads {b d : Nat} (hp : l.plate = none) (hbed : l.sourceBed = some (b, d)) :
    (s.liftLoad c l agrees).bed b d = { s.bed b d with skeleton := false }
      ∧ (∀ i, i ≠ 2 * b + d → (s.liftLoad c l agrees).beds.get? i = s.beds.get? i)
      ∧ OnlyChanges [.beds] s (s.liftLoad c l agrees) := by
  have hdef : s.liftLoad c l agrees = s.putSkeleton b d false := by
    unfold State.liftLoad
    simp only [hp, hbed]
  rw [hdef]
  refine ⟨?_, fun i hi => (Table.get?_modify ..).trans (if_neg hi.symm), modifyBed_frame _ _ _⟩
  rw [State.putSkeleton, bed_modifyBed rfl, if_pos rfl]

/-- Settles O38: the load leaves its source, and then the leg, the crane and the flags take its judgement. -/
theorem liftedTakes : Obligations.LiftedTakes := by
  unfold Obligations.LiftedTakes
  intro s a st tag f c e load l agrees hasks hc hc5 hl hown hstate he hload hagrees
  have hcrane : c = (askerOf a st tag).unitNum := hc
  have hload' : load = clampLoad f.load := hload.trans (clampLoad_eq f.load).symm
  have hagrees' : agrees = loadAgrees e load := hagrees.trans (loadAgrees_eq e load).symm
  have hl' : (s.heard a).leg? f.leg = some l := (leg?_of_kept (heard_line .legs (by decide))).trans hl
  have htaken := lifted_taken (k := askerOf a st tag) hl' (hcrane ▸ hown) hstate he hload' hagrees'
  rw [← hcrane] at htaken
  have hjudged := lift_judged (load := load) (agrees := agrees) hc5 hl'
  have hrest := lift_rest (s := s.heard a) (h := f.leg) (c := c) (l := l) (load := load) (agrees := agrees)
  refine ⟨fun p r src hp hpfw hr hsrc hlies => ?_, fun b d hp hbed hmark => ?_⟩
  · have hr' : (s.heard a).plate? p = some r := (heard_plate? _).trans hr
    have hlies' : LiesAt (s.heard a) src p r l.bay := (read_of_line (LiesAt · src p r l.bay) heard_line).mpr hlies
    have htaken := htaken (.inr ((heard_line .pfw (by decide)).trans hpfw)) (liftable_of_liesAt hp hsrc hlies')
    rw [Leg.reported, hp] at htaken
    have hreads := lift_plate_reads (c := c) (h := f.leg) (load := load) (agrees := agrees) hp hr' hlies'
    obtain ⟨t, hexec, hawaits, hframe, hline⟩ := request_waits (tag := tag) hasks (by simp) htaken
      (lift_frame c f.leg l load agrees) (by decide)
    have hjudged' := taken_of_line (LiftJudged f.leg l c load agrees) hjudged hline
    obtain ⟨⟨hplate, hothers⟩, hfrom, hqueue⟩ := taken_of_line
      (fun w t => PlateLifted p r c agrees w t ∧ LiftedFrom src p w t ∧ t.queue = joining w.queue [.state p.idx])
      hreads hline
    exact ⟨t, hexec, hjudged', hplate, hothers, hfrom, hawaits, hqueue, hframe.mono (by decide)⟩
  · have htaken := htaken (.inl hp) (by
      unfold State.liftable
      simpa only [hp, hbed] using (congrArg Bed.skeleton (read_of_line (·.bed b d) heard_line)).trans hmark)
    rw [Leg.reported, hp] at htaken
    obtain ⟨hmark', hbeds', hload⟩ := liftSkeleton_reads (s := s.heard a) (c := c) (agrees := agrees) hp hbed
    have hbeds : ((s.heard a).lift c f.leg l load agrees).beds = ((s.heard a).liftLoad c l agrees).beds :=
      hrest .beds (by decide)
    have hreads : ((s.heard a).lift c f.leg l load agrees).bed b d = { (s.heard a).bed b d with skeleton := false }
        ∧ ∀ i, i ≠ 2 * b + d → ((s.heard a).lift c f.leg l load agrees).beds.get? i = (s.heard a).beds.get? i :=
      ⟨by rw [State.bed, hbeds]; exact hmark', fun i hi => by rw [hbeds]; exact hbeds' i hi⟩
    obtain ⟨t, hexec, honce, hframe, hline⟩ := request_completes (own := [.legs, .cranes, .flags, .beds]) (tag := tag)
      hasks htaken ((hload.mono (by decide)).trans (hrest.mono (by decide))) (by decide)
    have hjudged' := taken_of_line (LiftJudged f.leg l c load agrees) hjudged hline
    obtain ⟨hbed', hothers⟩ := taken_of_line (fun w t => t.bed b d = { w.bed b d with skeleton := false }
      ∧ ∀ i, i ≠ 2 * b + d → t.beds.get? i = w.beds.get? i) hreads hline
    exact ⟨t, hexec, hjudged', hbed', hothers, honce, hframe⟩

end Sys2Proof.Proofs.Lifts
end

section
/-! PROOFS. A leg that ends or returns to QUEUED (R126): what it lets go, what becomes of it and of its batch, and what
the job of the batch is told. -/

namespace Sys2Proof.Proofs.Ends

open Sys2Proof Sys2Proof.Machine
open Sys2Proof.Proofs.Pallets (askerOf)
open Sys2Proof.Proofs.Requests Sys2Proof.Proofs.Blocks
open Sys2Proof.Proofs.Places Sys2Proof.Proofs.Zones Sys2Proof.Proofs.Walk
open Sys2Proof.Proofs.Burn (clearJob_reads)

variable {s t m : State} {h g p jh rb : Handle} {l : Leg} {b ret : Batch} {j : Job} {r : PlateRec} {c d : Nat}

/-! ## The crane is freed (R131, R158) -/

/-- A crane that loses its leg, before its claim shrinks. -/
abbrev idled (k : Crane) : Crane :=
  { k with
    state := if k.state = .offline then .offline else .idle
    leg := none }

theorem modifyCrane_idled (c d : Nat) :
    (s.modifyCrane c idled).crane d = if c = d then idled (s.crane d) else s.crane d :=
  getD_modify_fix rfl c d

/-- A crane with a position is one of the six. -/
theorem crane_le_of_position {q : Nat} (hq : (s.crane c).position = some q) : c ≤ 5 := by
  by_contra hc
  rw [State.crane, Table.getD_beyond _ _ (by omega)] at hq
  cases hq

/-- Whether a claim is kept apart reads nothing of the crane's own record. -/
theorem apart_modifyCrane {f : Crane → Crane} {q : Claim} : Apart (s.modifyCrane c f) c q ↔ Apart s c q := by
  unfold Apart
  refine forall_congr' fun d => forall_congr' fun _ => forall_congr' fun hne => ?_
  have hcrane : (s.modifyCrane c f).crane d = s.crane d := Table.getD_modify_ne _ _ _ hne.symm
  rw [hcrane]
  rfl

/-- A crane heard and placed is freed as its idle claim turns out. -/
theorem freed_of_judged {q : Nat} {claim : Option Claim} {stopped : Bool} (hheard : s.craneSilent c = false)
    (hq : (s.crane c).position = some q)
    (hself : t.crane c = { idled (s.crane c) with claim := claim, stopped := stopped })
    (hothers : ∀ d, d ≠ c → t.crane d = s.crane d)
    (hinside : Covers (s.crane c) (idleAt s c q) → claim = some (idleAt s c q) ∧ stopped = (s.crane c).stopped)
    (hgranted : ¬Covers (s.crane c) (idleAt s c q) → Apart s c (idleAt s c q) →
      claim = some (idleAt s c q) ∧ stopped = false)
    (hblocked : ¬Covers (s.crane c) (idleAt s c q) → ¬Apart s c (idleAt s c q) →
      claim = (s.crane c).claim ∧ stopped = true) : Freed s t c := by
  unfold Freed
  rw [hself, hheard, hq]
  refine ⟨rfl, rfl, rfl, fun h => (by rcases h with h | h <;> cases h), fun p _ hp => ?_, hothers⟩
  cases hp
  exact ⟨hinside, hgranted, hblocked⟩

theorem freeCrane_freed (s : State) (c : Nat) : Freed s (s.freeCrane c) c := by
  have hself : (s.modifyCrane c idled).crane c = idled (s.crane c) := (modifyCrane_idled c c).trans (if_pos rfl)
  have hothers (d : Nat) (hd : d ≠ c) : (s.modifyCrane c idled).crane d = s.crane d :=
    (modifyCrane_idled c d).trans (if_neg hd.symm)
  have hdef : s.freeCrane c = (s.modifyCrane c idled).shrink c := rfl
  by_cases hquiet : s.craneSilent c = true ∨ (s.crane c).position = none
  · have hsame : (s.modifyCrane c idled).shrink c = s.modifyCrane c idled := by
      unfold State.shrink
      split
      · rfl
      · rw [hself]
        next hheard =>
          rw [show (idled (s.crane c)).position = none from hquiet.resolve_left hheard]
    rw [hdef, hsame, Freed, hself]
    refine ⟨rfl, rfl, rfl, fun _ => ⟨rfl, rfl⟩, fun q hheard hq => ?_, hothers⟩
    rcases hquiet with h | h
    · rw [h] at hheard; cases hheard
    · rw [h] at hq; cases hq
  · rw [not_or, Bool.not_eq_true] at hquiet
    obtain ⟨hheard, hplaced⟩ := hquiet
    obtain ⟨q, hq⟩ := Option.ne_none_iff_exists'.1 hplaced
    have hc := crane_le_of_position hq
    have hheard' : ¬(s.modifyCrane c idled).craneSilent c = true := by rw [Bool.not_eq_true]; exact hheard
    have hshrink : (s.modifyCrane c idled).shrink c =
        if (s.modifyCrane c idled).insideClaim c q then (s.modifyCrane c idled).putClaim c (idleAt s c q)
        else if (s.modifyCrane c idled).grantable c (idleAt s c q) then
          ((s.modifyCrane c idled).putClaim c (idleAt s c q)).putStopped c false
        else (s.modifyCrane c idled).putStopped c true := by
      unfold State.shrink
      rw [if_neg hheard', hself, show (idled (s.crane c)).position = some q from hq] <;> rfl
    have hcovers : (s.modifyCrane c idled).insideClaim c q = true ↔ Covers (s.crane c) (idleAt s c q) := by
      rw [insideClaim_iff, hself] <;> rfl
    have hapart : (s.modifyCrane c idled).grantable c (idleAt s c q) = true ↔ Apart s c (idleAt s c q) := by
      rw [grantable_iff, apart_modifyCrane]
    rw [hdef, hshrink]
    split
    next hin =>
      have hin := hcovers.1 hin
      obtain ⟨hown, hrest⟩ := modifyCrane_reads (s := s.modifyCrane c idled) hc fun k =>
        { k with claim := some (idleAt s c q) }
      rw [hself] at hown
      exact freed_of_judged hheard hq hown (fun d hd => (hrest d hd).trans (hothers d hd)) (fun _ => ⟨rfl, rfl⟩)
        (fun hout => (hout hin).elim) fun hout => (hout hin).elim
    next hout =>
      rw [hcovers] at hout
      split
      next hgrant =>
        have hgrant := hapart.1 hgrant
        obtain ⟨hown, hrest⟩ := modifyCrane_reads (s := s.modifyCrane c idled) hc fun k =>
          { k with claim := some (idleAt s c q) }
        obtain ⟨hown', hrest'⟩ := modifyCrane_reads (s := (s.modifyCrane c idled).putClaim c (idleAt s c q)) hc fun k =>
          { k with stopped := false }
        refine freed_of_judged hheard hq (hown'.trans ?_)
          (fun d hd => (hrest' d hd).trans ((hrest d hd).trans (hothers d hd))) (fun hin => (hout hin).elim)
          (fun _ _ => ⟨rfl, rfl⟩) fun _ hno => (hno hgrant).elim
        rw [State.putClaim, hown, hself]
      next hblock =>
        rw [hapart] at hblock
        obtain ⟨hown, hrest⟩ := modifyCrane_reads (s := s.modifyCrane c idled) hc fun k => { k with stopped := true }
        rw [hself] at hown
        exact freed_of_judged hheard hq hown (fun d hd => (hrest d hd).trans (hothers d hd))
          (fun hin => (hout hin).elim)
          (fun _ hgrant => (hblock hgrant).elim) fun _ _ => ⟨rfl, rfl⟩

/-- Freeing a crane reads its own record, the stations and the hall. -/
theorem freed_congr {u : State} (hst : m.stations = s.stations) (hhall : m.hall = s.hall)
    (hcranes : m.cranes = s.cranes)
    (hto : t.cranes = u.cranes) (hfreed : Freed m u c) : Freed s t c := by
  have hsource : m = { m with stations := s.stations, hall := s.hall, cranes := s.cranes } := by
    rw [← hst, ← hhall, ← hcranes]
  have htarget : t = { t with cranes := u.cranes } := by rw [← hto]
  rw [hsource] at hfreed
  rw [htarget]
  exact hfreed

/-! ## What a leg in hand lets go -/

/-- A leg leaves the incoming list of a place. -/
abbrev Drops (s t : State) (h : Handle) (target : Option Place) : Prop :=
  (∀ k, t.slot k = { s.slot k with
      incoming := if target = some (.slot k) then (s.slot k).incoming.erase h else (s.slot k).incoming })
    ∧ t.beds = s.beds
    ∧ t.cart = { s.cart with
        incoming := if target = some .cart then s.cart.incoming.erase h else s.cart.incoming }

theorem dropIncoming_drops (h : Handle) (target : Option Place) : Drops s (s.dropIncoming h target) h target := by
  match target with
  | none | some .scrapBin | some (.bed _ _) | some (.hook _) | some .nowhere | some .choose =>
    exact ⟨fun k => by simp [State.dropIncoming], rfl, by simp [State.dropIncoming]⟩
  | some .cart => exact ⟨fun k => by simp [State.dropIncoming, State.slot], rfl, by simp [State.dropIncoming]⟩
  | some (.slot k) =>
    refine ⟨fun j => ?_, rfl, by simp [State.dropIncoming]⟩
    unfold State.dropIncoming
    rw [slot_modifySlot rfl]
    by_cases hj : k = j
    · rw [if_pos hj, if_pos (by rw [hj])]
    · rw [if_neg hj, if_neg (by simpa using hj)]

/-- What a leg lets go with its crane: its incoming place, its plate, its crane. -/
structure LetsGo (s t : State) (h : Handle) (l : Leg) (c : Nat) : Prop where
  drops : Drops s t h l.target
  freed : Freed s t c
  plates : ∀ g, t.plate? g = if l.plate = some g then (s.plate? g).map ({ · with leg := none }) else s.plate? g

theorem letGo_letsGo (hhand : l.state.inHand = true) (hc : l.crane = some c) : LetsGo s (s.letGo h l) h l c := by
  have hdef : s.letGo h l = (match l.plate with
      | some p => (s.dropIncoming h l.target).uncarry p
      | none => s.dropIncoming h l.target).freeCrane c := by
    unfold State.letGo
    rw [if_pos hhand]
    simp only [hc] <;> rfl
  have hdrop := dropIncoming_frame (s := s) h l.target
  obtain ⟨hslots, hbeds, hcart⟩ := dropIncoming_drops (s := s) h l.target
  rw [hdef]
  generalize hm : (match l.plate with
      | some p => (s.dropIncoming h l.target).uncarry p
      | none => s.dropIncoming h l.target) = m
  have huncarry : OnlyChanges [.plates] (s.dropIncoming h l.target) m
      ∧ ∀ g, m.plate? g = if l.plate = some g then (s.plate? g).map ({ · with leg := none }) else s.plate? g := by
    have hplates (g : Handle) : (s.dropIncoming h l.target).plate? g = s.plate? g := by
      rw [State.plate?, hdrop .plates (by decide), State.plate?]
    subst hm
    rcases l.plate with _ | p
    · exact ⟨.refl, fun g => by simp [hplates]⟩
    · exact ⟨modifyPlate_frame _ _, fun g => by simp [State.uncarry, modifyPlate_plate?, hplates]⟩
  obtain ⟨hkept, hplates⟩ := huncarry
  have hfree := freeCrane_frame (s := m) c
  have hown : OnlyChanges [.slots, .cart, .plates] s m := (hdrop.mono (by decide)).trans (hkept.mono (by decide))
  have hrest : OnlyChanges [.plates, .cranes] (s.dropIncoming h l.target) (m.freeCrane c) :=
    (hkept.mono (by decide)).trans (hfree.mono (by decide))
  refine ⟨⟨fun k => ?_, (hrest .beds (by decide)).trans hbeds, (hrest .cart (by decide)).trans hcart⟩,
    freed_congr (hown .stations (by decide)) (hown .hall (by decide)) (hown .cranes (by decide)) rfl
      (freeCrane_freed m c), fun g => ?_⟩
  · rw [State.slot, hrest .slots (by decide)]
    exact hslots k
  · rw [State.plate?, hfree .plates (by decide)]
    exact hplates g

/-- What is let go is not touched when the leg's batch and its job are settled. -/
theorem LetsGo.finish (hgo : LetsGo s m h l c) (hrest : OnlyChanges finishFields m t) : LetsGo s t h l c := by
  obtain ⟨⟨hslots, hbeds, hcart⟩, hfreed, hplates⟩ := hgo
  refine ⟨⟨fun k => ?_, (hrest .beds (by decide)).trans hbeds, (hrest .cart (by decide)).trans hcart⟩,
    freed_congr rfl rfl rfl (hrest .cranes (by decide)) hfreed, fun g => ?_⟩
  · rw [State.slot, hrest .slots (by decide)]
    exact hslots k
  · rw [State.plate?, hrest .plates (by decide)]
    exact hplates g

/-- A leg let go and put in a state: the legs then. -/
theorem letGo_putLegState_leg? (hl : s.leg? h = some l) (v : LegState) (g : Handle) :
    ((s.letGo h l).putLegState h v).leg? g = if h = g then some { l with state := v, crane := none } else s.leg? g := by
  rw [State.putLegState, modifyLeg_leg?, leg?_of_kept (letGo_frame h l .legs (by decide))]
  split
  next hg => rw [← hg, hl] <;> rfl
  · rfl

theorem letGo_putLegState_own {v : LegState} :
    OnlyChanges [.slots, .cart, .plates, .cranes, .legs] s ((s.letGo h l).putLegState h v) :=
  ((letGo_frame h l).mono (by decide)).trans ((putLegState_frame h v).mono (by decide))

theorem doneLeg_rest (hl : s.leg? h = some l) : OnlyChanges finishFields (s.letGo h l) (s.doneLeg h) := by
  unfold State.doneLeg
  simp only [hl]
  exact (((putLegState_frame h _).mono (by decide)).trans ((settleBatch_frame _).mono (by decide))).trans
    (tellDone_frame _)

theorem endLeg_rest (hl : s.leg? h = some l) (how : LegState) :
    OnlyChanges [.legs, .batches, .jobs, .parts] (s.letGo h l) (s.endLeg h how) := by
  have hstop : OnlyChanges [.legs, .batches, .jobs, .parts] (s.letGo h l) (s.stopLeg h how) := by
    unfold State.stopLeg
    simp only [hl]
    have hput : OnlyChanges [.legs, .batches, .jobs, .parts] (s.letGo h l) ((s.letGo h l).putLegState h how) :=
      (putLegState_frame h how).mono (by decide)
    split
    · exact hput
    · exact (hput.trans ((overLegs_frame _ _).mono (by decide))).trans ((settleBatch_frame _).mono (by decide))
  unfold State.endLeg
  simp only [hl]
  exact hstop.trans tellStopped_own

/-- The leg as it is when it comes back to its batch. -/
abbrev backAs (l : Leg) : Leg := { l with state := .queued, crane := none }

/-- The state in which a leg is put back, before its batch and its job are looked at. -/
abbrev putBack (s : State) (h : Handle) (l : Leg) : State := (s.letGo h l).putLegState h .queued

theorem returnFor_congr (hbatches : t.batches = s.batches) (hjobs : t.jobs = s.jobs) :
    t.returnFor l = s.returnFor l := by
  simp only [State.returnFor, State.batchJob, State.openReturn, State.batch?, State.job?, hbatches, hjobs]

theorem requeueLeg_eq (hl : s.leg? h = some l) : s.requeueLeg h =
    match s.returnFor l with
    | some (jh, rb) => ((putBack s h l).stopLeg h .cancelled).finishReturn jh rb ((putBack s h l).onCart l)
    | none => if l.ending then (putBack s h l).endLeg h .cancelled
      else (putBack s h l).modifyLeg h fun l => { l with target := none } := by
  have hown := letGo_putLegState_own (s := s) (h := h) (l := l) (v := .queued)
  rw [← returnFor_congr (hown .batches (by decide)) (hown .jobs (by decide))]
  unfold State.requeueLeg
  simp only [hl] <;> rfl

theorem requeueLeg_rest (hl : s.leg? h = some l) : OnlyChanges finishFields (s.letGo h l) (s.requeueLeg h) := by
  have hput : OnlyChanges finishFields (s.letGo h l) (putBack s h l) := (putLegState_frame h _).mono (by decide)
  have hback : (putBack s h l).leg? h = some (backAs l) := (letGo_putLegState_leg? hl _ h).trans (if_pos rfl)
  have hstop := stopLeg_queued (how := .cancelled) hback rfl
  rw [requeueLeg_eq hl]
  split
  · exact (hput.trans (hstop.mono (by decide))).trans (finishReturn_frame _ _ _)
  · split
    · refine hput.trans ?_
      rw [State.endLeg, hback]
      exact (hstop.mono (by decide)).trans (tellStopped_frame _)
    · exact hput.trans ((modifyLeg_frame _ _).mono (by decide))

/-! ## A leg put back (R126, R94) -/

theorem openReturn_iff : s.openReturn j = some rb ↔
    j.clearBatch = some rb ∧ j.state = .ended ∧ ∃ ret, s.batch? rb = some ret ∧ ret.state = .opened := by
  unfold State.openReturn
  rcases j.clearBatch with _ | rc
  · simp
  · rcases hret : s.batch? rc with _ | ret
    · simp only [hret, reduceCtorEq, Option.some.injEq, false_iff]
      rintro ⟨rfl, -, ret, hret', -⟩
      rw [hret] at hret'
      cases hret'
    · simp only [hret]
      split
      next hopen =>
        refine ⟨fun h => (by cases h; exact ⟨rfl, hopen.1, ret, hret, hopen.2⟩), fun ⟨h, _⟩ => h⟩
      next hno =>
        refine ⟨fun h => (by cases h), ?_⟩
        rintro ⟨h, hended, ret', hret', hopen⟩
        cases h
        rw [hret] at hret'
        cases hret'
        exact (hno ⟨hended, hopen⟩).elim

theorem carries_kind : l.carries = true ↔ l.kind = .fetch ∨ l.kind = .transferOut := by simp [Leg.carries]

/-- A job waits for a leg while the return batch it holds is OPEN. -/
theorem waitsFor_iff : WaitsFor s j l ↔
    ∃ rb, s.openReturn j = some rb ∧ j.fetchBatch = some l.batch ∧ l.carries = true := by
  simp only [WaitsFor, openReturn_iff, carries_kind]
  constructor
  · rintro ⟨hended, hfetch, hkind, rb, ret, hc, hret, hopen⟩
    exact ⟨rb, ⟨hc, hended, ret, hret, hopen⟩, hfetch, hkind⟩
  · rintro ⟨rb, ⟨hc, hended, ret, hret, hopen⟩, hfetch, hkind⟩
    exact ⟨hended, hfetch, hkind, rb, ret, hc, hret, hopen⟩

theorem returnFor_iff : s.returnFor l = some (jh, rb) ↔
    ∃ j, s.batchJob l.batch = some (jh, j) ∧ s.openReturn j = some rb ∧ j.fetchBatch = some l.batch
      ∧ l.carries = true := by
  unfold State.returnFor
  rcases s.batchJob l.batch with _ | ⟨jh', j⟩
  · simp
  · rcases hopen : s.openReturn j with _ | rc
    · simp only [hopen, reduceCtorEq, false_iff]
      rintro ⟨j', hj, hopen', -⟩
      cases hj
      rw [hopen] at hopen'
      cases hopen'
    · simp only [hopen]
      split
      next hfor =>
        constructor
        · intro h
          cases h
          exact ⟨j, rfl, hopen, hfor⟩
        · rintro ⟨j', hj, hopen', -⟩
          cases hj
          rw [hopen] at hopen'
          cases hopen'
          rfl
      next hno =>
        refine ⟨fun h => (by cases h), ?_⟩
        rintro ⟨j', hj, -, hfor⟩
        cases hj
        exact (hno hfor).elim

theorem returnFor_unawaited (hun : Unawaited s l) : s.returnFor l = none := by
  rcases hfor : s.returnFor l with _ | ⟨jh, rb⟩
  · rfl
  · obtain ⟨j, hjob, hopen, hcarry⟩ := returnFor_iff.1 hfor
    obtain ⟨b, hb, ho, hj⟩ := batchJob_iff.1 hjob
    exact (hun b jh j hb ho hj (waitsFor_iff.2 ⟨rb, hopen, hcarry⟩)).elim

/-- The job that waits for a leg, and its return batch. -/
theorem returnFor_awaited (hb : s.batch? l.batch = some b) (ho : b.origin = .job jh) (hj : s.job? jh = some j)
    (hwait : WaitsFor s j l) (hc : j.clearBatch = some rb) : s.returnFor l = some (jh, rb) := by
  obtain ⟨rb', hopen, hcarry⟩ := waitsFor_iff.1 hwait
  obtain ⟨hc', -⟩ := openReturn_iff.1 hopen
  rw [hc] at hc'
  cases hc'
  exact returnFor_iff.2 ⟨j, batchJob_iff.2 ⟨b, hb, ho, hj⟩, hopen, hcarry⟩

/-- A job that waits for a stopped leg is told so by the finish of its return batch. -/
theorem tellStopped_awaited (hfor : s.returnFor l = some (jh, rb)) : s.tellStopped l = s.finishReturn jh rb false := by
  obtain ⟨j, hjob, hopen, hcarry⟩ := returnFor_iff.1 hfor
  obtain ⟨b, hb, ho, hj⟩ := batchJob_iff.1 hjob
  obtain ⟨-, hended, -⟩ := openReturn_iff.1 hopen
  unfold State.tellStopped
  simp only [hb, hjob, hopen]
  rw [if_neg (by simp [hended]), if_pos hcarry]

/-! ## What is said of a leg's stop, from the state before it was put back -/

section Before

variable {k : Leg} {how : LegState} {kept : Prop}

theorem stopEnds_of (hlegs : ∀ g, g ≠ h → m.leg? g = s.leg? g) (hbatches : m.batches = s.batches)
    (hjobs : m.jobs = s.jobs)
    (hbatch : k.batch = l.batch) (hpos : k.position = l.position) (hstop : StopEnds m t h k) : StopEnds s t h l := by
  have hjob (g : Handle) : m.job? g = s.job? g := job?_of_kept hjobs
  have hbat (g : Handle) : m.batch? g = s.batch? g := batch?_of_kept hbatches
  intro b hb hcom hmem
  obtain ⟨hothers, hout, hbs, hsettled, hopen, hstation, htold⟩ :=
    hstop b (by rw [hbatch, hbat]; exact hb) hcom hmem
  rw [hbatch] at hbs hsettled hopen htold
  refine ⟨fun g hg hne x hx => ?_, fun g hg => ?_, fun g hg => (hbs g hg).trans (hbat g), hsettled, hopen,
    fun o ho => (hstation o ho).trans hjobs, fun jh j ho hj => ?_⟩
  · rw [hothers g hg hne x (by rw [hlegs g hne]; exact hx), hpos]
  · have hne : g ≠ h := fun e => hg (e ▸ hmem)
    exact (hout g hg).trans (hlegs g hne)
  · obtain ⟨hlost, hnot, hrest⟩ := htold jh j ho ((hjob jh).trans hj)
    exact ⟨hlost, hnot, fun g hg => (hrest g hg).trans (hjob g)⟩

theorem waitsFor_of (hbatches : m.batches = s.batches) (hbatch : k.batch = l.batch) (hkind : k.kind = l.kind) :
    WaitsFor m j k ↔ WaitsFor s j l := by
  simp only [WaitsFor, State.batch?, hbatches, hbatch, hkind]

theorem unawaited_of (hbatches : m.batches = s.batches) (hjobs : m.jobs = s.jobs) (hbatch : k.batch = l.batch)
    (hkind : k.kind = l.kind) (hun : Unawaited s l) : Unawaited m k := by
  intro b jh j hb ho hj hwait
  rw [hbatch, batch?_of_kept hbatches] at hb
  rw [job?_of_kept hjobs] at hj
  exact hun b jh j hb ho hj ((waitsFor_of hbatches hbatch hkind).1 hwait)

theorem awaitEnds_of (hlegs : ∀ g, g ≠ h → m.leg? g = s.leg? g) (hbatches : m.batches = s.batches)
    (hjobs : m.jobs = s.jobs)
    (hparts : m.parts = s.parts) (hcounter : m.commitCounter = s.commitCounter) (hbatch : k.batch = l.batch)
    (hkind : k.kind = l.kind) (hend : AwaitEnds m t h k how kept) : AwaitEnds s t h l how kept := by
  intro b jh j rb ret hb hmem ho hj hwait hc hr hne hdis
  have hjob (g : Handle) : m.job? g = s.job? g := job?_of_kept hjobs
  have hret (g : Handle) (hg : g ∈ ret.legs) : m.leg? g = s.leg? g := hlegs g fun e => hdis g hg (e ▸ hmem)
  have hend := hend b jh j rb ret (by rw [hbatch, batch?_of_kept hbatches]; exact hb) hmem ho ((hjob jh).trans hj)
    ((waitsFor_of hbatches hbatch hkind).2 hwait) hc ((batch?_of_kept hbatches).trans hr) (hbatch ▸ hne) hdis
  rw [hbatch, hcounter, hparts] at hend
  obtain ⟨hself, hjobs', hsettled, hcommits, hcancels⟩ := hend
  refine ⟨hself, fun g hg => (hjobs' g hg).trans (hjob g),
    fun hcom hall => hsettled hcom fun g hg hgh x hx => hall g hg hgh x ((hlegs g hgh).symm.trans hx),
    fun hk => ?_, fun hk => ?_⟩
  · obtain ⟨h1, h2, h3, h4, h5⟩ := hcommits hk
    exact ⟨h1, h2, fun g hg => (h3 g hg).trans (hret g hg), h4, h5⟩
  · obtain ⟨h1, h2, h3, h4, h5⟩ := hcancels hk
    exact ⟨h1, h2, fun g hg x hx => h3 g hg x ((hret g hg).trans hx), h4,
      fun g p hp => h5 g p ((by rw [State.part?, hparts, State.part?] : m.part? g = s.part? g).trans hp)⟩

end Before

/-! ## The three ends of a leg put back -/

theorem putBack_leg? (hl : s.leg? h = some l) : (putBack s h l).leg? h = some (backAs l)
    ∧ ∀ g, g ≠ h → (putBack s h l).leg? g = s.leg? g :=
  ⟨(letGo_putLegState_leg? hl _ h).trans (if_pos rfl),
    fun g hg => (letGo_putLegState_leg? hl _ g).trans (if_neg hg.symm)⟩

/-- A leg that nothing keeps from it is QUEUED again, without a destination. -/
theorem requeueLeg_returns (hl : s.leg? h = some l) (hfree : ReturnsFreely s l) :
    LegBecomes s (s.requeueLeg h) h l .queued ∧ OnlyChanges [.legs] (s.letGo h l) (s.requeueLeg h) := by
  obtain ⟨hending, hun⟩ := hfree
  obtain ⟨hback, hothers⟩ := putBack_leg? hl
  have hdef : s.requeueLeg h = (putBack s h l).modifyLeg h fun l => { l with target := none } := by
    rw [requeueLeg_eq hl, returnFor_unawaited hun]
    exact if_neg (by simp [hending])
  rw [hdef]
  refine ⟨⟨?_, fun g hg => ?_⟩, (putLegState_frame h _).trans (modifyLeg_frame h _)⟩
  · rw [modifyLeg_leg?, if_pos rfl, hback]
    rfl
  · rw [modifyLeg_leg?, if_neg hg.symm, hothers g hg]

theorem requeueLeg_marked (hl : s.leg? h = some l) : MarkedEnds s (s.requeueLeg h) h l := by
  intro hending hun
  have hown := letGo_putLegState_own (s := s) (h := h) (l := l) (v := .queued)
  obtain ⟨hback, hothers⟩ := putBack_leg? hl
  have hdef : s.requeueLeg h = (putBack s h l).endLeg h .cancelled := by
    rw [requeueLeg_eq hl, returnFor_unawaited hun]
    exact if_pos hending
  obtain ⟨hself, hstop⟩ := endLeg_stopEnds hback (.inl rfl)
    (unawaited_of (k := backAs l) (hown .batches (by decide)) (hown .jobs (by decide)) rfl rfl hun)
  rw [hdef]
  exact ⟨hself, stopEnds_of hothers (hown .batches (by decide)) (hown .jobs (by decide)) rfl rfl hstop⟩

/-- A stop of another batch's leg leaves a job waiting for its return batch. -/
theorem stopLeg_returnFor (hl : s.leg? h = some l) (hb : s.batch? l.batch = some b) (ho : b.origin = .job jh)
    (hj : s.job? jh = some j) (hwait : WaitsFor s j l) (hc : j.clearBatch = some rb) (hne : rb ≠ l.batch) :
    (s.stopLeg h .cancelled).returnFor l = some (jh, rb) := by
  obtain ⟨-, -, hbs, hbb, hjobs⟩ := stopLeg_reads hl hb (.inl rfl)
  obtain ⟨hended, hfetch, hkind, rb', ret, hc', hr, hopen⟩ := hwait
  rw [hc] at hc'
  cases hc'
  refine returnFor_awaited hbb ?_ ((job?_of_kept hjobs).trans hj)
    ⟨hended, hfetch, hkind, rb, ret, hc, (hbs rb hne).trans hr, hopen⟩ hc
  split <;> exact ho

/-- The batch of a stopped leg with no other leg unfinished is CANCELLED. -/
theorem stopLeg_cancels (hl : s.leg? h = some l) (hb : s.batch? l.batch = some b) (hcom : b.state = .committed)
    (hmem : h ∈ b.legs) (hall : ∀ g ∈ b.legs, g ≠ h → ∀ x, s.leg? g = some x → x.state.unfinished = false) :
    (s.stopLeg h .cancelled).batch? l.batch = some { b with state := .cancelled } := by
  obtain ⟨hself, hothers, -, hbb, -⟩ := stopLeg_reads hl hb (how := .cancelled) (.inl rfl)
  have hsettled : (s.stopLeg h .cancelled).allSettled b.legs = true := by
    refine (allSettled_iff _).2 fun g hg x hx => ?_
    by_cases hgh : g = h
    · rw [hgh, hself] at hx
      cases hx
      rfl
    · rw [hothers g hgh, if_pos hg, Option.map_eq_some_iff] at hx
      obtain ⟨y, hy, rfl⟩ := hx
      have hdone := hall g hg hgh y hy
      unfold Leg.afterStop
      split
      · rfl
      · split <;> exact hdone
  have hdone : (s.stopLeg h .cancelled).allDone b.legs = false := by
    rw [State.allDone, List.all_eq_false]
    exact ⟨h, hmem, by rw [hself]; simp⟩
  rw [hbb, if_pos ⟨hcom, hsettled⟩, hdone]
  rfl

theorem requeueLeg_awaited (hl : s.leg? h = some l) :
    AwaitEnds s (s.requeueLeg h) h l .cancelled ((putBack s h l).onCart l = true) := by
  intro b jh j rb ret hb hmem ho hj hwait hc hr hne hdis
  have hown := letGo_putLegState_own (s := s) (h := h) (l := l) (v := .queued)
  have hbatches : (putBack s h l).batches = s.batches := hown .batches (by decide)
  have hjobs : (putBack s h l).jobs = s.jobs := hown .jobs (by decide)
  obtain ⟨hback, hothers⟩ := putBack_leg? hl
  have hdef := requeueLeg_eq hl
  rw [returnFor_awaited hb ho hj hwait hc] at hdef
  dsimp only at hdef
  have hb' : (putBack s h l).batch? l.batch = some b := (batch?_of_kept hbatches).trans hb
  have hj' : (putBack s h l).job? jh = some j := (job?_of_kept hjobs).trans hj
  have hwait' : WaitsFor (putBack s h l) j (backAs l) := (waitsFor_of (l := l) hbatches rfl rfl).2 hwait
  have hfor := stopLeg_returnFor hback hb' ho hj' hwait' hc hne
  rcases hcart : (putBack s h l).onCart l with _ | _
  · have hend : s.requeueLeg h = (putBack s h l).endLeg h .cancelled := by
      rw [hdef, hcart, State.endLeg, hback]
      exact (tellStopped_awaited hfor).symm
    rw [hend]
    obtain ⟨h1, h2, h3, -, h5⟩ := awaitEnds_of (l := l) hothers hbatches hjobs (hown .parts (by decide))
      (hown .commitCounter (by decide)) (k := backAs l) rfl rfl
        (endLeg_awaitEnds hback (.inl rfl)) b jh j rb ret hb hmem
      ho hj hwait hc hr hne hdis
    exact ⟨h1, h2, h3, fun hno => (by cases hno), fun _ => h5 not_false⟩
  · have hkept : s.requeueLeg h = ((putBack s h l).stopLeg h .cancelled).commitBatch rb := by
      rw [hdef, hcart]
      exact if_pos rfl
    obtain ⟨hself, hstopped, hbs, -, hjobs'⟩ := stopLeg_reads hback hb' (how := .cancelled) (.inl rfl)
    have hstop := stopLeg_queued (how := .cancelled) hback rfl
    have hcommit := commitBatch_frame (s := (putBack s h l).stopLeg h .cancelled) rb
    have hleg (g : Handle) : (s.requeueLeg h).leg? g = ((putBack s h l).stopLeg h .cancelled).leg? g := by
      rw [hkept, leg?_of_kept (hcommit .legs (by decide))]
    have hjob (g : Handle) : (s.requeueLeg h).job? g = s.job? g := by
      rw [hkept, job?_of_kept (hcommit .jobs (by decide)), job?_of_kept hjobs', job?_of_kept hjobs]
    have hbatch (g : Handle) : (s.requeueLeg h).batch? g = if rb = g then
        (((putBack s h l).stopLeg h .cancelled).batch? g).map fun b =>
          { b with state := .committed, seq := some ((putBack s h l).stopLeg h .cancelled).commitCounter }
        else ((putBack s h l).stopLeg h .cancelled).batch? g := by
      rw [hkept]
      exact modifyBatch_batch? _
    have hcounter : ((putBack s h l).stopLeg h .cancelled).commitCounter = s.commitCounter :=
      (hstop .commitCounter (by decide)).trans (hown .commitCounter (by decide))
    refine ⟨⟨_, (hleg h).trans hself, rfl, rfl⟩, fun g _ => hjob g, fun hcom hall => ?_,
      fun _ => ⟨?_, ?_, fun g hg => ?_, (hjob jh).trans hj, ?_⟩, fun hno => (hno rfl).elim⟩
    · rw [hbatch, if_neg hne]
      exact stopLeg_cancels (l := backAs l) hback hb' hcom hmem fun g hg hgh x hx => hall g hg hgh x
        ((hothers g hgh).symm.trans hx)
    · rw [hbatch, if_pos rfl, hbs rb hne, batch?_of_kept hbatches, hr, hcounter]
      rfl
    · rw [hkept, State.commitBatch, hcounter]
      rfl
    · have hgb := hdis g hg
      have hgh : g ≠ h := fun e => hgb (e ▸ hmem)
      rw [hleg, hstopped g hgh, if_neg hgb, hothers g hgh]
    · rw [hkept, hcommit .parts (by decide), hstop .parts (by decide), hown .parts (by decide)]

/-! ## What the job is told of a stop (R80, R94, R96) -/

theorem tellStopped_lost (hb : s.batch? l.batch = some b) (ho : b.origin = .job jh) (hj : s.job? jh = some j)
    (hadmitted : j.state = .admitted) : s.tellStopped l =
      if j.fetchBatch = some l.batch ∧ s.carryingLost b.legs = true then
        s.modifyJob jh fun j => { j with fetchLost := true } else s := by
  have hopen : s.openReturn j = none := by
    rcases hr : s.openReturn j with _ | rb
    · rfl
    · obtain ⟨-, hended, -⟩ := openReturn_iff.1 hr
      rw [hadmitted] at hended
      cases hended
  unfold State.tellStopped
  rw [hb, batchJob_iff.2 ⟨b, hb, ho, hj⟩]
  dsimp only
  rw [hopen]
  simp only [hadmitted, true_and]

theorem tellStopped_job (hb : s.batch? l.batch = some b) (ho : b.origin = .job jh) (hj : s.job? jh = some j)
    (hstays : j.state ≠ .admitted ∨ j.fetchBatch ≠ some l.batch) (hwait : ¬WaitsFor s j l) : s.tellStopped l = s := by
  unfold State.tellStopped
  rw [hb, batchJob_iff.2 ⟨b, hb, ho, hj⟩]
  dsimp only
  rw [if_neg fun ⟨h1, h2, _⟩ => hstays.elim (· h1) (· h2)]
  split
  next rb hopen => exact if_neg fun hcarry => hwait (waitsFor_iff.2 ⟨rb, hopen, hcarry⟩)
  · rfl

theorem tellStopped_station {o : Nat} (hb : s.batch? l.batch = some b) (ho : b.origin = .station o) :
    s.tellStopped l = s := by
  have hnone : s.batchJob l.batch = none := by
    unfold State.batchJob
    simp only [hb, ho]
  unfold State.tellStopped
  rw [hb, hnone]

theorem clearJob_job?_ne (hg : g ≠ jh) : (s.clearJob jh).job? g = s.job? g := by
  unfold State.clearJob
  split
  · rfl
  next j _ =>
    rw [job?_of_kept (retireScrapped_frame (s := s.modifyJob jh _) j.parts .jobs (by decide)), modifyJob_job?,
      if_neg hg.symm]

theorem tellStopped_job?_ne (hb : s.batch? l.batch = some b) (ho : b.origin = .job jh) (hg : g ≠ jh) :
    (s.tellStopped l).job? g = s.job? g := by
  unfold State.tellStopped
  split
  next b' jh' j _ hjob =>
    obtain ⟨b'', hb'', ho'', -⟩ := batchJob_iff.1 hjob
    rw [hb] at hb''
    cases hb''
    rw [ho] at ho''
    cases ho''
    split
    · rw [modifyJob_job?, if_neg hg.symm]
    · split
      · split
        next rb _ _ =>
          exact (clearJob_job?_ne (s := s.cancelBatch rb) hg).trans
            (job?_of_kept (cancelBatch_frame rb .jobs (by decide)))
        · rfl
      · rfl
  · rfl

/-- A job that waits for no leg before a stop waits for none after it. -/
theorem not_waitsFor_stopLeg (hl : s.leg? h = some l) (hb : s.batch? l.batch = some b) (hwait : ¬WaitsFor s j l) :
    ¬WaitsFor (s.stopLeg h .cancelled) j l := by
  obtain ⟨-, -, hbs, hbb, -⟩ := stopLeg_reads hl hb (how := .cancelled) (.inl rfl)
  rintro ⟨hended, hfetch, hkind, rb, ret, hc, hr, hopen⟩
  by_cases hrb : rb = l.batch
  · subst hrb
    rw [hbb] at hr
    cases hr
    refine hwait ⟨hended, hfetch, hkind, l.batch, b, hc, hb, ?_⟩
    split at hopen
    · split at hopen <;> cases hopen
    · exact hopen
  · exact hwait ⟨hended, hfetch, hkind, rb, ret, hc, (hbs rb hrb).symm.trans hr, hopen⟩

/-- What the job of a cancelled leg's batch is told. -/
abbrev JobTold (s t : State) (l : Leg) (b : Batch) (jh : Handle) (j : Job) : Prop :=
  (j.state = .admitted → j.fetchBatch = some l.batch →
      (∃ g ∈ b.legs, ∃ x, t.leg? g = some x ∧ (x.kind = .fetch ∨ x.kind = .transferOut) ∧ x.state = .cancelled) →
      t.job? jh = some { j with fetchLost := true })
    ∧ (j.state ≠ .admitted ∨ j.fetchBatch ≠ some l.batch → ¬WaitsFor s j l → t.job? jh = some j)
    ∧ ∀ g, g ≠ jh → t.job? g = s.job? g

theorem endLeg_told (hl : s.leg? h = some l) (hb : s.batch? l.batch = some b) (ho : b.origin = .job jh)
    (hj : s.job? jh = some j) : JobTold s (s.endLeg h .cancelled) l b jh j := by
  obtain ⟨-, -, -, hbb, hjobs⟩ := stopLeg_reads hl hb (how := .cancelled) (.inl rfl)
  obtain ⟨b', hb', ho', hlegs⟩ : ∃ b', (s.stopLeg h .cancelled).batch? l.batch = some b' ∧ b'.origin = .job jh
      ∧ b'.legs = b.legs := by
    rw [hbb]
    split <;> exact ⟨_, rfl, ho, rfl⟩
  have hj' : (s.stopLeg h .cancelled).job? jh = some j := (job?_of_kept hjobs).trans hj
  have hdef : s.endLeg h .cancelled = (s.stopLeg h .cancelled).tellStopped l := by simp only [State.endLeg, hl]
  rw [hdef]
  refine ⟨fun hadmitted hfetch hlost => ?_, fun hstays hwait => ?_, fun g hg => ?_⟩
  · have htell := tellStopped_lost hb' ho' hj' hadmitted
    have hlegs' (g : Handle) : ((s.stopLeg h .cancelled).tellStopped l).leg? g = (s.stopLeg h .cancelled).leg? g := by
      rw [htell]
      split <;> rfl
    simp only [hlegs'] at hlost
    obtain ⟨g, hg, x, hx, hkind, hstate⟩ := hlost
    rw [htell, if_pos ⟨hfetch, (carryingLost_iff _).2 ⟨g, hlegs ▸ hg, x, hx, hkind, .inl hstate⟩⟩, modifyJob_job?,
      if_pos rfl, hj']
    rfl
  · rw [tellStopped_job hb' ho' hj' hstays (not_waitsFor_stopLeg hl hb hwait), hj']
  · rw [tellStopped_job?_ne hb' ho' hg, job?_of_kept hjobs]

theorem endLeg_station {o : Nat} (hl : s.leg? h = some l) (hb : s.batch? l.batch = some b)
    (ho : b.origin = .station o) :
    (s.endLeg h .cancelled).jobs = s.jobs := by
  obtain ⟨-, -, -, hbb, hjobs⟩ := stopLeg_reads hl hb (how := .cancelled) (.inl rfl)
  obtain ⟨b', hb', ho'⟩ : ∃ b', (s.stopLeg h .cancelled).batch? l.batch = some b' ∧ b'.origin = .station o := by
    rw [hbb]
    split <;> exact ⟨_, rfl, ho⟩
  have hdef : s.endLeg h .cancelled = (s.stopLeg h .cancelled).tellStopped l := by simp only [State.endLeg, hl]
  rw [hdef, tellStopped_station hb' ho', hjobs]

/-- A leg that no aborted job waits for tells its job nothing but that its fetch is lost. -/
theorem tellStopped_unawaited_own (hun : Unawaited s l) : OnlyChanges [.jobs] s (s.tellStopped l) := by
  unfold State.tellStopped
  split
  next jh j _ hjob =>
    obtain ⟨b, hb, ho, hj⟩ := batchJob_iff.1 hjob
    split
    · exact modifyJob_frame _ _
    · split
      next rb hopen =>
        rw [if_neg fun hcarry => hun b jh j hb ho hj (waitsFor_iff.2 ⟨rb, hopen, hcarry⟩)]
        exact .refl
      · exact .refl
  · exact .refl

theorem stopLeg_alone {how : LegState} (hl : s.leg? h = some l) (hb : s.batch? l.batch = none) :
    s.stopLeg h how = (s.letGo h l).putLegState h how := by
  have hb' : ((s.letGo h l).putLegState h how).batch? l.batch = none :=
    (batch?_of_kept (letGo_putLegState_own .batches (by decide))).trans hb
  unfold State.stopLeg
  simp only [hl, hb']

theorem unawaited_stopLeg (hl : s.leg? h = some l) (hun : Unawaited s l) : Unawaited (s.stopLeg h .cancelled) l := by
  rcases hb : s.batch? l.batch with _ | b
  · intro b jh j hb'
    rw [stopLeg_alone hl hb, batch?_of_kept (letGo_putLegState_own .batches (by decide)), hb] at hb'
    cases hb'
  · exact unawaited_after_stop hl hb (.inl rfl) hun

theorem endLeg_unawaited_own (hl : s.leg? h = some l) (hun : Unawaited s l) :
    OnlyChanges [.jobs] (s.stopLeg h .cancelled) (s.endLeg h .cancelled) := by
  simp only [State.endLeg, hl]
  exact tellStopped_unawaited_own (unawaited_stopLeg hl hun)

/-! ## A leg becomes DONE (R126) -/

theorem settleBatch_batch? {hb : Handle} (hb' : s.batch? hb = some b) (g : Handle) : (s.settleBatch hb).batch? g =
    if hb = g then some (if b.state = .committed ∧ s.allSettled b.legs = true then
      { b with state := if s.allDone b.legs then .done else .cancelled } else b) else s.batch? g := by
  unfold State.settleBatch
  rw [hb']
  dsimp only
  by_cases hg : hb = g
  · subst hg
    rw [if_pos rfl]
    split
    · rw [modifyBatch_batch?, if_pos rfl, hb']
      rfl
    · exact hb'
  · rw [if_neg hg]
    split
    · rw [modifyBatch_batch?, if_neg hg]
    · rfl

/-- The state in which a leg is DONE and its batch settled, before its job is told. -/
abbrev doneAs (s : State) (h : Handle) (l : Leg) : State :=
  ((s.letGo h l).putLegState h .done).settleBatch l.batch

theorem doneLeg_eq (hl : s.leg? h = some l) : s.doneLeg h = (doneAs s h l).tellDone l := by
  simp only [State.doneLeg, hl]

theorem doneAs_leg? (hl : s.leg? h = some l) (g : Handle) :
    (doneAs s h l).leg? g = if h = g then some { l with state := .done, crane := none } else s.leg? g := by
  rw [doneAs, leg?_of_kept (settleBatch_frame _ .legs (by decide))]
  exact letGo_putLegState_leg? hl _ g

theorem doneAs_own : OnlyChanges [.slots, .cart, .plates, .cranes, .legs, .batches] s (doneAs s h l) :=
  (letGo_putLegState_own.mono (by decide)).trans ((settleBatch_frame _).mono (by decide))

/-- Every other leg of a batch is DONE. -/
abbrev OthersDone (s : State) (h : Handle) (b : Batch) : Prop :=
  ∀ g ∈ b.legs, g ≠ h → ∃ x, s.leg? g = some x ∧ x.state = .done

theorem allDone_iff (as : List Handle) : s.allDone as = true ↔ ∀ g ∈ as, ∃ x, s.leg? g = some x ∧ x.state = .done := by
  unfold State.allDone
  rw [List.all_eq_true]
  refine forall_congr' fun g => forall_congr' fun _ => ?_
  rcases s.leg? g with _ | x <;> simp

/-- The batch after its leg became DONE, and every other batch. -/
theorem doneAs_batch? (hl : s.leg? h = some l) (hb : s.batch? l.batch = some b) (hcom : b.state = .committed) :
    DoneSettles s (doneAs s h l) h l.batch b
      ∧ (∀ g, g ≠ l.batch → (doneAs s h l).batch? g = s.batch? g)
      ∧ ∃ b', (doneAs s h l).batch? l.batch = some b' ∧ b'.origin = b.origin ∧ b'.state ≠ .opened
        ∧ (b'.state = .done ↔ OthersDone s h b) := by
  set q := (s.letGo h l).putLegState h .done with hq
  have hbatches : q.batches = s.batches := letGo_putLegState_own .batches (by decide)
  have hleg (g : Handle) : q.leg? g = if h = g then some { l with state := .done, crane := none } else s.leg? g :=
    letGo_putLegState_leg? hl _ g
  have hbatch (g : Handle) := settleBatch_batch? (s := q) ((batch?_of_kept hbatches).trans hb) g
  have hown := (hbatch l.batch).trans (if_pos rfl)
  have hdone : q.allDone b.legs = true ↔ OthersDone s h b := by
    rw [allDone_iff]
    refine forall_congr' fun g => forall_congr' fun _ => ?_
    rw [hleg]
    by_cases hg : h = g
    · simp [hg]
    · simp [hg, Ne.symm hg]
  have hsettled : q.allSettled b.legs = true ↔
      ∀ g ∈ b.legs, g ≠ h → ∀ x, s.leg? g = some x → x.state.unfinished = false := by
    rw [allSettled_iff]
    refine forall_congr' fun g => forall_congr' fun _ => ?_
    rw [hleg]
    by_cases hg : h = g
    · simp [hg, LegState.unfinished]
    · simp [hg, Ne.symm hg]
  have hdoneSettled (hall : OthersDone s h b) : q.allSettled b.legs = true := by
    refine hsettled.2 fun g hg hgh x hx => ?_
    obtain ⟨y, hy, hstate⟩ := hall g hg hgh
    rw [hx] at hy
    cases hy
    rw [hstate]
    rfl
  refine ⟨⟨fun hall => ?_, fun hall hnot => ?_, fun hsome => ?_⟩, fun g hg => ?_, _, hown, ?_, ?_, ?_⟩
  · rw [doneAs, hown, if_pos ⟨hcom, hdoneSettled hall⟩, if_pos (hdone.2 hall)]
  · obtain ⟨g, hg, hgh, hnot⟩ := hnot
    have hnot : ¬OthersDone s h b := fun hall => by
      obtain ⟨x, hx, hstate⟩ := hall g hg hgh
      exact hnot x hx hstate
    rw [doneAs, hown, if_pos ⟨hcom, hsettled.2 hall⟩, if_neg (by rw [hdone]; exact hnot)]
  · obtain ⟨g, hg, hgh, x, hx, hun⟩ := hsome
    rw [doneAs, hown, if_neg]
    rintro ⟨-, hall⟩
    rw [hsettled.1 hall g hg hgh x hx] at hun
    cases hun
  · rw [doneAs, hbatch, if_neg hg.symm, batch?_of_kept hbatches]
  · split <;> rfl
  · split
    · split <;> simp
    · simp [hcom]
  · by_cases hall : OthersDone s h b
    · rw [if_pos ⟨hcom, hdoneSettled hall⟩, if_pos (hdone.2 hall)]
      exact iff_of_true rfl hall
    · refine iff_of_false ?_ hall
      split
      · rw [if_neg (by rw [hdone]; exact hall)]
        simp
      · simp [hcom]

/-! ## What the job is told of a DONE leg (R80, R94, R95) -/

theorem tellDone_eq (hb : s.batch? l.batch = some b) (ho : b.origin = .job jh) (hj : s.job? jh = some j) :
    s.tellDone l =
      if j.clearBatch = some l.batch ∧ j.state = .ended ∧ b.state = .done then s.clearJob jh
      else if j.fetchBatch = some l.batch then
        if l.kind = .fetch ∧ j.state = .admitted then s.modifyJob jh fun j => { j with state := .loaded }
        else
          match s.openReturn j with
          | some rb => if l.carries then s.commitBatch rb else s
          | none => s
      else s := by
  unfold State.tellDone
  rw [hb, batchJob_iff.2 ⟨b, hb, ho, hj⟩] <;> rfl

theorem tellDone_station {o : Nat} (hb : s.batch? l.batch = some b) (ho : b.origin = .station o) :
    s.tellDone l = s := by
  have hnone : s.batchJob l.batch = none := by
    unfold State.batchJob
    simp only [hb, ho]
  unfold State.tellDone
  rw [hb, hnone]

/-- What the job `j` of the batch `b` is told when its leg `h` becomes DONE. -/
abbrev DoneTold (s t : State) (h : Handle) (l : Leg) (b : Batch) (jh : Handle) (j : Job) : Prop :=
  (j.clearBatch = some l.batch → j.state = .ended → OthersDone s h b →
      t.job? jh = some { j with state := .cleared, role := none }
        ∧ ∀ g p, s.part? g = some p → t.part? g = if g ∈ j.parts ∧ p.cut = .scrapped then none else some p)
    ∧ (j.fetchBatch = some l.batch → l.kind = .fetch → j.state = .admitted →
      t.job? jh = some { j with state := .loaded } ∧ t.parts = s.parts)
    ∧ (¬(j.clearBatch = some l.batch ∧ j.state = .ended ∧ OthersDone s h b) →
      (j.fetchBatch = some l.batch →
        (l.kind ≠ .fetch ∨ j.state ≠ .admitted) ∧ (j.state ≠ .ended ∨ l.carries = false)) →
      t.job? jh = some j ∧ t.parts = s.parts)
    ∧ (∀ rb ret, j.fetchBatch = some l.batch → l.carries = true → j.state = .ended → j.clearBatch = some rb →
      rb ≠ l.batch → s.batch? rb = some ret → ret.state = .opened →
        t.batch? rb = some { ret with state := .committed, seq := some s.commitCounter }
          ∧ t.commitCounter = min (s.commitCounter + 1) 4294967295 ∧ t.job? jh = some j)
    ∧ ∀ g, g ≠ jh → t.job? g = s.job? g

theorem doneLeg_told (hl : s.leg? h = some l) (hb : s.batch? l.batch = some b) (hcom : b.state = .committed)
    (ho : b.origin = .job jh) (hj : s.job? jh = some j) : DoneTold s (s.doneLeg h) h l b jh j := by
  obtain ⟨-, hbs, b', hb', ho', hclosed, hdone⟩ := doneAs_batch? hl hb hcom
  have hown := doneAs_own (s := s) (h := h) (l := l)
  have hjobs (g : Handle) : (doneAs s h l).job? g = s.job? g := job?_of_kept (hown .jobs (by decide))
  have hparts : (doneAs s h l).parts = s.parts := hown .parts (by decide)
  have hpart (g : Handle) : (doneAs s h l).part? g = s.part? g := by rw [State.part?, hparts, State.part?]
  have hj' := (hjobs jh).trans hj
  rw [doneLeg_eq hl]
  generalize hm : doneAs s h l = m at *
  have htell := tellDone_eq hb' (ho'.trans ho) hj'
  rw [htell]
  refine ⟨fun hclear hended hall => ?_, fun hfetch hkind hadmitted => ?_, fun hnot hstays => ?_,
    fun rb ret hfetch hcarry hended hclear hne hret hopen => ?_, fun g hg => ?_⟩
  · rw [if_pos ⟨hclear, hended, hdone.2 hall⟩]
    obtain ⟨hself, -, hgone⟩ := clearJob_reads hj'
    exact ⟨hself, fun g p hp => hgone g p ((hpart g).trans hp)⟩
  · rw [if_neg (by simp [hadmitted]), if_pos hfetch, if_pos ⟨hkind, hadmitted⟩]
    refine ⟨?_, hparts⟩
    rw [modifyJob_job?, if_pos rfl, hj']
    rfl
  · rw [if_neg (by rw [hdone]; exact hnot)]
    split
    next hfetch =>
      obtain ⟨hkind, hcarry⟩ := hstays hfetch
      rw [if_neg (by tauto)]
      split
      next rb hopen =>
        obtain ⟨-, hended, -⟩ := openReturn_iff.1 hopen
        rw [if_neg (by simp [hcarry.resolve_left (not_not.2 hended)])]
        exact ⟨hj', hparts⟩
      · exact ⟨hj', hparts⟩
    · exact ⟨hj', hparts⟩
  · have hreturn : m.openReturn j = some rb :=
      openReturn_iff.2 ⟨hclear, hended, ret, (hbs rb hne).trans hret, hopen⟩
    rw [if_neg (by rw [hclear]; simp [hne]), if_pos hfetch, if_neg (by simp [hended]), hreturn]
    dsimp only
    rw [if_pos hcarry]
    refine ⟨(modifyBatch_batch? _).trans ?_, ?_, hj'⟩
    · rw [if_pos rfl, hbs rb hne, hret, hown .commitCounter (by decide)]
      rfl
    · rw [State.commitBatch, hown .commitCounter (by decide)]
      rfl
  · split
    · rw [clearJob_job?_ne hg, hjobs]
    · split
      · split
        · rw [modifyJob_job?, if_neg hg.symm, hjobs]
        · split
          · split
            · exact hjobs g
            · exact hjobs g
          · exact hjobs g
      · exact hjobs g

/-- A DONE leg leaves every other leg, and its batch as the legs then have it. -/
theorem doneLeg_leg (hl : s.leg? h = some l) : LegBecomes s (s.doneLeg h) h l .done := by
  have hleg (g : Handle) : (s.doneLeg h).leg? g = (doneAs s h l).leg? g := by
    rw [doneLeg_eq hl]
    unfold State.tellDone
    split
    next jh j _ _ =>
      split
      · exact leg?_of_kept (clearJob_frame jh .legs (by decide))
      · split
        · split
          · rfl
          · split
            · split <;> rfl
            · rfl
        · rfl
    · rfl
  refine ⟨?_, fun g hg => ?_⟩
  · rw [hleg, doneAs_leg? hl, if_pos rfl]
    rfl
  · rw [hleg, doneAs_leg? hl, if_neg hg.symm]

theorem tellDone_batch? (hb : s.batch? l.batch = some b) (hclosed : b.state ≠ .opened) :
    (s.tellDone l).batch? l.batch = s.batch? l.batch := by
  unfold State.tellDone
  split
  next jh j _ _ =>
    split
    · exact batch?_of_kept (clearJob_frame jh .batches (by decide))
    · split
      · split
        · rfl
        · split
          next rb hopen =>
            split
            · obtain ⟨-, -, ret, hret, hopen⟩ := openReturn_iff.1 hopen
              have hne : rb ≠ l.batch := by
                rintro rfl
                rw [hb] at hret
                cases hret
                exact hclosed hopen
              exact (modifyBatch_batch? _).trans (if_neg hne)
            · rfl
          · rfl
      · rfl
  · rfl

theorem doneLeg_settles (hl : s.leg? h = some l) (hb : s.batch? l.batch = some b) (hcom : b.state = .committed) :
    DoneSettles s (s.doneLeg h) h l.batch b := by
  obtain ⟨hsettles, -, b', hb', -, hclosed, -⟩ := doneAs_batch? hl hb hcom
  have hbatch : (s.doneLeg h).batch? l.batch = (doneAs s h l).batch? l.batch := by
    rw [doneLeg_eq hl, tellDone_batch? hb' hclosed]
  simpa only [DoneSettles, hbatch] using hsettles

theorem doneLeg_station {o : Nat} (hl : s.leg? h = some l) (hb : s.batch? l.batch = some b)
    (hcom : b.state = .committed)
    (ho : b.origin = .station o) : (s.doneLeg h).jobs = s.jobs ∧ (s.doneLeg h).parts = s.parts := by
  obtain ⟨-, -, b', hb', ho', -⟩ := doneAs_batch? hl hb hcom
  rw [doneLeg_eq hl, tellDone_station hb' (ho'.trans ho)]
  exact ⟨doneAs_own .jobs (by decide), doneAs_own .parts (by decide)⟩

end Sys2Proof.Proofs.Ends
end

section
/-! PROOFS. Accept Load, Leg Fault and Cancel Leg taken (sections 7.6 and 7.7). -/

namespace Sys2Proof.Proofs.Returns

open Sys2Proof Sys2Proof.Machine
open Sys2Proof.Proofs.Pallets (askerOf)
open Sys2Proof.Proofs.Requests Sys2Proof.Proofs.Zones Sys2Proof.Proofs.Reports Sys2Proof.Proofs.Ends

variable {s t m : State} {k : Asker} {h g : Handle} {l : Leg} {a c : Nat} {st : Station} {tag : Byte}
  {put : Option Handle}
  {place : Place} {target : Option Place}

/-! ## Accept Load -/

theorem acceptLoad_takes (hl : s.leg? h = some l) (hstate : l.state = .check) (hc : l.crane = some c) :
    acceptLoad k h s = .now ((s.modifyLeg h fun l => { l with state := .lifted }).modifyCrane c fun k =>
      { k with state := .loaded }) .done [] := by
  unfold acceptLoad
  simp only [hl, hstate, hc]

/-- The leg and the crane go on with the load. -/
abbrev GoesOn (h : Handle) (l : Leg) (c : Nat) (s t : State) : Prop :=
  t.leg? h = some { l with state := .lifted } ∧ (∀ g, g ≠ h → t.leg? g = s.leg? g)
    ∧ t.crane c = { s.crane c with state := .loaded } ∧ ∀ d, d ≠ c → t.crane d = s.crane d

theorem acceptLoad_goesOn (hl : s.leg? h = some l) (hc : c ≤ 5) :
    GoesOn h l c s ((s.modifyLeg h fun l => { l with state := .lifted }).modifyCrane c fun k =>
      { k with state := .loaded }) := by
  obtain ⟨hself, hothers⟩ := modifyCrane_reads (s := s.modifyLeg h fun l => { l with state := .lifted }) hc fun k =>
    { k with state := .loaded }
  refine ⟨(modifyLeg_leg? (s := s) _).trans ?_, fun g hg => (modifyLeg_leg? (s := s) _).trans (if_neg hg.symm), hself,
    hothers⟩
  rw [if_pos rfl, hl]
  rfl

/-! ## A leg put back from its crane's hands -/

/-- The places after nothing, or a load, was set down, and a leg then left an incoming list. -/
theorem lands_of_drops (hput : Lands s m put place h none) (hdrops : Drops m t h target) :
    Lands s t put place h target := by
  obtain ⟨hslots, hbeds, hcart⟩ := hput
  obtain ⟨hslots', hbeds', hcart'⟩ := hdrops
  refine ⟨fun k hk => ?_, fun b d hb hd => ?_, ?_⟩
  · rw [hslots' k, hslots k hk] <;> simp
  · rw [State.bed, hbeds', ← State.bed, hbeds b d hb hd]
  · rw [hcart', hcart] <;> simp

theorem lands_nothing : Lands s s none .nowhere h none := by
  have hno (b d : Nat) : (Place.nowhere == Place.bed b d) = false := rfl
  refine ⟨fun k _ => ?_, fun b d _ _ => ?_, ?_⟩ <;> simp [hno]

/-- What of an ASSIGNED leg put back is said of places, plates and legs. -/
abbrev Back (h : Handle) (l : Leg) (s t : State) : Prop :=
  Lands s t none .nowhere h l.target
    ∧ (∀ p r, l.plate = some p → s.plate? p = some r → t.plate? p = some { r with leg := none })
    ∧ (∀ g, l.plate ≠ some g → t.plate? g = s.plate? g)
    ∧ (ReturnsFreely s l → LegBecomes s t h l .queued)
    ∧ MarkedEnds s t h l
    ∧ AwaitEnds s t h l .cancelled (∃ p r, l.plate = some p ∧ s.plate? p = some r ∧ r.st.location = .cart)

theorem onCart_iff : s.onCart l = true ↔
    ∃ p r, l.plate = some p ∧ s.plate? p = some r ∧ r.st.location = .cart := by
  unfold State.onCart
  rcases l.plate with _ | p
  · simp
  · rcases hr : s.plate? p with _ | r
    · simp [hr]
    · simp [hr]

/-- Whether a plate lies on the cart is not changed when its leg lets it go. -/
theorem onCart_putBack (hgo : LetsGo s (s.letGo h l) h l c) : (putBack s h l).onCart l = s.onCart l := by
  unfold State.onCart
  rcases hp : l.plate with _ | p
  · rfl
  · have hplate : (putBack s h l).plate? p = (s.plate? p).map ({ · with leg := none }) :=
      (hgo.plates p).trans (if_pos hp)
    dsimp only
    rw [hplate]
    rcases s.plate? p with _ | r <;> rfl

theorem requeueLeg_back (hl : s.leg? h = some l) (hhand : l.state.inHand = true) (hc : l.crane = some c) :
    Back h l s (s.requeueLeg h) ∧ Freed s (s.requeueLeg h) c := by
  have hgo := letGo_letsGo (s := s) (h := h) hhand hc
  have hdone := hgo.finish (requeueLeg_rest hl)
  have hawaited := requeueLeg_awaited hl
  rw [onCart_putBack hgo, onCart_iff] at hawaited
  exact ⟨⟨lands_of_drops lands_nothing hdone.drops,
    fun p r hp hr => (hdone.plates p).trans (by rw [if_pos hp, hr] <;> rfl),
    fun g hg => (hdone.plates g).trans (if_neg hg), fun hfree => (requeueLeg_returns hl hfree).1, requeueLeg_marked hl,
    hawaited⟩, hdone.freed⟩

/-- Settles O43: Accept Load by the leg and the crane, the others by the leg put back. -/
theorem legsAcceptedAndReturned : Obligations.LegsAcceptedAndReturned := by
  unfold Obligations.LegsAcceptedAndReturned
  rintro s u a st tag h l c rfl hl hc hc5
  have hl' : (s.heard a).leg? h = some l := (leg?_of_kept (heard_line .legs (by decide))).trans hl
  refine ⟨fun hasks hstate => ?_, fun i hi hstate => ?_⟩
  · obtain ⟨t, hexec, himm, hframe, hline⟩ := request_answers (own := [.legs, .cranes]) (tag := tag) hasks
      (acceptLoad_takes hl' hstate hc) (((modifyLeg_frame h _).mono (by decide)).trans
        ((modifyCrane_frame c _).mono (by decide))) (by decide)
    obtain ⟨h1, h2, h3, h4⟩ := taken_of_line (GoesOn h l c) (acceptLoad_goesOn hl' hc5) hline
    exact ⟨t, hexec, h1, h2, h3, h4, himm, hframe⟩
  · have htaken : ∃ t, exec i s = .next t ∧ Immediate s t a st tag .done []
        ∧ OnlyChanges (lineFields ++ legFields) s t ∧ OnlyChanges lineFields ((s.heard a).requeueLeg h) t := by
      rcases hi with ⟨rfl, hasks, hunit⟩ | ⟨rfl, hasks⟩
      · refine request_answers (body := legFault) (v := h) hasks ?_ (requeueLeg_frame h) (by decide)
        rw [legFault_known hl']
        exact if_pos ⟨hc.trans (congrArg some hunit), hstate⟩
      · refine request_answers (body := cancelLeg) (v := h) hasks ?_ (requeueLeg_frame h) (by decide)
        rw [cancelLeg_known hl', hstate]
    obtain ⟨t, hexec, himm, hframe, hline⟩ := htaken
    obtain ⟨hback, hfreed⟩ := requeueLeg_back hl' (by rw [hstate]; rfl) hc
    obtain ⟨h1, h2, h3, h4, h5, h6⟩ := taken_of_line (Back h l) hback hline
    refine ⟨t, hexec, freed_congr rfl rfl rfl (hline .cranes (by decide)) hfreed, h1, h2, h3, himm,
      fun hfree => ⟨h4 hfree, ?_⟩, h5, h6, hframe.mono (by decide)⟩
    have hfree' : ReturnsFreely (s.heard a) l := (read_of_line (ReturnsFreely · l) heard_line).mpr hfree
    obtain ⟨-, hown⟩ := requeueLeg_returns hl' hfree'
    exact (((heard_line.mono (by decide)).trans ((letGo_frame h l).mono (by decide))).trans
      (hown.mono (by decide))).trans
      (hline.mono (by decide))

/-! ## A QUEUED leg is cancelled -/

/-- What a cancelled leg that no aborted job waits for leaves of the legs and the batches. -/
abbrev CancelledAlone (h : Handle) (l : Leg) (b : Batch) (s t : State) : Prop :=
  t.leg? h = some { l with state := .cancelled, crane := none }
    ∧ (∀ g ∈ b.legs, g ≠ h → ∀ x, s.leg? g = some x → x.state.onHook = false →
      t.leg? g = some (if x.state = .queued ∧ l.position < x.position then { x with state := .cancelled } else x))
    ∧ (∀ g x, s.leg? g = some x → x.state.onHook = true → ∃ y, t.leg? g = some { x with ending := y })
    ∧ (∀ g, g ∉ b.legs → t.leg? g = s.leg? g)
    ∧ (∀ g, g ≠ l.batch → t.batch? g = s.batch? g)
    ∧ ((∀ g ∈ b.legs, ∀ x, t.leg? g = some x → x.state.unfinished = false) →
        t.batch? l.batch = some { b with state := .cancelled })
    ∧ ((∃ g ∈ b.legs, ∃ x, t.leg? g = some x ∧ x.state.unfinished = true) → t.batch? l.batch = some b)

theorem cancelledAlone (hl : s.leg? h = some l) (hq : l.state = .queued) {b : Batch} (hb : s.batch? l.batch = some b)
    (hcom : b.state = .committed) (hmem : h ∈ b.legs) (hun : Unawaited s l) :
    CancelledAlone h l b s (s.endLeg h .cancelled) := by
  obtain ⟨hself, hstop⟩ := endLeg_stopEnds hl (.inl rfl) hun
  obtain ⟨hothers, hout, hbs, hsettled, hopen, -, -⟩ := hstop b hb hcom hmem
  refine ⟨hself, fun g hg hne x hx hhook => ?_, fun g x hx hhook => ?_, hout, hbs, hsettled, hopen⟩
  · rw [hothers g hg hne x hx, hhook]
    rfl
  · by_cases hg : g ∈ b.legs
    · have hne : g ≠ h := by
        rintro rfl
        rw [hl] at hx
        cases hx
        rw [hq] at hhook
        cases hhook
      have hnot : x.state ≠ .queued := fun e => by rw [e] at hhook; cases hhook
      exact ⟨true, by rw [hothers g hg hne x hx, if_neg fun e => hnot e.1, if_pos hhook]⟩
    · exact ⟨x.ending, (hout g hg).trans hx⟩

/-- What Cancel Leg of a QUEUED leg leaves. -/
abbrev Cancels (h : Handle) (l : Leg) (b : Batch) (s t : State) : Prop :=
  (Unawaited s l → CancelledAlone h l b s t)
    ∧ (∀ o, b.origin = .station o → t.jobs = s.jobs)
    ∧ (∀ jh j, b.origin = .job jh → s.job? jh = some j → JobTold s t l b jh j)
    ∧ AwaitEnds s t h l .cancelled False

/-- Settles O44: the leg stops, and its batch and its job are settled. -/
theorem cancelLegCancels : Obligations.CancelLegCancels := by
  unfold Obligations.CancelLegCancels
  intro s a st tag h l b hasks hl hq hb hcom hmem
  have hl' : (s.heard a).leg? h = some l := (leg?_of_kept (heard_line .legs (by decide))).trans hl
  have hb' : (s.heard a).batch? l.batch = some b := (batch?_of_kept (heard_line .batches (by decide))).trans hb
  have htaken : cancelLeg (askerOf a st tag) h (s.heard a) = .now ((s.heard a).endLeg h .cancelled) .done [] := by
    rw [cancelLeg_known hl', hq]
    refine if_pos ?_
    simp [State.inCommitted, hb', hcom]
  have hgo : (s.heard a).letGo h l = s.heard a := by simp [State.letGo, hq, LegState.inHand]
  have hown := endLeg_rest hl' .cancelled
  rw [hgo] at hown
  obtain ⟨t, hexec, himm, hframe, hline⟩ := request_answers (tag := tag) hasks htaken hown (by decide)
  have hcancels : Cancels h l b (s.heard a) ((s.heard a).endLeg h .cancelled) :=
    ⟨cancelledAlone hl' hq hb' hcom hmem, fun o ho => endLeg_station hl' hb' ho,
      fun jh j ho hj => endLeg_told hl' hb' ho hj, endLeg_awaitEnds hl' (.inl rfl)⟩
  obtain ⟨halone, hstation, hjob, hawait⟩ := taken_of_line (Cancels h l b) hcancels hline
  refine ⟨t, hexec, fun hun => ?_, hstation, hjob, hawait, himm, hframe⟩
  obtain ⟨h1, h2, h3, h4, h5, h6, h7⟩ := halone hun
  refine ⟨h1, h2, h3, h4, h5, h6, h7, ?_⟩
  have hun' : Unawaited (s.heard a) l := (read_of_line (Unawaited · l) heard_line).mpr hun
  have hstop := stopLeg_queued (how := .cancelled) hl' hq
  exact (((heard_line.mono (by decide)).trans (hstop.mono (by decide))).trans
    ((endLeg_unawaited_own hl' hun').mono (by decide))).trans (hline.mono (by decide))

end Sys2Proof.Proofs.Returns
end

section
/-! PROOFS. Set Down taken (section 7.6): where the load lands, and what becomes of its leg. -/

namespace Sys2Proof.Proofs.SetDowns

open Sys2Proof Sys2Proof.Machine
open Sys2Proof.Proofs.Pallets (askerOf request_unchanged)
open Sys2Proof.Proofs.Requests Sys2Proof.Proofs.Places Sys2Proof.Proofs.Reports Sys2Proof.Proofs.Ends
open Sys2Proof.Proofs.Returns (lands_of_drops onCart_iff onCart_putBack)
open Sys2Proof.Proofs.Rooms (bedBare_iff cartHasRoom_iff)
open Sys2Proof.Proofs.Tables (pool_any_iff)

variable {s t m : State} {h g q : Handle} {l : Leg} {r : PlateRec} {a c : Nat} {st : Station} {tag : Byte} {p : Place}

/-! ## Where a load lands -/

/-- A plate set down and let go by its leg, if it has one that leaves an incoming list. -/
abbrev SetDownAt (q : Handle) (r : PlateRec) (p : Place) (h : Handle) (target : Option Place) (s t : State) : Prop :=
  t.plate? q = some { r with st := { r.st with location := landing s p }, leg := none }
    ∧ (∀ g, g ≠ q → t.plate? g = s.plate? g)
    ∧ Lands s t (some q) p h target
    ∧ t.queue = joining s.queue [.state q.idx]

theorem land_plate (hq : l.plate = some q) : s.land l p = s.movePlate q p := by
  unfold State.land
  simp only [hq]

theorem land_moved (hq : l.plate = some q) (hr : s.plate? q = some r) (hook : r.st.location = .hook c)
    (hp : CanHold p) (hne : p ≠ .hook c) : Moved s (s.land l p) q r p := by
  rw [land_plate hq]
  refine movePlate_moved hr hp ?_ fun j b hl => ?_
  · rw [hook]
    exact hne
  · rw [hook] at hl
    cases hl

/-- A plate moved off a hook joins its place alone. -/
theorem moved_lands (hmoved : Moved s m q r p) (hook : r.st.location = .hook c) (h : Handle) :
    Lands s m (some q) p h none := by
  obtain ⟨-, -, -, -, hslot, -, hslots, hbed, -, hbeds, hcart, -⟩ := hmoved
  refine ⟨fun k _ => ?_, fun b d _ hd => ?_, ?_⟩
  · by_cases hk : p = .slot k
    · rw [hslot k hk] <;> simp [hk]
    · rw [hslots k hk (by rw [hook]; simp [Location.place])] <;> simp [hk]
  · by_cases hb : p = .bed b d
    · rw [hbed b d hb] <;> simp [hb]
    · rw [hbeds b d hd hb (by simp [hook])] <;> simp [hb]
  · rw [hcart, hook]
    by_cases hc : p = .cart <;> simp [hc]

theorem setDownAt_of_moved (hmoved : Moved s m q r p) (hook : r.st.location = .hook c) (hq : l.plate = some q)
    (hgo : LetsGo m t h l c) (hqueue : t.queue = m.queue) : SetDownAt q r p h l.target s t := by
  have hlands := lands_of_drops (moved_lands hmoved hook h) hgo.drops
  obtain ⟨hplate, hplates, -, -, -, -, -, -, -, -, -, hjoin⟩ := hmoved
  have habove : aboveOf s q r.st.location = [] := by rw [hook] <;> rfl
  refine ⟨(hgo.plates q).trans ?_, fun g hg => (hgo.plates g).trans ?_, hlands, hqueue.trans ?_⟩
  · rw [if_pos hq, hplate]
    rfl
  · rw [if_neg fun e => hg (by rw [hq] at e; exact (Option.some.inj e).symm), hplates g hg (by rw [habove]; simp)]
  · rw [hjoin, habove]
    rfl

/-- A skeleton set back on a bed is marked there. -/
theorem land_skeleton {b d : Nat} (hl : l.plate = none) (hb : b ≤ 7) (hd : d ≤ 1) :
    Lands s (s.land l (.bed b d)) none (.bed b d) h none ∧ OnlyChanges [.beds] s (s.land l (.bed b d)) := by
  have hdef : s.land l (.bed b d) = s.modifyBed b d fun x => { x with skeleton := true } := by
    unfold State.land
    simp only [hl]
    rfl
  rw [hdef]
  refine ⟨⟨fun k _ => by simp [State.slot], fun i e _ he => ?_, by simp⟩, modifyBed_frame _ _ _⟩
  by_cases hbe : b = i ∧ d = e
  · obtain ⟨rfl, rfl⟩ := hbe
    rw [State.bed, State.modifyBed, Table.getD_modify_self _ _ _ (by unfold bedIndex; omega)] <;> simp [State.bed]
  · have hne : bedIndex b d ≠ bedIndex i e := by rw [Ne, bedIndex_inj hd he]; exact hbe
    have hplace : (Place.bed b d == Place.bed i e) = false := by
      rw [beq_eq_false_iff_ne]
      simpa using hbe
    rw [State.bed, State.modifyBed, Table.getD_modify_ne _ _ _ hne, hplace] <;> simp [State.bed]

/-! ## What becomes of the leg of a load that was set down -/

section Landed

variable {own : List Field}

/-- What is said of a leg that comes back after its load was set down. -/
abbrev Returned (h : Handle) (l : Leg) (kept : Prop) (s t : State) : Prop :=
  (ReturnsFreely s l → LegBecomes s t h l .queued) ∧ MarkedEnds s t h l ∧ AwaitEnds s t h l .cancelled kept

theorem land_leg? (hl : s.leg? h = some l) : (s.land l p).leg? h = some l :=
  (leg?_of_kept (land_frame l p .legs (by decide))).trans hl

theorem returnsFreely_land : ReturnsFreely (s.land l p) l ↔ ReturnsFreely s l := by
  have hown := land_frame (s := s) l p
  have hbatches : (s.land l p).batches = s.batches := hown .batches (by decide)
  have hjobs : (s.land l p).jobs = s.jobs := hown .jobs (by decide)
  exact and_congr_right fun _ =>
    ⟨unawaited_of hbatches.symm hjobs.symm rfl rfl, unawaited_of hbatches hjobs rfl rfl⟩

theorem returned_land (hl : s.leg? h = some l) {kept : Prop}
    (hkept : (putBack (s.land l p) h l).onCart l = true ↔ kept) :
    Returned h l kept s ((s.land l p).requeueLeg h) := by
  have hown := land_frame (s := s) l p
  have hleg (g : Handle) : (s.land l p).leg? g = s.leg? g := leg?_of_kept (hown .legs (by decide))
  have hbatches : (s.land l p).batches = s.batches := hown .batches (by decide)
  have hjobs : (s.land l p).jobs = s.jobs := hown .jobs (by decide)
  have hl' := (hleg h).trans hl
  refine ⟨fun hfree => ?_, fun hending hun => ?_, ?_⟩
  · obtain ⟨⟨hself, hothers⟩, -⟩ := requeueLeg_returns hl' (returnsFreely_land.2 hfree)
    exact ⟨hself, fun g hg => (hothers g hg).trans (hleg g)⟩
  · obtain ⟨hself, hstop⟩ := requeueLeg_marked hl' hending (unawaited_of hbatches hjobs rfl rfl hun)
    exact ⟨hself, stopEnds_of (fun g _ => hleg g) hbatches hjobs rfl rfl hstop⟩
  · have hend := requeueLeg_awaited hl'
    rw [hkept] at hend
    exact awaitEnds_of (fun g _ => hleg g) hbatches hjobs (hown .parts (by decide))
      (hown .commitCounter (by decide)) rfl
      rfl hend

/-- A crane freed after its load was set down. -/
theorem freed_land (hfreed : Freed (s.land l p) t c) : Freed s t c :=
  have hown := land_frame (s := s) l p
  freed_congr (hown .stations (by decide)) (hown .hall (by decide)) (hown .cranes (by decide)) rfl hfreed

end Landed

/-- A plate whose leg comes back. -/
abbrev PlateReturned (q : Handle) (r : PlateRec) (p : Place) (h : Handle) (l : Leg) (s t : State) : Prop :=
  SetDownAt q r p h l.target s t ∧ Returned h l (p = .cart) s t

theorem plate_returned (hl : s.leg? h = some l) (hhand : l.state.inHand = true) (hc : l.crane = some c)
    (hq : l.plate = some q) (hr : s.plate? q = some r) (hook : r.st.location = .hook c) (hp : CanHold p)
    (hne : p ≠ .hook c) :
    PlateReturned q r p h l s ((s.land l p).requeueLeg h) ∧ Freed s ((s.land l p).requeueLeg h) c := by
  have hmoved := land_moved (s := s) hq hr hook hp hne
  have hl' := land_leg? (p := p) hl
  have hlets := letGo_letsGo (s := s.land l p) (h := h) hhand hc
  have hgo := hlets.finish (requeueLeg_rest hl')
  refine ⟨⟨setDownAt_of_moved hmoved hook hq hgo (requeueLeg_frame h .queue (by decide)), returned_land hl ?_⟩,
    freed_land hgo.freed⟩
  rw [onCart_putBack hlets, onCart_iff]
  have hplate := hmoved.plate
  constructor
  · rintro ⟨q', r', hq', hr', hcart⟩
    rw [hq] at hq'
    cases hq'
    rw [hplate] at hr'
    cases hr'
    cases p <;> simp [landing] at hcart ⊢
  · rintro rfl
    exact ⟨q, _, hq, hplate, rfl⟩

/-- A skeleton whose leg comes back. -/
abbrev SkeletonReturned (p : Place) (h : Handle) (l : Leg) (s t : State) : Prop :=
  Lands s t none p h l.target ∧ Returned h l False s t

theorem letGo_bare_own (hp : l.plate = none) : OnlyChanges [.slots, .cart, .cranes] s (s.letGo h l) := by
  unfold State.letGo
  split
  · simp only [hp]
    split
    · exact ((dropIncoming_frame h _).mono (by decide)).trans ((freeCrane_frame _).mono (by decide))
    · exact (dropIncoming_frame h _).mono (by decide)
  · exact .refl

theorem onCart_bare (hp : l.plate = none) : s.onCart l = false := by
  unfold State.onCart
  simp only [hp]

/-- A skeleton's leg commits no return batch. -/
theorem requeueLeg_bare (hl : s.leg? h = some l) (hp : l.plate = none) :
    OnlyChanges [.slots, .cart, .cranes, .legs, .batches, .jobs, .parts] s (s.requeueLeg h) := by
  have hput : OnlyChanges [.slots, .cart, .cranes, .legs, .batches, .jobs, .parts] s (putBack s h l) :=
    ((letGo_bare_own hp).mono (by decide)).trans ((putLegState_frame h _).mono (by decide))
  obtain ⟨hback, -⟩ := putBack_leg? hl
  have hstop := stopLeg_queued (how := .cancelled) hback rfl
  rw [requeueLeg_eq hl, onCart_bare hp]
  split
  next jh rb _ =>
    exact (hput.trans (hstop.mono (by decide))).trans
      (((cancelBatch_frame rb).mono (by decide)).trans ((clearJob_frame jh).mono (by decide)))
  · split
    · refine hput.trans ?_
      rw [State.endLeg, hback]
      exact (hstop.mono (by decide)).trans (tellStopped_own.mono (by decide))
    · exact hput.trans ((modifyLeg_frame _ _).mono (by decide))

theorem skeleton_returned {b d : Nat} (hl : s.leg? h = some l) (hhand : l.state.inHand = true) (hc : l.crane = some c)
    (hq : l.plate = none) (hb : b ≤ 7) (hd : d ≤ 1) :
    SkeletonReturned (.bed b d) h l s ((s.land l (.bed b d)).requeueLeg h)
      ∧ Freed s ((s.land l (.bed b d)).requeueLeg h) c := by
  obtain ⟨hlands, -⟩ := land_skeleton (s := s) (h := h) hq hb hd
  have hl' := land_leg? (p := .bed b d) hl
  have hgo := (letGo_letsGo (s := s.land l (.bed b d)) (h := h) hhand hc).finish (requeueLeg_rest hl')
  exact ⟨⟨lands_of_drops hlands hgo.drops, returned_land hl (by rw [onCart_bare hq]; simp)⟩, freed_land hgo.freed⟩

/-! ## The judgement of a set-down -/

theorem bedAwaited_iff {b d : Nat} : s.bedAwaited b d = true ↔
    ∃ g x, s.leg? g = some x ∧ x.state.inHand = true ∧ x.target = some (.bed b d) := by
  simp only [State.bedAwaited, pool_any_iff, Bool.and_eq_true, beq_iff_eq]
  rfl

/-- What the source of a CHECK leg must show to take the load back. -/
theorem takesBack_iff : s.takesBack l p = true ↔
    match p with
    | .slot k => (s.slotCfg k).bay = l.bay ∧ s.hasRoom k (s.legRoomMass l) = true
    | .bed b d => (s.bed b d).plates = [] ∧ (s.bed b d).skeleton = false
        ∧ ∀ g x, s.leg? g = some x → x.state.inHand = true → x.target ≠ some (.bed b d)
    | .cart => s.cart.plates = [] ∧ s.cart.incoming = [] ∧ s.cart.side = some l.bay
    | _ => False := by
  cases p with
  | slot k => simp [State.takesBack]
  | bed b d =>
    simp only [State.takesBack, Bool.and_eq_true, bedBare_iff, Bool.not_eq_true', Bool.eq_false_iff, Ne, bedAwaited_iff,
      not_exists, not_and, and_assoc]
  | cart => simp only [State.takesBack, Bool.and_eq_true, cartHasRoom_iff, beq_iff_eq, and_assoc]
  | scrapBin | nowhere | choose | hook c => simp [State.takesBack]

/-- What keeps a source from taking a load back. -/
theorem not_takesBack (hno : match p with
      | .slot k => (s.slotCfg k).bay ≠ l.bay ∨ s.hasRoom k (s.legRoomMass l) = false
      | .bed b d => (s.bed b d).plates ≠ [] ∨ (s.bed b d).skeleton = true
          ∨ ∃ g x, s.leg? g = some x ∧ x.state.inHand = true ∧ x.target = some (.bed b d)
      | .cart => s.cart.plates ≠ [] ∨ s.cart.incoming ≠ [] ∨ s.cart.side ≠ some l.bay
      | _ => True) : ¬s.takesBack l p = true := by
  rw [takesBack_iff]
  cases p with
  | slot k =>
    rintro ⟨hbay, hroom⟩
    exact hno.elim (· hbay) fun e => by rw [hroom] at e; cases e
  | bed b d =>
    rintro ⟨hbare, hmark, hnone⟩
    rcases hno with e | e | ⟨g, x, hx, hhand, ht⟩
    · exact e hbare
    · rw [hmark] at e; cases e
    · exact hnone g x hx hhand ht
  | cart =>
    rintro ⟨hbare, hin, hside⟩
    exact hno.elim (· hbare) fun e => e.elim (· hin) (· hside)
  | scrapBin | nowhere | choose | hook c => exact id

theorem takesDiverted_iff : s.takesDiverted l p = true ↔
    l.plate ≠ none ∧ ∃ k, p = .slot k ∧ (s.slotCfg k).bay = l.bay ∧ s.hasRoom k (s.legRoomMass l) = true := by
  cases p <;> simp [State.takesDiverted, Option.isSome_iff_ne_none, and_assoc]

theorem legRoomMass_plate (hq : l.plate = some q) (hr : s.plate? q = some r) : s.legRoomMass l = r.roomMass := by
  simp [State.legRoomMass, State.legPlate, hq, hr]

variable {k : Asker}

/-- A load that comes back: to its source from CHECK, or diverted. -/
theorem setDown_returns (hp : InRange p) (hl : s.leg? h = some l) (hc : l.crane = some k.unitNum)
    (hpower : l.plate = none ∨ s.pfw = false)
    (hjudge : (l.state = .check ∧ l.source = some p ∧ s.takesBack l p = true)
      ∨ (l.state = .lifted ∧ l.target ≠ some p ∧ s.takesDiverted l p = true)) :
    setDownReport k ⟨h, p⟩ s = l.reported ((s.land l p).requeueLeg h) .done [] := by
  rw [setDown_judges hp hl hc hpower]
  obtain ⟨hstate, hsource, htakes⟩ | ⟨hstate, htarget, htakes⟩ := hjudge
  · rw [hstate]
    exact if_pos ⟨hsource, htakes⟩
  · rw [hstate]
    exact (if_neg htarget).trans (if_pos htakes)

theorem setDown_wrongPlace (hp : InRange p) (hl : s.leg? h = some l) (hc : l.crane = some k.unitNum)
    (hpower : l.plate = none ∨ s.pfw = false)
    (hjudge : (l.state = .check ∧ ¬(l.source = some p ∧ s.takesBack l p = true))
      ∨ (l.state = .lifted ∧ l.target ≠ some p ∧ ¬s.takesDiverted l p = true)
      ∨ (l.state = .lifted ∧ l.target = some p ∧ ¬s.takesLoad l p = true)) :
    setDownReport k ⟨h, p⟩ s = .now s .wrongPlace [] := by
  rw [setDown_judges hp hl hc hpower]
  obtain ⟨hstate, hno⟩ | ⟨hstate, htarget, hno⟩ | ⟨hstate, htarget, hno⟩ := hjudge
  · rw [hstate]
    exact if_neg hno
  · rw [hstate]
    exact (if_neg htarget).trans (if_neg hno)
  · rw [hstate]
    exact (if_pos htarget).trans (if_neg hno)

theorem canHold_of_inRange (hp : InRange p) (hbin : p ≠ .scrapBin) : CanHold p := by
  cases p with
  | slot _ | bed _ _ | cart => exact hp
  | scrapBin => exact (hbin rfl).elim
  | hook _ | nowhere | choose => exact hp.elim

theorem not_hook_of_inRange (hp : InRange p) : p ≠ .hook c := by
  rintro rfl
  exact hp

/-- Settles O41: by the judgement, and by the leg put back where the load has landed. -/
theorem setDownReturns : Obligations.SetDownReturns := by
  unfold Obligations.SetDownReturns
  rintro s u a st tag ⟨h, p⟩ c l hasks rfl hunit hp hl hc
  have hl' : (s.heard a).leg? h = some l := (leg?_of_kept (heard_line .legs (by decide))).trans hl
  have hc' : l.crane = some (askerOf a st tag).unitNum := hc.trans (congrArg some hunit)
  have hpfw : (s.heard a).pfw = s.pfw := heard_line .pfw (by decide)
  have hback : (s.heard a).takesBack l p = s.takesBack l p := read_of_line (·.takesBack l p) heard_line
  have hdiverted : (s.heard a).takesDiverted l p = s.takesDiverted l p := read_of_line (·.takesDiverted l p) heard_line
  have hwrong (hpower : l.plate = none ∨ s.pfw = false)
      (hjudge : (l.state = .check ∧ ¬(l.source = some p ∧ s.takesBack l p = true))
        ∨ (l.state = .lifted ∧ l.target ≠ some p ∧ ¬s.takesDiverted l p = true)) :=
    request_unchanged (tag := tag) hasks (setDown_wrongPlace (k := askerOf a st tag) hp hl' hc' (by rwa [hpfw])
      (by rw [hback, hdiverted]; exact hjudge.imp_right .inl))
  have hfree_iff : ReturnsFreely (s.heard a) l ↔ ReturnsFreely s l :=
    iff_of_eq (read_of_line (ReturnsFreely · l) heard_line)
  refine ⟨fun q r hq hdown hr hook hjudge => ?_, fun b d hq hstate hplace hsource hbare hmark hno => ?_,
    fun hpower hstate hsource => hwrong hpower (.inl ⟨hstate, fun e => hsource e.1⟩),
    fun hpower hstate hsource hno => hwrong hpower (.inl ⟨hstate, fun ⟨_, htakes⟩ => ?_⟩),
    fun hpower hstate htarget hno => hwrong hpower (.inr ⟨hstate, htarget, fun htakes => ?_⟩)⟩
  · have htakes : (l.state = .check ∧ l.source = some p ∧ s.takesBack l p = true)
        ∨ (l.state = .lifted ∧ l.target ≠ some p ∧ s.takesDiverted l p = true) := by
      rw [takesBack_iff, takesDiverted_iff, legRoomMass_plate hq hr]
      refine hjudge.imp (fun ⟨hstate, hsource, hplace⟩ => ⟨hstate, hsource, ?_⟩)
        fun ⟨hstate, htarget, hplace⟩ => ⟨hstate, htarget, by rw [hq]; exact nofun, hplace⟩
      cases p <;> exact hplace
    have hbin : p ≠ .scrapBin := by
      rintro rfl
      rcases hjudge with ⟨-, -, hno⟩ | ⟨-, -, n, hno, -⟩
      · exact hno
      · cases hno
    have hhand : l.state.inHand = true := by
      rcases hjudge with ⟨hstate, -⟩ | ⟨hstate, -⟩ <;> rw [hstate] <;> rfl
    have htaken := setDown_returns (k := askerOf a st tag) hp hl' hc' (.inr (hpfw.trans hdown))
      (by rw [hback, hdiverted]; exact htakes)
    rw [Leg.reported, hq] at htaken
    obtain ⟨hplate, hfreed⟩ := plate_returned hl' hhand hc hq ((heard_plate? q).trans hr) hook
      (canHold_of_inRange hp hbin) (not_hook_of_inRange hp)
    obtain ⟨t, hexec, hawaits, hframe, hline⟩ := request_waits (own := placeFields ++ legFields) (tag := tag) hasks
      (by simp) htaken (((land_frame l p).mono (by decide)).trans ((requeueLeg_frame h).mono (by decide))) (by decide)
    obtain ⟨⟨h1, h2, h3, h4⟩, h5, h6, h7⟩ := taken_of_line (PlateReturned q r p h l) hplate hline
    refine ⟨t, hexec, h1, h2, h3, freed_congr rfl rfl rfl (hline .cranes (by decide)) hfreed, hawaits, h4,
      fun hfree => ⟨h5 hfree, ?_⟩, h6, h7, hframe.mono (by decide)⟩
    obtain ⟨-, hown⟩ := requeueLeg_returns (land_leg? hl') (returnsFreely_land.2 (hfree_iff.2 hfree))
    exact ((heard_line.mono (by decide)).trans (((land_frame l p).mono (by decide)).trans
      (((letGo_frame h l).mono (by decide)).trans (hown.mono (by decide))))).trans (hline.mono (by decide))
  · obtain rfl : p = .bed b d := hplace
    obtain ⟨hb, hd⟩ := hp
    have htaken := setDown_returns (k := askerOf a st tag) (p := .bed b d) ⟨hb, hd⟩ hl' hc' (.inl hq)
      (.inl ⟨hstate, hsource, by rw [hback, takesBack_iff]; exact ⟨hbare, hmark, hno⟩⟩)
    rw [Leg.reported, hq] at htaken
    obtain ⟨hskeleton, hfreed⟩ := skeleton_returned (b := b) (d := d) hl' (by rw [hstate]; rfl) hc hq hb hd
    obtain ⟨-, hland⟩ := land_skeleton (s := s.heard a) (h := h) hq hb hd
    obtain ⟨t, hexec, honce, hframe, hline⟩ := request_completes
      (own := [.slots, .beds, .cart, .legs, .cranes, .batches, .jobs, .parts]) (tag := tag) hasks htaken
      ((hland.mono (by decide)).trans ((requeueLeg_bare (land_leg? hl') hq).mono (by decide))) (by decide)
    obtain ⟨h1, h2, h3, h4⟩ := taken_of_line (SkeletonReturned (.bed b d) h l) hskeleton hline
    refine ⟨t, hexec, h1, freed_congr rfl rfl rfl (hline .cranes (by decide)) hfreed, honce,
      fun hfree => ⟨h2 hfree, ?_⟩, h3, h4, hframe⟩
    obtain ⟨-, hown⟩ := requeueLeg_returns (land_leg? hl') (returnsFreely_land.2 (hfree_iff.2 hfree))
    exact ((heard_line.mono (by decide)).trans ((hland.mono (by decide)).trans
      (((letGo_bare_own hq).mono (by decide)).trans (hown.mono (by decide))))).trans (hline.mono (by decide))
  · exact not_takesBack hno htakes
  · obtain ⟨hplate, n, rfl, hbay, hroom⟩ := takesDiverted_iff.1 htakes
    rcases hno with hno | hno
    · exact hplate hno
    · rcases hno n rfl with hno | hno
      · exact hno hbay
      · rw [hroom] at hno
        cases hno

/-! ## A load set down where its leg goes (R141) -/

theorem takesLoad_iff : s.takesLoad l p = true ↔
    match p with
    | .slot k => (s.slotCfg k).bay = l.bay
    | .bed b d => (s.bed b d).plates = [] ∧ (s.bed b d).skeleton = false
    | .cart => s.cart.side = some l.bay
    | .scrapBin => True
    | _ => False := by
  cases p <;> simp [State.takesLoad, bedBare_iff]

/-- What a place must show to take a load that goes there. -/
theorem takesLoad_of (hp : InRange p) (hbed : ∀ b d, p = .bed b d → (s.bed b d).plates = []
    ∧ (s.bed b d).skeleton = false)
    (hcart : p = .cart → s.cart.side = some l.bay) (hslot : ∀ k, p = .slot k → (s.slotCfg k).bay = l.bay) :
    s.takesLoad l p = true := by
  rw [takesLoad_iff]
  cases p with
  | slot k => exact hslot k rfl
  | bed b d => exact hbed b d rfl
  | cart => exact hcart rfl
  | scrapBin => exact trivial
  | hook _ | nowhere | choose => exact hp

theorem setDown_done (hp : InRange p) (hl : s.leg? h = some l) (hc : l.crane = some k.unitNum)
    (hpower : l.plate = none ∨ s.pfw = false) (hstate : l.state = .lifted) (htarget : l.target = some p)
    (htakes : s.takesLoad l p = true) : setDownReport k ⟨h, p⟩ s = l.reported ((s.land l p).doneLeg h) .done [] := by
  rw [setDown_judges hp hl hc hpower, hstate]
  exact (if_pos htarget).trans (if_pos htakes)

theorem doneLeg_land_leg (hl : s.leg? h = some l) : LegBecomes s ((s.land l p).doneLeg h) h l .done := by
  obtain ⟨hself, hothers⟩ := doneLeg_leg (land_leg? (p := p) hl)
  exact ⟨hself, fun g hg => (hothers g hg).trans (leg?_of_kept (land_frame l p .legs (by decide)))⟩

/-- A plate whose leg is DONE. -/
abbrev PlateDone (q : Handle) (r : PlateRec) (p : Place) (h : Handle) (l : Leg) (s t : State) : Prop :=
  SetDownAt q r p h l.target s t ∧ LegBecomes s t h l .done

theorem plate_done (hl : s.leg? h = some l) (hhand : l.state.inHand = true) (hc : l.crane = some c)
    (hq : l.plate = some q) (hr : s.plate? q = some r) (hook : r.st.location = .hook c) (hp : CanHold p)
    (hne : p ≠ .hook c) :
    PlateDone q r p h l s ((s.land l p).doneLeg h) ∧ Freed s ((s.land l p).doneLeg h) c := by
  have hmoved := land_moved (s := s) hq hr hook hp hne
  have hgo := (letGo_letsGo (s := s.land l p) (h := h) hhand hc).finish (doneLeg_rest (land_leg? hl))
  exact ⟨⟨setDownAt_of_moved hmoved hook hq hgo (doneLeg_frame h .queue (by decide)), doneLeg_land_leg hl⟩,
    freed_land hgo.freed⟩

/-- A skeleton goes to the scrap bin, and no place and no plate is touched. -/
theorem scrapped_own (hl : s.leg? h = some l) (hq : l.plate = none) (htarget : l.target = some .scrapBin) :
    s.land l .scrapBin = s ∧ OnlyChanges (finishFields ++ [.cranes]) s (s.doneLeg h) := by
  have hgo : OnlyChanges [.cranes] s (s.letGo h l) := by
    unfold State.letGo
    split
    · simp only [hq, htarget, State.dropIncoming]
      split
      · exact freeCrane_frame _
      · exact .refl
    · exact .refl
  refine ⟨?_, (hgo.mono (by decide)).trans ((doneLeg_rest hl).mono (by decide))⟩
  unfold State.land
  simp only [hq]

/-- Settles O39: by the judgement, and by the leg DONE where the load has landed. -/
theorem setDownCompletes : Obligations.SetDownCompletes := by
  unfold Obligations.SetDownCompletes
  rintro s u a st tag ⟨h, p⟩ c l hasks rfl hunit hp hl hc hstate htarget
  have hl' : (s.heard a).leg? h = some l := (leg?_of_kept (heard_line .legs (by decide))).trans hl
  have hc' : l.crane = some (askerOf a st tag).unitNum := hc.trans (congrArg some hunit)
  have hpfw : (s.heard a).pfw = s.pfw := heard_line .pfw (by decide)
  have hload : (s.heard a).takesLoad l p = s.takesLoad l p := read_of_line (·.takesLoad l p) heard_line
  have hhand : l.state.inHand = true := by rw [hstate]; rfl
  refine ⟨fun q r hq hdown hr hook hbin => ⟨fun hno => ?_, fun hbed hcart hslot => ?_⟩, fun hq hbin => ?_⟩
  · refine request_unchanged hasks (setDown_wrongPlace (k := askerOf a st tag) hp hl' hc' (.inr (hpfw.trans hdown))
      (.inr (.inr ⟨hstate, htarget, ?_⟩)))
    rw [hload, takesLoad_iff]
    rcases hno with ⟨b, d, rfl, hno⟩ | ⟨rfl, hno⟩ | ⟨n, rfl, hno⟩
    · rintro ⟨hbare, hmark⟩
      exact hno.elim (· hbare) fun e => by rw [hmark] at e; cases e
    · exact hno
    · exact hno
  · have htaken := setDown_done (k := askerOf a st tag) hp hl' hc' (.inr (hpfw.trans hdown)) hstate htarget
      (hload.trans (takesLoad_of hp hbed hcart hslot))
    rw [Leg.reported, hq] at htaken
    obtain ⟨hplate, hfreed⟩ := plate_done hl' hhand hc hq ((heard_plate? q).trans hr) hook
      (canHold_of_inRange hp hbin) (not_hook_of_inRange hp)
    obtain ⟨t, hexec, hawaits, hframe, hline⟩ := request_waits (own := placeFields ++ legFields) (tag := tag) hasks
      (by simp) htaken (((land_frame l p).mono (by decide)).trans ((doneLeg_frame h).mono (by decide))) (by decide)
    obtain ⟨⟨h1, h2, h3, h4⟩, h5⟩ := taken_of_line (PlateDone q r p h l) hplate hline
    exact ⟨t, hexec, h1, h2, h3, h5, freed_congr rfl rfl rfl (hline .cranes (by decide)) hfreed, hawaits, h4,
      hframe.mono (by decide)⟩
  · obtain rfl : p = .scrapBin := hbin
    have htaken := setDown_done (k := askerOf a st tag) hp hl' hc' (.inl hq) hstate htarget
      (hload.trans (takesLoad_of hp (fun _ _ => nofun) nofun fun _ => nofun))
    obtain ⟨hland, hown⟩ := scrapped_own hl' hq htarget
    rw [Leg.reported, hq, hland] at htaken
    have hgo := (letGo_letsGo (s := s.heard a) (h := h) hhand hc).finish (doneLeg_rest hl')
    obtain ⟨t, hexec, honce, hframe, hline⟩ := request_completes (tag := tag) hasks htaken hown (by decide)
    have hleg : LegBecomes s t h l .done := taken_of_line (fun s t => LegBecomes s t h l .done) (doneLeg_leg hl') hline
    exact ⟨t, hexec, hleg, freed_congr rfl rfl rfl (hline .cranes (by decide)) hgo.freed, honce,
      hframe.mono (by decide)⟩

/-! ## What a DONE leg tells (R126) -/

/-- What is said of the batch and the job of a DONE leg. -/
abbrev Told (h : Handle) (l : Leg) (b : Batch) (s t : State) : Prop :=
  DoneSettles s t h l.batch b
    ∧ (∀ o, b.origin = .station o → t.jobs = s.jobs ∧ t.parts = s.parts)
    ∧ ∀ jh j, b.origin = .job jh → s.job? jh = some j → DoneTold s t h l b jh j

theorem doneLeg_land_told (hl : s.leg? h = some l) {b : Batch} (hb : s.batch? l.batch = some b)
    (hcom : b.state = .committed) : Told h l b s ((s.land l p).doneLeg h) := by
  have hown := land_frame (s := s) l p
  have hleg (g : Handle) : (s.land l p).leg? g = s.leg? g := leg?_of_kept (hown .legs (by decide))
  have hbatch (g : Handle) : (s.land l p).batch? g = s.batch? g := batch?_of_kept (hown .batches (by decide))
  have hjob (g : Handle) : (s.land l p).job? g = s.job? g := job?_of_kept (hown .jobs (by decide))
  have hparts : (s.land l p).parts = s.parts := hown .parts (by decide)
  have hpart (g : Handle) : (s.land l p).part? g = s.part? g := by rw [State.part?, hparts, State.part?]
  have hcounter : (s.land l p).commitCounter = s.commitCounter := hown .commitCounter (by decide)
  have hl' := (hleg h).trans hl
  have hb' := (hbatch l.batch).trans hb
  refine ⟨?_, fun o ho => ?_, fun jh j ho hj => ?_⟩
  · simpa only [DoneSettles, hleg] using doneLeg_settles hl' hb' hcom
  · obtain ⟨h1, h2⟩ := doneLeg_station hl' hb' hcom ho
    exact ⟨h1.trans (hown .jobs (by decide)), h2.trans hparts⟩
  · simpa only [DoneTold, OthersDone, hleg, hbatch, hjob, hparts, hpart, hcounter] using
      doneLeg_told hl' hb' hcom ho ((hjob jh).trans hj)

/-- Settles O40: by what the batch and the job are told of the leg. -/
theorem doneLegsAreTold : Obligations.DoneLegsAreTold := by
  unfold Obligations.DoneLegsAreTold
  rintro s a st tag ⟨h, p⟩ l b hasks hp hl hc hstate htarget hdown hcart hslot hbed hb hcom hmem
  have hl' : (s.heard a).leg? h = some l := (leg?_of_kept (heard_line .legs (by decide))).trans hl
  have hb' : (s.heard a).batch? l.batch = some b := (batch?_of_kept (heard_line .batches (by decide))).trans hb
  have hpfw : (s.heard a).pfw = s.pfw := heard_line .pfw (by decide)
  have hload : (s.heard a).takesLoad l p = s.takesLoad l p := read_of_line (·.takesLoad l p) heard_line
  have htaken := setDown_done (k := askerOf a st tag) hp hl' hc (.inr (hpfw.trans hdown)) hstate htarget
    (hload.trans (takesLoad_of hp hbed hcart hslot))
  have hown : OnlyChanges (placeFields ++ legFields) (s.heard a) (((s.heard a).land l p).doneLeg h) :=
    ((land_frame l p).mono (by decide)).trans ((doneLeg_frame h).mono (by decide))
  obtain ⟨t, hexec, hline⟩ : ∃ t, exec (.setDown tag (.fields ⟨h, p⟩)) s = .next t
      ∧ OnlyChanges lineFields (((s.heard a).land l p).doneLeg h) t := by
    rw [Leg.reported] at htaken
    rcases hq : l.plate with _ | q
    · rw [hq] at htaken
      obtain ⟨t, hexec, -, -, hline⟩ := request_completes (tag := tag) hasks htaken hown (by decide)
      exact ⟨t, hexec, hline⟩
    · rw [hq] at htaken
      obtain ⟨t, hexec, -, -, hline⟩ := request_waits (tag := tag) hasks (by simp) htaken hown (by decide)
      exact ⟨t, hexec, hline⟩
  obtain ⟨hsettles, hstation, htold⟩ := taken_of_line (Told h l b) (doneLeg_land_told hl' hb' hcom) hline
  refine ⟨t, hexec, hsettles, hstation, fun jh j ho hj => ?_⟩
  obtain ⟨hlast, hloaded, hstays, hcommits, hothers⟩ := htold jh j ho hj
  refine ⟨hothers, hloaded, fun hkind hended => hstays (fun e => hended e.2.1) fun _ => ⟨.inl hkind, .inl hended⟩,
    fun hfetch hclear => hstays (fun e => hclear e.1) fun e => (hfetch e).elim, fun hclear hended hall => ?_,
    fun _ hfetch hno => hstays (fun e => hno e.2.2) fun e => (hfetch e).elim,
    fun rb ret hfetch hkind => hcommits rb ret hfetch (carries_kind.2 hkind)⟩
  obtain ⟨hjob, hparts⟩ := hlast hclear hended hall
  exact ⟨hjob, fun g hg q hq hcut => (hparts g q hq).trans (if_pos ⟨hg, hcut⟩),
    fun g q hq hcut => (hparts g q hq).trans (if_neg fun e => hcut e.2)⟩

end Sys2Proof.Proofs.SetDowns
end

section
/-! PROOFS. Break Hook taken (R146, R147): the load leaves the hook of a crane that is out, and its leg ends. -/

namespace Sys2Proof.Proofs.Breaks

open Sys2Proof Sys2Proof.Machine
open Sys2Proof.Proofs.Pallets (askerOf)
open Sys2Proof.Proofs.Requests Sys2Proof.Proofs.Places Sys2Proof.Proofs.Reports Sys2Proof.Proofs.Ends
open Sys2Proof.Proofs.Returns (lands_of_drops)
open Sys2Proof.Proofs.SetDowns
open Sys2Proof.Proofs.Rooms (bedBare_iff cartHasRoom_iff)
open Sys2Proof.Proofs.Walk (batchJob_iff)

variable {s t m : State} {h g q : Handle} {l : Leg} {r : PlateRec} {a c : Nat} {st : Station} {tag : Byte} {p : Place}
  {k : Asker}

/-! ## The leg of a load taken off a broken hook -/

theorem endLeg_leg (hl : s.leg? h = some l) :
    (s.endLeg h .cancelled).leg? h = some { l with state := .cancelled, crane := none } := by
  rcases hb : s.batch? l.batch with _ | b
  · exact endLeg_alone hl hb
  · obtain ⟨hself, -⟩ := stopLeg_reads hl hb (how := .cancelled) (.inl rfl)
    simp only [State.endLeg, hl]
    rcases tellStopped_leg? (s := s.stopLeg h .cancelled) (l := l) (g := h) with hsame | hagain
    · rw [hsame, hself]
    · rw [hagain, hself]
      rfl

/-- What a leg that ends alone leaves beside its own batch. -/
abbrev LeavesOthers (h : Handle) (l : Leg) (s t : State) : Prop :=
  (∀ b, s.batch? l.batch = some b → ∀ g, g ≠ h → g ∉ b.legs → t.leg? g = s.leg? g)
    ∧ (∀ g, g ≠ l.batch → t.batch? g = s.batch? g) ∧ t.parts = s.parts

theorem endLeg_leavesOthers (hl : s.leg? h = some l) (hun : Unawaited s l) :
    LeavesOthers h l s (s.endLeg h .cancelled) := by
  have htell := endLeg_unawaited_own hl hun
  refine ⟨fun b hb g hg hout => ?_, fun g hg => ?_, ?_⟩
  · obtain ⟨-, hothers, -⟩ := stopLeg_reads hl hb (how := .cancelled) (.inl rfl)
    rw [leg?_of_kept (htell .legs (by decide)), hothers g hg, if_neg hout]
  · rw [batch?_of_kept (htell .batches (by decide))]
    rcases hb : s.batch? l.batch with _ | b
    · rw [stopLeg_alone hl hb, batch?_of_kept (letGo_putLegState_own .batches (by decide))]
    · obtain ⟨-, -, hbs, -⟩ := stopLeg_reads hl hb (how := .cancelled) (.inl rfl)
      exact hbs g hg
  · exact (htell .parts (by decide)).trans (stopLeg_own .parts (by decide))

/-- What is said of the leg, its batch and its job. -/
abbrev Broken (h : Handle) (l : Leg) (s t : State) : Prop :=
  t.leg? h = some { l with state := .cancelled, crane := none }
    ∧ (Unawaited s l → LeavesOthers h l s t ∧ StopEnds s t h l)
    ∧ (∀ b jh j, s.batch? l.batch = some b → b.origin = .job jh → s.job? jh = some j → JobTold s t l b jh j)
    ∧ AwaitEnds s t h l .cancelled False

theorem endLeg_broken (hown : OnlyChanges placeFields s m) (hl : s.leg? h = some l) :
    Broken h l s (m.endLeg h .cancelled) := by
  have hleg (g : Handle) : m.leg? g = s.leg? g := leg?_of_kept (hown .legs (by decide))
  have hbatches : m.batches = s.batches := hown .batches (by decide)
  have hbatch (g : Handle) : m.batch? g = s.batch? g := batch?_of_kept hbatches
  have hjobs : m.jobs = s.jobs := hown .jobs (by decide)
  have hjob (g : Handle) : m.job? g = s.job? g := job?_of_kept hjobs
  have hparts : m.parts = s.parts := hown .parts (by decide)
  have hl' := (hleg h).trans hl
  refine ⟨endLeg_leg hl', fun hun => ?_, fun b jh j hb ho hj => ?_, ?_⟩
  · have hun' : Unawaited m l := unawaited_of hbatches hjobs rfl rfl hun
    obtain ⟨-, hstop⟩ := endLeg_stopEnds hl' (.inl rfl) hun'
    refine ⟨?_, stopEnds_of (fun g _ => hleg g) hbatches hjobs rfl rfl hstop⟩
    simpa only [LeavesOthers, hleg, hbatch, hparts] using endLeg_leavesOthers hl' hun'
  · have htold := endLeg_told hl' ((hbatch l.batch).trans hb) ho ((hjob jh).trans hj)
    rw [JobTold, waitsFor_of (l := l) hbatches rfl rfl] at htold
    simpa only [hjob] using htold
  · exact awaitEnds_of (fun g _ => hleg g) hbatches hjobs hparts (hown .commitCounter (by decide)) rfl rfl
      (endLeg_awaitEnds hl' (.inl rfl))

/-! ## A plate off a broken hook -/

/-- A place that takes a plate off a broken hook. -/
abbrev Takes (s : State) (p : Place) : Prop :=
  match p with
  | .slot k => k ≤ 95 ∧ s.hasRoom k none = true
  | .bed b d => b ≤ 7 ∧ d ≤ 1 ∧ (s.bed b d).plates = [] ∧ (s.bed b d).skeleton = false ∧ s.bedJob b d = none
  | .cart => s.cart.plates = [] ∧ s.cart.incoming = []
  | .nowhere => True
  | _ => False

theorem takesBroken_of (hp : Takes s p) :
    s.takesBroken p = true ∧ Listed p ∧ CanHold p ∧ p ≠ .hook c := by
  cases p with
  | slot n =>
    obtain ⟨hn, hroom⟩ := hp
    exact ⟨hroom, hn, hn, nofun⟩
  | bed b d =>
    obtain ⟨hb, hd, hbare, hmark, hjob⟩ := hp
    exact ⟨by simp [State.takesBroken, bedBare_iff, hbare, hmark, hjob], ⟨hb, hd⟩, ⟨hb, hd⟩, nofun⟩
  | cart => exact ⟨cartHasRoom_iff.2 hp, trivial, trivial, nofun⟩
  | nowhere => exact ⟨rfl, trivial, trivial, nofun⟩
  | hook _ | scrapBin | choose => exact hp.elim

/-- The plate moved and made DOUBTFUL, before its leg ends. -/
abbrev relocated (s : State) (q : Handle) (p : Place) : State :=
  (s.movePlate q p).modifyPlate q fun r => { r with st := { r.st with doubtful := true } }

/-- A plate of record `r` relocated, its leg yet to end. -/
abbrev RelocatedAt (q : Handle) (r : PlateRec) (p : Place) (s t : State) : Prop :=
  t.plate? q = some { r with st := { r.st with location := landing s p, doubtful := true } }
    ∧ (∀ g, g ≠ q → t.plate? g = s.plate? g)
    ∧ (∀ h, Lands s t (some q) p h none)
    ∧ t.queue = joining s.queue [.state q.idx]

theorem relocated_own : OnlyChanges placeFields s (relocated s q p) :=
  (movePlate_frame q p).trans ((modifyPlate_frame q _).mono (by decide))

theorem relocated_at (hr : s.plate? q = some r) (hook : r.st.location = .hook c) (hp : CanHold p) (hne : p ≠ .hook c) :
    RelocatedAt q r p s (relocated s q p) := by
  have hmoved : Moved s (s.movePlate q p) q r p := by
    refine movePlate_moved hr hp (by rw [hook]; exact hne) fun j b hl => ?_
    rw [hook] at hl
    cases hl
  have habove : aboveOf s q r.st.location = [] := by rw [hook] <;> rfl
  refine ⟨?_, fun g hg => ?_, fun h => moved_lands hmoved hook h, ?_⟩
  · rw [relocated, modifyPlate_plate?, if_pos rfl, hmoved.plate]
    rfl
  · rw [relocated, modifyPlate_plate?, if_neg hg.symm]
    exact hmoved.plates g hg (by rw [habove]; simp)
  · have hqueue := hmoved.queue
    rw [habove] at hqueue
    exact hqueue

/-- Break Hook of a plate that the place takes. -/
theorem breakHook_relocates {f : BreakHookF} (hc : f.crane ≤ 5) (hout : Out s f.crane) (hq : f.plate = some q)
    (hdown : s.pfw = false) (hr : s.plate? q = some r) (hook : r.st.location = .hook f.crane) (hp : Takes s f.place) :
    breakHook k f s = .waits (match r.leg with
      | some l => (relocated s q f.place).endLeg l .cancelled
      | none => relocated s q f.place) [.state q.idx] .done [] := by
  obtain ⟨htakes, hlisted, -⟩ := takesBroken_of (c := 0) hp
  rw [breakHook_plate hc hlisted hout hq, hdown, hr]
  simp only [hook, htakes, ne_eq, not_true_eq_false, if_false, Bool.not_true, Bool.false_eq_true]
  unfold State.breakPlate
  rcases r.leg with _ | h <;> rfl

/-- A plate relocated, and the leg that carried it ended. -/
abbrev PlateBroken (q : Handle) (r : PlateRec) (p : Place) (h : Handle) (l : Leg) (s t : State) : Prop :=
  t.plate? q = some { r with st := { r.st with location := landing s p, doubtful := true }, leg := none }
    ∧ (∀ g, g ≠ q → t.plate? g = s.plate? g)
    ∧ Lands s t (some q) p h l.target
    ∧ t.queue = joining s.queue [.state q.idx]
    ∧ Broken h l s t

theorem plate_broken (hr : s.plate? q = some r) (hook : r.st.location = .hook c) (hp : CanHold p) (hne : p ≠ .hook c)
    (hl : s.leg? h = some l) (hq : l.plate = some q) (hc : l.crane = some c) (hhand : l.state.inHand = true) :
    PlateBroken q r p h l s ((relocated s q p).endLeg h .cancelled)
      ∧ Freed s ((relocated s q p).endLeg h .cancelled) c := by
  obtain ⟨hplate, hplates, hlands, hqueue⟩ := relocated_at hr hook hp hne
  have hown := relocated_own (s := s) (q := q) (p := p)
  have hl' : (relocated s q p).leg? h = some l := (leg?_of_kept (hown .legs (by decide))).trans hl
  have hgo := (letGo_letsGo (s := relocated s q p) (h := h) hhand hc).finish
    ((endLeg_rest hl' .cancelled).mono (by decide))
  refine ⟨⟨(hgo.plates q).trans ?_, fun g hg => (hgo.plates g).trans ?_, lands_of_drops (hlands h) hgo.drops,
    (endLeg_frame h _ .queue (by decide)).trans hqueue, endLeg_broken hown hl⟩,
    freed_congr (hown .stations (by decide)) (hown .hall (by decide)) (hown .cranes (by decide)) rfl hgo.freed⟩
  · rw [if_pos hq, hplate]
    rfl
  · rw [if_neg fun e => hg (by rw [hq] at e; exact (Option.some.inj e).symm), hplates g hg]

/-! ## A skeleton off a broken hook -/

theorem doneLeg_batch?_ne (hl : s.leg? h = some l) (hcarry : l.carries = false) (hg : g ≠ l.batch) :
    (s.doneLeg h).batch? g = s.batch? g := by
  have htell : (s.doneLeg h).batches = (doneAs s h l).batches := by
    rw [doneLeg_eq hl]
    unfold State.tellDone
    simp only [hcarry, Bool.false_eq_true, if_false]
    split
    next jh _ _ _ =>
      split
      · exact clearJob_frame jh .batches (by decide)
      · split
        · split
          · rfl
          · split <;> rfl
        · rfl
    · rfl
  have hbatches : ((s.letGo h l).putLegState h .done).batches = s.batches := letGo_putLegState_own .batches (by decide)
  rw [batch?_of_kept htell, doneAs]
  unfold State.settleBatch
  split
  · exact batch?_of_kept hbatches
  · split
    · rw [modifyBatch_batch?, if_neg hg.symm, batch?_of_kept hbatches]
    · exact batch?_of_kept hbatches

/-- What the scrap bin makes of a skeleton's leg, its batch and its job. -/
abbrev SkeletonDone (h : Handle) (l : Leg) (s t : State) : Prop :=
  LegBecomes s t h l .done
    ∧ ∀ b, s.batch? l.batch = some b → b.state = .committed →
      DoneSettles s t h l.batch b ∧ (∀ g, g ≠ l.batch → t.batch? g = s.batch? g)
        ∧ ∀ jh j, b.origin = .job jh → s.job? jh = some j → DoneTold s t h l b jh j

theorem skeleton_done (hl : s.leg? h = some l) (hcarry : l.carries = false) : SkeletonDone h l s (s.doneLeg h) :=
  ⟨doneLeg_leg hl, fun _ hb hcom => ⟨doneLeg_settles hl hb hcom, fun _ hg => doneLeg_batch?_ne hl hcarry hg,
    fun _ _ ho hj => doneLeg_told hl hb hcom ho hj⟩⟩

theorem carries_skeleton (hkind : l.kind = .clearSkeleton) : l.carries = false := by
  simp [Leg.carries, hkind]

theorem stopLeg_batchJob (hl : s.leg? h = some l) :
    (s.stopLeg h .cancelled).batchJob l.batch = s.batchJob l.batch := by
  have hjobs (jh : Handle) : (s.stopLeg h .cancelled).job? jh = s.job? jh :=
    job?_of_kept (stopLeg_own .jobs (by decide))
  unfold State.batchJob
  rcases hb : s.batch? l.batch with _ | b
  · rw [stopLeg_alone hl hb, batch?_of_kept (letGo_putLegState_own .batches (by decide)), hb]
  · obtain ⟨-, -, -, hbb, -⟩ := stopLeg_reads hl hb (how := .cancelled) (.inl rfl)
    obtain ⟨b', hb', ho⟩ : ∃ b', (s.stopLeg h .cancelled).batch? l.batch = some b' ∧ b'.origin = b.origin := by
      rw [hbb]
      split <;> exact ⟨_, rfl, rfl⟩
    simp only [hb', ho, hjobs]

theorem tellStopped_nothing (hended : ∀ jh j, s.batchJob l.batch = some (jh, j) → j.state = .ended)
    (hcarry : l.carries = false) : s.tellStopped l = s := by
  unfold State.tellStopped
  split
  next jh j _ hjob =>
    rw [if_neg (by rw [hended jh j hjob]; simp)]
    split
    · exact if_neg (by simp [hcarry])
    · rfl
  · rfl

theorem unawaited_of_carries (hcarry : l.carries = false) : Unawaited s l := by
  intro b jh j _ _ _ hwait
  obtain ⟨-, -, -, hno⟩ := waitsFor_iff.1 hwait
  rw [hcarry] at hno
  cases hno

/-- What a skeleton set back on its bed leaves of the bed, its leg and its batch. -/
abbrev SkeletonBack (b d : Nat) (h : Handle) (l : Leg) (s t : State) : Prop :=
  t.bed b d = { s.bed b d with skeleton := true }
    ∧ (∀ i, i ≠ 2 * b + d → t.beds.get? i = s.beds.get? i)
    ∧ t.leg? h = some { l with state := .cancelled, crane := none } ∧ StopEnds s t h l

theorem skeleton_back {b d : Nat} (hb : b ≤ 7) (hd : d ≤ 1) (hl : s.leg? h = some l) (hcarry : l.carries = false) :
    SkeletonBack b d h l s ((s.putSkeleton b d true).endLeg h .cancelled) := by
  have hown : OnlyChanges placeFields s (s.putSkeleton b d true) := (modifyBed_frame _ _ _).mono (by decide)
  obtain ⟨hself, hends, -⟩ := endLeg_broken hown hl
  have hbeds : ((s.putSkeleton b d true).endLeg h .cancelled).beds = (s.putSkeleton b d true).beds :=
    endLeg_frame h _ .beds (by decide)
  refine ⟨?_, fun i hi => ?_, hself, (hends (unawaited_of_carries hcarry)).2⟩
  · rw [State.bed, hbeds]
    exact Table.getD_modify_self _ _ _ (by unfold bedIndex; omega)
  · rw [hbeds]
    exact (Table.get?_modify ..).trans (if_neg hi.symm)

theorem skeleton_back_own {b d : Nat} (hl : s.leg? h = some l) (hcarry : l.carries = false) (hplate : l.plate = none)
    (hended : ∀ jh j, s.batchJob l.batch = some (jh, j) → j.state = .ended) :
    OnlyChanges [.beds, .legs, .cranes, .slots, .cart, .batches] s ((s.putSkeleton b d true).endLeg h .cancelled) := by
  have hl' : (s.putSkeleton b d true).leg? h = some l := hl
  have hbare : OnlyChanges [.slots, .cart, .cranes] (s.putSkeleton b d true) ((s.putSkeleton b d true).letGo h l) :=
    letGo_bare_own hplate
  have htell : (s.putSkeleton b d true).endLeg h .cancelled = (s.putSkeleton b d true).stopLeg h .cancelled := by
    simp only [State.endLeg, hl']
    refine tellStopped_nothing (fun jh j hjob => ?_) hcarry
    rw [stopLeg_batchJob hl'] at hjob
    exact hended jh j hjob
  have hstop : OnlyChanges [.legs, .slots, .cart, .cranes, .batches] (s.putSkeleton b d true)
      ((s.putSkeleton b d true).stopLeg h .cancelled) := by
    unfold State.stopLeg
    simp only [hl']
    have hput := (hbare.mono (m := [.legs, .slots, .cart, .cranes, .batches]) (by decide)).trans
      ((putLegState_frame h .cancelled).mono (by decide))
    split
    · exact hput
    · exact (hput.trans ((overLegs_frame _ _).mono (by decide))).trans ((settleBatch_frame _).mono (by decide))
  rw [htell]
  exact ((modifyBed_frame _ _ _).mono (by decide)).trans (hstop.mono (by decide))

/-! ## Break Hook taken -/

theorem hand_of_hook (hhook : l.state.onHook = true) : l.state.inHand = true := by
  cases hstate : l.state with
  | lifted | check => rfl
  | _ => rw [hstate] at hhook; cases hhook

/-- Settles O45: the load relocated, and its leg ended, by the kind of the load and of the place. -/
theorem breakHookRecovers : Obligations.BreakHookRecovers := by
  unfold Obligations.BreakHookRecovers
  rintro s u a st tag f hasks rfl hc hout
  have hpfw : (s.heard a).pfw = s.pfw := heard_line .pfw (by decide)
  have hleg (h : Handle) : (s.heard a).leg? h = s.leg? h := leg?_of_kept (heard_line .legs (by decide))
  have hout' : Out (s.heard a) f.crane := by
    rw [Out, State.crane, heard_line (s := s) (a := a) .cranes (by decide)]
    exact hout
  have hbroken (h : Handle) (l : Leg) (hg : (s.crane f.crane).leg = some h) (hl : s.leg? h = some l)
      (hkind : l.kind = .clearSkeleton) (hhook : l.state.onHook = true) :
      (match (s.heard a).skeletonOnHook f.crane with
        | none => Reply.now (s.heard a) .wrongState []
        | some (h, l) => (s.heard a).breakSkeleton h l f.place) = (s.heard a).breakSkeleton h l f.place := by
    have hg' : ((s.heard a).crane f.crane).leg = some h := by
      rw [State.crane, heard_line (s := s) (a := a) .cranes (by decide)]
      exact hg
    rw [skeletonOnHook_some hg' ((hleg h).trans hl) hkind hhook]
  refine ⟨fun q r hq hdown hr hook hp hcarried => ?_, fun h l hq hg hl hkind hhook hplate hcrane =>
    ⟨fun hbin => ?_, fun b d hplace hb hd hbed hended => ?_⟩⟩
  · have hr' : (s.heard a).plate? q = some r := (heard_plate? q).trans hr
    have hp' : Takes (s.heard a) f.place := (read_of_line (Takes · f.place) heard_line).mpr hp
    obtain ⟨-, -, hhold, hne⟩ := takesBroken_of (c := f.crane) hp'
    have htaken := breakHook_relocates (k := askerOf a st tag) hc hout' hq (hpfw.trans hdown) hr' hook hp'
    have hmove := relocated_own (s := s.heard a) (q := q) (p := f.place)
    rcases hcarry : r.leg with _ | h
    · rw [hcarry] at htaken
      obtain ⟨t, hexec, hawaits, hframe, hline⟩ := request_waits (tag := tag) hasks (by simp) htaken hmove (by decide)
      obtain ⟨h1, h2, h3, h4⟩ := taken_of_line (RelocatedAt q r f.place) (relocated_at hr' hook hhold hne) hline
      refine ⟨t, hexec, ?_, h2, fun _ => ⟨h3 q, hframe.mono (by decide)⟩, fun h l e => (by cases e), hawaits, h4,
        hframe.mono (by decide)⟩
      rw [h1, hcarry]
    · obtain ⟨l, hl, hlq, hlc, hhook⟩ := hcarried h hcarry
      rw [hcarry] at htaken
      have hl' := (hleg h).trans hl
      have hhand := hand_of_hook hhook
      obtain ⟨hbroken, hfreed⟩ := plate_broken hr' hook hhold hne hl' hlq hlc hhand
      have hlm : (relocated (s.heard a) q f.place).leg? h = some l := (leg?_of_kept (hmove .legs (by decide))).trans hl'
      obtain ⟨t, hexec, hawaits, hframe, hline⟩ := request_waits
        (own := [.plates, .slots, .beds, .cart, .queue, .legs, .cranes, .batches, .jobs, .parts]) (tag := tag) hasks
        (by simp) htaken ((hmove.mono (by decide)).trans (((letGo_frame h l).mono (by decide)).trans
          ((endLeg_rest hlm .cancelled).mono (by decide)))) (by decide)
      obtain ⟨h1, h2, h3, h4, h5, h6, h7, h8⟩ := taken_of_line (PlateBroken q r f.place h l) hbroken hline
      refine ⟨t, hexec, h1, h2, fun e => (by cases e), fun h' l' e hl'' => ?_, hawaits, h4, hframe⟩
      cases e
      rw [hl] at hl''
      cases hl''
      refine ⟨h3, freed_congr rfl rfl rfl (hline .cranes (by decide)) hfreed, h5, fun hun => ?_,
        fun b jh j hb hmem ho hj => ?_, h8⟩
      · obtain ⟨⟨ho1, ho2, ho3⟩, hstop⟩ := h6 hun
        exact ⟨ho1, ho2, ho3, hstop⟩
      · obtain ⟨hlost, hstays, hothers⟩ := h7 b jh j hb ho hj
        exact ⟨fun hadm hfetch hkind => hlost hadm hfetch ⟨h, hmem, _, h5, hkind, rfl⟩, hstays, hothers⟩
  · have hl' := (hleg h).trans hl
    have hcarry := carries_skeleton hkind
    have htaken := (breakHook_skeleton (k := askerOf a st tag) hc (by rw [hbin]; exact trivial) hout' hq).trans
      (hbroken h l hg hl hkind hhook)
    rw [hbin] at htaken
    have hgo := (letGo_letsGo (s := s.heard a) (h := h) (hand_of_hook hhook) hcrane).finish (doneLeg_rest hl')
    obtain ⟨t, hexec, honce, hframe, hline⟩ := request_completes
      (own := [.legs, .cranes, .slots, .cart, .batches, .commitCounter, .jobs, .parts]) (tag := tag) hasks htaken
      (((letGo_bare_own hplate).mono (by decide)).trans ((doneLeg_rest hl').mono (by decide))) (by decide)
    obtain ⟨h1, h2⟩ := taken_of_line (SkeletonDone h l) (skeleton_done hl' hcarry) hline
    refine ⟨t, hexec, h1, freed_congr rfl rfl rfl (hline .cranes (by decide)) hgo.freed, fun b hb hcom _ => ?_, honce,
      hframe⟩
    obtain ⟨hsettles, hbs, htold⟩ := h2 b hb hcom
    refine ⟨hsettles, hbs, fun jh j ho hj => ?_⟩
    obtain ⟨hlast, -, hstays, -, hothers⟩ := htold jh j ho hj
    exact ⟨fun ⟨h1, h2, h3⟩ => hlast h1 h2 h3, fun hno => hstays hno fun _ =>
      ⟨.inl (by rw [hkind]; exact nofun), .inr hcarry⟩, hothers⟩
  · have hl' := (hleg h).trans hl
    have hcarry := carries_skeleton hkind
    have htaken := (breakHook_skeleton (k := askerOf a st tag) hc (by rw [hplace]; exact ⟨hb, hd⟩) hout' hq).trans
      (hbroken h l hg hl hkind hhook)
    rw [hplace, State.breakSkeleton, if_pos hbed] at htaken
    have hended' (jh : Handle) (j : Job) (hjob : (s.heard a).batchJob l.batch = some (jh, j)) : j.state = .ended := by
      have hjob' : s.batchJob l.batch = some (jh, j) :=
        (read_of_line (·.batchJob l.batch) (heard_line (s := s) (a := a))).symm.trans hjob
      obtain ⟨x, hx, ho, hj⟩ := batchJob_iff.1 hjob'
      exact hended x jh j hx ho hj
    have hmark : ((s.heard a).putSkeleton b d true).leg? h = some l := hl'
    have hgo := (letGo_letsGo (s := (s.heard a).putSkeleton b d true) (h := h) (hand_of_hook hhook) hcrane).finish
      ((endLeg_rest hmark .cancelled).mono (by decide))
    have hfreed : Freed (s.heard a) (((s.heard a).putSkeleton b d true).endLeg h .cancelled) f.crane :=
      freed_congr rfl rfl rfl rfl hgo.freed
    obtain ⟨t, hexec, honce, hframe, hline⟩ := request_completes (tag := tag) hasks htaken
      (skeleton_back_own hl' hcarry hplate hended') (by decide)
    obtain ⟨h1, h2, h3, h4⟩ := taken_of_line (SkeletonBack b d h l) (skeleton_back hb hd hl' hcarry) hline
    exact ⟨t, hexec, h1, h2, h3, freed_congr rfl rfl rfl (hline .cranes (by decide)) hfreed, h4, honce, hframe⟩

end Sys2Proof.Proofs.Breaks
end

section
/-! PROOFS. Records made one after another, each in the lowest entry free to take (R99, R125): parts, and a batch with
its legs. -/

namespace Sys2Proof.Proofs.Makes

open Sys2Proof Sys2Proof.Machine
open Sys2Proof.Proofs.Tables (firstIdx_eq_some firstIdx_isSome create_lowest modify_get?_ne)

/-! ## Records of one pool -/

section Pools

variable {α : Type} {n : Nat} {ok : Entry α → Bool}

/-- Records made one after another, each in the lowest entry that passes. -/
def makeAll (ok : Entry α → Bool) : List α → Pool α n → Pool α n × List Handle
  | [], t => (t, [])
  | r :: rs, t =>
    match t.create ok r with
    | none => (t, [])
    | some (u, h) => ((makeAll ok rs u).1, h :: (makeAll ok rs u).2)

/-- Records stand under their handles, in the lowest entries that pass; every other entry is as it was. -/
structure Made (ok : Entry α → Bool) (rs : List α) (t u : Pool α n) (hs : List Handle) : Prop where
  length : hs.length = rs.length
  lowest : TakesLowest t (ok · = true) hs
  records : ∀ (j : Nat) h r, hs[j]? = some h → rs[j]? = some r → u.find h = some r
  entries : ∀ k, (∀ g ∈ hs, g.idx ≠ k) → u.get? k = t.get? k
  count : u.count ok + rs.length = t.count ok

theorem lt_of_get? {t : Table (Entry α) n} {i : Nat} {e : Entry α} (he : t.get? i = some e) : i < n := by
  by_contra hn
  rw [t.get?_eq_none.2 (by omega)] at he
  cases he

theorem count_set {t : Table (Entry α) n} {i : Nat} {e d : Entry α} (he : t.get? i = some e) (hok : ok e = true)
    (hd : ok d = false) : (t.set i d).count ok = t.count ok - 1 := by
  obtain ⟨hi, hget⟩ := List.getElem?_eq_some_iff.1 he
  unfold Table.count Table.set
  rw [List.countP_set hi, hget, hok, hd]
  simp

theorem count_pos {t : Table (Entry α) n} : 0 < t.count ok ↔ ∃ i e, t.get? i = some e ∧ ok e = true := by
  rw [Table.count, List.countP_pos_iff]
  simp only [List.mem_iff_getElem?, Table.get?]
  exact ⟨fun ⟨e, ⟨i, hi⟩, he⟩ => ⟨i, e, hi, he⟩, fun ⟨i, e, hi, he⟩ => ⟨e, ⟨i, hi⟩, he⟩⟩

/-- While an entry passes, a record is made in the lowest. -/
theorem create_of_count {t : Pool α n} (r : α) (hcount : 0 < t.count ok) :
    ∃ i e, t.get? i = some e ∧ ok e = true ∧ (∀ j < i, ∀ d, t.get? j = some d → ok d = false)
      ∧ t.create ok r = some (t.set i ⟨e.newGen, some r⟩, ⟨i, e.newGen⟩) := by
  have hex := count_pos.1 hcount
  have hfirst := Nat.find_spec hex
  obtain ⟨e, he, hok⟩ := hfirst
  have hlow : ∀ j < Nat.find hex, ∀ d, t.get? j = some d → ok d = false := by
    intro j hj d hd
    rw [Bool.eq_false_iff]
    exact fun h => Nat.find_min hex hj ⟨d, hd, h⟩
  exact ⟨_, e, he, hok, hlow, create_lowest r he hok hlow⟩

theorem newGen_isNone (e : Entry α) : e.newGen = if e.record.isNone then e.gen else (e.gen + 1) % 64 := by
  unfold Entry.newGen
  rcases e.record with _ | r <;> rfl

theorem makeAll_made (rs : List α) (hok : ∀ r ∈ rs, ∀ g, ok ⟨g, some r⟩ = false) : ∀ t : Pool α n,
    rs.length ≤ t.count ok → Made ok rs t (makeAll ok rs t).1 (makeAll ok rs t).2 := by
  induction rs with
  | nil =>
    intro t _
    exact ⟨rfl, ⟨.nil, nofun, nofun⟩, nofun, fun _ _ => rfl, rfl⟩
  | cons r rs ih =>
    intro t hcount
    rw [List.length_cons] at hcount
    obtain ⟨i, e, he, hpass, hlow, hcreate⟩ := create_of_count (ok := ok) (t := t) r (by omega)
    have hi := lt_of_get? he
    have hmake : makeAll ok (r :: rs) t = ((makeAll ok rs (t.set i ⟨e.newGen, some r⟩)).1,
        ⟨i, e.newGen⟩ :: (makeAll ok rs (t.set i ⟨e.newGen, some r⟩)).2) := by
      rw [makeAll, hcreate]
    have htaken : ok ⟨e.newGen, some r⟩ = false := hok r List.mem_cons_self _
    have hset (k : Nat) (hk : k ≠ i) : (t.set i ⟨e.newGen, some r⟩).get? k = t.get? k := Table.get?_set_ne _ _ hk.symm
    have hself : (t.set i ⟨e.newGen, some r⟩).get? i = some ⟨e.newGen, some r⟩ := Table.get?_set_self _ _ hi
    have hless := count_set he hpass htaken
    obtain ⟨hlength, ⟨hpair, hentries, hlowest⟩, hrecords, hothers, hcounted⟩ :=
      ih (fun x hx => hok x (List.mem_cons_of_mem _ hx)) (t.set i ⟨e.newGen, some r⟩) (by rw [hless]; omega)
    rw [hmake]
    dsimp only
    generalize (makeAll ok rs (t.set i ⟨e.newGen, some r⟩)).1 = u at *
    generalize (makeAll ok rs (t.set i ⟨e.newGen, some r⟩)).2 = hs at *
    have habove : ∀ g ∈ hs, i < g.idx := by
      intro g hg
      obtain ⟨d, hd, hdok, -⟩ := hentries g hg
      rcases Nat.lt_trichotomy g.idx i with hlt | heq | hgt
      · rw [hset _ (by omega)] at hd
        exact (Bool.eq_false_iff.1 (hlow _ hlt d hd) hdok).elim
      · rw [heq, hself] at hd
        cases hd
        exact (Bool.eq_false_iff.1 htaken hdok).elim
      · exact hgt
    refine ⟨by rw [List.length_cons, hlength, List.length_cons], ⟨List.pairwise_cons.2 ⟨habove, hpair⟩, fun g hg => ?_,
      fun g hg k hk d hd hdok => ?_⟩, fun j h x hh hx => ?_, fun k hk => ?_, by rw [List.length_cons]; omega⟩
    · rcases List.mem_cons.1 hg with rfl | hg
      · exact ⟨e, he, hpass, newGen_isNone e⟩
      · obtain ⟨d, hd, hrest⟩ := hentries g hg
        exact ⟨d, by rwa [hset _ (by have := habove g hg; omega)] at hd, hrest⟩
    · by_cases hki : k = i
      · exact ⟨_, List.mem_cons_self, hki.symm⟩
      · rcases List.mem_cons.1 hg with rfl | hg
        · exact (Bool.eq_false_iff.1 (hlow k hk d hd) hdok).elim
        · obtain ⟨x, hx, hxk⟩ := hlowest g hg k hk d (by rw [hset k hki]; exact hd) hdok
          exact ⟨x, List.mem_cons_of_mem _ hx, hxk⟩
    · match j with
      | 0 =>
        cases hh
        cases hx
        have hout := hothers i fun g hg => by have := habove g hg; omega
        rw [hself] at hout
        exact Pool.find_eq_some.2 hout
      | j + 1 => exact hrecords j h x hh hx
    · rw [hothers k fun g hg => hk g (List.mem_cons_of_mem _ hg), hset k fun e => hk _ List.mem_cons_self e.symm]

theorem count_modify {t : Pool α n} {h : Handle} {r : α} (f : α → α) (hr : t.find h = some r)
    (hbefore : ok ⟨h.gen, some r⟩ = false) (hafter : ok ⟨h.gen, some (f r)⟩ = false) :
    (Pool.modify t h f).count ok = t.count ok := by
  have hdef : Pool.modify t h f = t.set h.idx ⟨h.gen, some (f r)⟩ := by
    unfold Pool.modify
    rw [hr]
  obtain ⟨hi, hget⟩ := List.getElem?_eq_some_iff.1 (Pool.find_eq_some.1 hr)
  rw [hdef, Table.count, Table.set, List.countP_set hi, hget, hbefore, hafter]
  rfl

theorem Made.nodup {rs : List α} {t u : Pool α n} {hs : List Handle} (hmade : Made ok rs t u hs) : hs.Nodup := by
  obtain ⟨hpair, -⟩ := hmade.lowest
  exact hpair.imp fun hlt e => by rw [e] at hlt; exact Nat.lt_irrefl _ hlt

/-- No new record takes the entry of one that does not pass. -/
theorem Made.apart {rs : List α} {t u : Pool α n} {hs : List Handle} (hmade : Made ok rs t u hs) {g : Handle} {r : α}
    (hr : t.find g = some r) (hlive : ok ⟨g.gen, some r⟩ = false) : ∀ h ∈ hs, h.idx ≠ g.idx := by
  intro h hh hidx
  obtain ⟨-, hentries, -⟩ := hmade.lowest
  obtain ⟨e, he, hok, -⟩ := hentries h hh
  rw [hidx, Pool.find_eq_some.1 hr] at he
  cases he
  exact Bool.eq_false_iff.1 hlive hok

theorem find_of_get? {t u : Pool α n} {g : Handle} (h : u.get? g.idx = t.get? g.idx) : u.find g = t.find g := by
  unfold Pool.find
  rw [h]

theorem Made.keeps {rs : List α} {t u : Pool α n} {hs : List Handle} (hmade : Made ok rs t u hs) {g : Handle} {r : α}
    (hr : t.find g = some r) (hlive : ok ⟨g.gen, some r⟩ = false) : u.find g = some r :=
  (find_of_get? (hmade.entries _ (hmade.apart hr hlive))).trans hr

end Pools

/-! ## Legs and batches (R125) -/

section Legs

variable {s t : State} {hb h : Handle} {b : Batch} {l : Leg} {legs : List Leg}

theorem batchEntryFree_iff (e : Entry Batch) : batchEntryFree e = true ↔ BatchFree e := by
  unfold batchEntryFree BatchFree
  rcases e.record with _ | b
  · simp
  · rcases hb : b.state <;> simp [BatchState.unsettled, hb]

theorem batchUnsettled_iff : s.batchUnsettled hb = true ↔
    ∃ b, s.batch? hb = some b ∧ (b.state = .opened ∨ b.state = .committed) := by
  unfold State.batchUnsettled
  rcases hb' : s.batch? hb with _ | b
  · simp
  · rcases hv : b.state <;> simp [BatchState.unsettled, hv]

theorem legEntryFree_iff (e : Entry Leg) : s.legEntryFree e = true ↔ LegFree s e := by
  unfold State.legEntryFree LegFree
  rcases e.record with _ | l
  · simp
  · simp only [Bool.and_eq_true, Bool.not_eq_true', Bool.eq_false_iff, Ne, batchUnsettled_iff, Option.some.injEq,
      forall_eq', not_exists, not_and, not_or]

theorem legEntryFree_unfinished {g : Nat} (hl : l.state.unfinished = true) : s.legEntryFree ⟨g, some l⟩ = false := by
  simp [State.legEntryFree, hl]

/-- The legs of a batch as they are made, numbered. -/
def placed (hb : Handle) : Nat → List Leg → List Leg
  | _, [] => []
  | i, l :: ls => { l with batch := hb, position := i } :: placed hb (i + 1) ls

theorem placed_length : ∀ (i : Nat) (ls : List Leg), (placed hb i ls).length = ls.length
  | _, [] => rfl
  | i, _ :: ls => congrArg (· + 1) (placed_length (i + 1) ls)

theorem placed_getElem? : ∀ (i j : Nat) (ls : List Leg),
    (placed hb i ls)[j]? = ls[j]?.map fun l => { l with batch := hb, position := i + j }
  | _, _, [] => rfl
  | _, 0, _ :: _ => rfl
  | i, j + 1, _ :: ls => by
    rw [placed, List.getElem?_cons_succ, List.getElem?_cons_succ, placed_getElem? (i + 1) j ls, Nat.add_right_comm,
      Nat.add_assoc]

theorem placed_state {x : Leg} : ∀ {i : Nat} {ls : List Leg}, x ∈ placed hb i ls → ∃ l ∈ ls, x.state = l.state
  | _, [], hx => by cases hx
  | i, l :: ls, hx => by
    rcases List.mem_cons.1 hx with rfl | hx
    · exact ⟨l, List.mem_cons_self, rfl⟩
    · obtain ⟨m, hm, hstate⟩ := placed_state hx
      exact ⟨m, List.mem_cons_of_mem _ hm, hstate⟩

theorem addLegs_eq (ok : Entry Leg → Bool) (hb : Handle) : ∀ (i : Nat) (ls : List Leg) (s : State),
    State.addLegs ok hb i ls s =
      ({ s with legs := (makeAll ok (placed hb i ls) s.legs).1 }, (makeAll ok (placed hb i ls) s.legs).2)
  | _, [], _ => rfl
  | i, l :: ls, s => by
    rw [State.addLegs, placed, makeAll]
    rcases s.legs.create ok { l with batch := hb, position := i } with _ | ⟨u, h⟩
    · rfl
    · dsimp only
      rw [addLegs_eq ok hb (i + 1) ls]

/-- Unfinished legs are made in the lowest free entries. -/
theorem addLegs_made (hb : Handle) (i : Nat) (hcount : legs.length ≤ s.freeLegs)
    (hun : ∀ l ∈ legs, l.state.unfinished = true) :
    Made s.legEntryFree (placed hb i legs) s.legs (State.addLegs s.legEntryFree hb i legs s).1.legs
      (State.addLegs s.legEntryFree hb i legs s).2 := by
  rw [addLegs_eq]
  refine makeAll_made _ (fun x hx g => ?_) _ (by rw [placed_length]; exact hcount)
  obtain ⟨l, hl, hstate⟩ := placed_state hx
  exact legEntryFree_unfinished (by rw [hstate]; exact hun l hl)

theorem takesLowest_congr {α : Type} {n : Nat} {pool : Pool α n} {p q : Entry α → Prop} {hs : List Handle}
    (hpq : ∀ e, p e ↔ q e) (hp : TakesLowest pool p hs) : TakesLowest pool q hs := by
  rwa [show q = p from funext fun e => propext (hpq e).symm]

/-- A batch and its legs stand as they were made. -/
structure Opened (s t : State) (b : Batch) (legs : List Leg) (hb : Handle) : Prop where
  batch : t.batches.get? hb.idx = some ⟨hb.gen, some b⟩
  takes : BatchTakesLowest s t hb b.legs
  made : Made s.legEntryFree (placed hb 0 legs) s.legs t.legs b.legs

theorem modify_of_get? {α : Type} {n : Nat} {u : Pool α n} {g : Handle} {r : α} (f : α → α)
    (hr : u.get? g.idx = some ⟨g.gen, some r⟩) : (Pool.modify u g f).get? g.idx = some ⟨g.gen, some (f r)⟩ := by
  have hfind : (Pool.modify u g f).find g = some (f r) := by
    rw [Pool.find_modify, if_pos rfl, Pool.find_eq_some.2 hr]
    rfl
  exact Pool.find_eq_some.1 hfind

theorem openBatch_opened (origin : BatchOrigin) (hfree : s.hasFreeBatch = true) (hcount : legs.length ≤ s.freeLegs)
    (hun : ∀ l ∈ legs, l.state.unfinished = true) :
    ∃ t hb hs, s.openBatch origin legs = some (t, hb) ∧ Opened s t ⟨origin, hs, .opened, none⟩ legs hb
      ∧ OnlyChanges [.legs, .batches] s t := by
  have hpos : 0 < s.batches.count batchEntryFree := count_pos.2 (firstIdx_isSome.1 hfree)
  obtain ⟨i, e, he, hok, hlow, hcreate⟩ := create_of_count (⟨origin, [], .opened, none⟩ : Batch) hpos
  have hopen : s.openBatch origin legs = some (({ (State.addLegs s.legEntryFree ⟨i, e.newGen⟩ 0 legs s).1 with
      batches := s.batches.set i ⟨e.newGen, some ⟨origin, [], .opened, none⟩⟩ } : State).modifyBatch ⟨i, e.newGen⟩
        (fun b => { b with legs := (State.addLegs s.legEntryFree ⟨i, e.newGen⟩ 0 legs s).2 }), ⟨i, e.newGen⟩) := by
    unfold State.openBatch
    simp only [hcreate]
  have hmade := addLegs_made (s := s) ⟨i, e.newGen⟩ 0 hcount hun
  generalize State.addLegs s.legEntryFree ⟨i, e.newGen⟩ 0 legs s = made at hopen hmade
  refine ⟨_, _, made.2, hopen, ⟨?_, ⟨?_, takesLowest_congr legEntryFree_iff hmade.lowest, fun k hk => ?_,
    hmade.entries⟩, hmade⟩,
    openBatch_frame hopen⟩
  · have hi := lt_of_get? he
    exact modify_of_get? (g := ⟨i, e.newGen⟩) (fun b : Batch => { b with legs := made.2 })
      (Table.get?_set_self s.batches (⟨e.newGen, some ⟨origin, [], .opened, none⟩⟩ : Entry Batch) hi)
  · refine ⟨List.pairwise_singleton _ _, fun g hg => ?_, fun g hg k hk d hd hfree => ?_⟩
    · rw [List.mem_singleton.1 hg]
      exact ⟨e, he, (batchEntryFree_iff e).1 hok, newGen_isNone e⟩
    · rw [List.mem_singleton.1 hg] at hk
      exact (Bool.eq_false_iff.1 (hlow k hk d hd) ((batchEntryFree_iff d).2 hfree)).elim
  · exact (modify_get?_ne _ hk).trans (Table.get?_set_ne _ _ (Ne.symm hk))

/-- A batch made at once COMMITTED (R130). -/
theorem commitNew_opened (jh : Handle) (hfree : s.hasFreeBatch = true) (hcount : legs.length ≤ s.freeLegs)
    (hun : ∀ l ∈ legs, l.state.unfinished = true) :
    ∃ t hb hs, s.commitNew jh legs = (t, some hb)
      ∧ Opened s t ⟨.job jh, hs, .committed, some s.commitCounter⟩ legs hb
      ∧ t.commitCounter = min (s.commitCounter + 1) 4294967295
      ∧ OnlyChanges [.legs, .batches, .commitCounter] s t := by
  obtain ⟨t, hb, hs, hopen, ⟨hbatch, ⟨htakes, hlegs, hbatches, hothers⟩, hmade⟩, hown⟩ :=
    openBatch_opened (.job jh) hfree hcount hun
  have hcounter : t.commitCounter = s.commitCounter := hown .commitCounter (by decide)
  refine ⟨t.commitBatch hb, hb, hs, by simp only [State.commitNew, hopen],
    ⟨?_, ⟨htakes, hlegs, fun k hk => ?_, hothers⟩,
    hmade⟩, ?_, (hown.mono (by decide)).trans ((commitBatch_frame hb).mono (by decide))⟩
  · rw [← hcounter]
    exact modify_of_get? _ hbatch
  · exact (modify_get?_ne _ hk).trans (hbatches k hk)
  · rw [State.commitBatch, hcounter]
    rfl

/-- The batch a handle names after it was made. -/
theorem Opened.batch? (h : Opened s t b legs hb) : t.batch? hb = some b := Pool.find_eq_some.2 h.batch

/-- A batch that is OPEN or COMMITTED stays when another is made. -/
theorem Opened.keeps_batch (h : Opened s t b legs hb) {g : Handle} {x : Batch} (hx : s.batch? g = some x)
    (hlive : x.state = .opened ∨ x.state = .committed) : g ≠ hb ∧ t.batch? g = some x := by
  obtain ⟨⟨-, hfree, -⟩, -, hothers, -⟩ := h.takes
  have hne : g.idx ≠ hb.idx := by
    intro hidx
    obtain ⟨e, he, hfree, -⟩ := hfree hb List.mem_cons_self
    rw [← hidx, Pool.find_eq_some.1 hx] at he
    cases he
    obtain ⟨h1, h2⟩ := hfree x rfl
    exact hlive.elim h1 h2
  exact ⟨fun e => hne (congrArg Handle.idx e), (find_of_get? (hothers _ hne)).trans hx⟩

/-- An unfinished leg stays when a batch is made. -/
theorem Opened.keeps_leg (h : Opened s t b legs hb) {g : Handle} (hl : s.leg? g = some l)
    (hun : l.state.unfinished = true) : t.leg? g = some l := h.made.keeps hl (legEntryFree_unfinished hun)

/-- The legs of a new batch, by their place in it. -/
theorem Opened.leg? (h : Opened s t b legs hb) {j : Nat} {g : Handle} (hg : b.legs[j]? = some g)
    (hl : legs[j]? = some l) : t.leg? g = some { l with batch := hb, position := j } := by
  refine h.made.records j g _ hg ?_
  rw [placed_getElem?, hl, Nat.zero_add]
  rfl

end Legs

end Sys2Proof.Proofs.Makes
end

section
/-! PROOFS. A supervisor's batch opened, filled and committed (section 7.2). -/

namespace Sys2Proof.Proofs.Batches

open Sys2Proof Sys2Proof.Machine
open Sys2Proof.Proofs.Pallets (askerOf request_unchanged find_release get?_release_self get?_foldl_release
  find_foldl_release)
open Sys2Proof.Proofs.Requests Sys2Proof.Proofs.Makes
open Sys2Proof.Proofs.Tables (firstIdx_isSome mem_handles namedByLeg_iff)

variable {s t : State} {a : Nat} {st : Station} {tag : Byte} {h hb hn g : Handle} {b : Batch} {l : Leg} {k : Asker}

/-! ## Open Batch (R127) -/

/-- An OPEN batch of a station. -/
abbrev Mine (a : Nat) (b : Batch) : Prop := b.state = .opened ∧ b.origin = .station a

theorem openBatchOf_none (hnone : ∀ hb b, s.batch? hb = some b → ¬Mine a b) : s.openBatchOf a = none := by
  unfold State.openBatchOf
  rw [List.head?_eq_none_iff, List.eq_nil_iff_forall_not_mem]
  intro g hg
  obtain ⟨b, hb, hmine⟩ := mem_handles.1 hg
  exact hnone g b hb (by simpa using hmine)

theorem openBatchOf_known (h : s.openBatchOf a = some hb) : ∃ b, s.batch? hb = some b ∧ Mine a b := by
  obtain ⟨b, hb, hmine⟩ := mem_handles.1 (List.mem_of_mem_head? h)
  exact ⟨b, hb, by simpa using hmine⟩

theorem openBatchOf_some (hb' : s.batch? hb = some b) (hmine : Mine a b)
    (hone : ∀ hc d, s.batch? hc = some d → Mine a d → hc = hb) : s.openBatchOf a = some hb := by
  rcases hfirst : s.openBatchOf a with _ | hc
  · unfold State.openBatchOf at hfirst
    rw [List.head?_eq_none_iff, List.eq_nil_iff_forall_not_mem] at hfirst
    exact (hfirst hb (mem_handles.2 ⟨b, hb', by simpa using hmine⟩)).elim
  · obtain ⟨d, hd, hdm⟩ := openBatchOf_known hfirst
    rw [hone hc d hd hdm]

theorem hasFreeBatch_iff : s.hasFreeBatch = true ↔ ∃ i e, s.batches.get? i = some e ∧ BatchFree e := by
  simp only [State.hasFreeBatch, firstIdx_isSome, batchEntryFree_iff]

theorem openBatch_full {o : BatchOrigin} {legs : List Leg} (hfull : ¬s.hasFreeBatch = true) :
    s.openBatch o legs = none := by
  unfold State.hasFreeBatch at hfull
  unfold State.openBatch Pool.create
  rw [Option.not_isSome_iff_eq_none.1 hfull]

theorem openBatch_empty_own {o : BatchOrigin} (h : s.openBatch o [] = some (t, hb)) : OnlyChanges [.batches] s t := by
  unfold State.openBatch at h
  split at h
  · cases h
  next batches hb' _ =>
    cases h
    intro f hf
    cases f <;> first | rfl | exact absurd (by decide) hf

theorem openBatchFor_opens (h : (s.discardOpen k.address).openBatch (.station k.address) [] = some (t, hb)) :
    openBatchFor k () s = .now t .done [.handle hb] := by
  unfold openBatchFor
  simp only [h]

theorem openBatchFor_full (h : (s.discardOpen k.address).openBatch (.station k.address) [] = none) :
    openBatchFor k () s = .now (s.discardOpen k.address) .full [] := by
  unfold openBatchFor
  simp only [h]

theorem discardOpen_none (hnone : s.openBatchOf a = none) : s.discardOpen a = s := by
  unfold State.discardOpen
  simp only [hnone]

/-- A batch opened with no legs: its entry is the lowest free one. -/
theorem openBatch_empty (o : BatchOrigin) (hfree : s.hasFreeBatch = true) :
    ∃ t hb, s.openBatch o [] = some (t, hb) ∧ t.batches.get? hb.idx = some ⟨hb.gen, some ⟨o, [], .opened, none⟩⟩
      ∧ TakesLowest s.batches BatchFree [hb] ∧ (∀ k, k ≠ hb.idx → t.batches.get? k = s.batches.get? k)
      ∧ OnlyChanges [.batches] s t := by
  obtain ⟨t, hb, hs, hopen, ⟨hbatch, ⟨htakes, -, hothers, -⟩, hmade⟩, -⟩ :=
    openBatch_opened (legs := []) o hfree (by simp) (by simp)
  obtain rfl : hs = [] := List.eq_nil_of_length_eq_zero hmade.length
  exact ⟨t, hb, hopen, hbatch, htakes, hothers, openBatch_empty_own hopen⟩

/-- A handle that takes the lowest free entry, where that entry is known. -/
theorem takesLowest_index {α : Type} {n : Nat} {pool : Pool α n} {free : Entry α → Prop} {i : Nat} {e : Entry α}
    (htakes : TakesLowest pool free [g]) (he : pool.get? i = some e) (hfree : free e)
    (hlow : ∀ k < i, ∀ d, pool.get? k = some d → ¬free d) :
    g = ⟨i, if e.record = none then e.gen else (e.gen + 1) % 64⟩ := by
  obtain ⟨-, hentry, hlowest⟩ := htakes
  obtain ⟨d, hd, hdfree, hgen⟩ := hentry g List.mem_cons_self
  have hidx : g.idx = i := by
    rcases Nat.lt_trichotomy g.idx i with hlt | heq | hgt
    · exact (hlow _ hlt d hd hdfree).elim
    · exact heq
    · obtain ⟨x, hx, hxi⟩ := hlowest g List.mem_cons_self i hgt e he hfree
      rw [List.mem_singleton.1 hx] at hxi
      exact hxi
  subst hidx
  rw [he] at hd
  cases hd
  cases g
  simp only [Option.isNone_iff_eq_none] at hgen
  rw [← hgen]

/-! ## The station's own OPEN batch is discarded (R127) -/

/-- What a discarded batch leaves of the legs and the batches. -/
structure Discarded (s t : State) (hb : Handle) (b : Batch) : Prop where
  legs : t.legs = b.legs.foldl Pool.release s.legs
  entry : t.batches.get? hb.idx = some ⟨nextGen hb.gen, none⟩
  others : ∀ k, k ≠ hb.idx → t.batches.get? k = s.batches.get? k
  own : OnlyChanges [.legs, .batches] s t

theorem discardOpen_discarded (hopen : s.openBatchOf a = some hb) (hb' : s.batch? hb = some b) :
    Discarded s (s.discardOpen a) hb b := by
  have hdef : s.discardOpen a =
      { s with legs := b.legs.foldl Pool.release s.legs, batches := s.batches.release hb } := by
    unfold State.discardOpen
    simp only [hopen, State.discardBatch, hb']
  have hset : s.batches.release hb = s.batches.set hb.idx ⟨nextGen hb.gen, none⟩ := by
    unfold Pool.release
    rw [show s.batches.find hb = some b from hb']
  rw [hdef]
  refine ⟨rfl, get?_release_self hb', fun k hk => ?_, ?_⟩
  · show (s.batches.release hb).get? k = _
    rw [hset, Table.get?_set_ne _ _ (Ne.symm hk)]
  · intro f hf
    cases f <;> first | rfl | exact absurd (by decide) hf

/-- What Open Batch leaves that discards one first. -/
abbrev Reopened (a : Nat) (hb hn : Handle) (b : Batch) (s t : State) : Prop :=
  t.batch? hn = some ⟨.station a, [], .opened, none⟩
    ∧ t.batch? hb = none
    ∧ (∃ e, s.batches.get? hn.idx = some e ∧ (hn.idx = hb.idx ∨ BatchFree e)
      ∧ hn.gen = (if hn.idx ≠ hb.idx ∧ e.record = none then e.gen else (e.gen + 1) % 64))
    ∧ (∀ k < hn.idx, k ≠ hb.idx ∧ ∀ e, s.batches.get? k = some e → ¬BatchFree e)
    ∧ (hn.idx ≠ hb.idx → t.batches.get? hb.idx = some ⟨(hb.gen + 1) % 64, none⟩)
    ∧ (∀ g ∈ b.legs, t.leg? g = none)
    ∧ (∀ g ∈ b.legs, ∀ l, s.leg? g = some l → t.legs.get? g.idx = some ⟨(g.gen + 1) % 64, none⟩)
    ∧ (∀ g l, g ∉ b.legs → s.leg? g = some l → t.leg? g = some l)
    ∧ (∀ hc d, hc ≠ hb → s.batch? hc = some d → d.state = .opened ∨ d.state = .committed → t.batch? hc = some d)
    ∧ ∀ k, k ≠ hb.idx → k ≠ hn.idx → t.batches.get? k = s.batches.get? k

theorem nextGen_ne (g : Nat) : nextGen g ≠ g := by
  unfold nextGen Config.generations
  omega

theorem reopened {m : State} (hb' : s.batch? hb = some b)
    (hdisc : Discarded s m hb b) (hn' : t.batches.get? hn.idx = some ⟨hn.gen, some ⟨.station a, [], .opened, none⟩⟩)
    (htakes : TakesLowest m.batches BatchFree [hn]) (hothers : ∀ k, k ≠ hn.idx → t.batches.get? k = m.batches.get? k)
    (hlegs : t.legs = m.legs) : Reopened a hb hn b s t := by
  obtain ⟨hreleased, hentry, hkept, -⟩ := hdisc
  obtain ⟨-, htaken, hlow⟩ := htakes
  have hself := Pool.find_eq_some.1 hb'
  have hleg (g : Handle) : t.leg? g = if g ∈ b.legs then none else s.leg? g := by
    unfold State.leg?
    rw [hlegs, hreleased, find_foldl_release]
  have hfree : BatchFree ⟨nextGen hb.gen, none⟩ := nofun
  refine ⟨Pool.find_eq_some.2 hn', ?_, ?_, fun k hk => ⟨?_, fun e he hbf => ?_⟩, fun hne => ?_, fun g hg => ?_,
    fun g hg l hl => ?_, fun g l hg hl => ?_, fun hc d hne hd hlive => ?_, fun k h1 h2 => ?_⟩
  · unfold State.batch? Pool.find
    by_cases hidx : hn.idx = hb.idx
    · obtain ⟨e, he, -, hgen⟩ := htaken hn List.mem_cons_self
      rw [hidx, hentry] at he
      cases he
      rw [← hidx, hn']
      have hgen : hn.gen = nextGen hb.gen := hgen
      rw [hgen]
      exact if_neg (nextGen_ne hb.gen)
    · rw [hothers _ (Ne.symm hidx), hentry]
      exact if_neg (nextGen_ne hb.gen)
  · obtain ⟨e, he, hbf, hgen⟩ := htaken hn List.mem_cons_self
    by_cases hidx : hn.idx = hb.idx
    · rw [hidx, hentry] at he
      cases he
      refine ⟨⟨hb.gen, some b⟩, by rw [hidx]; exact hself, .inl hidx, ?_⟩
      rw [if_neg fun h => h.1 hidx]
      exact hgen
    · rw [hkept _ hidx] at he
      refine ⟨e, he, .inr hbf, hgen.trans ?_⟩
      simp [hidx]
  · rintro rfl
    obtain ⟨x, hx, hidx⟩ := hlow hn List.mem_cons_self _ hk _ hentry hfree
    rw [List.mem_singleton.1 hx] at hidx
    omega
  · have hne : k ≠ hb.idx := by
      rintro rfl
      obtain ⟨x, hx, hidx⟩ := hlow hn List.mem_cons_self _ hk _ hentry hfree
      rw [List.mem_singleton.1 hx] at hidx
      omega
    obtain ⟨x, hx, hidx⟩ := hlow hn List.mem_cons_self k hk e ((hkept k hne).trans he) hbf
    rw [List.mem_singleton.1 hx] at hidx
    omega
  · exact (hothers _ (Ne.symm hne)).trans hentry
  · rw [hleg, if_pos hg]
  · rw [hlegs, hreleased]
    exact get?_foldl_release _ hg hl
  · rw [hleg, if_neg hg, hl]
  · have hidx : hc.idx ≠ hb.idx := fun hidx => hne (by
      have he := Pool.find_eq_some.1 hd
      rw [hidx, hself] at he
      cases hc
      cases hb
      cases he
      cases hidx
      rfl)
    have hidx' : hc.idx ≠ hn.idx := fun hsame => by
      obtain ⟨e, he, hbf, -⟩ := htaken hn List.mem_cons_self
      rw [← hsame, hkept _ hidx, Pool.find_eq_some.1 hd] at he
      cases he
      obtain ⟨h1, h2⟩ := hbf d rfl
      exact hlive.elim h1 h2
    exact (find_of_get? ((hothers _ hidx').trans (hkept _ hidx))).trans hd
  · exact (hothers k h2).trans (hkept k h1)

/-- Settles O32: by whether the station has an OPEN batch, and by the entry that is free. -/
theorem openBatchOpens : Obligations.OpenBatchOpens := by
  unfold Obligations.OpenBatchOpens
  intro s a st tag hasks
  have hbatch (g : Handle) : (s.heard a).batch? g = s.batch? g := batch?_of_kept (heard_line .batches (by decide))
  have hbatches : (s.heard a).batches = s.batches := heard_line .batches (by decide)
  refine ⟨fun hnone => ?_, fun hb b hb' hmine hone => ?_⟩
  · have hkeep : (s.heard a).discardOpen (askerOf a st tag).address = s.heard a :=
      discardOpen_none (openBatchOf_none fun hb b h => hnone hb b ((hbatch hb).symm.trans h))
    refine ⟨fun i e he hfree hlow => ?_, fun hfull => ?_⟩
    · obtain ⟨t, hb, hopen, hnew, htakes, hothers, hown⟩ := openBatch_empty (s := s.heard a) (.station a)
        (hasFreeBatch_iff.2 ⟨i, e, by rw [hbatches]; exact he, hfree⟩)
      rw [hbatches] at htakes
      obtain rfl := takesLowest_index htakes he hfree hlow
      obtain ⟨w, hexec, himm, hframe, hline⟩ := request_answers (tag := tag) hasks
        (openBatchFor_opens (k := askerOf a st tag) (by rw [hkeep]; exact hopen)) hown (by decide)
      have hw : w.batches = t.batches := hline .batches (by decide)
      exact ⟨w, _, hexec, rfl, by rw [hw]; exact hnew, fun k hk => by rw [hw, hothers k hk, hbatches], himm, hframe⟩
    · refine request_unchanged hasks ((openBatchFor_full (k := askerOf a st tag) ?_).trans (by rw [hkeep]))
      rw [hkeep]
      refine openBatch_full fun h => ?_
      obtain ⟨i, e, he, hfree⟩ := hasFreeBatch_iff.1 h
      exact hfull i e (by rw [← hbatches]; exact he) hfree
  · have hopen : (s.heard a).openBatchOf a = some hb :=
      openBatchOf_some ((hbatch hb).trans hb') hmine fun hc d hd hdm => hone hc d ((hbatch hc).symm.trans hd) hdm
    have hdisc := discardOpen_discarded hopen ((hbatch hb).trans hb')
    obtain ⟨t, hn, hnew, hentry, htakes, hothers, hown⟩ := openBatch_empty (s := (s.heard a).discardOpen a) (.station a)
      (hasFreeBatch_iff.2 ⟨_, _, hdisc.entry, nofun⟩)
    have hre := reopened ((hbatch hb).trans hb') hdisc hentry htakes hothers (hown .legs (by decide))
    obtain ⟨w, hexec, himm, hframe, hline⟩ := request_answers (tag := tag) hasks
      (openBatchFor_opens (k := askerOf a st tag) hnew) (hdisc.own.trans (hown.mono (by decide))) (by decide)
    obtain ⟨h1, h2, h3, h4, h5, h6, h7, h8, h9, h10⟩ := taken_of_line (Reopened a hb hn b) hre hline
    exact ⟨w, hn, hexec, h1, h2, h3, h4, h5, h6, h7, h8, h9, h10, himm, hframe⟩

/-! ## Add Leg (R128) -/

section AddLeg

variable {f : AddLegF} {bay : Bay}

/-- Add Leg's checks, in their order. -/
abbrev addChecks (a : Nat) (f : AddLegF) (s : State) : List (Prop × AnsCode) :=
  [(f.bay ≤ 1 ∧ (f.destination = .choose ∨ ∃ k, f.destination = .slot k ∧ k ≤ 95) ∧ f.priority ≤ 3, .badRequest),
    (∃ hb b, s.openBatchOf a = some hb ∧ s.batch? hb = some b, .wrongState),
    (∃ r, s.plate? f.plate = some r, .noSuch),
    ((∀ r, s.plate? f.plate = some r → r.st.disposition = .stock ∧ r.job = none)
      ∧ ∀ g l, s.leg? g = some l → l.state.unfinished = true → l.plate ≠ some f.plate, .wrongState),
    ((∀ hb b, s.openBatchOf a = some hb → s.batch? hb = some b → b.legs.length < 8) ∧ 1 ≤ s.freeLegs, .full)]

theorem addLegPlaceOk_iff {p : Place} : addLegPlaceOk p = true ↔ p = .choose ∨ ∃ k, p = .slot k ∧ k ≤ 95 := by
  cases p <;> simp [addLegPlaceOk]

theorem ofNum_some {n : Nat} : Bay.ofNum n = some bay ↔ (n = 0 ∧ bay = .a) ∨ (n = 1 ∧ bay = .b) := by
  unfold Bay.ofNum
  split <;> cases bay <;> simp_all

theorem addLeg_turns (s : State) : Turns s (addLeg k f s) (addChecks k.address f s) := by
  unfold addLeg
  rcases hbay : Bay.ofNum f.bay with _ | bay
  · refine turns_cons (fun _ => rfl) fun ⟨hle, _⟩ => ?_
    rcases Nat.le_one_iff_eq_zero_or_eq_one.1 hle with h | h <;> rw [h] at hbay <;> cases hbay
  have hle : f.bay ≤ 1 := by rcases ofNum_some.1 hbay with ⟨h, -⟩ | ⟨h, -⟩ <;> omega
  refine turns_ite ?_ fun _ => ?_
  · rw [Bool.or_eq_true, Bool.not_eq_true', Bool.eq_false_iff, Ne, addLegPlaceOk_iff, decide_eq_true_iff]
    simp only [hle, true_and, not_and_or, not_le]
  rcases hopen : s.openBatchOf k.address with _ | hb
  · exact turns_cons (fun _ => rfl) fun ⟨_, _, h, _⟩ => by cases h
  obtain ⟨b, hb', -⟩ := openBatchOf_known hopen
  refine turns_cons (fun h => (h ⟨hb, b, rfl, hb'⟩).elim) fun _ => ?_
  rcases hr : s.plate? f.plate with _ | r
  · exact turns_cons (fun _ => rfl) fun ⟨_, h⟩ => by cases h
  refine turns_cons (fun h => (h ⟨r, rfl⟩).elim) fun _ => ?_
  simp only [hb']
  refine turns_ite ?_ fun _ => turns_ite ?_ fun _ => turns_nil
  · simp only [namedByLeg_iff, Option.some.injEq, forall_eq', not_and_or, not_forall, not_not, exists_prop,
      or_assoc, Ne]
  · have hlen : (∀ hc c, some hb = some hc → s.batch? hc = some c → c.legs.length < 8) ↔ b.legs.length < 8 :=
      ⟨fun h => h hb b rfl hb', fun h hc c e hc' => by cases e; rw [hb'] at hc'; cases hc'; exact h⟩
    rw [hlen]
    unfold Config.openBatchMax
    omega

/-- The leg that Add Leg makes. -/
abbrev newLeg (bay : Bay) (f : AddLegF) (hb : Handle) (position : Nat) : Leg :=
  { Leg.fresh bay .manual (some f.plate) f.destination f.priority with batch := hb, position := position }

/-- A leg at the tail of a batch, in the lowest free entry. -/
abbrev Appended (hb lh : Handle) (b : Batch) (l : Leg) (s t : State) : Prop :=
  t.leg? lh = some l
    ∧ (∀ g, g.idx ≠ lh.idx → t.leg? g = s.leg? g)
    ∧ (∃ e, s.legs.get? lh.idx = some e ∧ LegFree s e ∧ lh.gen = (if e.record = none then e.gen else (e.gen + 1) % 64))
    ∧ (∀ k < lh.idx, ∀ e, s.legs.get? k = some e → ¬LegFree s e)
    ∧ t.batch? hb = some { b with legs := b.legs ++ [lh] }
    ∧ ∀ g, g ≠ hb → t.batch? g = s.batch? g

theorem appendLeg_appended (hb' : s.batch? hb = some b) (hcount : 1 ≤ s.freeLegs) (hun : l.state.unfinished = true) :
    ∃ lh, (s.appendLeg hb b l).2 = [lh]
      ∧ Appended hb lh b { l with batch := hb, position := b.legs.length } s (s.appendLeg hb b l).1 := by
  have hmade := addLegs_made (s := s) (legs := [l]) hb b.legs.length hcount (by simpa using hun)
  have hown := addLegs_frame s.legEntryFree hb [l] b.legs.length s
  generalize hm : State.addLegs s.legEntryFree hb b.legs.length [l] s = made at hmade hown
  obtain ⟨lh, hlh⟩ : ∃ lh, made.2 = [lh] := List.length_eq_one_iff.1 hmade.length
  have hdef : s.appendLeg hb b l = (made.1.modifyBatch hb fun b => { b with legs := b.legs ++ [lh] }, [lh]) := by
    unfold State.appendLeg
    rw [hm]
    dsimp only
    rw [hlh]
  rw [hlh] at hmade
  obtain ⟨-, hentry, hlow⟩ := takesLowest_congr legEntryFree_iff hmade.lowest
  rw [hdef]
  refine ⟨lh, rfl, ?_, fun g hg => ?_, ?_, fun j hj e he hfree => ?_, ?_, fun g hg => ?_⟩
  · exact hmade.records 0 lh _ rfl rfl
  · refine find_of_get? (hmade.entries _ fun x hx => ?_)
    rw [List.mem_singleton.1 hx]
    exact Ne.symm hg
  · obtain ⟨e, he, hfree, hgen⟩ := hentry lh List.mem_cons_self
    exact ⟨e, he, hfree, by simpa only [Option.isNone_iff_eq_none] using hgen⟩
  · obtain ⟨x, hx, hidx⟩ := hlow lh List.mem_cons_self j hj e he hfree
    rw [List.mem_singleton.1 hx] at hidx
    omega
  · rw [modifyBatch_batch?, if_pos rfl, batch?_of_kept (hown .batches (by decide)), hb']
    rfl
  · rw [modifyBatch_batch?, if_neg hg.symm, batch?_of_kept (hown .batches (by decide))]

theorem addLeg_takes (hchecks : AllHold (addChecks k.address f s)) (hbay : Bay.ofNum f.bay = some bay)
    (hopen : s.openBatchOf k.address = some hb) (hb' : s.batch? hb = some b) :
    addLeg k f s = .now (s.appendLeg hb b (Leg.fresh bay .manual (some f.plate) f.destination f.priority)).1 .done
      ((s.appendLeg hb b (Leg.fresh bay .manual (some f.plate) f.destination f.priority)).2.map Token.handle
        ++ [.num 1 (b.legs.length + 1)]) := by
  obtain ⟨⟨-, hplace, hpriority⟩, -, ⟨r, hr⟩, ⟨hplate, hnamed⟩, ⟨hlen, hcount⟩, -⟩ := hchecks
  obtain ⟨hstock, hjob⟩ := hplate r hr
  have hlen := hlen hb b hopen hb'
  have hforms : (!addLegPlaceOk f.destination || decide (3 < f.priority)) = false := by
    rw [addLegPlaceOk_iff.2 hplace, decide_eq_false (by omega)]
    rfl
  have hno : ¬s.namedByLeg f.plate = true := by
    rw [namedByLeg_iff]
    rintro ⟨g, l, hl, hun, hp⟩
    exact hnamed g l hl hun hp
  unfold addLeg
  simp only [hbay, hforms, hopen, hr, hb', Bool.false_eq_true, if_false]
  rw [if_neg (by simp [hstock, hjob, hno]), if_neg (by unfold Config.openBatchMax; omega)]

/-- Settles O33: the checks by the block, the leg by the entry it takes. -/
theorem addLegAppends : Obligations.AddLegAppends := by
  unfold Obligations.AddLegAppends
  intro s a st tag f hasks
  refine ⟨refusedInOrder_of_block (checks := addChecks a f) rfl hasks fun u => addLeg_turns u,
    fun bay hb b hchecks hbay hopen hb' => ?_⟩
  have hopen' : (s.heard a).openBatchOf a = some hb := (read_of_line (·.openBatchOf a) heard_line).trans hopen
  have hb'' : (s.heard a).batch? hb = some b := (batch?_of_kept (heard_line .batches (by decide))).trans hb'
  have hchecks' := allHold_heard (a := a) (addChecks a f) hchecks
  have ⟨_, _, _, _, ⟨_, hcount⟩, _⟩ := hchecks'
  have htaken := addLeg_takes (k := askerOf a st tag) hchecks' (ofNum_some.2 hbay) hopen' hb''
  obtain ⟨lh, hlh, happended⟩ := appendLeg_appended (l := Leg.fresh bay .manual (some f.plate) f.destination f.priority)
    hb'' hcount rfl
  rw [hlh] at htaken
  obtain ⟨t, hexec, himm, hframe, hline⟩ :=
    request_answers (tag := tag) hasks htaken (appendLeg_frame hb b _) (by decide)
  obtain ⟨h1, h2, h3, h4, h5, h6⟩ := taken_of_line (Appended hb lh b (newLeg bay f hb b.legs.length)) happended hline
  exact ⟨t, lh, hexec, h1, h2, h3, h4, h5, h6, himm, hframe⟩

end AddLeg

end Sys2Proof.Proofs.Batches
end

section
/-! PROOFS. Commit Batch (R129, R130): its checks, leg by leg, and the expansion of the legs across the hall. -/

namespace Sys2Proof.Proofs.Commits

open Sys2Proof Sys2Proof.Machine
open Sys2Proof.Proofs.Pallets (askerOf request_unchanged)
open Sys2Proof.Proofs.Requests Sys2Proof.Proofs.Makes
open Sys2Proof.Proofs.Batches (openBatchOf_known)

variable {s t : State} {a : Nat} {st : Station} {tag : Byte} {h hb g : Handle} {b : Batch} {l : Leg} {r : PlateRec}
  {k : Asker} {code : AnsCode}

/-! ## The checks, leg by leg (R129) -/

/-- A leg's plate is found. -/
abbrev Carries (s : State) (l : Leg) (r : PlateRec) : Prop := ∃ p, l.plate = some p ∧ s.plate? p = some r

/-- A plate lies in a slot or on a bed of a bay. -/
abbrev LiesIn (s : State) (r : PlateRec) (bay : Bay) : Prop :=
  match r.st.location with
  | .slot k _ => (s.slotCfg k).bay = bay
  | .bed t _ => tableBay t = bay
  | _ => False

/-- A plate lies on a hook or nowhere. -/
abbrev OutOfReach (r : PlateRec) : Prop :=
  match r.st.location with
  | .hook _ => True
  | .nowhere => True
  | _ => False

/-- A leg fails one of the four checks with a code. -/
abbrev legPlateFails (s : State) (l : Leg) (code : AnsCode) : Prop :=
  ((∀ r, ¬Carries s l r) ∧ code = .noSuch)
    ∨ ∃ r, Carries s l r ∧ code = .wrongState ∧ (r.st.disposition ≠ .stock ∨ OutOfReach r)

abbrev legSoundFails (s : State) (l : Leg) (code : AnsCode) : Prop :=
  code = .blocked ∧ ∃ r, Carries s l r ∧ r.st.doubtful = true

abbrev legTargetFails (s : State) (l : Leg) (code : AnsCode) : Prop :=
  code = .badRequest ∧ ∃ r k, Carries s l r ∧ l.destination = .slot k
    ∧ ((s.slotCfg k).bay ≠ l.bay ∨ r.st.location.place = .slot k)

abbrev legLoadFails (s : State) (l : Leg) (code : AnsCode) : Prop :=
  code = .overload ∧ ∃ r bay, Carries s l r ∧ (bay = l.bay ∨ LiesIn s r bay)
    ∧ ∀ c ≤ 5, (s.craneCfg c).runway = bay → (s.craneCfg c).swl < (s.craneCfg c).tare + r.mass.getD 0

/-- The checks in their order. -/
abbrev legChecks (s : State) : List (Leg → AnsCode → Prop) :=
  [legPlateFails s, legSoundFails s, legTargetFails s, legLoadFails s]

theorem legPlate_iff : s.legPlate l = some r ↔ Carries s l r := by
  unfold State.legPlate Carries
  rcases l.plate with _ | p <;> simp

/-- A test that refuses with one code. -/
theorem ite_some_iff {p : Prop} [Decidable p] {c : AnsCode} : (if p then some c else none) = some code ↔
    code = c ∧ p := by
  split
  next hp => simp [hp, eq_comm (a := c)]
  next hp => simp [hp]

theorem ite_none_iff {p : Prop} [Decidable p] {c : AnsCode} : (if p then none else some c) = some code ↔
    code = c ∧ ¬p := by
  rw [← ite_not, ite_some_iff]

theorem checkPlate_iff : s.checkPlate l = some code ↔ legPlateFails s l code := by
  unfold State.checkPlate legPlateFails
  simp only [← legPlate_iff]
  rcases s.legPlate l with _ | r
  · simp [eq_comm (a := AnsCode.noSuch)]
  · have hreach : (r.st.disposition = .stock ∧ r.st.location.fetchable = true) ↔
        ¬(r.st.disposition ≠ .stock ∨ OutOfReach r) := by
      unfold OutOfReach
      rcases r.st.location <;> simp [Location.fetchable]
    simp only [Option.some.injEq, exists_eq_left', ite_none_iff, hreach, not_not, forall_eq', false_and,
      false_or]

theorem checkSound_iff : s.checkSound l = some code ↔ legSoundFails s l code := by
  unfold State.checkSound legSoundFails
  simp only [← legPlate_iff]
  rcases s.legPlate l with _ | r
  · simp
  · simp only [Option.some.injEq, exists_eq_left', ite_some_iff]

theorem checkTarget_iff : s.checkTarget l = some code ↔ legTargetFails s l code := by
  unfold State.checkTarget legTargetFails
  simp only [← legPlate_iff]
  rcases s.legPlate l with _ | r
  · simp
  · cases l.destination with
    | slot k => simp only [Option.some.injEq, exists_and_left, exists_eq_left', Place.slot.injEq, ite_some_iff]
    | _ => simp

/-- The bay across that a leg's plate lies in. -/
theorem crossBay_iff {bay : Bay} : s.crossBay l = some bay ↔ bay ≠ l.bay ∧ ∃ r, Carries s l r ∧ LiesIn s r bay := by
  have hlies (r : PlateRec) : s.locationBay r.st.location = some bay ↔ LiesIn s r bay := by
    unfold State.locationBay LiesIn
    rcases r.st.location <;> simp
  unfold State.crossBay
  simp only [← legPlate_iff, ← hlies]
  rcases s.legPlate l with _ | r
  · simp
  · simp only [Option.some.injEq, exists_eq_left']
    rcases s.locationBay r.st.location with _ | c
    · simp
    · by_cases hc : c = l.bay
      · simp only [hc, if_true, reduceCtorEq, Option.some.injEq, false_iff, not_and]
        exact fun hne he => hne he.symm
      · simp only [hc, if_false, Option.some.injEq]
        exact ⟨fun h => ⟨h ▸ hc, h⟩, And.right⟩

theorem bearable_iff {mass : Nat} {bay : Bay} : s.bearable mass bay = true ↔
    ∃ c ≤ 5, (s.craneCfg c).runway = bay ∧ (s.craneCfg c).tare + mass ≤ (s.craneCfg c).swl := by
  simp only [State.bearable, List.any_eq_true, List.mem_range, Bool.and_eq_true, beq_iff_eq, hookLoad, Nat.lt_succ_iff]
  exact exists_congr fun c => and_congr_right fun _ => and_congr_right fun _ => decide_eq_true_iff

theorem not_bearable_iff {mass : Nat} {bay : Bay} : ¬s.bearable mass bay = true ↔
    ∀ c ≤ 5, (s.craneCfg c).runway = bay → (s.craneCfg c).swl < (s.craneCfg c).tare + mass := by
  rw [bearable_iff]
  simp only [not_exists, not_and, not_le]

/-- The load check, for a leg whose plate is found. -/
theorem checkLoad_iff (hr : Carries s l r) : s.checkLoad l = some code ↔ legLoadFails s l code := by
  obtain ⟨p, hp, hplate⟩ := hr
  have hmass : s.massOfPlate p = r.mass.getD 0 := by
    unfold State.massOfPlate
    rw [hplate]
  have hbays (bay : Bay) : bay ∈ l.bay :: (s.crossBay l).toList ↔ bay = l.bay ∨ LiesIn s r bay := by
    rw [List.mem_cons, Option.mem_toList, crossBay_iff]
    constructor
    · rintro (h | ⟨-, r', ⟨p', hp', hr'⟩, hlies⟩)
      · exact .inl h
      · rw [hp] at hp'
        cases hp'
        rw [hplate] at hr'
        cases hr'
        exact .inr hlies
    · rintro (h | h)
      · exact .inl h
      · exact or_iff_not_imp_left.2 fun hne => ⟨hne, r, ⟨p, hp, hplate⟩, h⟩
  have hload : s.checkLoad l = if ¬∀ bay ∈ l.bay :: (s.crossBay l).toList, s.bearable (r.mass.getD 0) bay = true then
      some .overload else none := by
    unfold State.checkLoad
    rw [hp]
    dsimp only
    rw [hmass, ite_not]
    simp only [List.all_eq_true]
  rw [hload, ite_some_iff]
  refine and_congr_right fun _ => ?_
  simp only [not_forall, exists_prop, not_bearable_iff, hbays]
  constructor
  · rintro ⟨bay, hbay, hno⟩
    exact ⟨r, bay, ⟨p, hp, hplate⟩, hbay, hno⟩
  · rintro ⟨r', bay, ⟨p', hp', hr'⟩, hbay, hno⟩
    rw [hp] at hp'
    cases hp'
    rw [hplate] at hr'
    cases hr'
    exact ⟨bay, hbay, hno⟩

/-! ## Each check made of every leg before the next -/

theorem firstFailing_none {check : Leg → Option AnsCode} {legs : List Leg} (h : ∀ x ∈ legs, check x = none) :
    firstFailing check legs = none := by
  induction legs with
  | nil => rfl
  | cons l ls ih =>
    rw [firstFailing, h l List.mem_cons_self]
    exact ih fun x hx => h x (List.mem_cons_of_mem _ hx)

theorem firstFailing_at {check : Leg → Option AnsCode} {front rest : List Leg} (h : ∀ x ∈ front, check x = none)
    (hl : check l = some code) : firstFailing check (front ++ l :: rest) = some (code, l.position) := by
  induction front with
  | nil => rw [List.nil_append, firstFailing, hl]
  | cons x front ih =>
    rw [List.cons_append, firstFailing, h x List.mem_cons_self]
    exact ih fun y hy => h y (List.mem_cons_of_mem _ hy)

theorem firstCheck_none {checks : List (Leg → Option AnsCode)} {legs : List Leg}
    (h : ∀ c ∈ checks, ∀ x ∈ legs, c x = none) : firstCheck checks legs = none :=
  List.findSome?_eq_none_iff.2 fun c hc => firstFailing_none (h c hc)

theorem firstCheck_at {earlier later : List (Leg → Option AnsCode)} {check : Leg → Option AnsCode}
    {front rest : List Leg} (hearlier : ∀ c ∈ earlier, ∀ x ∈ front ++ l :: rest, c x = none)
    (hfront : ∀ x ∈ front, check x = none) (hl : check l = some code) :
    firstCheck (earlier ++ check :: later) (front ++ l :: rest) = some (code, l.position) := by
  unfold firstCheck
  rw [List.findSome?_append, List.findSome?_eq_none_iff.2 fun c hc => firstFailing_none (hearlier c hc),
    Option.none_or, List.findSome?_cons, firstFailing_at hfront hl]

/-- The block's own checks. -/
abbrev legTests (s : State) : List (Leg → Option AnsCode) := [s.checkPlate, s.checkSound, s.checkTarget, s.checkLoad]

theorem none_of_iff {check : Leg → Option AnsCode} {p : AnsCode → Prop} (h : ∀ code, check l = some code ↔ p code) :
    check l = none ↔ ∀ code, ¬p code := by
  rw [Option.eq_none_iff_forall_ne_some]
  exact forall_congr' fun code => not_congr (h code)

/-- A leg that passes the first check has its plate. -/
theorem carries_of_checkPlate (h : s.checkPlate l = none) : ∃ r, Carries s l r := by
  unfold State.checkPlate at h
  rcases hr : s.legPlate l with _ | r
  · rw [hr] at h
    cases h
  · exact ⟨r, legPlate_iff.1 hr⟩

section Tests

variable {front rest legs : List Leg}

theorem plateTest_none (h : ∀ e, ¬legPlateFails s l e) : s.checkPlate l = none :=
    (none_of_iff fun _ => checkPlate_iff).2 h

theorem soundTest_none (h : ∀ e, ¬legSoundFails s l e) : s.checkSound l = none :=
    (none_of_iff fun _ => checkSound_iff).2 h

theorem targetTest_none (h : ∀ e, ¬legTargetFails s l e) : s.checkTarget l = none :=
  (none_of_iff fun _ => checkTarget_iff).2 h

/-- The load test, of a leg whose plate is known to be found. -/
theorem loadTest_iff (h : ∀ e, ¬legPlateFails s l e) : s.checkLoad l = some code ↔ legLoadFails s l code := by
  obtain ⟨r, hr⟩ := carries_of_checkPlate (plateTest_none h)
  exact checkLoad_iff hr

theorem legTests_none (h : ∀ c ∈ legChecks s, ∀ x ∈ legs, ∀ e, ¬c x e) : firstCheck (legTests s) legs = none := by
  obtain ⟨h1, h2, h3, h4, -⟩ : (∀ x ∈ legs, ∀ e, ¬legPlateFails s x e) ∧ (∀ x ∈ legs, ∀ e, ¬legSoundFails s x e)
      ∧ (∀ x ∈ legs, ∀ e, ¬legTargetFails s x e) ∧ (∀ x ∈ legs, ∀ e, ¬legLoadFails s x e) ∧ True := by
    simpa only [legChecks, List.forall_mem_cons, List.not_mem_nil, false_imp_iff, implies_true] using h
  refine firstCheck_none (List.forall_mem_cons.2 ⟨fun x hx => plateTest_none (h1 x hx), List.forall_mem_cons.2
    ⟨fun x hx => soundTest_none (h2 x hx), List.forall_mem_cons.2 ⟨fun x hx => targetTest_none (h3 x hx),
      List.forall_mem_cons.2 ⟨fun x hx => ?_, nofun⟩⟩⟩⟩)
  exact (none_of_iff fun _ => loadTest_iff (h1 x hx)).2 (h4 x hx)

/-- The first check that a leg fails, and the first leg that fails it. -/
theorem legTests_at {earlier later : List (Leg → AnsCode → Prop)} {check : Leg → AnsCode → Prop}
    (hchecks : legChecks s = earlier ++ check :: later)
    (hearlier : ∀ c ∈ earlier, ∀ x ∈ front ++ l :: rest, ∀ e, ¬c x e) (hfront : ∀ x ∈ front, ∀ e, ¬check x e)
    (hl : check l code) : firstCheck (legTests s) (front ++ l :: rest) = some (code, l.position) := by
  have hmem : l ∈ front ++ l :: rest := by simp
  have hsub (x : Leg) (hx : x ∈ front) : x ∈ front ++ l :: rest := List.mem_append_left _ hx
  rcases earlier with _ | ⟨c1, _ | ⟨c2, _ | ⟨c3, _ | ⟨c4, earlier⟩⟩⟩⟩ <;>
    simp only [legChecks, List.nil_append, List.cons_append, List.cons.injEq] at hchecks
  · obtain ⟨rfl, -⟩ := hchecks
    exact firstCheck_at (earlier := []) nofun (fun x hx => plateTest_none (hfront x hx)) (checkPlate_iff.2 hl)
  · obtain ⟨rfl, rfl, -⟩ := hchecks
    simp only [List.forall_mem_cons] at hearlier
    obtain ⟨h1, -⟩ := hearlier
    exact firstCheck_at (earlier := [s.checkPlate]) (List.forall_mem_singleton.2 fun x hx => plateTest_none (h1 x hx))
      (fun x hx => soundTest_none (hfront x hx)) (checkSound_iff.2 hl)
  · obtain ⟨rfl, rfl, rfl, -⟩ := hchecks
    simp only [List.forall_mem_cons] at hearlier
    obtain ⟨h1, h2, -⟩ := hearlier
    exact firstCheck_at (earlier := [s.checkPlate, s.checkSound]) (List.forall_mem_cons.2
      ⟨fun x hx => plateTest_none (h1 x hx), List.forall_mem_singleton.2 fun x hx => soundTest_none (h2 x hx)⟩)
      (fun x hx => targetTest_none (hfront x hx)) (checkTarget_iff.2 hl)
  · obtain ⟨rfl, rfl, rfl, rfl, -⟩ := hchecks
    simp only [List.forall_mem_cons] at hearlier
    obtain ⟨h1, h2, h3, -⟩ := hearlier
    exact firstCheck_at (earlier := [s.checkPlate, s.checkSound, s.checkTarget]) (List.forall_mem_cons.2
      ⟨fun x hx => plateTest_none (h1 x hx), List.forall_mem_cons.2 ⟨fun x hx => soundTest_none (h2 x hx),
        List.forall_mem_singleton.2 fun x hx => targetTest_none (h3 x hx)⟩⟩)
      (fun x hx => (none_of_iff fun _ => loadTest_iff (h1 x (hsub x hx))).2 (hfront x hx))
      ((loadTest_iff (h1 l hmem)).2 hl)
  · obtain ⟨-, -, -, -, hno⟩ := hchecks
    exact (List.append_ne_nil_of_right_ne_nil earlier (List.cons_ne_nil check later) hno.symm).elim

end Tests

/-! ## The legs across the hall split in two (R130) -/

section Expansion

variable {ok : Entry Leg → Bool} {cross : Leg → Option Bay} {hs list : List Handle} {bay : Bay} {i : Nat}

/-- The half of a split leg that takes the plate to the cart, and the half that takes it from there. -/
abbrev outHalf (bay : Bay) (l : Leg) : Leg := { l with kind := .transferOut, bay := bay, destination := .cart }

abbrev inHalf (hb : Handle) (l : Leg) : Leg :=
  { Leg.fresh l.bay .transferIn l.plate l.destination l.priority with batch := hb, position := 0 }

theorem not_mem_cons : g ∉ h :: hs ↔ g ≠ h ∧ g ∉ hs := by simp

/-- How many legs of a list go across the hall. -/
abbrev crossing (cross : Leg → Option Bay) (s : State) (hs : List Handle) : Nat :=
  (hs.filterMap s.leg?).countP fun l => (cross l).isSome

/-- The legs that a list of unfinished legs expands to. -/
structure Expanded (cross : Leg → Option Bay) (hb : Handle) (hs : List Handle) (s t : State) (list : List Handle) :
    Prop where
  length : list.length = hs.length + crossing cross s hs
  nodup : list.Nodup
  own : list.filter (fun g => hs.contains g) = hs
  whole : ∀ (i : Nat) g l, list[i]? = some g → g ∈ hs → s.leg? g = some l → cross l = none → t.leg? g = some l
  halves : ∀ (i : Nat) g l bay, list[i]? = some g → g ∈ hs → s.leg? g = some l → cross l = some bay →
    t.leg? g = some (outHalf bay l) ∧ ∃ n, list[i + 1]? = some n ∧ n ∉ hs ∧ t.leg? n = some (inHalf hb l)
  others : ∀ g l, g ∉ hs → s.leg? g = some l → l.state.unfinished = true → t.leg? g = some l ∧ g ∉ list

/-- A leg goes whole: the rest of the list expands behind it. -/
theorem Expanded.cons_whole (hl : s.leg? h = some l) (hun : l.state.unfinished = true) (hwhole : cross l = none)
    (hh : h ∉ hs) (hrest : Expanded cross hb hs s t list) : Expanded cross hb (h :: hs) s t (h :: list) := by
  obtain ⟨hlength, hnodup, hown, hwholes, hhalves, hothers⟩ := hrest
  obtain ⟨hkept, hout⟩ := hothers h l hh hl hun
  refine ⟨?_, List.nodup_cons.2 ⟨hout, hnodup⟩, ?_, fun i g x hg hmem hx hnone => ?_,
    fun i g x bay hg hmem hx hbay => ?_,
    fun g x hg hx hlive => ?_⟩
  · rw [crossing, List.filterMap_cons_some hl, List.countP_cons_of_neg (by simp [hwhole]), List.length_cons, hlength,
      List.length_cons, Nat.add_right_comm]
  · rw [List.filter_cons_of_pos (by simp)]
    refine congrArg (h :: ·) ((List.filter_congr fun g hg => ?_).trans hown)
    have hne : g ≠ h := fun e => hout (e ▸ hg)
    simp [hne]
  · match i with
    | 0 =>
      cases hg
      rw [hl] at hx
      cases hx
      exact hkept
    | i + 1 =>
      have hne : g ≠ h := fun e => hout (e ▸ List.mem_of_getElem? hg)
      exact hwholes i g x hg ((List.mem_cons.1 hmem).resolve_left hne) hx hnone
  · match i with
    | 0 =>
      cases hg
      rw [hl] at hx
      cases hx
      rw [hwhole] at hbay
      cases hbay
    | i + 1 =>
      have hne : g ≠ h := fun e => hout (e ▸ List.mem_of_getElem? hg)
      obtain ⟨hsplit, n, hn, hnew, hin⟩ := hhalves i g x bay hg ((List.mem_cons.1 hmem).resolve_left hne) hx hbay
      exact ⟨hsplit, n, hn, not_mem_cons.2 ⟨fun e => hout (e ▸ List.mem_of_getElem? hn), hnew⟩, hin⟩
  · obtain ⟨hne, hg⟩ := not_mem_cons.1 hg
    obtain ⟨hkept, hout⟩ := hothers g x hg hx hlive
    exact ⟨hkept, not_mem_cons.2 ⟨hne, hout⟩⟩

/-- The state after a leg was split: its two halves, and every other unfinished leg as it was. -/
structure Split (ok : Entry Leg → Bool) (hb h n : Handle) (bay : Bay) (l : Leg) (s t : State) : Prop where
  out : t.leg? h = some (outHalf bay l)
  back : t.leg? n = some (inHalf hb l)
  fresh : ∀ g x, s.leg? g = some x → x.state.unfinished = true → g ≠ n
  others : ∀ g x, g ≠ h → s.leg? g = some x → x.state.unfinished = true → t.leg? g = some x
  count : t.legs.count ok + 1 = s.legs.count ok

theorem split_leg (hok : ∀ g l, l.state.unfinished = true → ok ⟨g, some l⟩ = false) (hl : s.leg? h = some l)
    (hun : l.state.unfinished = true) (hcount : 0 < s.legs.count ok) :
    ∃ n t, State.addLegs ok hb 0 [Leg.fresh l.bay .transferIn l.plate l.destination l.priority] s = (t, [n])
      ∧ Split ok hb h n bay l s (t.modifyLeg h (outHalf bay)) := by
  have hmade := makeAll_made (placed hb 0 [Leg.fresh l.bay .transferIn l.plate l.destination l.priority])
    (fun r hr g => hok g r (by obtain ⟨x, hx, hstate⟩ := placed_state hr; rw [hstate, List.mem_singleton.1 hx]; rfl))
    s.legs hcount
  rw [addLegs_eq]
  generalize makeAll ok (placed hb 0 [Leg.fresh l.bay .transferIn l.plate l.destination l.priority]) s.legs =
    made at hmade
  obtain ⟨u, ns⟩ := made
  dsimp only at hmade ⊢
  obtain ⟨n, rfl⟩ : ∃ n, ns = [n] := List.length_eq_one_iff.1 hmade.length
  have hfresh : ∀ g x, s.leg? g = some x → x.state.unfinished = true → g ≠ n := fun g x hx hlive hgn =>
    hmade.apart hx (hok _ _ hlive) n List.mem_cons_self (by rw [hgn])
  have hne : h ≠ n := hfresh h l hl hun
  have hkept {g : Handle} {x : Leg} (hx : s.leg? g = some x) (hlive : x.state.unfinished = true) :
      ({ s with legs := u } : State).leg? g = some x := hmade.keeps hx (hok _ _ hlive)
  refine ⟨n, _, rfl, ?_, ?_, hfresh, fun g x hgh hx hlive => ?_, ?_⟩
  · rw [modifyLeg_leg?, if_pos rfl, hkept hl hun]
    rfl
  · rw [modifyLeg_leg?, if_neg hne]
    exact hmade.records 0 n _ rfl rfl
  · rw [modifyLeg_leg?, if_neg hgh.symm, hkept hx hlive]
  · have hmodify : (Pool.modify u h (outHalf bay)).count ok = u.count ok :=
      count_modify _ (hkept hl hun) (hok _ _ hun) (hok _ _ hun)
    show (Pool.modify u h (outHalf bay)).count ok + 1 = _
    rw [hmodify]
    exact hmade.count

/-- A leg is split: the rest of the list expands behind its two halves. -/
theorem Expanded.cons_split {u : State} {n : Handle} (hl : s.leg? h = some l) (hun : l.state.unfinished = true)
    (hcross : cross l = some bay) (hh : h ∉ hs) (hlive : ∀ g ∈ hs, ∃ x, s.leg? g = some x ∧ x.state.unfinished = true)
    (hsplit : Split ok hb h n bay l s u) (hrest : Expanded cross hb hs u t list) :
    Expanded cross hb (h :: hs) s t (h :: n :: list) := by
  obtain ⟨hout, hback, hfresh, hkeeps, -⟩ := hsplit
  have hreads : hs.filterMap u.leg? = hs.filterMap s.leg? := List.filterMap_congr fun g hg => by
    obtain ⟨x, hx, hxl⟩ := hlive g hg
    rw [hx]
    exact hkeeps g x (fun e => hh (e ▸ hg)) hx hxl
  have hn : n ∉ hs := fun hmem => by
    obtain ⟨x, hx, hxl⟩ := hlive n hmem
    exact hfresh n x hx hxl rfl
  have hnh : h ≠ n := hfresh h l hl hun
  obtain ⟨hlength, hnodup, hown, hwholes, hhalves, hothers⟩ := hrest
  obtain ⟨hhkept, hhout⟩ := hothers h _ hh hout hun
  obtain ⟨hnkept, hnout⟩ := hothers n _ hn hback rfl
  have hin {g : Handle} (hg : g ∈ list) (hmem : g ∈ h :: hs) : g ∈ hs ∧ g ≠ h := by
    have hne : g ≠ h := fun e => hhout (e ▸ hg)
    exact ⟨(List.mem_cons.1 hmem).resolve_left hne, hne⟩
  have hread {g : Handle} {x : Leg} (hg : g ∈ hs) (hne : g ≠ h) (hx : s.leg? g = some x) : u.leg? g = some x := by
    obtain ⟨y, hy, hyl⟩ := hlive g hg
    rw [hx] at hy
    cases hy
    exact hkeeps g x hne hx hyl
  refine ⟨?_, List.nodup_cons.2 ⟨not_mem_cons.2 ⟨hnh, hhout⟩, List.nodup_cons.2 ⟨hnout, hnodup⟩⟩, ?_,
    fun i g x hg hmem hx hnone => ?_, fun i g x bay' hg hmem hx hbay => ?_, fun g x hg hx hlive' => ?_⟩
  · rw [crossing, List.filterMap_cons_some hl, List.countP_cons_of_pos (by simp [hcross]), ← hreads, List.length_cons,
      List.length_cons, hlength, List.length_cons]
    unfold crossing
    omega
  · rw [List.filter_cons_of_pos (by simp), List.filter_cons_of_neg (by simp [hnh.symm, hn])]
    refine congrArg (h :: ·) ((List.filter_congr fun g hg => ?_).trans hown)
    have hne : g ≠ h := fun e => hhout (e ▸ hg)
    simp [hne]
  · match i with
    | 0 =>
      cases hg
      rw [hl] at hx
      cases hx
      rw [hcross] at hnone
      cases hnone
    | 1 =>
      cases hg
      exact (not_mem_cons.2 ⟨hnh.symm, hn⟩ hmem).elim
    | i + 2 =>
      obtain ⟨hg', hne⟩ := hin (List.mem_of_getElem? hg) hmem
      exact hwholes i g x hg hg' (hread hg' hne hx) hnone
  · match i with
    | 0 =>
      cases hg
      rw [hl] at hx
      cases hx
      rw [hcross] at hbay
      cases hbay
      exact ⟨hhkept, n, rfl, not_mem_cons.2 ⟨hnh.symm, hn⟩, hnkept⟩
    | 1 =>
      cases hg
      exact (not_mem_cons.2 ⟨hnh.symm, hn⟩ hmem).elim
    | i + 2 =>
      obtain ⟨hg', hne⟩ := hin (List.mem_of_getElem? hg) hmem
      obtain ⟨hfirst, m, hm, hnew, hsecond⟩ := hhalves i g x bay' hg hg' (hread hg' hne hx) hbay
      exact ⟨hfirst, m, hm, not_mem_cons.2 ⟨fun e => hhout (e ▸ List.mem_of_getElem? hm), hnew⟩, hsecond⟩
  · obtain ⟨hne, hg⟩ := not_mem_cons.1 hg
    obtain ⟨hkept, hout'⟩ := hothers g x hg (hkeeps g x hne hx hlive') hlive'
    exact ⟨hkept, not_mem_cons.2 ⟨hne, not_mem_cons.2 ⟨hfresh g x hx hlive', hout'⟩⟩⟩

theorem crossBay_of_kept (h : OnlyChanges [.legs] s t) : t.crossBay = s.crossBay := by
  unfold State.crossBay State.legPlate State.locationBay State.plate? State.slotCfg
  rw [h .plates (by decide), h .hall (by decide)]

theorem expandLegs_expanded (hok : ∀ g l, l.state.unfinished = true → ok ⟨g, some l⟩ = false) (hs : List Handle) :
    ∀ s : State, s.crossBay = cross → hs.Nodup →
      (∀ g ∈ hs, ∃ l, s.leg? g = some l ∧ l.state.unfinished = true) → crossing cross s hs ≤ s.legs.count ok →
      Expanded cross hb hs s (State.expandLegs ok hb hs s).1 (State.expandLegs ok hb hs s).2 := by
  induction hs with
  | nil =>
    intro s _ _ _ _
    exact ⟨rfl, .nil, rfl, fun _ g _ _ hg => (List.not_mem_nil hg).elim, fun _ g _ _ _ hg => (List.not_mem_nil hg).elim,
      fun _ _ _ hl _ => ⟨hl, List.not_mem_nil⟩⟩
  | cons h hs ih =>
    intro s hcross hnodup hlive hcount
    obtain ⟨hh, hnodup⟩ := List.nodup_cons.1 hnodup
    obtain ⟨⟨l, hl, hun⟩, hlive⟩ := List.forall_mem_cons.1 hlive
    rw [crossing, List.filterMap_cons_some hl, List.countP_cons] at hcount
    rcases hbay : cross l with _ | bay
    · have hexpand : State.expandLegs ok hb (h :: hs) s =
          ((State.expandLegs ok hb hs s).1, h :: (State.expandLegs ok hb hs s).2) := by
        rw [State.expandLegs]
        simp only [hl, hcross, hbay]
      rw [hexpand]
      exact .cons_whole hl hun hbay hh (ih s hcross hnodup hlive (by unfold crossing; omega))
    · rw [hbay, Option.isSome_some, if_pos rfl] at hcount
      obtain ⟨n, t, hadd, hsplit⟩ := split_leg (ok := ok) (hb := hb) (bay := bay) hok hl hun (by omega)
      have hframe : OnlyChanges [.legs] s (t.modifyLeg h (outHalf bay)) := by
        have hmade := addLegs_frame ok hb [Leg.fresh l.bay .transferIn l.plate l.destination l.priority] 0 s
        rw [hadd] at hmade
        exact hmade.trans (modifyLeg_frame h _)
      have hexpand : State.expandLegs ok hb (h :: hs) s =
          ((State.expandLegs ok hb hs (t.modifyLeg h (outHalf bay))).1,
            h :: n :: (State.expandLegs ok hb hs (t.modifyLeg h (outHalf bay))).2) := by
        rw [State.expandLegs]
        simp only [hl, hcross, hbay, hadd]
        rfl
      have hkeeps (g : Handle) (hg : g ∈ hs) : (t.modifyLeg h (outHalf bay)).leg? g = s.leg? g := by
        obtain ⟨x, hx, hxl⟩ := hlive g hg
        rw [hx]
        exact hsplit.others g x (fun e => hh (e ▸ hg)) hx hxl
      rw [hexpand]
      refine .cons_split hl hun hbay hh hlive hsplit (ih _ ((crossBay_of_kept hframe).trans hcross) hnodup
        (fun g hg => by rw [hkeeps g hg]; exact hlive g hg) ?_)
      have hless := hsplit.count
      rw [crossing, List.filterMap_congr hkeeps]
      omega

end Expansion

/-! ## The batch as it is committed -/

section Settling

variable {list hs : List Handle} {i : Nat}

theorem renumber_leg?_other : ∀ (list : List Handle) (i : Nat) (s : State), g ∉ list →
    (renumber i list s).leg? g = s.leg? g
  | [], _, _, _ => rfl
  | h :: list, i, s, hg => by
    obtain ⟨hne, hg⟩ := not_mem_cons.1 hg
    rw [renumber, renumber_leg?_other list (i + 1) _ hg, modifyLeg_leg?, if_neg hne.symm]

/-- Legs numbered from a position stand in their order. -/
theorem renumber_leg? : ∀ (list : List Handle) (i j : Nat) (s : State), list.Nodup → list[j]? = some g →
    (renumber i list s).leg? g = (s.leg? g).map fun l => { l with position := i + j }
  | [], _, _, _, _, hg => by cases hg
  | h :: list, i, 0, s, hnodup, hg => by
    cases hg
    rw [renumber, renumber_leg?_other list (i + 1) _ (List.nodup_cons.1 hnodup).1, modifyLeg_leg?, if_pos rfl]
    rfl
  | h :: list, i, j + 1, s, hnodup, hg => by
    obtain ⟨hh, hnodup⟩ := List.nodup_cons.1 hnodup
    have hne : h ≠ g := fun e => hh (e ▸ List.mem_of_getElem? hg)
    rw [renumber, renumber_leg? list (i + 1) j _ hnodup hg, modifyLeg_leg?, if_neg hne, Nat.add_right_comm,
      Nat.add_assoc]

/-- A batch as it is committed, with the legs that its own expanded to. -/
abbrev Committed (hb : Handle) (b : Batch) (extra : Nat) (list : List Handle) (s t : State) : Prop :=
  t.batch? hb = some { b with legs := list, state := .committed, seq := some s.commitCounter }
    ∧ t.commitCounter = min (s.commitCounter + 1) 4294967295
    ∧ (∀ g, g ≠ hb → t.batch? g = s.batch? g)
    ∧ list.length = b.legs.length + extra ∧ list.Nodup
    ∧ list.filter (fun g => b.legs.contains g) = b.legs
    ∧ (∀ (i : Nat) (g : Handle) (l : Leg), list[i]? = some g → g ∈ b.legs → s.leg? g = some l →
        (s.crossBay l = none → t.leg? g = some { l with position := i })
        ∧ ∀ bay, s.crossBay l = some bay →
            t.leg? g = some { l with kind := .transferOut, bay := bay, destination := .cart, position := i }
            ∧ ∃ n, list[i + 1]? = some n ∧ n ∉ b.legs
                ∧ shapeOf t n = some (.transferIn, l.bay, l.plate, l.destination, l.priority, .queued, hb, i + 1))
    ∧ ∀ g l, g ∉ b.legs → s.leg? g = some l → l.state.unfinished = true → t.leg? g = some l

theorem settleOpen_committed (hb' : s.batch? hb = some b) (hnodup : b.legs.Nodup)
    (hlive : ∀ g ∈ b.legs, ∃ l, s.leg? g = some l ∧ l.state.unfinished = true)
    (hcount : crossing s.crossBay s b.legs ≤ s.freeLegs) :
    Committed hb b (crossing s.crossBay s b.legs) (s.settleOpen hb b.legs).2 s (s.settleOpen hb b.legs).1 := by
  have hok (g : Nat) (l : Leg) (hun : l.state.unfinished = true) : s.legEntryFree ⟨g, some l⟩ = false :=
    legEntryFree_unfinished hun
  have hexpanded := expandLegs_expanded (ok := s.legEntryFree) (hb := hb) hok b.legs s rfl hnodup hlive hcount
  have hframe := expandLegs_frame s.legEntryFree hb b.legs s
  unfold State.settleOpen
  generalize State.expandLegs s.legEntryFree hb b.legs s = made at hexpanded hframe
  obtain ⟨u, list⟩ := made
  obtain ⟨hlength, hlist, hown, hwhole, hhalves, hothers⟩ := hexpanded
  dsimp only at *
  have hcommit := commitBatch_frame (s := u.putLegs hb list) hb
  have hput : (u.putLegs hb list).batches = (u.modifyBatch hb fun b => { b with legs := list }).batches :=
    renumber_frame list 0 _ .batches (by decide)
  have hcounter : (u.putLegs hb list).commitCounter = s.commitCounter :=
    (putLegs_frame hb list .commitCounter (by decide)).trans (hframe .commitCounter (by decide))
  have hbatch (g : Handle) : ((u.putLegs hb list).commitBatch hb).batch? g = if hb = g then
      (s.batch? g).map fun b => { b with legs := list, state := .committed, seq := some s.commitCounter }
      else s.batch? g := by
    show ((u.putLegs hb list).modifyBatch hb _).batch? g = _
    rw [modifyBatch_batch?, batch?_of_kept hput, modifyBatch_batch?, hcounter,
      batch?_of_kept (hframe .batches (by decide))]
    by_cases hg : hb = g
    · simp only [if_pos hg, Option.map_map]
      rfl
    · simp only [if_neg hg]
  have hleg (g : Handle) : ((u.putLegs hb list).commitBatch hb).leg? g =
      (renumber 0 list (u.modifyBatch hb fun b => { b with legs := list })).leg? g :=
    leg?_of_kept (hcommit .legs (by decide))
  have hkept (g : Handle) : (u.modifyBatch hb fun b => { b with legs := list }).leg? g = u.leg? g :=
    leg?_of_kept (modifyBatch_frame hb _ .legs (by decide))
  have hat {i : Nat} {g : Handle} {l : Leg} (hg : list[i]? = some g) (hl : u.leg? g = some l) :
      ((u.putLegs hb list).commitBatch hb).leg? g = some { l with position := i } := by
    rw [hleg, renumber_leg? list 0 i _ hlist hg, hkept, hl, Nat.zero_add]
    rfl
  refine ⟨?_, ?_, fun g hg => ?_, hlength, hlist, hown, fun i g l hg hmem hl => ⟨fun hnone => ?_, fun bay hbay => ?_⟩,
    fun g l hg hl hun => ?_⟩
  · rw [hbatch, if_pos rfl, hb']
    rfl
  · rw [← hcounter]
    rfl
  · rw [hbatch, if_neg hg.symm]
  · exact hat hg (hwhole i g l hg hmem hl hnone)
  · obtain ⟨hout, n, hn, hnew, hin⟩ := hhalves i g l bay hg hmem hl hbay
    refine ⟨hat hg hout, n, hn, hnew, ?_⟩
    rw [shapeOf, hat hn hin]
    rfl
  · obtain ⟨hl', hout⟩ := hothers g l hg hl hun
    rw [hleg, renumber_leg?_other list 0 _ hout, hkept, hl']

/-! ## Commit Batch -/

theorem commitBatchFor_none (hopen : s.openBatchOf k.address = none) :
    commitBatchFor k () s = .refuse s .wrongState := by
  unfold commitBatchFor
  simp only [hopen]

theorem commitBatchFor_empty (hopen : s.openBatchOf k.address = some hb) (hb' : s.batch? hb = some b)
    (hlegs : b.legs.filterMap s.leg? = []) : commitBatchFor k () s = .refuse s .wrongState := by
  unfold commitBatchFor
  simp only [hopen, State.batchLegs, hb', hlegs, List.isEmpty_nil, if_true]

theorem commitBatchFor_fails {position : Nat} (hopen : s.openBatchOf k.address = some hb) (hb' : s.batch? hb = some b)
    (hlegs : b.legs.filterMap s.leg? ≠ [])
    (hfails : firstCheck (legTests s) (b.legs.filterMap s.leg?) = some (code, position)) :
    commitBatchFor k () s = .now s code [.num 1 position] := by
  unfold commitBatchFor
  simp only [hopen, State.batchLegs, hb', List.isEmpty_iff, hlegs, if_false, hfails]

theorem commitBatchFor_full (hopen : s.openBatchOf k.address = some hb) (hb' : s.batch? hb = some b)
    (hlegs : b.legs.filterMap s.leg? ≠ []) (hpass : firstCheck (legTests s) (b.legs.filterMap s.leg?) = none)
    (hfull : 14 < (b.legs.filterMap s.leg?).length + crossing s.crossBay s b.legs
      ∨ s.freeLegs < crossing s.crossBay s b.legs) : commitBatchFor k () s = .refuse s .full := by
  unfold commitBatchFor
  simp only [hopen, State.batchLegs, hb', List.isEmpty_iff, hlegs, if_false, hpass]
  exact if_pos hfull

theorem commitBatchFor_takes (hopen : s.openBatchOf k.address = some hb) (hb' : s.batch? hb = some b)
    (hlegs : b.legs.filterMap s.leg? ≠ []) (hpass : firstCheck (legTests s) (b.legs.filterMap s.leg?) = none)
    (hroom : (b.legs.filterMap s.leg?).length + crossing s.crossBay s b.legs ≤ 14)
    (hfree : crossing s.crossBay s b.legs ≤ s.freeLegs) :
    commitBatchFor k () s = .now (s.settleOpen hb b.legs).1 .done
      (listTok ((s.settleOpen hb b.legs).2.map (s.settleOpen hb b.legs).1.legKindTokens)) := by
  unfold commitBatchFor
  simp only [hopen, State.batchLegs, hb', List.isEmpty_iff, hlegs, if_false, hpass]
  exact if_neg (by unfold Config.batchMax; unfold crossing at hroom hfree; omega)

theorem legKindTokens_eq (s : State) (list : List Handle) : listTok (list.map s.legKindTokens) =
    .num 1 list.length :: list.flatMap fun g => [.handle g, .choice ((s.leg? g).elim 0 fun l => l.kind.num)] := by
  have htokens (g : Handle) : s.legKindTokens g = [.handle g, .choice ((s.leg? g).elim 0 fun l => l.kind.num)] := by
    unfold State.legKindTokens
    rcases s.leg? g with _ | l <;> rfl
  rw [listTok, List.length_map, funext htokens]
  rfl

/-- Settles O34: the checks leg by leg, then the list as its crossing legs are split. -/
theorem commitBatchCommits : Obligations.CommitBatchCommits := by
  unfold Obligations.CommitBatchCommits
  intro s a st tag hasks
  have hreads : (s.heard a).openBatchOf a = s.openBatchOf a := read_of_line (·.openBatchOf a) heard_line
  have hchecks : legChecks (s.heard a) = legChecks s := read_of_line legChecks heard_line
  have hcross : (s.heard a).crossBay = s.crossBay := read_of_line (·.crossBay) heard_line
  have hleg : (s.heard a).leg? = s.leg? := read_of_line (·.leg?) heard_line
  have hfreeLegs : (s.heard a).freeLegs = s.freeLegs := read_of_line (·.freeLegs) heard_line
  refine ⟨fun hnone => request_unchanged hasks (commitBatchFor_none (hreads.trans hnone)),
    fun hb b legs extra hopen hb' hlegs hextra => ⟨fun l bay => crossBay_iff, fun hnil => ?_,
      fun earlier check later front l rest code hsplit hat hearlier hfront hl => ?_, fun hsome hpass hfull => ?_,
      fun hsome hpass hroom hfree hnodup hlive => ?_⟩⟩
  all_goals
    have hopen' : (s.heard a).openBatchOf (askerOf a st tag).address = some hb := hreads.trans hopen
    have hb'' : (s.heard a).batch? hb = some b := (batch?_of_kept (heard_line .batches (by decide))).trans hb'
  · exact request_unchanged hasks (commitBatchFor_empty hopen' hb'' (by rw [hleg, ← hlegs, hnil]))
  · have hfails := legTests_at (s := s.heard a) (front := front) (rest := rest) (hchecks.trans hsplit)
      (by rwa [← hat]) hfront hl
    refine request_unchanged hasks (commitBatchFor_fails hopen' hb'' ?_ ?_)
    · rw [hleg, ← hlegs, hat]
      exact List.append_ne_nil_of_right_ne_nil _ (List.cons_ne_nil _ _)
    · rw [hleg, ← hlegs, hat]
      exact hfails
  · refine request_unchanged hasks (commitBatchFor_full hopen' hb'' ?_ ?_ ?_)
    · rwa [hleg, ← hlegs]
    · rw [hleg, ← hlegs]
      exact legTests_none (by rw [hchecks]; exact hpass)
    · rw [crossing, hcross, hleg, ← hlegs, hfreeLegs, ← hextra]
      exact hfull
  · have hcrossing : crossing s.crossBay s b.legs = extra := by rw [hextra, hlegs]
    have hcrossing' : crossing (s.heard a).crossBay (s.heard a) b.legs = extra := by
      rw [crossing, hcross, hleg]
      exact hcrossing
    have htakes := commitBatchFor_takes (k := askerOf a st tag) hopen' hb'' (by rwa [hleg, ← hlegs])
      (by rw [hleg, ← hlegs]; exact legTests_none (by rw [hchecks]; exact hpass))
      (by rw [hcrossing', hleg, ← hlegs]; exact hroom) (by rw [hcrossing', hfreeLegs]; exact hfree)
    have hcommitted := settleOpen_committed (s := s.heard a) hb'' hnodup
      (fun g hg => by
        obtain ⟨l, hl, -, hqueued⟩ := hlive g hg
        exact ⟨l, by rw [hleg]; exact hl, by rw [hqueued]; rfl⟩)
      (by rw [hcrossing', hfreeLegs]; exact hfree)
    rw [hcrossing'] at hcommitted
    have hframe := settleOpen_frame (s := s.heard a) hb b.legs
    rw [legKindTokens_eq] at htakes
    generalize (s.heard a).settleOpen hb b.legs = made at htakes hcommitted hframe
    obtain ⟨t, hexec, himm, hown, hline⟩ := request_answers (tag := tag) hasks htakes hframe (by decide)
    obtain ⟨h1, h2, h3, h4, h5, h6, h7, h8⟩ := taken_of_line (Committed hb b extra made.2) hcommitted hline
    have htokens : t.leg? = made.1.leg? := read_of_line (·.leg?) hline
    exact ⟨t, made.2, hexec, h1, h2, h3, h4, h5, h6, h7, h8, by rw [htokens]; exact himm, hown⟩

end Settling

end Sys2Proof.Proofs.Commits
end

section
/-! PROOFS. Admit Job (R77 to R79): its checks, and the parts, the job and the fetch batch that it makes. -/

namespace Sys2Proof.Proofs.Admits

open Sys2Proof Sys2Proof.Machine
open Sys2Proof.Proofs.Pallets (askerOf)
open Sys2Proof.Proofs.Requests Sys2Proof.Proofs.Makes
open Sys2Proof.Proofs.Tables (pool_any_iff namedByLeg_iff)
open Sys2Proof.Proofs.Search (use_free_iff)
open Sys2Proof.Proofs.Burn (inRange_iff)

variable {s t : State} {a : Nat} {st : Station} {tag : Byte} {h hb jh : Handle} {r : PlateRec} {o : Orientation}
  {k : Asker} {f : AdmitF}

/-! ## The parts of a job (R100) -/

/-- The part of a draft entry. -/
abbrev partOf (job : Handle) (plate : PlateId) (i : Nat) (d : DraftEntry) : Part :=
  { job := job, index := i, hull := d.hull, block := d.block, number := d.number, area := d.area
    heat := plate.heat, grade := plate.grade, thickness := plate.thickness
    mark := .planned, cut := .uncut, placement := .onBed, manual := false }

/-- The parts of a draft, numbered. -/
def partsOf (job : Handle) (plate : PlateId) : Nat → List DraftEntry → List Part
  | _, [] => []
  | i, d :: ds => partOf job plate i d :: partsOf job plate (i + 1) ds

theorem partsOf_length (job : Handle) (plate : PlateId) : ∀ (i : Nat) (ds : List DraftEntry),
    (partsOf job plate i ds).length = ds.length
  | _, [] => rfl
  | i, _ :: ds => congrArg (· + 1) (partsOf_length job plate (i + 1) ds)

theorem partsOf_getElem? (job : Handle) (plate : PlateId) : ∀ (i j : Nat) (ds : List DraftEntry),
    (partsOf job plate i ds)[j]? = ds[j]?.map (partOf job plate (i + j))
  | _, _, [] => rfl
  | _, 0, _ :: _ => rfl
  | i, j + 1, _ :: ds => by
    rw [partsOf, List.getElem?_cons_succ, List.getElem?_cons_succ, partsOf_getElem? job plate (i + 1) j ds,
      Nat.add_right_comm, Nat.add_assoc]

theorem createParts_eq (job : Handle) (plate : PlateId) : ∀ (i : Nat) (ds : List DraftEntry) (s : State),
    State.createParts job plate i ds s = ({ s with parts :=
      (makeAll partEntryFree (partsOf job plate i ds) s.parts).1 },
      (makeAll partEntryFree (partsOf job plate i ds) s.parts).2)
  | _, [], _ => rfl
  | i, d :: ds, s => by
    rw [State.createParts, partsOf, makeAll]
    rcases s.parts.create partEntryFree (partOf job plate i d) with _ | ⟨u, h⟩
    · rfl
    · dsimp only
      rw [createParts_eq job plate (i + 1) ds]

theorem partEntryFree_iff (e : Entry Part) : partEntryFree e = true ↔ e.record = none := Option.isNone_iff_eq_none

theorem createParts_made (job : Handle) (plate : PlateId) {ds : List DraftEntry}
    (hcount : ds.length ≤ s.parts.count partEntryFree) :
    Made partEntryFree (partsOf job plate 0 ds) s.parts (State.createParts job plate 0 ds s).1.parts
      (State.createParts job plate 0 ds s).2 := by
  rw [createParts_eq]
  exact makeAll_made _ (fun _ _ _ => rfl) _ (by rw [partsOf_length]; exact hcount)

/-! ## The shapes of a new batch's legs -/

theorem shapes_placed {t : State} : ∀ {i : Nat} {legs : List Leg} {hs : List Handle}, hs.length = legs.length →
    (∀ (j : Nat) (g : Handle) (l : Leg), hs[j]? = some g → legs[j]? = some l →
      t.leg? g = some { l with batch := hb, position := i + j }) →
    hs.map (shapeOf t) = (placed hb i legs).map fun l =>
      some (l.kind, l.bay, l.plate, l.destination, l.priority, l.state, l.batch, l.position)
  | _, [], [], _, _ => rfl
  | i, l :: legs, g :: hs, hlength, hat => by
    rw [List.map_cons, placed, List.map_cons, shapes_placed (i := i + 1) (Nat.succ.inj hlength) fun j g' l' hg hl => by
      rw [hat (j + 1) g' l' hg hl, Nat.add_right_comm, Nat.add_assoc]]
    refine congrArg (· :: _) ?_
    rw [shapeOf, hat 0 g l rfl rfl]
    rfl

theorem opened_shapes {b : Batch} {legs : List Leg} (h : Opened s t b legs hb) :
    b.legs.map (shapeOf t) = (placed hb 0 legs).map fun l =>
      some (l.kind, l.bay, l.plate, l.destination, l.priority, l.state, l.batch, l.position) :=
  shapes_placed (h.made.length.trans (placed_length 0 legs)) fun j _ _ hg hl => by rw [Nat.zero_add]; exact h.leg? hg hl

/-! ## The checks (R77) -/

/-- Two draft entries carry one triple. -/
abbrev SameTriple (d e : DraftEntry) : Prop := d.hull = e.hull ∧ d.block = e.block ∧ d.number = e.number

/-- A live part record holds no triple of the draft, and no two entries carry one. -/
abbrev Distinct (s : State) (draft : List DraftEntry) : Prop :=
  (∀ d ∈ draft, ∀ g p, s.part? g = some p → ¬(p.hull = d.hull ∧ p.block = d.block ∧ p.number = d.number))
    ∧ draft.Pairwise fun d e => ¬SameTriple d e

theorem tripleHeld_iff (d : DraftEntry) : s.tripleHeld d = true ↔
    ∃ g p, s.part? g = some p ∧ p.hull = d.hull ∧ p.block = d.block ∧ p.number = d.number := by
  simp only [State.tripleHeld, pool_any_iff, Bool.and_eq_true, beq_iff_eq, and_assoc]
  rfl

theorem duplicates_iff : ∀ draft : List DraftEntry, s.duplicates draft = true ↔ ¬Distinct s draft
  | [] => by simp [State.duplicates]
  | d :: ds => by
    rw [State.duplicates, Bool.or_eq_true, Bool.or_eq_true, tripleHeld_iff, duplicates_iff ds, List.any_eq_true]
    have hheld : (∃ g p, s.part? g = some p ∧ p.hull = d.hull ∧ p.block = d.block ∧ p.number = d.number) ↔
        ¬∀ g p, s.part? g = some p → ¬(p.hull = d.hull ∧ p.block = d.block ∧ p.number = d.number) := by
      simp only [not_forall, not_not, exists_prop]
    have hsame : (∃ e ∈ ds, d.sameTriple e = true) ↔ ¬∀ e ∈ ds, ¬SameTriple d e := by
      simp only [not_forall, not_not, exists_prop, DraftEntry.sameTriple, Bool.and_eq_true, beq_iff_eq, and_assoc]
    rw [hheld, hsame, Distinct, Distinct, List.forall_mem_cons, List.pairwise_cons]
    tauto

/-- How many legs fetch a plate to a table. -/
abbrev fetchLength (s : State) (f : AdmitF) (r : PlateRec) : Nat :=
  match r.st.location with
  | .slot k _ => if (s.slotCfg k).bay = tableBay f.table then 1 else 2
  | .bed t _ => if tableBay t = tableBay f.table then 1 else 2
  | _ => 1

theorem fetchLegs_length (priority : Nat) : (s.fetchLegs f r priority).length = fetchLength s f r := by
  unfold State.fetchLegs fetchLength State.locationBay
  rcases r.st.location with ⟨k, n⟩ | ⟨t, b⟩ | _ | _ | _
  case slot | bed =>
    dsimp only
    split <;> rfl
  all_goals rfl

/-- A plate lies where it can be fetched. -/
abbrev Fetchable (r : PlateRec) : Prop :=
  match r.st.location with
  | .hook _ => False
  | .nowhere => False
  | _ => True

/-- The admission's ranges. -/
abbrev AdmitRanges (draft : List DraftEntry) (f : AdmitF) : Prop :=
  f.orientation ≤ 1 ∧ f.table ≤ 7 ∧ f.bed ≤ 1 ∧ f.nest ≤ 4294967295 ∧ f.panel ≤ 3
    ∧ 1 ≤ f.envLength ∧ f.envLength ≤ 23980 ∧ 1 ≤ f.envWidth ∧ f.envWidth ≤ 4970
    ∧ f.specFamily ≤ 255 ∧ f.specMask ≤ 255 ∧ 30 ≤ f.thickness ∧ f.thickness ≤ 1500 ∧ f.tolerance ≤ 50
    ∧ draft ≠ []

/-- The bed is bare, or holds only the plate. -/
abbrev BedTakes (s : State) (f : AdmitF) : Prop :=
  s.bedJob f.table f.bed = none ∧ ((s.bed f.table f.bed).plates = [f.plate]
    ∨ ((s.bed f.table f.bed).plates = [] ∧ (s.bed f.table f.bed).skeleton = false))

/-- The plate is of the grade and thickness, where it can be fetched. -/
abbrev Suits (s : State) (f : AdmitF) (r : PlateRec) : Prop :=
  (s.grade r.ident.grade).family &&& f.specMask = f.specFamily &&& f.specMask
    ∧ f.thickness ≤ r.ident.thickness ∧ r.ident.thickness ≤ f.thickness + f.tolerance ∧ Fetchable r

/-- The panel holds the envelope. -/
abbrev PanelHolds (f : AdmitF) (r : PlateRec) : Prop :=
  ∃ p, (r.st.panels.getD [])[f.panel]? = some p
    ∧ (if f.orientation = 0 then f.envLength ≤ p.length ∧ f.envWidth ≤ p.width
      else f.envWidth ≤ p.length ∧ f.envLength ≤ p.width)

/-- What holds of the plate a handle names. -/
abbrev PlateIs (s : State) (h : Handle) (p : PlateRec → Prop) : Prop := ∀ r, s.plate? h = some r → p r

/-- Admit Job's checks, in their order. -/
abbrev admitChecks (a : Nat) (f : AdmitF) (s : State) : List (Prop × AnsCode) :=
  [(AdmitRanges (s.draft a) f, .badRequest), (BedTakes s f, .wrongState), (∃ r, s.plate? f.plate = some r, .noSuch),
    (PlateIs s f.plate (fun r => r.st.disposition = .stock ∧ r.job = none ∧ r.leg = none)
      ∧ ∀ g l, s.leg? g = some l → l.state.unfinished = true → l.plate ≠ some f.plate, .gone),
    (PlateIs s f.plate fun r => r.st.held = false ∧ r.st.doubtful = false, .blocked),
    (PlateIs s f.plate (Suits s f), .gone),
    (PlateIs s f.plate fun r => ∀ k n, r.st.location = .slot k n → (s.slot k).stack.length - n - 1 ≤ 6, .tooDeep),
    (PlateIs s f.plate (PanelHolds f), .badRequest),
    ((s.draft a).length ≤ s.parts.count partEntryFree, .full), (Distinct s (s.draft a), .duplicate),
    (PlateIs s f.plate fun r => ¬r.st.location = .bed f.table f.bed →
      fetchLength s f r ≤ s.freeLegs ∧ s.hasFreeBatch = true, .full)]

theorem plateIs_iff {p : PlateRec → Prop} (hr : s.plate? h = some r) : PlateIs s h p ↔ p r := by
  simp only [PlateIs, hr, Option.some.injEq, forall_eq']

theorem ofNum_orientation {n : Nat} : Orientation.ofNum n = some o ↔ (n = 0 ∧ o = .along) ∨ (n = 1 ∧ o = .rotated) := by
  unfold Orientation.ofNum
  split <;> cases o <;> simp_all

theorem ofNum_none {n : Nat} : Orientation.ofNum n = none ↔ ¬n ≤ 1 := by
  unfold Orientation.ofNum
  split <;> simp_all
  omega

theorem rangesTest_iff {draft : List DraftEntry} (ho : f.orientation ≤ 1) :
    (!f.inRanges || draft.isEmpty) = true ↔ ¬AdmitRanges draft f := by
  rw [Bool.or_eq_true, Bool.not_eq_true', Bool.eq_false_iff, Ne, List.isEmpty_iff]
  simp only [AdmitF.inRanges, Bool.and_eq_true, decide_eq_true_iff, inRange_iff, AdmitRanges, ho, true_and]
  tauto

theorem bedAdmits_iff : s.bedAdmits f = true ↔ BedTakes s f := by
  unfold State.bedAdmits State.bedState BedTakes State.bedBare
  rcases hj : s.bedJob f.table f.bed with _ | ⟨g, j⟩
  · rcases hp : (s.bed f.table f.bed).plates with _ | ⟨p, ps⟩
    · rcases hk : (s.bed f.table f.bed).skeleton with _ | _ <;> simp
    · simp
  · have hlive : j.state ≠ .cleared := by
      unfold State.bedJob at hj
      split at hj
      · cases hj
      · split at hj
        · cases hj
        · split at hj
          · cases hj
          next hne =>
            cases hj
            exact hne
    rcases hv : j.state <;> simp_all

theorem suits_iff : s.suits f r = true ↔ Suits s f r := by
  have hfetch : r.st.location.fetchable = true ↔ Fetchable r := by
    unfold Location.fetchable Fetchable
    rcases r.st.location <;> simp
  simp only [State.suits, gradeMatches, Bool.and_eq_true, beq_iff_eq, decide_eq_true_iff, hfetch, and_assoc]

theorem tooDeep_iff : s.tooDeep r = true ↔
    ¬∀ k n, r.st.location = .slot k n → (s.slot k).stack.length - n - 1 ≤ 6 := by
  unfold State.tooDeep State.burialDepth Config.maxDig
  rcases r.st.location with ⟨k, n⟩ | _ | _ | _ | _
  case slot => simp only [decide_eq_true_iff, Location.slot.injEq, and_imp, forall_apply_eq_imp_iff, forall_eq', not_le]
  all_goals simp

theorem panelOk_iff (ho : Orientation.ofNum f.orientation = some o) : f.panelOk o r = true ↔ PanelHolds f r := by
  unfold AdmitF.panelOk PanelHolds
  rcases (r.st.panels.getD [])[f.panel]? with _ | p
  · simp
  · rcases ofNum_orientation.1 ho with ⟨h, rfl⟩ | ⟨h, rfl⟩ <;>
      simp only [h, envFits, envExtent, Bool.and_eq_true, Option.some.injEq, exists_eq_left', if_true, one_ne_zero,
        if_false] <;>
      exact and_congr decide_eq_true_iff decide_eq_true_iff

/-- A plate that a job can reserve. -/
abbrev Reservable (s : State) (h : Handle) (r : PlateRec) : Prop :=
  (r.st.disposition = .stock ∧ r.job = none ∧ r.leg = none)
    ∧ ∀ g l, s.leg? g = some l → l.state.unfinished = true → l.plate ≠ some h

theorem reserveRefusal_gone (hr : s.plate? h = some r) (hgone : ¬Reservable s h r) :
    s.reserveRefusal h = some .gone := by
  unfold State.reserveRefusal
  rw [hr]
  refine if_pos ?_
  rw [Reservable, ← use_free_iff] at hgone
  simpa only [Bool.or_eq_true, decide_eq_true_iff, namedByLeg_iff, not_and_or, not_forall, not_not, exists_prop, Ne]
    using hgone

theorem reserveRefusal_reservable (hr : s.plate? h = some r) (hfree : Reservable s h r) :
    s.reserveRefusal h = if r.st.held || r.st.doubtful then some .blocked else none := by
  unfold State.reserveRefusal
  rw [hr]
  refine if_neg ?_
  rw [Reservable, ← use_free_iff] at hfree
  obtain ⟨⟨hstock, huse⟩, hno⟩ := hfree
  simp only [Bool.or_eq_true, decide_eq_true_iff, namedByLeg_iff, hstock, huse, ne_eq, not_true_eq_false, or_self,
    false_or]
  rintro ⟨g, l, hl, hun, hp⟩
  exact hno g l hl hun hp

theorem blockedTest_iff : (r.st.held || r.st.doubtful) = true ↔ ¬(r.st.held = false ∧ r.st.doubtful = false) := by
  rw [Bool.or_eq_true, not_and_or, Bool.not_eq_false, Bool.not_eq_false]

theorem roomTest_iff : (r.st.location != .bed f.table f.bed
      && (decide (s.freeLegs < (s.fetchLegs f r 1).length) || !s.hasFreeBatch)) = true ↔
    ¬(¬r.st.location = .bed f.table f.bed → fetchLength s f r ≤ s.freeLegs ∧ s.hasFreeBatch = true) := by
  rw [fetchLegs_length, Bool.and_eq_true, bne_iff_ne, Bool.or_eq_true, decide_eq_true_iff, Bool.not_eq_true',
    Bool.eq_false_iff, Ne, Ne, Classical.not_imp, not_and_or, Nat.not_le]

theorem admitJob_turns (s : State) : Turns s (admitJob k f s) (admitChecks k.address f s) := by
  unfold admitJob
  rcases ho : Orientation.ofNum f.orientation with _ | o
  · exact turns_cons (fun _ => rfl) fun ⟨hle, _⟩ => (ofNum_none.1 ho hle).elim
  have hle : f.orientation ≤ 1 := by
    by_contra h
    rw [ofNum_none.2 h] at ho
    cases ho
  refine turns_ite (rangesTest_iff hle) fun _ => turns_ite ?_ fun _ => ?_
  · rw [Bool.not_eq_true', Bool.eq_false_iff, Ne, bedAdmits_iff]
  rcases hr : s.plate? f.plate with _ | r
  · refine turns_cons (fun _ => ?_) fun ⟨_, h⟩ => by cases h
    simp only [State.reserveRefusal, hr]
    rfl
  refine turns_cons (fun h => (h ⟨r, rfl⟩).elim) fun _ => ?_
  by_cases hgone : Reservable s f.plate r
  swap
  · rw [reserveRefusal_gone hr hgone]
    exact turns_cons (fun _ => rfl) fun h => (hgone ((and_congr_left' (plateIs_iff hr)).1 h)).elim
  refine turns_cons (fun h => (h ((and_congr_left' (plateIs_iff hr)).2 hgone)).elim) fun _ => ?_
  rw [reserveRefusal_reservable hr hgone]
  by_cases hblocked : (r.st.held || r.st.doubtful) = true
  · rw [if_pos hblocked]
    exact turns_cons (fun _ => rfl) fun h => (blockedTest_iff.1 hblocked ((plateIs_iff hr).1 h)).elim
  refine turns_cons (fun h => (h ((plateIs_iff hr).2 (not_not.1 fun hn => hblocked (blockedTest_iff.2 hn)))).elim)
    fun _ => ?_
  rw [if_neg hblocked]
  refine turns_ite ?_ fun _ => turns_ite ?_ fun _ => turns_ite ?_ fun _ => turns_ite (Nat.not_le).symm fun _ =>
    turns_ite (duplicates_iff _) fun _ => turns_ite ?_ fun _ => turns_nil
  · rw [Bool.not_eq_true', Bool.eq_false_iff, Ne, suits_iff, plateIs_iff hr]
  · rw [tooDeep_iff, plateIs_iff hr]
  · rw [Bool.not_eq_true', Bool.eq_false_iff, Ne, panelOk_iff ho, plateIs_iff hr]
  · rw [roomTest_iff, plateIs_iff hr]

/-! ## What an admission makes (R78, R79, R100) -/

theorem admitJob_takes (hchecks : AllHold (admitChecks k.address f s)) (ho : Orientation.ofNum f.orientation = some o)
    (hr : s.plate? f.plate = some r) : admitJob k f s = s.admitPlate k f o r := by
  obtain ⟨hranges, hbed, -, ⟨hstock, hnamed⟩, hsound, hsuits, hdeep, hpanel, hparts, hdistinct, hroom, -⟩ := hchecks
  have hle : f.orientation ≤ 1 := hranges.1
  unfold admitJob
  simp only [ho, hr]
  rw [if_neg fun h => (rangesTest_iff hle).1 h hranges, if_neg (by rw [bedAdmits_iff.2 hbed]; exact Bool.false_ne_true),
    reserveRefusal_reservable hr ⟨hstock r hr, hnamed⟩, if_neg fun h => blockedTest_iff.1 h (hsound r hr)]
  dsimp only
  rw [if_neg (by rw [suits_iff.2 (hsuits r hr)]; exact Bool.false_ne_true),
    if_neg fun h => tooDeep_iff.1 h (hdeep r hr),
    if_neg (by rw [(panelOk_iff ho).2 (hpanel r hr)]; exact Bool.false_ne_true), if_neg (Nat.not_lt.2 hparts),
    if_neg fun h => (duplicates_iff _).1 h hdistinct, if_neg fun h => roomTest_iff.1 h (hroom r hr)]

section Taken

variable {parts : List Handle} {fetch : Option Handle} {live : Bool} {u w : State} {e : Entry Job}

theorem batchTakes_congr {legs : List Handle} (hsource : u.legs = s.legs ∧ u.batches = s.batches)
    (htarget : w.legs = t.legs ∧ w.batches = t.batches) (h : BatchTakesLowest u w hb legs) :
    BatchTakesLowest s t hb legs := by
  obtain ⟨hlegs, hbatches⟩ := hsource
  obtain ⟨hlegs', hbatches'⟩ := htarget
  unfold BatchTakesLowest LegFree State.batch? at h ⊢
  rwa [hlegs, hbatches, hlegs', hbatches'] at h

/-- The shapes of the fetch legs, in the job's own batch. -/
abbrev fetchShapes (s : State) (f : AdmitF) (r : PlateRec) (priority : Nat) (hb : Handle) : List (Option LegShape) :=
  match s.locationBay r.st.location with
  | some bay =>
    if bay = tableBay f.table then
      [some (.fetch, tableBay f.table, some f.plate, .bed f.table f.bed, priority, .queued, hb, 0)]
    else
      [some (.transferOut, bay, some f.plate, .cart, priority, .queued, hb, 0),
        some (.fetch, tableBay f.table, some f.plate, .bed f.table f.bed, priority, .queued, hb, 1)]
  | none => [some (.fetch, tableBay f.table, some f.plate, .bed f.table f.bed, priority, .queued, hb, 0)]

theorem fetchLegs_shapes {priority : Nat} : (placed hb 0 (s.fetchLegs f r priority)).map
    (fun l => some (l.kind, l.bay, l.plate, l.destination, l.priority, l.state, l.batch, l.position)) =
      fetchShapes s f r priority hb := by
  unfold State.fetchLegs fetchShapes
  rcases s.locationBay r.st.location with _ | bay
  · rfl
  · dsimp only
    split <;> rfl

/-- The fetch batch, as it stands after an admission. -/
abbrev Fetching (s t : State) (f : AdmitF) (r : PlateRec) (jh : Handle) (priority : Nat) (fetch : Option Handle) :
    Prop :=
  (r.st.location = .bed f.table f.bed → fetch = none ∧ t.legs = s.legs ∧ t.batches = s.batches
      ∧ t.commitCounter = s.commitCounter)
    ∧ (¬r.st.location = .bed f.table f.bed → ∃ hb b, fetch = some hb ∧ t.batch? hb = some b
      ∧ b.origin = .job jh ∧ b.state = .committed ∧ b.seq = some s.commitCounter
      ∧ t.commitCounter = min (s.commitCounter + 1) 4294967295
      ∧ BatchTakesLowest s t hb b.legs ∧ b.legs.map (shapeOf t) = fetchShapes s f r priority hb)

/-- Whether it lies on the bed or is fetched, an admission's plate. -/
theorem fetch_sent (legs : List Leg) (jh : Handle) {lies : Bool} (hun : ∀ l ∈ legs, l.state.unfinished = true)
    (hroom : ¬lies = true → legs.length ≤ s.freeLegs ∧ s.hasFreeBatch = true) :
    ∃ u fetch, (if lies then (s, none) else s.commitNew jh legs) = (u, fetch)
      ∧ OnlyChanges [.legs, .batches, .commitCounter] s u
      ∧ (lies = true → fetch = none ∧ u = s)
      ∧ (¬lies = true → ∃ hb hs, fetch = some hb ∧ Opened s u ⟨.job jh, hs, .committed, some s.commitCounter⟩ legs hb
        ∧ u.commitCounter = min (s.commitCounter + 1) 4294967295) := by
  by_cases hlies : lies = true
  · rw [if_pos hlies]
    exact ⟨s, none, rfl, .refl, fun _ => ⟨rfl, rfl⟩, fun h => (h hlies).elim⟩
  · rw [if_neg hlies]
    obtain ⟨hcount, hfree⟩ := hroom hlies
    obtain ⟨u, hb, hs, hcommit, hopened, hcounter, hown⟩ := commitNew_opened jh hfree hcount hun
    exact ⟨u, some hb, hcommit, hown, fun h => (hlies h).elim, fun _ => ⟨hb, hs, rfl, hopened, hcounter⟩⟩

theorem fetchLegs_unfinished {priority : Nat} : ∀ l ∈ s.fetchLegs f r priority, l.state.unfinished = true := by
  unfold State.fetchLegs
  rcases s.locationBay r.st.location with _ | bay
  · exact List.forall_mem_singleton.2 rfl
  · dsimp only
    split
    · exact List.forall_mem_singleton.2 rfl
    · exact List.forall_mem_cons.2 ⟨rfl, List.forall_mem_singleton.2 rfl⟩

/-- What an admission leaves. -/
abbrev Admitted (a : Nat) (f : AdmitF) (o : Orientation) (r : PlateRec) (jh : Handle) (live : Bool)
    (parts : List Handle) (fetch : Option Handle) (s t : State) : Prop :=
  t.plate? f.plate = some { r with job := some jh }
    ∧ (∀ g, g ≠ f.plate → t.plate? g = s.plate? g)
    ∧ t.job? jh = some
        { nest := f.nest, plate := f.plate, panel := f.panel, orientation := o
          envLength := f.envLength, envWidth := f.envWidth
          specFamily := f.specFamily, specMask := f.specMask, thickness := f.thickness
          tolerance := f.tolerance, parts := parts, resume := 0, pierced := false
          state := if r.st.location = .bed f.table f.bed then .loaded else .admitted
          role := some (if live then .staged else .active)
          pauseCause := none, fetchLost := false, fetchBatch := fetch, clearBatch := none, verdict := none }
    ∧ (∀ i, i ≠ jh.idx → t.jobs.get? i = s.jobs.get? i)
    ∧ parts.length = (s.draft a).length ∧ parts.Nodup
    ∧ (∀ (i : Nat) (h : Handle) (d : DraftEntry), parts[i]? = some h → (s.draft a)[i]? = some d →
        t.part? h = some (partOf jh r.ident i d))
    ∧ (∀ h q, s.part? h = some q → t.part? h = some q)
    ∧ TakesLowest s.parts (fun x => x.record = none) parts
    ∧ (∀ k, (∀ g ∈ parts, g.idx ≠ k) → t.parts.get? k = s.parts.get? k)
    ∧ t.tableSeq f.table =
        { s.tableSeq f.table with gantry := if live then (s.tableSeq f.table).gantry else f.bed }
    ∧ (∀ k, k ≠ f.table → t.tables.get? k = s.tables.get? k)
    ∧ Fetching s t f r jh (if live then 1 else 2) fetch
    ∧ t.draft a = []

/-- The gantry bed is the new job's, where no job of the table is live. -/
abbrev GantryTakes (tbl bd : Nat) (live : Bool) (s t : State) : Prop :=
  t.tableSeq tbl = { s.tableSeq tbl with gantry := if live then (s.tableSeq tbl).gantry else bd }
    ∧ ∀ k, k ≠ tbl → t.tables.get? k = s.tables.get? k

theorem gantry_takes {tbl bd : Nat} (htbl : tbl ≤ 7) :
    GantryTakes tbl bd live s (if !live then s.modifyTable tbl fun t => { t with gantry := bd } else s) := by
  rcases live with _ | _
  · exact ⟨Table.getD_modify_self _ _ _ (by omega), fun k hk => by
      rw [if_pos (by rfl)]
      exact (Table.get?_modify _ _ _ _).trans (if_neg hk.symm)⟩
  · exact ⟨rfl, fun _ _ => rfl⟩

theorem admitPlate_takes (hr : s.plate? f.plate = some r) (htable : f.table ≤ 7)
    (ha : 1 ≤ k.address ∧ k.address ≤ 32)
    (hparts : (s.draft k.address).length ≤ s.parts.count partEntryFree)
    (hroom : ¬r.st.location = .bed f.table f.bed → fetchLength s f r ≤ s.freeLegs ∧ s.hasFreeBatch = true)
    (he : s.jobs.get? (2 * f.table + f.bed) = some e)
    (hjh : jh = ⟨2 * f.table + f.bed, if e.record = none then e.gen else (e.gen + 1) % 64⟩)
    (hlive : live = (s.bedLive f.table 0 || s.bedLive f.table 1)) :
    ∃ t parts fetch, s.admitPlate k f o r = .now t .done (.handle jh :: optTok fetch fun h => [.handle h])
      ∧ Admitted k.address f o r jh live parts fetch s t := by
  have hnew : s.newJobHandle f.table f.bed = jh := by
    unfold State.newJobHandle bedIndex
    rw [he, hjh]
    simp only [newGen_isNone, Option.isNone_iff_eq_none]
  have hmade := createParts_made (s := s.reserve f.plate jh) jh r.ident hparts
  have hpartsOwn := createParts_frame jh r.ident (s.draft k.address) 0 (s.reserve f.plate jh)
  unfold State.admitPlate
  rw [hnew, ← hlive]
  dsimp only
  generalize State.createParts jh r.ident 0 (s.draft k.address) (s.reserve f.plate jh) = made at hmade hpartsOwn ⊢
  obtain ⟨v, parts⟩ := made
  have hreserve : OnlyChanges [.plates] s (s.reserve f.plate jh) := reserve_frame _ _
  obtain ⟨hgantry, hgantries⟩ := gantry_takes (s := v) (bd := f.bed) (live := live) htable
  have hgantryOwn : OnlyChanges [.tables] v
      (if (!live) = true then v.modifyTable f.table fun t => { t with gantry := f.bed } else v) := by
    split
    · exact modifyTable_frame _ _
    · exact .refl
  generalize (if (!live) = true then v.modifyTable f.table fun t => { t with gantry := f.bed } else v) = x at *
  have hx : OnlyChanges [.plates, .parts, .tables] s x :=
    ((hreserve.mono (by decide)).trans (hpartsOwn.mono (by decide))).trans (hgantryOwn.mono (by decide))
  have hlies : (r.st.location == .bed f.table f.bed) = true ↔ r.st.location = .bed f.table f.bed := beq_iff_eq
  obtain ⟨y, fetch, hsent, hsentOwn, hlying, hfetched⟩ := fetch_sent (s := x)
    (s.fetchLegs f r (if (!live) = true then 2 else 1)) jh (lies := r.st.location == .bed f.table f.bed)
    fetchLegs_unfinished (fun hno => by
      rw [fetchLegs_length, show x.freeLegs = s.freeLegs by
        unfold State.freeLegs State.legEntryFree State.batchUnsettled State.batch?
        rw [hx .legs (by decide), hx .batches (by decide)], show x.hasFreeBatch = s.hasFreeBatch by
        unfold State.hasFreeBatch
        rw [hx .batches (by decide)]]
      exact hroom fun h => hno (hlies.2 h))
  rw [hsent]
  refine ⟨_, parts, fetch, rfl, ?_⟩
  have hcounter : x.commitCounter = s.commitCounter := hx .commitCounter (by decide)
  have hplate : y.plates = (s.reserve f.plate jh).plates :=
    (hsentOwn .plates (by decide)).trans ((hgantryOwn .plates (by decide)).trans (hpartsOwn .plates (by decide)))
  have hpart : y.parts = v.parts := (hsentOwn .parts (by decide)).trans (hgantryOwn .parts (by decide))
  have htables : y.tables = x.tables := hsentOwn .tables (by decide)
  have hvtables : v.tables = s.tables := (hpartsOwn .tables (by decide)).trans (hreserve .tables (by decide))
  have hjobs : y.jobs = s.jobs := (hsentOwn .jobs (by decide)).trans (hx .jobs (by decide))
  have hat : s.jobs.get? jh.idx = some e := by rw [hjh]; exact he
  refine ⟨?_, fun g hg => ?_, ?_, fun i hi => ?_, hmade.length.trans (partsOf_length _ _ _ _), hmade.nodup,
    fun i g d hg hd => ?_, fun g q hq => ?_, takesLowest_congr partEntryFree_iff hmade.lowest, fun i hi => ?_, ?_,
    fun i hi => ?_, ⟨fun h => ?_, fun h => ?_⟩, Table.getD_set_self _ _ _ (by omega)⟩
  · refine (congrArg (·.find f.plate) hplate).trans ?_
    exact (modifyPlate_plate? _).trans (by rw [if_pos rfl, hr]; rfl)
  · exact (congrArg (·.find g) hplate).trans ((modifyPlate_plate? _).trans (if_neg hg.symm))
  · refine Pool.find_eq_some.2 ((Table.get?_set_self _ _ (lt_of_get? hat)).trans ?_)
    simp only [AdmitF.job, hlies]
    rcases live <;> rfl
  · exact (Table.get?_set_ne _ _ hi.symm).trans (congrArg (·.get? i) hjobs)
  · have hrecord : v.parts.find g = some (partOf jh r.ident i d) :=
      hmade.records i g _ hg (by rw [partsOf_getElem?, hd, Nat.zero_add]; rfl)
    exact (congrArg (·.find g) hpart).trans hrecord
  · exact (congrArg (·.find g) hpart).trans (hmade.keeps hq rfl)
  · exact (congrArg (·.get? i) hpart).trans (hmade.entries i hi)
  · exact (congrArg (·.getD f.table ⟨0, none, none⟩) htables).trans (hgantry.trans (by
      unfold State.tableSeq
      rw [hvtables]))
  · exact (congrArg (·.get? i) htables).trans ((hgantries i hi).trans (congrArg (·.get? i) hvtables))
  · obtain ⟨hnone, rfl⟩ := hlying (hlies.2 h)
    exact ⟨hnone, hx .legs (by decide), hx .batches (by decide), hcounter⟩
  · obtain ⟨hb, hs, hsome, hopened, hnext⟩ := hfetched fun hl => h (hlies.1 hl)
    rw [hcounter] at hopened hnext
    refine ⟨hb, _, hsome, hopened.batch?, rfl, rfl, rfl, hnext,
      batchTakes_congr ⟨hx .legs (by decide), hx .batches (by decide)⟩ ⟨rfl, rfl⟩ hopened.takes, ?_⟩
    refine (opened_shapes hopened).trans (fetchLegs_shapes.trans ?_)
    rcases live <;> rfl

/-- Settles O22: the checks by the block, then what each step of the admission leaves. -/
theorem admitJobTakes : Obligations.AdmitJobTakes := by
  unfold Obligations.AdmitJobTakes
  intro s a st tag f hasks
  refine ⟨refusedInOrder_of_block (checks := admitChecks a f) rfl hasks fun u => admitJob_turns u,
    fun o r e jh live hchecks ho hr he hjh hlive => ?_⟩
  have hchecks' := allHold_heard (a := a) (admitChecks a f) hchecks
  have hr' : (s.heard a).plate? f.plate = some r := (read_of_line (·.plate? f.plate) heard_line).trans hr
  have hlive' : live = ((s.heard a).bedLive f.table 0 || (s.heard a).bedLive f.table 1) :=
    hlive.trans (read_of_line (fun s => s.bedLive f.table 0 || s.bedLive f.table 1) heard_line).symm
  have he' : (s.heard a).jobs.get? (2 * f.table + f.bed) = some e := by
    rw [heard_line .jobs (by decide)]
    exact he
  have ⟨⟨_, htable, _⟩, _, _, _, _, _, _, _, hparts, _, hroom, _⟩ := hchecks'
  have htaken := admitJob_takes (k := askerOf a st tag) hchecks' (ofNum_orientation.2 ho) hr'
  obtain ⟨u, parts, fetch, hadmit, hadmitted⟩ := admitPlate_takes (k := askerOf a st tag) (o := o) hr' htable
    (station?_pos hasks.station) hparts (hroom r hr') he' hjh hlive'
  have hframe : OnlyChanges admitFields (s.heard a) u := by
    have := admit_frame (s := s.heard a) (askerOf a st tag) f o r
    rw [hadmit] at this
    exact this
  obtain ⟨t, hexec, himm, hown, hline⟩ := request_answers (tag := tag) hasks (htaken.trans hadmit) hframe (by decide)
  obtain ⟨h1, h2, h3, h4, h5, h6, h7, h8, h9, h10, h11, h12, ⟨h13, h14⟩, h15⟩ :=
    taken_of_line (Admitted a f o r jh live parts fetch) hadmitted hline
  exact ⟨t, parts, fetch, hexec, h1, h2, h3, h4, h5, h6, h7, h8, h9, h10, h11, h12, h13, h14, h15,
    by rcases fetch with _ | hb <;> exact himm, hown⟩

end Taken

end Sys2Proof.Proofs.Admits
end

section
/-! PROOFS. What a job that ends does to its table: its UNCUT parts SCRAPPED (R87, R93), its window emptied (R110), the
verdicts shifted (R88), the STAGED job of the other bed promoted (R89). -/

namespace Sys2Proof.Proofs.Promotes

open Sys2Proof Sys2Proof.Machine
open Sys2Proof.Proofs.Pallets (part?_modifyPart)
open Sys2Proof.Proofs.Marks (resumeOf_eq window_putWindow_self)
open Sys2Proof.Proofs.Burn (bedJob_job?)

variable {s t : State} {g h x : Handle} {j : Job} {p : Part} {parts : List Handle} {tbl bd : Nat} {active : Bool}

/-! ## UNCUT parts become SCRAPPED -/

theorem putCut_part? (v : CutState) (hp : s.part? h = some p) :
    (s.putCut h v).part? g = if h = g then (s.part? g).map fun p => { p with cut := v } else s.part? g := by
  unfold State.putCut
  rw [hp]
  exact part?_modifyPart _ _ _ _

theorem putCut_job? (v : CutState) (hp : s.part? h = some p) : (s.putCut h v).job? g = if p.job = g then
    (s.job? g).map fun j => { j with resume := resumePoint (s.putCut h v) j.parts } else s.job? g := by
  unfold State.putCut State.recomputeResume
  rw [hp]
  dsimp only
  rw [modifyJob_job?]
  simp only [resumeOf_eq]
  rfl

/-- A part of a list, scrapped where it is UNCUT. -/
abbrev scrappedIn (parts : List Handle) (g : Handle) (p : Part) : Part :=
  { p with cut := if g ∈ parts ∧ p.cut = .uncut then .scrapped else p.cut }

/-- The parts of a list are scrapped, and of the jobs at most the resume points change. -/
structure ScrappedAll (parts : List Handle) (s t : State) : Prop where
  part : ∀ g, t.part? g = (s.part? g).map (scrappedIn parts g)
  job : ∀ g, ∃ n, t.job? g = (s.job? g).map fun j => { j with resume := n }
  others : ∀ g, (∀ x ∈ parts, ∀ p, s.part? x = some p → p.job ≠ g) → t.job? g = s.job? g
  resume : ∀ h, (∀ x ∈ parts, ∀ p, s.part? x = some p → p.job = h) →
    (∃ x ∈ parts, ∃ p, s.part? x = some p ∧ p.cut = .uncut) →
    t.job? h = (s.job? h).map fun j => { j with resume := resumePoint t j.parts }

theorem scrappedIn_nil : scrappedIn [] g = id := by
  funext p
  simp [scrappedIn]

theorem scrappedIn_skip {p : Part} (hcut : ¬(g = x ∧ p.cut = .uncut)) :
    scrappedIn (x :: parts) g p = scrappedIn parts g p := by
  unfold scrappedIn
  simp only [List.mem_cons]
  by_cases hg : g = x
  · have hno : p.cut ≠ .uncut := fun h => hcut ⟨hg, h⟩
    simp [hno]
  · simp [hg]

theorem scrapUncut_cons_skip (hno : ∀ p, s.part? x = some p → p.cut ≠ .uncut) :
    s.scrapUncut (x :: parts) = s.scrapUncut parts := by
  have hstep : s.scrapUncut [x] = s := by
    unfold State.scrapUncut
    rw [List.foldl_cons, List.foldl_nil]
    rcases hp : s.part? x with _ | p
    · rfl
    · exact if_neg (hno p hp)
  show (s.scrapUncut [x]).scrapUncut parts = _
  rw [hstep]

theorem scrapUncut_idle (hno : ∀ x ∈ parts, ∀ p, s.part? x = some p → p.cut ≠ .uncut) : s.scrapUncut parts = s := by
  induction parts with
  | nil => rfl
  | cons x xs ih =>
    obtain ⟨hx, hxs⟩ := List.forall_mem_cons.1 hno
    rw [scrapUncut_cons_skip hx, ih hxs]

theorem scrapUncut_cons_cut (hp : s.part? x = some p) (hcut : p.cut = .uncut) :
    s.scrapUncut (x :: parts) = (s.putCut x .scrapped).scrapUncut parts := by
  unfold State.scrapUncut
  rw [List.foldl_cons, hp]
  simp only [hcut, if_true]

theorem scrapUncut_scrapped (parts : List Handle) : ∀ s : State, ScrappedAll parts s (s.scrapUncut parts) := by
  induction parts with
  | nil =>
    intro s
    exact ⟨fun g => by rw [scrappedIn_nil, Option.map_id]; rfl, fun g => by
      rcases hj : s.job? g with _ | j
      · exact ⟨0, hj⟩
      · exact ⟨j.resume, hj⟩, fun _ _ => rfl, fun _ _ ⟨_, hx, _⟩ => (List.not_mem_nil hx).elim⟩
  | cons x xs ih =>
    intro s
    by_cases hcut : ∃ p, s.part? x = some p ∧ p.cut = .uncut
    · obtain ⟨p, hp, hcut⟩ := hcut
      rw [scrapUncut_cons_cut hp hcut]
      have hput (g : Handle) := putCut_part? (g := g) .scrapped hp
      have hjob (g : Handle) := putCut_job? (g := g) .scrapped hp
      have hown {y : Handle} {q : Part} (hq : (s.putCut x .scrapped).part? y = some q) :
          ∃ o, s.part? y = some o ∧ o.job = q.job := by
        rw [hput] at hq
        split at hq
        · obtain ⟨o, ho, rfl⟩ := Option.map_eq_some_iff.1 hq
          exact ⟨o, ho, rfl⟩
        · exact ⟨q, hq, rfl⟩
      obtain ⟨hpart, hresumed, hothers, hresume⟩ := ih (s.putCut x .scrapped)
      refine ⟨fun g => ?_, fun g => ?_, fun g hg => ?_, fun h hall hex => ?_⟩
      · rw [hpart, hput]
        by_cases hg : x = g
        · subst hg
          rw [if_pos rfl, hp, Option.map_some, Option.map_some, Option.map_some]
          simp [hcut]
        · rw [if_neg hg]
          exact Option.map_congr fun q _ => (scrappedIn_skip fun e => hg e.1.symm).symm
      · obtain ⟨n, hn⟩ := hresumed g
        rw [hjob] at hn
        refine ⟨n, hn.trans ?_⟩
        split
        · rw [Option.map_map]
          rfl
        · rfl
      · obtain ⟨hx, hxs⟩ := List.forall_mem_cons.1 hg
        rw [hothers g fun y hy q hq => by
          obtain ⟨o, ho, hjob⟩ := hown hq
          exact hjob ▸ hxs y hy o ho, hjob, if_neg (hx p hp)]
      · obtain ⟨hx, hxs⟩ := List.forall_mem_cons.1 hall
        have hself := hjob h
        rw [if_pos (hx p hp)] at hself
        by_cases hmore : ∃ y ∈ xs, ∃ q, (s.putCut x .scrapped).part? y = some q ∧ q.cut = .uncut
        · rw [hresume h (fun y hy q hq => by
            obtain ⟨o, ho, hjob⟩ := hown hq
            exact hjob ▸ hxs y hy o ho) hmore, hself, Option.map_map]
          rfl
        · rw [scrapUncut_idle fun y hy q hq hqc => hmore ⟨y, hy, q, hq, hqc⟩, hself]
    · have hno : ∀ p, s.part? x = some p → p.cut ≠ .uncut := fun p hp hc => hcut ⟨p, hp, hc⟩
      rw [scrapUncut_cons_skip hno]
      obtain ⟨hpart, hresumed, hothers, hresume⟩ := ih s
      refine ⟨fun g => (hpart g).trans (Option.map_congr fun q hq => (scrappedIn_skip ?_).symm), hresumed,
        fun g hg => hothers g (List.forall_mem_cons.1 hg).2,
          fun h hall hex => hresume h (List.forall_mem_cons.1 hall).2 ?_⟩
      · rintro ⟨rfl, hc⟩
        exact hno q hq hc
      · obtain ⟨y, hy, q, hq, hqc⟩ := hex
        rcases List.mem_cons.1 hy with rfl | hy
        · exact (hno q hq hqc).elim
        · exact ⟨y, hy, q, hq, hqc⟩

/-- Scrapping parts touches the parts and the jobs alone. -/
theorem scrapUncut_eq (parts : List Handle) : ∀ s : State,
    ∃ ps js, s.scrapUncut parts = { s with parts := ps, jobs := js } := by
  induction parts with
  | nil => exact fun s => ⟨s.parts, s.jobs, rfl⟩
  | cons x xs ih =>
    intro s
    by_cases hcut : ∃ p, s.part? x = some p ∧ p.cut = .uncut
    · obtain ⟨p, hp, hcut⟩ := hcut
      obtain ⟨ps, js, hrest⟩ := ih (s.putCut x .scrapped)
      refine ⟨ps, js, (scrapUncut_cons_cut hp hcut).trans (hrest.trans ?_)⟩
      unfold State.putCut
      rw [hp]
      rfl
    · rw [scrapUncut_cons_skip fun p hp hc => hcut ⟨p, hp, hc⟩]
      exact ih s

/-- With no part UNCUT, the resume point is the end of the list. -/
theorem ScrappedAll.resumePoint (h : ScrappedAll parts s t) : resumePoint t parts = parts.length := by
  refine List.findIdx_eq_length_of_false fun g hg => ?_
  rw [h.part g]
  rcases s.part? g with _ | p
  · rfl
  · rcases hp : p.cut <;> simp [hp, hg]

/-! ## The window emptied -/

/-- Parts of a list become FAILED, and UNMARKED_CUT is raised for one that is CUT. -/
structure Failed (parts : List Handle) (s t : State) : Prop where
  part : ∀ g, t.part? g = (s.part? g).map fun p => { p with mark := if g ∈ parts then .failed else p.mark }
  flags : t.flags = s.flags |||
    if parts.any (fun g => (s.part? g).any fun p => p.cut == .cut) then Alarm.unmarkedCut.bit else 0#12

theorem failIssued_failed : Failed [x] s (s.failIssued x) := by
  unfold State.failIssued
  rcases hp : s.part? x with _ | p
  · refine ⟨fun g => ?_, by simp [hp]⟩
    by_cases hg : g = x
    · rw [hg, hp]
      rfl
    · simp [hg]
  · refine ⟨fun g => ?_, ?_⟩
    · have hraise : ((s.modifyPart x fun p => { p with mark := .failed }).raiseIf
        (p.cut == .cut) .unmarkedCut).part? g =
          (s.modifyPart x fun p => { p with mark := .failed }).part? g := by simp [State.part?]
      dsimp only
      rw [hraise, part?_modifyPart]
      by_cases hg : x = g
      · simp [hg]
      · simp [hg, Ne.symm hg]
    · dsimp only
      rw [Poll.raiseIf_flags_eq]
      simp [hp]

theorem or_raised (m : BitVec 12) (a b : Bool) :
    ((if a then m else 0#12) ||| if b then m else 0#12) = if a || b then m else 0#12 := by
  rcases a <;> rcases b <;> simp

theorem failed_all (parts : List Handle) : ∀ s : State, Failed parts s (parts.foldl State.failIssued s) := by
  induction parts with
  | nil => exact fun s => ⟨fun g => by simp, by simp⟩
  | cons x xs ih =>
    intro s
    obtain ⟨hone, hraised⟩ := failIssued_failed (s := s) (x := x)
    obtain ⟨hrest, hflags⟩ := ih (s.failIssued x)
    refine ⟨fun g => ?_, ?_⟩
    · rw [List.foldl_cons, hrest, hone, Option.map_map]
      refine Option.map_congr fun p _ => ?_
      by_cases hx : g = x <;> by_cases hxs : g ∈ xs <;> simp [hx, hxs]
    · have hsame : xs.any (fun g => ((s.failIssued x).part? g).any fun p => p.cut == .cut) =
          xs.any fun g => (s.part? g).any fun p => p.cut == .cut := by
        refine congrArg xs.any (funext fun g => ?_)
        rw [hone]
        rcases s.part? g with _ | p <;> rfl
      rw [List.foldl_cons, hflags, hraised, hsame, BitVec.or_assoc, or_raised]
      simp only [List.any_cons, List.any_nil, Bool.or_false]
      rfl

/-- An ACTIVE job's window is emptied. -/
structure Emptied (active : Bool) (tbl : Nat) (s t : State) : Prop where
  part : ∀ g, t.part? g = (s.part? g).map fun p =>
    { p with mark := if active ∧ g ∈ (s.window tbl).parts then .failed else p.mark }
  flags : t.flags = s.flags ||| if active ∧ (s.window tbl).parts.any
    (fun g => (s.part? g).any fun p => p.cut == .cut) then Alarm.unmarkedCut.bit else 0#12
  window : active → t.window tbl = ⟨[], none⟩
  idle : ¬active → t = s
  own : OnlyChanges [.parts, .flags, .windows] s t

theorem emptied (active : Bool) (htbl : tbl ≤ 7) : Emptied active tbl s (if active then s.emptyWindow tbl else s) := by
  rcases active with _ | _
  · exact ⟨fun g => by simp, by simp, nofun, fun _ => rfl, .refl⟩
  · obtain ⟨hpart, hflags⟩ := failed_all (s.window tbl).parts s
    exact ⟨fun g => (hpart g).trans (by simp), hflags.trans (by simp), fun _ => window_putWindow_self htbl _,
      fun h => (h rfl).elim, emptyWindow_frame tbl⟩

/-! ## The verdicts shifted -/

theorem shiftVerdict_tableSeq (htbl : tbl ≤ 7) (v : Verdict) (nest : Nat) : (s.shiftVerdict tbl v nest).tableSeq tbl =
    { s.tableSeq tbl with verdictN := some ⟨v, nest⟩, verdictN1 := (s.tableSeq tbl).verdictN } :=
  Table.getD_modify_self _ _ _ (by omega)

/-! ## The job of a bed -/

theorem bedJob_iff : s.bedJob tbl bd = some (h, j) ↔
    h.idx = bedIndex tbl bd ∧ s.job? h = some j ∧ j.state ≠ .cleared := by
  constructor
  · intro hj
    have hjob := bedJob_job? hj
    unfold State.bedJob at hj
    split at hj
    · cases hj
    · split at hj
      · cases hj
      · split at hj
        · cases hj
        next hne =>
          cases hj
          exact ⟨rfl, hjob, hne⟩
  · rintro ⟨hidx, hjob, hne⟩
    have he := Pool.find_eq_some.1 hjob
    unfold State.bedJob
    rw [← hidx, he]
    exact if_neg hne

/-! ## Promotion -/

/-- A STAGED job stands on the other bed. -/
abbrev Staged (active : Bool) (tbl bd : Nat) (s : State) (oh : Handle) (oj : Job) : Prop :=
  active = true ∧ s.bedJob tbl (1 - bd) = some (oh, oj) ∧ oj.role = some .staged

/-- The STAGED job of the other bed becomes ACTIVE, if the ending one was ACTIVE and there is one. -/
structure PromotedFrom (active : Bool) (tbl bd : Nat) (s t : State) : Prop where
  jobs : ∀ g, (∀ oh oj, Staged active tbl bd s oh oj → g ≠ oh) → t.job? g = s.job? g
  job : ∀ oh oj, Staged active tbl bd s oh oj → t.job? oh = some { oj with role := some .active }
  gantry : ∀ oh oj, Staged active tbl bd s oh oj → (t.tableSeq tbl).gantry = 1 - bd
  stays : (∀ oh oj, ¬Staged active tbl bd s oh oj) → t = s
  verdicts : (t.tableSeq tbl).verdictN = (s.tableSeq tbl).verdictN
    ∧ (t.tableSeq tbl).verdictN1 = (s.tableSeq tbl).verdictN1
  legs : ∀ oh oj, Staged active tbl bd s oh oj → ∀ g, t.leg? g =
    if g ∈ s.batchLegs oj.fetchBatch then (s.leg? g).map Leg.promoted else s.leg? g
  own : OnlyChanges [.jobs, .tables, .legs] s t

theorem promoted_twice (l : Leg) : l.promoted.promoted = l.promoted := by
  unfold Leg.promoted
  split <;> simp_all

theorem promotedFrom_stays (hno : ∀ oh oj, ¬Staged active tbl bd s oh oj) : PromotedFrom active tbl bd s s :=
  ⟨fun _ _ => rfl, fun oh oj h => (hno oh oj h).elim, fun oh oj h => (hno oh oj h).elim, fun _ => rfl, ⟨rfl, rfl⟩,
    fun oh oj h => (hno oh oj h).elim, .refl⟩

theorem promotedFrom (active : Bool) (htbl : tbl ≤ 7) :
    PromotedFrom active tbl bd s (if active then s.promote tbl bd else s) := by
  rcases active with _ | _
  · exact promotedFrom_stays fun _ _ h => nomatch h.1
  by_cases hex : ∃ oh oj, Staged true tbl bd s oh oj
  swap
  · have hidle : s.promote tbl bd = s := by
      unfold State.promote
      rcases hj : s.bedJob tbl (1 - bd) with _ | ⟨oh, oj⟩
      · rfl
      · exact if_neg fun hrole => hex ⟨oh, oj, rfl, hj, hrole⟩
    rw [if_pos rfl, hidle]
    exact promotedFrom_stays fun oh oj h => hex ⟨oh, oj, h⟩
  obtain ⟨oh, oj, -, hj, hrole⟩ := hex
  have hdef : s.promote tbl bd = ((s.modifyJob oh fun j => { j with role := some .active }).modifyTable tbl fun r =>
      { r with gantry := 1 - bd }).overLegs Leg.promoted (s.batchLegs oj.fetchBatch) := by
    unfold State.promote
    rw [hj]
    exact if_pos hrole
  have hown := promote_frame (s := s) tbl bd
  rw [if_pos rfl]
  rw [hdef] at hown ⊢
  have hlegs (g : Handle) := overLegs_leg? (g := g) promoted_twice (s.batchLegs oj.fetchBatch)
    ((s.modifyJob oh fun j => { j with role := some .active }).modifyTable tbl fun r => { r with gantry := 1 - bd })
  have hkept := overLegs_frame (s := (s.modifyJob oh fun j => { j with role := some .active }).modifyTable tbl fun r =>
    { r with gantry := 1 - bd }) Leg.promoted (s.batchLegs oj.fetchBatch)
  generalize ((s.modifyJob oh fun j => { j with role := some .active }).modifyTable tbl fun r =>
    { r with gantry := 1 - bd }).overLegs Leg.promoted (s.batchLegs oj.fetchBatch) = t at *
  have hone {x : Handle} {y : Job} (hst : Staged true tbl bd s x y) : x = oh ∧ y = oj := by
    obtain ⟨-, hxy, -⟩ := hst
    rw [hj] at hxy
    cases hxy
    exact ⟨rfl, rfl⟩
  have hjob (g : Handle) : t.job? g = if oh = g then (s.job? g).map fun j => { j with role := some .active }
      else s.job? g := (job?_of_kept (hkept .jobs (by decide))).trans (modifyJob_job? _)
  have htable : t.tableSeq tbl = { s.tableSeq tbl with gantry := 1 - bd } := by
    unfold State.tableSeq
    rw [hkept .tables (by decide)]
    exact Table.getD_modify_self _ _ _ (by omega)
  refine ⟨fun g hg => ?_, fun x y hst => ?_, fun x y _ => by rw [htable], fun hno => (hno oh oj ⟨rfl, hj, hrole⟩).elim,
    by rw [htable]; exact ⟨rfl, rfl⟩, fun x y hst g => ?_, hown⟩
  · rw [hjob, if_neg (hg oh oj ⟨rfl, hj, hrole⟩).symm]
  · obtain ⟨rfl, rfl⟩ := hone hst
    rw [hjob, if_pos rfl, bedJob_job? hj]
    rfl
  · obtain ⟨rfl, rfl⟩ := hone hst
    exact hlegs g

end Sys2Proof.Proofs.Promotes
end

section
/-! PROOFS. The end of a job that pierced (R86 to R92): the derivation (R25, R36, R37), then what its table keeps. -/

namespace Sys2Proof.Proofs.JobEnds

open Sys2Proof Sys2Proof.Machine
open Sys2Proof.Proofs.Pallets (askerOf)
open Sys2Proof.Proofs.Requests Sys2Proof.Proofs.Makes Sys2Proof.Proofs.Promotes
open Sys2Proof.Proofs.Places (joinPlace_joined joinPlace_queue)
open Sys2Proof.Proofs.Stack (retirePlate_reads)
open Sys2Proof.Proofs.Register (plateEntryFree_iff)
open Sys2Proof.Proofs.Tables (firstIdx_isSome)
open Sys2Proof.Proofs.Power (noRoom_iff torch_iff live_iff isCut_iff)

variable {s t u : State} {h g hb : Handle} {j : Job} {r : PlateRec} {tbl bd : Nat} {left : List Panel} {sum : Nat}
  {remnant : Option Handle} {v : Verdict}

/-! ## The derivation service (R25) -/

/-- The parent as it is retired. -/
abbrev consumedRecord (r : PlateRec) : PlateRec :=
  { r with
    st := { r.st with disposition := .retired .consumed, location := .nowhere }
    job := none, leg := none, mass := none }

/-- The remnant's record. -/
abbrev remnantRecord (s : State) (plate : Handle) (r : PlateRec) (tbl bd : Nat) (left : List Panel) (sum : Nat) :
    PlateRec :=
  { ident := { r.ident with origin := .derived, parent := some plate, depth := r.ident.depth + 1, seq := s.seqCounter }
    st :=
      { disposition := .stock, location := .bed tbl bd, panels := some left, area := some sum
        held := r.st.held, massDoubt := r.st.massDoubt, doubtful := false }
    job := none, leg := none, mass := some (massOf sum r.ident.thickness (s.density r.ident.grade)) }

/-- The images of a derivation. -/
abbrev derivedImages (remnant : Option Handle) (plate : Handle) : List ImageId :=
  (remnant.toList.flatMap fun g => [.genWord g.idx, .identity g.idx, .state g.idx]) ++ [.state plate.idx]

theorem consume_reads (hr : s.plate? h = some r) (hloc : r.st.location = .bed tbl bd) (htbl : tbl ≤ 7) (hbd : bd ≤ 1) :
    (s.consume h tbl bd).plate? h = some (consumedRecord r)
      ∧ (∀ g, g ≠ h → (s.consume h tbl bd).plate? g = s.plate? g)
      ∧ (s.consume h tbl bd).bed tbl bd = ⟨(s.bed tbl bd).plates.erase h, true⟩
      ∧ (s.consume h tbl bd).queue = joining s.queue [.state h.idx] := by
  obtain ⟨hown, hothers, -, -, hbed, -, -, hqueue⟩ := retirePlate_reads (why := .consumed) hr
    (fun _ _ hl => by rw [hloc] at hl; cases hl) (fun _ _ hl => by rw [hloc] at hl; cases hl)
    (fun _ _ hl => by rw [hloc] at hl; cases hl; exact hbd)
  refine ⟨hown, hothers, ?_, hqueue⟩
  refine (Table.getD_modify_self _ _ _ (by unfold bedIndex; omega)).trans ?_
  have hplates := hbed tbl bd hloc
  unfold State.bed at hplates ⊢
  rw [hplates]

theorem createPlate_made {ident : PlateId} {st : PlateSt} {mass : Nat} (hcan : s.canCreatePlate = true)
    (hstock : st.disposition = .stock) :
    ∃ u g, s.createPlate ident st mass = some (u, g)
      ∧ Made plateEntryFree [⟨{ ident with seq := s.seqCounter }, st, none, none, some mass⟩] s.plates u.plates [g]
      ∧ u.seqCounter = s.seqCounter + 1
      ∧ u.queue = joining s.queue [.genWord g.idx, .identity g.idx, .state g.idx] := by
  unfold State.canCreatePlate at hcan
  rw [Bool.and_eq_true, firstIdx_isSome, decide_eq_true_iff] at hcan
  obtain ⟨hfree, hcounter⟩ := hcan
  have hmade := makeAll_made (ok := plateEntryFree)
    [⟨{ ident with seq := s.seqCounter }, st, none, none, some mass⟩]
    (fun r hr g => by rw [List.mem_singleton.1 hr]; simp [plateEntryFree, hstock]) s.plates (count_pos.2 hfree)
  obtain ⟨i, e, -, -, -, hcreate⟩ := create_of_count
    (⟨{ ident with seq := s.seqCounter }, st, none, none, some mass⟩ : PlateRec) (count_pos.2 hfree)
  unfold State.createPlate
  rw [if_pos hcounter]
  rw [makeAll] at hmade
  rw [hcreate] at hmade ⊢
  exact ⟨_, _, rfl, by rw [enqueueAll_frame _ .plates (by decide)]; exact hmade,
    by rw [enqueueAll_frame _ .seqCounter (by decide)], enqueueAll_queue _⟩

theorem createRemnant_made (hleft : left = derivedPanels (r.st.panels.getD []) j.panel
      (envExtent j.orientation j.envLength j.envWidth) (s.grade r.ident.grade))
    (hsum : sum = (left.map fun p => p.length * p.width).sum) (htbl : tbl ≤ 7) (hbd : bd ≤ 1)
    (hyes : ¬(left = [] ∨ 4 ≤ r.ident.depth ∨ s.canCreatePlate = false)) :
    ∃ u g, s.createRemnant j r tbl bd = some (u, g) ∧ TakesLowest s.plates PlateFree [g]
      ∧ u.plate? g = some (remnantRecord s j.plate r tbl bd left sum)
      ∧ (∀ x q, s.plate? x = some q → q.st.disposition = .stock → x ≠ g ∧ u.plate? x = some q)
      ∧ u.seqCounter = s.seqCounter + 1
      ∧ (u.bed tbl bd).plates = (s.bed tbl bd).plates ++ [g]
      ∧ u.queue = joining s.queue [.genWord g.idx, .identity g.idx, .state g.idx] := by
  obtain ⟨hsome, hdepth, hcan⟩ : left ≠ [] ∧ r.ident.depth < 4 ∧ s.canCreatePlate = true := by
    simpa only [not_or, Nat.not_le, Bool.not_eq_false] using hyes
  have hpanels : s.leftPanels j r = left := hleft.symm
  obtain rfl : panelsArea left = sum := hsum.symm
  obtain ⟨m, g, hcreate, hmade, hcounter, hqueue⟩ := createPlate_made (ident := r.ident.remnant j.plate)
    (st := r.remnantState left tbl bd) (mass := s.massFor r.ident (panelsArea left)) hcan rfl
  have hdef : s.createRemnant j r tbl bd = some (m.joinPlace g (.bed tbl bd), g) := by
    unfold State.createRemnant
    dsimp only
    rw [hpanels, if_neg (by simp [hsome, hcan, Nat.not_le.2 (show r.ident.depth < Config.maxDepth from hdepth)]),
      hcreate]
  have hkeeps {x : Handle} {q : PlateRec} (hq : s.plate? x = some q) (hstock : q.st.disposition = .stock) :
      x ≠ g ∧ m.plate? x = some q := by
    have hlive : plateEntryFree ⟨x.gen, some q⟩ = false := by simp [plateEntryFree, hstock]
    exact ⟨fun e => hmade.apart hq hlive g List.mem_cons_self (by rw [e]), hmade.keeps hq hlive⟩
  have hjoined := joinPlace_joined (s := m) (h := g) (p := .bed tbl bd) ⟨htbl, hbd⟩
  have hbeds : (m.bed tbl bd).plates = (s.bed tbl bd).plates := by
    unfold State.bed
    rw [createPlate_frame hcreate .beds (by decide)]
  refine ⟨_, g, hdef, takesLowest_congr plateEntryFree_iff hmade.lowest, ?_, fun x q hq hstock => ?_, hcounter, ?_,
    (joinPlace_queue _).trans hqueue⟩
  · exact hjoined.plate _ (hmade.records 0 g _ rfl rfl)
  · obtain ⟨hne, hkept⟩ := hkeeps hq hstock
    exact ⟨hne, (hjoined.plates x hne).trans hkept⟩
  · rw [hjoined.bed tbl bd rfl, hbeds]

/-- What the derivation service leaves. -/
structure DerivedFrom (s t : State) (j : Job) (r : PlateRec) (tbl bd : Nat) (left : List Panel) (sum : Nat)
    (remnant : Option Handle) : Prop where
  created : remnant = none ↔ left = [] ∨ 4 ≤ r.ident.depth ∨ s.canCreatePlate = false
  record : ∀ g, remnant = some g → t.seqCounter = s.seqCounter + 1
    ∧ t.plate? g = some (remnantRecord s j.plate r tbl bd left sum)
  counter : remnant = none → t.seqCounter = s.seqCounter
  lowest : TakesLowest s.plates PlateFree remnant.toList
  parent : t.plate? j.plate = some (consumedRecord r)
  others : ∀ g q, g ≠ j.plate → s.plate? g = some q → q.st.disposition = .stock → t.plate? g = some q
  bed : t.bed tbl bd = ⟨((s.bed tbl bd).plates ++ remnant.toList).erase j.plate, true⟩
  queue : t.queue = joining s.queue (derivedImages remnant j.plate)

/-- The areas of the parts of a list that are CUT. -/
abbrev cutAreas (s : State) (parts : List Handle) : Nat :=
  (parts.map fun g => (s.part? g).elim 0 fun p => if p.cut = .cut then p.area else 0).sum

theorem cutArea_eq (parts : List Handle) : s.cutArea parts = cutAreas s parts := by
  unfold State.cutArea cutAreas
  refine congrArg List.sum (congrArg (List.map · parts) (funext fun g => ?_))
  rcases s.part? g with _ | p <;> rfl

/-- The mass of the skeleton that a derivation leaves (R37). -/
abbrev skeletonOf (s : State) (j : Job) (r : PlateRec) (remnant : Option Handle) (sum : Nat) : Nat :=
  massOf ((r.st.area.getD 0 : Int) - (if remnant = none then 0 else sum) - cutAreas s j.parts).toNat
    r.ident.thickness (s.density r.ident.grade)

theorem skeleton_none : s.massFor r.ident (skeletonArea (r.st.area.getD 0) 0 (s.cutArea j.parts)) =
    skeletonOf s j r none sum := by
  rw [cutArea_eq, skeletonOf, if_pos rfl]
  rfl

theorem skeleton_some : s.massFor r.ident (skeletonArea (r.st.area.getD 0) sum (s.cutArea j.parts)) =
    skeletonOf s j r (some g) sum := by
  rw [cutArea_eq, skeletonOf, if_neg (Option.some_ne_none g)]
  rfl

theorem derive_derived (hr : s.plate? j.plate = some r) (hstock : r.st.disposition = .stock)
    (hloc : r.st.location = .bed tbl bd) (htbl : tbl ≤ 7) (hbd : bd ≤ 1)
    (hleft : left = derivedPanels (r.st.panels.getD []) j.panel
      (envExtent j.orientation j.envLength j.envWidth) (s.grade r.ident.grade))
    (hsum : sum = (left.map fun p => p.length * p.width).sum) :
    ∃ t remnant, s.derive j tbl bd = ⟨t, remnant, derivedImages remnant j.plate, skeletonOf s j r remnant sum,
        r.ident.thickness⟩
      ∧ DerivedFrom s t j r tbl bd left sum remnant := by
  by_cases hno : left = [] ∨ 4 ≤ r.ident.depth ∨ s.canCreatePlate = false
  · have hnone : s.createRemnant j r tbl bd = none := by
      have hpanels : s.leftPanels j r = left := hleft.symm
      unfold State.createRemnant
      dsimp only
      rw [hpanels]
      refine if_pos ?_
      rcases hno with hno | hno | hno <;> simp [hno, Config.maxDepth]
    obtain ⟨hparent, hothers, hbed, hqueue⟩ := consume_reads hr hloc htbl hbd
    refine ⟨s.consume j.plate tbl bd, none, ?_, iff_of_true rfl hno, nofun,
      fun _ => consume_frame j.plate tbl bd .seqCounter (by decide), ⟨.nil, nofun, nofun⟩, hparent,
      fun g q hg hq _ => (hothers g hg).trans hq, by rw [hbed, Option.toList_none, List.append_nil], hqueue⟩
    unfold State.derive
    simp only [hr, hnone, skeleton_none (sum := sum)]
    rfl
  · obtain ⟨m, g, hcreate, hlowest, hrecord, hkept, hcounter, hplates, hmqueue⟩ :=
      createRemnant_made hleft hsum htbl hbd hno
    obtain ⟨hne, hr'⟩ := hkept j.plate r hr hstock
    obtain ⟨hparent, hothers, hbed, hqueue⟩ := consume_reads hr' hloc htbl hbd
    refine ⟨m.consume j.plate tbl bd, some g, ?_, iff_of_false nofun hno, fun x hx => ?_, nofun, hlowest, hparent,
      fun x q hx hq hs => ?_, ?_, ?_⟩
    · unfold State.derive
      have hpanels : s.leftPanels j r = left := hleft.symm
      have harea : panelsArea left = sum := hsum.symm
      simp only [hr, hcreate, hpanels, harea, skeleton_some (g := g)]
      rfl
    · cases hx
      exact ⟨(consume_frame j.plate tbl bd .seqCounter (by decide)).trans hcounter, (hothers g hne.symm).trans hrecord⟩
    · exact (hothers x hx).trans (hkept x q hq hs).2
    · rw [hbed, hplates]
      rfl
    · rw [hqueue, hmqueue]
      rfl

/-! ## The end of a job, step by step (R87 to R90) -/

section Steps

variable {scrapped : List Handle} {a w x : State} {hs : List Handle} {active : Bool} {b : Batch}

/-- A job that ends. -/
abbrev endedJob (v : Verdict) (hb : Option Handle) (j : Job) : Job :=
  { j with state := .ended, verdict := some v, role := none, clearBatch := hb }

/-- The legs of the clear batch. -/
abbrev clearing (tbl bd : Nat) (remnant : Option Handle) (mass thickness : Nat) : List Leg :=
  (remnant.toList.map fun g => Leg.fresh (tableBay tbl) .clearRemnant (some g) .choose 2)
    ++ [{ Leg.fresh (tableBay tbl) .clearSkeleton none .scrapBin 2 with
        sourceBed := some (tbl, bd), skeletonMass := some mass, skeletonThickness := some thickness }]

/-- The states that the end of a job runs through: `a` with its parts scrapped, `u` after the derivation, `w` with the
clear batch committed, `x` with the window emptied. -/
structure EndSteps (s t : State) (h : Handle) (j : Job) (r : PlateRec) (v : Verdict) (tbl bd : Nat)
    (left : List Panel) (sum : Nat) (remnant : Option Handle) (hb : Handle) (hs : List Handle) (a u w x : State) :
    Prop where
  scrapped : ScrappedAll (if v = .pass then [] else j.parts) s a
  scrappedOwn : OnlyChanges [.parts, .jobs] s a
  derived : DerivedFrom s u j r tbl bd left sum remnant
  derivedOwn : OnlyChanges deriveFields a u
  opened : Opened (u.shiftVerdict tbl v j.nest) w ⟨.job h, hs, .committed, some s.commitCounter⟩
    (clearing tbl bd remnant (skeletonOf s j r remnant sum) r.ident.thickness) hb
  openedOwn : OnlyChanges [.legs, .batches, .commitCounter] (u.shiftVerdict tbl v j.nest) w
  emptied : Emptied (j.role == some .active) tbl w x
  promoted : PromotedFrom (j.role == some .active) tbl bd (x.modifyJob h (endedJob v (some hb))) t

theorem clearLegs_eq {d : Derived} : clearLegs tbl bd d = clearing tbl bd d.remnant d.mass d.thickness := by
  unfold clearLegs clearing
  rcases d.remnant with _ | g <;> rfl

theorem clearing_length (mass thickness : Nat) :
    (clearing tbl bd remnant mass thickness).length = remnant.toList.length + 1 := by
  rw [List.length_append, List.length_map, List.length_singleton]

theorem clearing_fresh {l : Leg} {mass thickness : Nat} (hl : l ∈ clearing tbl bd remnant mass thickness) :
    l.state = .queued ∧ l.priority = 2 := by
  rcases List.mem_append.1 hl with hl | hl
  · obtain ⟨g, -, rfl⟩ := List.mem_map.1 hl
    exact ⟨rfl, rfl⟩
  · rw [List.mem_singleton.1 hl]
    exact ⟨rfl, rfl⟩

/-- The areas of the CUT parts are the same after the UNCUT ones are scrapped. -/
theorem cutAreas_scrapped (hscrap : ScrappedAll scrapped s a) (parts : List Handle) :
    cutAreas a parts = cutAreas s parts := by
  unfold cutAreas
  refine congrArg List.sum (congrArg (List.map · parts) (funext fun g => ?_))
  rw [hscrap.part g]
  rcases s.part? g with _ | p
  · rfl
  · rcases hp : p.cut <;> by_cases hg : g ∈ scrapped <;> simp [hp, hg]

theorem jobEnd_steps (htbl : tbl = jobTable h) (hbd : bd = jobBed h) (hle : tbl ≤ 7)
    (hfree : 2 ≤ s.freeLegs) (hbatch : s.hasFreeBatch = true)
    (hr : s.plate? j.plate = some r) (hstock : r.st.disposition = .stock) (hloc : r.st.location = .bed tbl bd)
    (hleft : left = derivedPanels (r.st.panels.getD []) j.panel
      (envExtent j.orientation j.envLength j.envWidth) (s.grade r.ident.grade))
    (hsum : sum = (left.map fun p => p.length * p.width).sum) :
    ∃ t remnant hb hs a u w x, s.jobEnd h j v.passes v =
        ⟨t, remnant, derivedImages remnant j.plate, skeletonOf s j r remnant sum, r.ident.thickness⟩
      ∧ EndSteps s t h j r v tbl bd left sum remnant hb hs a u w x := by
  have hscrapped := scrapUncut_scrapped (if v = .pass then [] else j.parts) s
  have hown := scrapUncut_frame (s := s) (if v = .pass then [] else j.parts)
  have hdef : (if v.passes then s else s.scrapUncut j.parts) = s.scrapUncut (if v = .pass then [] else j.parts) := by
    rcases v <;> rfl
  obtain ⟨ps, js, heq⟩ := scrapUncut_eq (if v = .pass then [] else j.parts) s
  unfold State.jobEnd
  rw [hdef, ← htbl, ← hbd]
  rw [heq] at hscrapped hown ⊢
  obtain ⟨u, remnant, hderive, hderived⟩ := derive_derived (s := { s with parts := ps, jobs := js }) hr hstock hloc hle
    (by rw [hbd]; unfold jobBed; omega) hleft hsum
  have hderivedOwn := derive_frame (s := { s with parts := ps, jobs := js }) j tbl bd
  have hmass : skeletonOf { s with parts := ps, jobs := js } j r remnant sum = skeletonOf s j r remnant sum := by
    unfold skeletonOf
    rw [cutAreas_scrapped hscrapped]
    rfl
  rw [hmass] at hderive
  dsimp only
  rw [hderive] at hderivedOwn ⊢
  rw [clearLegs_eq]
  have hshift : OnlyChanges [.tables] u (u.shiftVerdict tbl v j.nest) := shiftVerdict_frame tbl v j.nest
  have hlate : OnlyChanges (.tables :: .parts :: .jobs :: deriveFields) s (u.shiftVerdict tbl v j.nest) :=
    ((hown.mono (by decide)).trans (hderivedOwn.mono (by decide))).trans (hshift.mono (by decide))
  have hfreeLegs : (u.shiftVerdict tbl v j.nest).freeLegs = s.freeLegs := by
    unfold State.freeLegs State.legEntryFree State.batchUnsettled State.batch?
    rw [hlate .legs (by decide), hlate .batches (by decide)]
  have hfreeBatch : (u.shiftVerdict tbl v j.nest).hasFreeBatch = s.hasFreeBatch := by
    unfold State.hasFreeBatch
    rw [hlate .batches (by decide)]
  have hcount : remnant.toList.length ≤ 1 := by rcases remnant <;> simp
  obtain ⟨w, hb, hs, hcommit, hopened, -, hopenedOwn⟩ := commitNew_opened (s := u.shiftVerdict tbl v j.nest)
    (legs := clearing tbl bd remnant (skeletonOf s j r remnant sum) r.ident.thickness) h
    (by rw [hfreeBatch]; exact hbatch) (by rw [clearing_length, hfreeLegs]; omega)
    fun l hl => by rw [(clearing_fresh hl).1]; rfl
  rw [hlate .commitCounter (by decide)] at hopened
  dsimp only
  rw [hcommit]
  exact ⟨_, remnant, hb, hs, _, u, w, _, rfl, hscrapped, hown, ⟨hderived.created, hderived.record, hderived.counter,
    hderived.lowest, hderived.parent, hderived.others, hderived.bed, hderived.queue⟩, hderivedOwn, hopened, hopenedOwn,
    emptied _ hle, promotedFrom _ hle⟩

section Reads

variable (e : EndSteps s t h j r v tbl bd left sum remnant hb hs a u w x)

include e

theorem EndSteps.late : OnlyChanges [.tables, .legs, .batches, .commitCounter, .parts, .flags, .windows, .jobs] u t :=
  ((((shiftVerdict_frame tbl v j.nest).mono (by decide)).trans (e.openedOwn.mono (by decide))).trans
    ((e.emptied.own.mono (by decide)).trans ((modifyJob_frame h _).mono (by decide)))).trans
      (e.promoted.own.mono (by decide))

end Reads

/-- What a job end leaves of the plates and the bed. -/
abbrev PlatesEnd (j : Job) (r : PlateRec) (tbl bd : Nat) (left : List Panel) (sum : Nat) (remnant : Option Handle)
    (s t : State) : Prop :=
  (remnant = none ↔ left = [] ∨ 4 ≤ r.ident.depth ∨ s.canCreatePlate = false)
    ∧ (∀ g, remnant = some g → t.seqCounter = s.seqCounter + 1
      ∧ t.plate? g = some (remnantRecord s j.plate r tbl bd left sum))
    ∧ (remnant = none → t.seqCounter = s.seqCounter)
    ∧ TakesLowest s.plates PlateFree remnant.toList
    ∧ t.plate? j.plate = some (consumedRecord r)
    ∧ (∀ g q, g ≠ j.plate → s.plate? g = some q → q.st.disposition = .stock → t.plate? g = some q)
    ∧ (t.bed tbl bd).skeleton = true
    ∧ (t.bed tbl bd).plates = ((s.bed tbl bd).plates ++ remnant.toList).erase j.plate
    ∧ t.queue = joining s.queue (derivedImages remnant j.plate)

theorem EndSteps.plates (e : EndSteps s t h j r v tbl bd left sum remnant hb hs a u w x) :
    PlatesEnd j r tbl bd left sum remnant s t := by
  have hlate := e.late
  obtain ⟨hcreated, hrecord, hcounter, hlowest, hparent, hothers, hbed, hqueue⟩ := e.derived
  have hplate (g : Handle) : t.plate? g = u.plate? g := congrArg (·.find g) (hlate .plates (by decide))
  have hseq : t.seqCounter = u.seqCounter := hlate .seqCounter (by decide)
  have hbed' : t.bed tbl bd = ⟨((s.bed tbl bd).plates ++ remnant.toList).erase j.plate, true⟩ :=
    (congrArg (·.getD (bedIndex tbl bd) ⟨[], false⟩) (hlate .beds (by decide))).trans hbed
  exact ⟨hcreated, fun g hg => by rw [hseq, hplate]; exact hrecord g hg, fun hn => hseq.trans (hcounter hn), hlowest,
    (hplate _).trans hparent, fun g q hg hq hs => (hplate g).trans (hothers g q hg hq hs), by rw [hbed'], by rw [hbed'],
    (hlate .queue (by decide)).trans hqueue⟩

/-- The jobs between the scrapping of the parts and the promotion: resume points may differ. -/
theorem EndSteps.job? (e : EndSteps s t h j r v tbl bd left sum remnant hb hs a u w x) (g : Handle) :
    (x.modifyJob h (endedJob v (some hb))).job? g = if h = g then (a.job? g).map (endedJob v (some hb))
      else a.job? g := by
  have hx : x.job? g = a.job? g := job?_of_kept ((e.emptied.own .jobs (by decide)).trans
    ((e.openedOwn .jobs (by decide)).trans ((shiftVerdict_frame tbl v j.nest .jobs (by decide)).trans
      (e.derivedOwn .jobs (by decide)))))
  rw [modifyJob_job?, hx]

/-- The STAGED job of the other bed, before and after the parts are scrapped. -/
theorem EndSteps.staged_from (e : EndSteps s t h j r v tbl bd left sum remnant hb hs a u w x)
    (hidx : h.idx = bedIndex tbl bd) (hbd : bd ≤ 1) {oh : Handle} {oj : Job} (hst : Staged active tbl bd s oh oj) :
    ∃ n, Staged active tbl bd (x.modifyJob h (endedJob v (some hb))) oh { oj with resume := n }
      ∧ ((∀ g ∈ j.parts, ∀ p, s.part? g = some p → p.job ≠ oh) → n = oj.resume) := by
  obtain ⟨hactive, hbed, hrole⟩ := hst
  obtain ⟨hoh, hoj, hlive⟩ := bedJob_iff.1 hbed
  have hne : h ≠ oh := fun heq => by
    rw [← heq, hidx] at hoh
    unfold bedIndex at hoh
    omega
  obtain ⟨n, hn⟩ := e.scrapped.job oh
  rw [hoj] at hn
  refine ⟨n, ⟨hactive, bedJob_iff.2 ⟨hoh, ?_, hlive⟩, hrole⟩, fun hparts => ?_⟩
  · rw [e.job?, if_neg hne]
    exact hn
  · have hsame := e.scrapped.others oh fun y hy p hp => by
      split at hy
      · exact (List.not_mem_nil hy).elim
      · exact hparts y hy p hp
    rw [hn, hoj] at hsame
    exact congrArg Job.resume (Option.some.inj hsame)

theorem EndSteps.staged_to (e : EndSteps s t h j r v tbl bd left sum remnant hb hs a u w x)
    (hidx : h.idx = bedIndex tbl bd) (hbd : bd ≤ 1) {oh : Handle} {oj : Job}
    (hst : Staged active tbl bd (x.modifyJob h (endedJob v (some hb))) oh oj) :
    ∃ o n, Staged active tbl bd s oh o ∧ oj = { o with resume := n } := by
  obtain ⟨hactive, hbed, hrole⟩ := hst
  obtain ⟨hoh, hoj, hlive⟩ := bedJob_iff.1 hbed
  have hne : h ≠ oh := fun heq => by
    rw [← heq, hidx] at hoh
    unfold bedIndex at hoh
    omega
  rw [e.job?, if_neg hne] at hoj
  obtain ⟨n, hn⟩ := e.scrapped.job oh
  rw [hoj] at hn
  obtain ⟨o, ho, heq⟩ := Option.map_eq_some_iff.1 hn.symm
  exact ⟨o, n, ⟨hactive, bedJob_iff.2 ⟨hoh, ho, by rw [← heq] at hlive; exact hlive⟩,
    by rw [← heq] at hrole; exact hrole⟩,
    heq.symm⟩

/-- What a job end leaves of the jobs and the table. -/
abbrev JobsEnd (h : Handle) (j : Job) (v : Verdict) (tbl bd : Nat) (hb : Handle) (resume : Nat) (s t : State) : Prop :=
  (t.tableSeq tbl).verdictN = some ⟨v, j.nest⟩ ∧ (t.tableSeq tbl).verdictN1 = (s.tableSeq tbl).verdictN
    ∧ t.job? h = some { j with
        state := .ended, verdict := some v, role := none, clearBatch := some hb, resume := resume }
    ∧ (v = .pass → resume = j.resume)
    ∧ (v ≠ .pass → (∀ g ∈ j.parts, ∀ p, s.part? g = some p → p.job = h) →
        (∃ g ∈ j.parts, ∃ p, s.part? g = some p ∧ p.cut = .uncut) → resume = j.parts.length)
    ∧ (∀ g, g ≠ h → (∀ oh oj, j.role = some .active → s.bedJob tbl (1 - bd) = some (oh, oj) →
          oj.role = some .staged → g ≠ oh) →
        (∀ x ∈ j.parts, ∀ p, s.part? x = some p → p.job ≠ g) → t.job? g = s.job? g)
    ∧ (∀ oh oj, j.role = some .active → s.bedJob tbl (1 - bd) = some (oh, oj) → oj.role = some .staged →
        (t.tableSeq tbl).gantry = 1 - bd
          ∧ ∃ n, t.job? oh = some { oj with role := some .active, resume := n }
            ∧ ((∀ g ∈ j.parts, ∀ p, s.part? g = some p → p.job ≠ oh) → n = oj.resume))
    ∧ ((∀ oh oj, j.role = some .active → s.bedJob tbl (1 - bd) = some (oh, oj) → oj.role ≠ some .staged) →
        (t.tableSeq tbl).gantry = (s.tableSeq tbl).gantry)

theorem active_iff : (j.role == some .active) = true ↔ j.role = some .active := beq_iff_eq

theorem EndSteps.jobs (e : EndSteps s t h j r v tbl bd left sum remnant hb hs a u w x) (hj : s.job? h = some j)
    (hidx : h.idx = bedIndex tbl bd) (hbd : bd ≤ 1) (htbl : tbl ≤ 7) :
      ∃ resume, JobsEnd h j v tbl bd hb resume s t := by
  obtain ⟨n, hn⟩ := e.scrapped.job h
  rw [hj] at hn
  have hended : (x.modifyJob h (endedJob v (some hb))).job? h = some { j with
      state := .ended, verdict := some v, role := none, clearBatch := some hb, resume := n } := by
    rw [e.job?, if_pos rfl, hn]
    rfl
  have htables : (x.modifyJob h (endedJob v (some hb))).tableSeq tbl =
      { s.tableSeq tbl with verdictN := some ⟨v, j.nest⟩, verdictN1 := (s.tableSeq tbl).verdictN } := by
    have hu : u.tables = s.tables := (e.derivedOwn .tables (by decide)).trans (e.scrappedOwn .tables (by decide))
    have hx : x.tables = (u.shiftVerdict tbl v j.nest).tables :=
      (e.emptied.own .tables (by decide)).trans (e.openedOwn .tables (by decide))
    refine (congrArg (·.getD tbl ⟨0, none, none⟩) hx).trans ((shiftVerdict_tableSeq htbl v j.nest).trans ?_)
    unfold State.tableSeq
    rw [hu]
  obtain ⟨hjobs, hjob, hgantry, hstays, ⟨hnew, hold⟩, -, -⟩ := e.promoted
  refine ⟨n, by rw [hnew, htables], by rw [hold, htables], (hjobs h fun oh oj hst heq => ?_).trans hended,
    fun hpass => ?_, fun hfail hall hex => ?_, fun g hg hother hparts => ?_, fun oh oj hrole hbed hstaged => ?_,
    fun hnone => ?_⟩
  · obtain ⟨hoh, -, -⟩ := bedJob_iff.1 hst.2.1
    rw [← heq, hidx] at hoh
    unfold bedIndex at hoh
    omega
  · have hsame := e.scrapped.others h fun y hy => by
      rw [if_pos hpass] at hy
      exact (List.not_mem_nil hy).elim
    rw [hn, hj] at hsame
    exact congrArg Job.resume (Option.some.inj hsame)
  · have hscrapped := e.scrapped
    rw [if_neg hfail] at hscrapped
    have hlast := hscrapped.resume h hall hex
    rw [hn, hj] at hlast
    exact (congrArg Job.resume (Option.some.inj hlast)).trans hscrapped.resumePoint
  · have hkept : t.job? g = (x.modifyJob h (endedJob v (some hb))).job? g := hjobs g fun oh oj hst => by
      obtain ⟨o, m, ⟨hactive, hbed, hrole⟩, -⟩ := e.staged_to hidx hbd hst
      exact hother oh o (active_iff.1 hactive) hbed hrole
    have hsame : a.job? g = s.job? g := e.scrapped.others g fun y hy p hp => by
      split at hy
      · exact (List.not_mem_nil hy).elim
      · exact hparts y hy p hp
    rw [hkept, e.job?, if_neg hg.symm, hsame]
  · obtain ⟨m, hst, hresume⟩ := e.staged_from (active := j.role == some .active) hidx hbd
      ⟨active_iff.2 hrole, hbed, hstaged⟩
    exact ⟨hgantry oh _ hst, m, hjob oh _ hst, hresume⟩
  · rw [hstays fun oh oj hst => ?_, htables]
    obtain ⟨o, m, ⟨hactive, hbed, hrole⟩, -⟩ := e.staged_to hidx hbd hst
    exact hnone oh o (active_iff.1 hactive) hbed hrole

/-- What a job end leaves of the parts, the window and the flags. -/
abbrev PartsEnd (j : Job) (v : Verdict) (tbl : Nat) (s t : State) : Prop :=
  (∀ g p, s.part? g = some p → ∃ q, t.part? g = some q
      ∧ q.cut = (if v ≠ .pass ∧ g ∈ j.parts ∧ p.cut = .uncut then .scrapped else p.cut)
      ∧ q.mark = (if j.role = some .active ∧ g ∈ (s.window tbl).parts then .failed else p.mark)
      ∧ q = { p with cut := q.cut, mark := q.mark })
    ∧ (j.role = some .active → t.window tbl = ⟨[], none⟩)
    ∧ (j.role ≠ some .active → t.windows = s.windows ∧ t.flags = s.flags)
    ∧ (j.role = some .active → t.flags = s.flags |||
        (if (s.window tbl).parts.any (fun g => (s.part? g).any fun p => p.cut == .cut) then
          Alarm.unmarkedCut.bit else 0#12))

theorem EndSteps.parts (e : EndSteps s t h j r v tbl bd left sum remnant hb hs a u w x) : PartsEnd j v tbl s t := by
  have hsw : OnlyChanges (.tables :: .legs :: .batches :: .commitCounter :: deriveFields) a w :=
    ((e.derivedOwn.mono (by decide)).trans ((shiftVerdict_frame tbl v j.nest).mono (by decide))).trans
      (e.openedOwn.mono (by decide))
  have hxt : OnlyChanges [.jobs, .tables, .legs] x t :=
    ((modifyJob_frame h _).mono (by decide)).trans (e.promoted.own.mono (by decide))
  have hwpart (g : Handle) : w.part? g = (s.part? g).map (scrappedIn (if v = .pass then [] else j.parts) g) :=
    (congrArg (·.find g) (hsw .parts (by decide))).trans (e.scrapped.part g)
  have hwindows : w.windows = s.windows := (hsw .windows (by decide)).trans (e.scrappedOwn .windows (by decide))
  have hwindow : w.window tbl = s.window tbl := congrArg (·.getD tbl ⟨[], none⟩) hwindows
  have hwflags : w.flags = s.flags := (hsw .flags (by decide)).trans (e.scrappedOwn .flags (by decide))
  have hcut (g : Handle) : ((w.part? g).any fun p => p.cut == .cut) = (s.part? g).any fun p => p.cut == .cut := by
    rw [hwpart]
    rcases s.part? g with _ | p
    · rfl
    · rcases hp : p.cut <;> by_cases hg : g ∈ (if v = .pass then [] else j.parts) <;> simp [hp, hg]
  obtain ⟨hpart, hflags, hempty, hidle, -⟩ := e.emptied
  refine ⟨fun g p hp => ?_, fun hrole => ?_, fun hrole => ?_, fun hrole => ?_⟩
  · have ht : t.part? g = x.part? g := congrArg (·.find g) (hxt .parts (by decide))
    rw [ht, hpart, hwpart, hp, hwindow]
    refine ⟨_, rfl, ?_, ?_, rfl⟩
    · rcases v <;> simp
    · simp only [active_iff]
  · exact (congrArg (·.getD tbl ⟨[], none⟩) (hxt .windows (by decide))).trans (hempty (active_iff.2 hrole))
  · rw [hxt .windows (by decide), hxt .flags (by decide), hidle fun h => hrole (active_iff.1 h)]
    exact ⟨hwindows, hwflags⟩
  · rw [hxt .flags (by decide), hflags, hwflags, hwindow]
    simp only [hcut, active_iff.2 hrole, true_and]

/-- What a job end leaves of the legs and the batches. -/
abbrev LegsEnd (h : Handle) (j : Job) (r : PlateRec) (tbl bd : Nat) (remnant : Option Handle) (skeleton : Nat)
    (hb : Handle) (b : Batch) (s t : State) : Prop :=
  t.batch? hb = some b ∧ b.origin = .job h ∧ b.state = .committed ∧ b.seq = some s.commitCounter
    ∧ b.legs.map (shapeOf t) =
        (remnant.toList.map fun g => some (.clearRemnant, tableBay tbl, some g, .choose, 2, .queued, hb, 0))
          ++ [some (.clearSkeleton, tableBay tbl, none, .scrapBin, 2, .queued, hb, remnant.toList.length)]
    ∧ TakesLowest s.batches BatchFree [hb] ∧ TakesLowest s.legs (LegFree s) b.legs
    ∧ (∀ g l, b.legs.getLast? = some g → t.leg? g = some l →
        l.sourceBed = some (tbl, bd) ∧ l.skeletonMass = some skeleton
          ∧ l.skeletonThickness = some r.ident.thickness)
    ∧ (∀ oh oj, j.role = some .active → s.bedJob tbl (1 - bd) = some (oh, oj) → oj.role = some .staged →
        ∀ fb x g l, oj.fetchBatch = some fb → s.batch? fb = some x → x.state = .committed → g ∈ x.legs →
          s.leg? g = some l → l.state.unfinished = true →
          t.leg? g = some (if l.state = .queued then { l with priority := 2 } else l))
    ∧ (∀ g l, s.leg? g = some l → l.state.unfinished = true →
        (j.role = some .active → ∀ oh oj, s.bedJob tbl (1 - bd) = some (oh, oj) → oj.role = some .staged →
          g ∉ s.batchLegs oj.fetchBatch) → t.leg? g = some l)

theorem mem_batchLegs {o : Option Handle} : g ∈ s.batchLegs o ↔
    ∃ fb x, o = some fb ∧ s.batch? fb = some x ∧ g ∈ x.legs := by
  unfold State.batchLegs
  rcases o with _ | fb
  · simp
  · rcases hb : s.batch? fb with _ | x <;> simp [hb]

/-- After a batch is made, every handle of a batch names the new one or what it named before. -/
theorem opened_batch? {legs : List Leg} {fb : Handle} {y : Batch} (ho : Opened s w b legs hb)
    (hy : w.batch? fb = some y) : (fb = hb ∧ y = b) ∨ s.batch? fb = some y := by
  obtain ⟨-, -, hothers, -⟩ := ho.takes
  by_cases hidx : fb.idx = hb.idx
  · have he := Pool.find_eq_some.1 hy
    rw [hidx, ho.batch] at he
    cases fb
    cases hb
    cases he
    cases hidx
    exact .inl ⟨rfl, rfl⟩
  · exact .inr ((find_of_get? (hothers _ hidx)).symm.trans hy)

theorem clearing_shapes (mass thickness : Nat) : ((placed hb 0 (clearing tbl bd remnant mass thickness)).map fun l =>
      some (l.kind, l.bay, l.plate, l.destination, l.priority, l.state, l.batch, l.position)) =
    (remnant.toList.map fun g => some (.clearRemnant, tableBay tbl, some g, .choose, 2, .queued, hb, 0))
      ++ [some (.clearSkeleton, tableBay tbl, none, .scrapBin, 2, .queued, hb, remnant.toList.length)] := by
  rcases remnant with _ | g <;> rfl

theorem EndSteps.legs (e : EndSteps s t h j r v tbl bd left sum remnant hb hs a u w x)
    (hidx : h.idx = bedIndex tbl bd) (hbd : bd ≤ 1) :
    LegsEnd h j r tbl bd remnant (skeletonOf s j r remnant sum) hb ⟨.job h, hs, .committed,
      some s.commitCounter⟩ s t := by
  have hshift : OnlyChanges (.tables :: .parts :: .jobs :: deriveFields) s (u.shiftVerdict tbl v j.nest) :=
    ((e.scrappedOwn.mono (by decide)).trans (e.derivedOwn.mono (by decide))).trans
      ((shiftVerdict_frame tbl v j.nest).mono (by decide))
  have hslegs : (u.shiftVerdict tbl v j.nest).legs = s.legs := hshift .legs (by decide)
  have hsbatches : (u.shiftVerdict tbl v j.nest).batches = s.batches := hshift .batches (by decide)
  have hwx : OnlyChanges [.parts, .flags, .windows, .jobs] w (x.modifyJob h (endedJob v (some hb))) :=
    (e.emptied.own.mono (by decide)).trans ((modifyJob_frame h _).mono (by decide))
  have hxleg (g : Handle) : (x.modifyJob h (endedJob v (some hb))).leg? g = w.leg? g :=
    leg?_of_kept (hwx .legs (by decide))
  have hxbatch (g : Handle) : (x.modifyJob h (endedJob v (some hb))).batch? g = w.batch? g :=
    batch?_of_kept (hwx .batches (by decide))
  have htbatch (g : Handle) : t.batch? g = w.batch? g :=
    (batch?_of_kept (e.promoted.own .batches (by decide))).trans (hxbatch g)
  have ho := e.opened
  have hkeeps {g : Handle} {l : Leg} (hl : s.leg? g = some l) (hun : l.state.unfinished = true) : w.leg? g = some l :=
    ho.keeps_leg ((leg?_of_kept hslegs).trans hl) hun
  have hpromoted := e.promoted
  have hnew {i : Nat} {g : Handle} {l : Leg} (hg : hs[i]? = some g)
      (hl : (clearing tbl bd remnant (skeletonOf s j r remnant sum) r.ident.thickness)[i]? = some l) :
      t.leg? g = some { l with batch := hb, position := i } := by
    have hw : w.leg? g = some { l with batch := hb, position := i } := ho.leg? hg hl
    obtain ⟨hqueued, hpriority⟩ := clearing_fresh (List.mem_of_getElem? hl)
    by_cases hst : ∃ oh oj, Staged (j.role == some .active) tbl bd (x.modifyJob h (endedJob v (some hb))) oh oj
    · obtain ⟨oh, oj, hst⟩ := hst
      rw [hpromoted.legs oh oj hst, hxleg, hw]
      split
      · simp [Leg.promoted, hqueued, hpriority]
      · rfl
    · rw [hpromoted.stays fun oh oj h => hst ⟨oh, oj, h⟩, hxleg, hw]
  have hlength : hs.length = (clearing tbl bd remnant (skeletonOf s j r remnant sum) r.ident.thickness).length :=
    ho.made.length.trans (placed_length _ _)
  obtain ⟨htakes, htakesLegs, -, -⟩ := Admits.batchTakes_congr (s := s) (t := w) ⟨hslegs, hsbatches⟩ ⟨rfl, rfl⟩ ho.takes
  refine ⟨(htbatch hb).trans ho.batch?, rfl, rfl, rfl, ?_, htakes, htakesLegs, fun g l hg hl => ?_,
    fun oh oj hrole hbed hstaged fb y g l hfb hy hcommitted hg hl hun => ?_, fun g l hl hun hout => ?_⟩
  · exact (Admits.shapes_placed hlength fun i g l hg hl => by rw [Nat.zero_add]; exact hnew hg hl).trans
      (clearing_shapes _ _)
  · rw [List.getLast?_eq_getElem?, hlength, clearing_length, Nat.add_sub_cancel] at hg
    have hlast : (clearing tbl bd remnant (skeletonOf s j r remnant sum) r.ident.thickness)[remnant.toList.length]? =
        some { Leg.fresh (tableBay tbl) .clearSkeleton none .scrapBin 2 with
          sourceBed := some (tbl, bd), skeletonMass := some (skeletonOf s j r remnant sum)
          skeletonThickness := some r.ident.thickness } := by
      rcases remnant with _ | g <;> rfl
    rw [hnew hg hlast] at hl
    cases hl
    exact ⟨rfl, rfl, rfl⟩
  · obtain ⟨n, hst, -⟩ := e.staged_from (active := j.role == some .active) hidx hbd ⟨active_iff.2 hrole, hbed, hstaged⟩
    have hy' : w.batch? fb = some y := (ho.keeps_batch ((batch?_of_kept hsbatches).trans hy) (.inr hcommitted)).2
    rw [hpromoted.legs oh _ hst, if_pos (mem_batchLegs.2 ⟨fb, y, hfb, (hxbatch fb).trans hy', hg⟩), hxleg,
      hkeeps hl hun]
    rfl
  · by_cases hst : ∃ oh oj, Staged (j.role == some .active) tbl bd (x.modifyJob h (endedJob v (some hb))) oh oj
    · obtain ⟨oh, oj, hst⟩ := hst
      obtain ⟨o, n, ⟨hactive, hbed, hrole⟩, rfl⟩ := e.staged_to hidx hbd hst
      rw [hpromoted.legs oh _ hst, if_neg fun hmem => ?_, hxleg, hkeeps hl hun]
      obtain ⟨fb, y, hfb, hy, hg⟩ := mem_batchLegs.1 hmem
      rw [hxbatch] at hy
      rcases opened_batch? ho hy with ⟨-, rfl⟩ | hold
      · exact ho.made.apart ((leg?_of_kept hslegs).trans hl) (legEntryFree_unfinished hun) g hg rfl
      · exact hout (active_iff.1 hactive) oh o hbed hrole
          (mem_batchLegs.2 ⟨fb, y, hfb, (batch?_of_kept hsbatches).symm.trans hold, hg⟩)
    · rw [hpromoted.stays fun oh oj h => hst ⟨oh, oj, h⟩, hxleg, hkeeps hl hun]

end Steps

/-! ## End Job and Abort Job, taken -/

section Taken

variable {k : Asker} {a : Nat} {st : Station} {tag : Byte} {row : Req} {β : Type} {val : β}
  {body : Asker → β → State → Reply}

theorem endJob_taken {o : Nat} (hv : Verdict.ofRequest o = some v) (hpfw : s.pfw = false) (hj : s.job? h = some j)
    (hown : h.idx / 2 = k.unitNum) (htorch : j.state = .burning ∨ j.state = .paused)
    (hcut : v = .pass → ∀ g ∈ j.parts, ∃ p, s.part? g = some p ∧ p.cut = .cut) (hfree : 2 ≤ s.freeLegs)
    (hbatch : s.hasFreeBatch = true) :
    endJob k ⟨h, o⟩ s = .waits (s.jobEnd h j v.passes v).state (s.jobEnd h j v.passes v).images .done
      ((s.jobEnd h j v.passes v).tokens v) := by
  have hjob : s.tableJob k h = some j := by
    unfold State.tableJob
    rw [hj]
    exact if_pos hown
  have hall : ¬(v.passes && !j.parts.all s.isCut) = true := by
    rw [Bool.and_eq_true, Bool.not_eq_true', Bool.eq_false_iff, Ne, List.all_eq_true]
    rintro ⟨hpass, hno⟩
    refine hno fun g hg => ?_
    exact (isCut_iff g).2 (hcut (beq_iff_eq.1 hpass) g hg)
  have hlive : ¬(!j.state.torch) = true := by rw [(torch_iff _).2 htorch]; exact Bool.false_ne_true
  unfold endJob
  simp only [hv, hpfw, hjob]
  rw [if_neg Bool.false_ne_true, if_neg hlive, if_neg hall, if_neg fun h => (noRoom_iff 2).1 h ⟨hfree, hbatch⟩]

theorem abortJob_taken (hpfw : s.pfw = false) (hj : s.job? h = some j) (htorch : j.state = .burning ∨ j.state = .paused)
    (hfree : 2 ≤ s.freeLegs) (hbatch : s.hasFreeBatch = true) :
    abortJob k h s = .waits (s.jobEnd h j false .aborted).state (s.jobEnd h j false .aborted).images .done
      ((s.jobEnd h j false .aborted).tokens .aborted) := by
  have hpierced : j.state.torch = true := (torch_iff _).2 htorch
  have hlive : ¬(!j.state.live) = true := by rw [(live_iff _).2 (.inr (.inr hpierced))]; exact Bool.false_ne_true
  unfold abortJob
  simp only [hj, hpfw]
  rw [if_neg hlive, if_pos hpierced, if_neg Bool.false_ne_true, if_neg fun h => (noRoom_iff 2).1 h ⟨hfree, hbatch⟩]

/-- Everything that a job end leaves, of plates, jobs, legs and parts. -/
abbrev Ended (h : Handle) (j : Job) (r : PlateRec) (v : Verdict) (tbl bd : Nat) (left : List Panel) (sum : Nat)
    (remnant : Option Handle) (hb : Handle) (b : Batch) (resume : Nat) (s t : State) : Prop :=
  PlatesEnd j r tbl bd left sum remnant s t ∧ JobsEnd h j v tbl bd hb resume s t
    ∧ LegsEnd h j r tbl bd remnant (skeletonOf s j r remnant sum) hb b s t ∧ PartsEnd j v tbl s t

/-- A request whose block ends the job leaves all of that, and waits for the derivation's images. -/
theorem request_ends (hasks : Asks row s a st)
    (hbody : body (askerOf a st tag) val (s.heard a) = .waits ((s.heard a).jobEnd h j v.passes v).state
      ((s.heard a).jobEnd h j v.passes v).images .done (((s.heard a).jobEnd h j v.passes v).tokens v))
    (hj : s.job? h = some j) (htbl : tbl = h.idx / 2) (hbd : bd = h.idx % 2) (hfree : 2 ≤ s.freeLegs)
    (hbatch : s.hasFreeBatch = true) (hr : s.plate? j.plate = some r) (hstock : r.st.disposition = .stock)
    (hloc : r.st.location = .bed tbl bd)
    (hleft : left = derivedPanels (r.st.panels.getD []) j.panel
      (envExtent j.orientation j.envLength j.envWidth) (s.grade r.ident.grade))
    (hsum : sum = (left.map fun p => p.length * p.width).sum) :
    ∃ t remnant hb b resume, request row tag (.fields val) s body = .next t
      ∧ Ended h j r v tbl bd left sum remnant hb b resume s t
      ∧ Awaits row s t a st tag (derivedImages remnant j.plate) .done
        ((Derived.mk t remnant [] (skeletonOf s j r remnant sum) 0).tokens v)
      ∧ OnlyChanges (lineFields ++ jobEndFields) s t := by
  have hlt : h.idx < 16 := lt_of_get? (Pool.find_eq_some.1 hj)
  have hle : tbl ≤ 7 := by omega
  have hidx : h.idx = bedIndex tbl bd := by unfold bedIndex; omega
  have hone : bd ≤ 1 := by omega
  have hj' : (s.heard a).job? h = some j := (read_of_line (·.job? h) heard_line).trans hj
  obtain ⟨u, remnant, hb, hs, x1, x2, x3, x4, hend, hsteps⟩ := jobEnd_steps (s := s.heard a) (v := v) (left := left)
    (sum := sum) htbl hbd hle (by rw [read_of_line (·.freeLegs) heard_line]; exact hfree)
    (by rw [read_of_line (·.hasFreeBatch) heard_line]; exact hbatch)
    ((read_of_line (·.plate? j.plate) heard_line).trans hr) hstock hloc
    (by rw [read_of_line (·.grade r.ident.grade) heard_line]; exact hleft) hsum
  have hframe := jobEnd_frame (s := s.heard a) h j v.passes v
  rw [hend] at hbody hframe
  obtain ⟨resume, hjobs⟩ := hsteps.jobs hj' hidx hone hle
  obtain ⟨t, hexec, hawaits, hown, hline⟩ := request_waits hasks (by simp) hbody hframe (by decide)
  have hended := taken_of_line (Ended h j r v tbl bd left sum remnant hb _ resume)
    ⟨hsteps.plates, hjobs, hsteps.legs hidx hone, hsteps.parts⟩ hline
  have hskeleton : skeletonOf (s.heard a) j r remnant sum = skeletonOf s j r remnant sum :=
    read_of_line (skeletonOf · j r remnant sum) heard_line
  rw [hskeleton] at hawaits
  exact ⟨t, remnant, hb, _, resume, hexec, hended, hawaits, hown⟩

/-- Settles O24: End Job and Abort Job end the job alike, by the steps of the job end. -/
theorem jobEnds : Obligations.JobEnds := by
  unfold Obligations.JobEnds
  intro s a st tag c row v h j r tbl bd left sum hc hasks hpfw hj htbl hbd hunit htorch hcut hfree hbatch hr hstock hloc
    hleft hsum
  have hj' : (s.heard a).job? h = some j := (read_of_line (·.job? h) heard_line).trans hj
  have hpfw' : (s.heard a).pfw = false := (heard_line .pfw (by decide)).trans hpfw
  have hfree' : 2 ≤ (s.heard a).freeLegs := by rw [read_of_line (·.freeLegs) heard_line]; exact hfree
  have hbatch' : (s.heard a).hasFreeBatch = true := by rw [read_of_line (·.hasFreeBatch) heard_line]; exact hbatch
  have hcut' : v = .pass → ∀ g ∈ j.parts, ∃ p, (s.heard a).part? g = some p ∧ p.cut = .cut := by
    rw [read_of_line (·.part?) heard_line]
    exact hcut
  have hends : ∃ t remnant hb b resume, exec c s = .next t
      ∧ Ended h j r v tbl bd left sum remnant hb b resume s t
      ∧ Awaits row s t a st tag (derivedImages remnant j.plate) .done
        ((Derived.mk t remnant [] (skeletonOf s j r remnant sum) 0).tokens v)
      ∧ OnlyChanges (lineFields ++ jobEndFields) s t := by
    rcases hc with ⟨rfl, rfl, rfl⟩ | ⟨rfl, rfl, rfl⟩ | ⟨rfl, rfl, rfl⟩
    · exact request_ends hasks (endJob_taken (k := askerOf a st tag) (v := .pass) rfl hpfw' hj'
        (htbl ▸ hunit rfl) htorch
        hcut' hfree' hbatch') hj htbl hbd hfree hbatch hr hstock hloc hleft hsum
    · exact request_ends hasks (endJob_taken (k := askerOf a st tag) (v := .fail) rfl hpfw' hj'
        (htbl ▸ hunit rfl) htorch
        hcut' hfree' hbatch') hj htbl hbd hfree hbatch hr hstock hloc hleft hsum
    · exact request_ends hasks (abortJob_taken
        (k := askerOf a st tag) hpfw' hj' htorch hfree' hbatch') hj htbl hbd hfree
        hbatch hr hstock hloc hleft hsum
  obtain ⟨t, remnant, hb, b, resume, hexec, ⟨⟨p1, p2, p3, p4, p5, p6, p7, p8, p9⟩, ⟨j1, j2, j3, j4, j5, j6, j7, j8⟩,
    ⟨l1, l2, l3, l4, l5, l6, l7, l8, l9, l10⟩, q1, q2, q3, q4⟩, hawaits, hown⟩ := hends
  refine ⟨t, remnant, hb, b, skeletonOf s j r remnant sum, resume, derivedImages remnant j.plate, hexec, p1, p2, p3, p4,
    p5, p6, p7, p8, rfl, j1, j2, j3, j4, j5, j6, l1, l2, l3, l4, l5, l6, l7, l8, q1, q2, q3, q4,
    fun oh oj hrole hbed hstaged => ?_, l10, j8, rfl, p9, ?_, hown.mono (by decide)⟩
  · obtain ⟨hgantry, hjob⟩ := j7 oh oj hrole hbed hstaged
    exact ⟨hgantry, hjob, l9 oh oj hrole hbed hstaged⟩
  · rcases v <;> rcases remnant with _ | g <;> exact hawaits

end Taken

end Sys2Proof.Proofs.JobEnds
end

section
/-! PROOFS. The stages of start-up: what each changes, the station table it takes from the array, and the queue it
builds (R163, R181, R182). -/

namespace Sys2Proof.Proofs.Starts

open Sys2Proof Sys2Proof.Machine
open Sys2Proof.Proofs.Flags

variable {s t : State} {x : Store}

/-! ## Tables given entry by entry -/

theorem get?_ofFn {α : Type} {n i : Nat} (f : Nat → α) (hi : i < n) : (Table.ofFn n f).get? i = some (f i) := by
  simp [Table.ofFn, Table.get?, hi]

/-! ## What each stage changes -/

theorem raiseFound_frame : OnlyChanges [.flags] s s.raiseFound :=
  (raiseIf_frame _ _).trans (raiseIf_frame _ _)

theorem markDoubtful_frame (h : Handle) : OnlyChanges [.plates, .queue] s (s.markDoubtful h) :=
  ((modifyPlate_frame h _).mono (by decide)).trans ((enqueue_frame _).mono (by decide))

theorem settleLocations_frame : OnlyChanges [.plates, .queue] s s.settleLocations :=
  OnlyChanges.foldl (fun _ h => markDoubtful_frame h) _ s

theorem retireParent_frame (h : Handle) : OnlyChanges [.plates, .queue] s (s.retireParent h) :=
  ((modifyPlate_frame h _).mono (by decide)).trans ((enqueue_frame _).mono (by decide))

theorem settleDerivations_frame : OnlyChanges [.plates, .queue] s s.settleDerivations :=
  OnlyChanges.foldl (fun _ h => retireParent_frame h) _ s

/-- One level of a stack put back: the record of the plate there, and its state image where it lay elsewhere. -/
def putLevel (k level : Nat) (h : Handle) (s : State) : State :=
  match s.plate? h with
  | some r =>
    if r.st.location = .slot k level then s else (s.putLocation h (.slot k level)).enqueue (.state h.idx)
  | none => s

theorem restack_cons (k level : Nat) (h : Handle) (hs : List Handle) (s : State) :
    restack k level (h :: hs) s = restack k (level + 1) hs (putLevel k level h s) := rfl

theorem putLevel_frame (k level : Nat) (h : Handle) : OnlyChanges [.plates, .queue] s (putLevel k level h s) := by
  unfold putLevel
  split
  · split
    · exact .refl
    · exact ((putLocation_frame h _).mono (by decide)).trans ((enqueue_frame _).mono (by decide))
  · exact .refl

theorem restack_frame (k : Nat) (l : List Handle) :
    ∀ (level : Nat) (s : State), OnlyChanges [.plates, .queue] s (restack k level l s) := by
  induction l with
  | nil => intro level s; exact .refl
  | cons h hs ih =>
    intro level s
    rw [restack_cons]
    exact (putLevel_frame k level h).trans (ih _ _)

/-- A slot with the stack that the records give it, before its bounds are looked at. -/
def stacked (s : State) (k : Nat) : State :=
  (restack k 0 (s.storedStack k) s).modifySlot k fun c => { c with stack := s.storedStack k }

theorem rebuildSlot_eq (k : Nat) : s.rebuildSlot k
    = if (stacked s k).overBounds k then (stacked s k).modifySlot k fun c => { c with overCap := true }
      else stacked s k := rfl

theorem stacked_frame (k : Nat) : OnlyChanges [.plates, .queue, .slots] s (stacked s k) :=
  ((restack_frame k _ 0 s).mono (by decide)).trans ((modifySlot_frame k _).mono (by decide))

theorem rebuildSlot_frame (k : Nat) : OnlyChanges [.plates, .queue, .slots] s (s.rebuildSlot k) := by
  rw [rebuildSlot_eq]
  split
  · exact (stacked_frame k).trans ((modifySlot_frame k _).mono (by decide))
  · exact stacked_frame k

/-- The slots rebuilt, in their order. -/
def rebuiltSlots (s : State) : State := (List.range 96).foldl State.rebuildSlot s

/-- The beds and the cart rebuilt from the records. -/
def rebuiltBeds (s : State) : State :=
  { s with
    beds := Table.ofFn 16 fun i => ⟨s.stockWhere fun r => r.st.location == Location.bed (i / 2) (i % 2), false⟩
    cart := ⟨s.stockWhere fun r => r.st.location == Location.cart, none, []⟩ }

theorem rebuildPlaces_eq : s.rebuildPlaces
    = (rebuiltBeds (rebuiltSlots s)).raiseIf (rebuiltBeds (rebuiltSlots s)).anyOverCap .overCapacity := rfl

theorem rebuiltSlots_frame : OnlyChanges [.plates, .queue, .slots] s (rebuiltSlots s) :=
  OnlyChanges.foldl (fun _ k => rebuildSlot_frame k) _ s

theorem rebuiltBeds_frame : OnlyChanges [.beds, .cart] s (rebuiltBeds s) := by
  intro f hf
  cases f <;> first | rfl | exact absurd (by decide) hf

theorem rebuildPlaces_frame : OnlyChanges [.plates, .queue, .slots, .beds, .cart, .flags] s s.rebuildPlaces := by
  rw [rebuildPlaces_eq]
  exact ((rebuiltSlots_frame.mono (by decide)).trans (rebuiltBeds_frame.mono (by decide))).trans
    ((raiseIf_frame _ _).mono (by decide))

theorem rebuildPlaces_queue : s.rebuildPlaces.queue = (rebuiltSlots s).queue := by
  rw [rebuildPlaces_eq, raiseIf_queue]
  exact rebuiltBeds_frame .queue (by decide)

theorem settleCounter_frame : OnlyChanges [.seqCounter, .headerFloor, .queue] s s.settleCounter := by
  refine OnlyChanges.trans (t := { s with seqCounter := s.store.counter, headerFloor := s.store.counter }) ?_
    ((enqueue_frame _).mono (by decide))
  intro f hf
  cases f <;> first | rfl | exact absurd (by decide) hf

/-! ## The array read -/

/-- The part cleared, with the Hall Map and the stations of the array. -/
def mapped (s : State) (x : Store) : State :=
  { s.cleared .startup x with
    hall := x.hall
    stations := stationTable (x.readStations.value.getD StationCfg.factory) }

/-- The part with the plate entries of the array as well, before any image is queued. -/
def loaded (s : State) (x : Store) : State :=
  { mapped s x with plates := x.readPlates.map (mapped s x).classify }

theorem readArray_eq : s.readArray x = (loaded s x).enqueueAll x.readQueue := rfl

theorem readArray_frame : OnlyChanges [.queue] (loaded s x) (s.readArray x) := by
  rw [readArray_eq]
  exact enqueueAll_frame _

/-- The records settled: the flags of what was found, and the doubtful and the retired plates. -/
def settled (s : State) (x : Store) : State :=
  (((s.readArray x).raiseFound).settleLocations).settleDerivations

theorem startUp_eq : s.startUp x
    = ((((settled s x).rebuildPlaces).settleCounter.raise .restarted).raiseIf s.pfw .powerWarning) := rfl

theorem settled_frame : OnlyChanges [.plates, .queue, .flags] (loaded s x) (settled s x) :=
  (((readArray_frame.mono (by decide)).trans (raiseFound_frame.mono (by decide))).trans
    (settleLocations_frame.mono (by decide))).trans (settleDerivations_frame.mono (by decide))

theorem startUp_frame :
    OnlyChanges [.plates, .queue, .flags, .slots, .beds, .cart, .seqCounter, .headerFloor] (loaded s x)
      (s.startUp x) := by
  rw [startUp_eq]
  exact ((((settled_frame.mono (by decide)).trans (rebuildPlaces_frame.mono (by decide))).trans
    (settleCounter_frame.mono (by decide))).trans ((raise_frame _).mono (by decide))).trans
    ((raiseIf_frame _ _).mono (by decide))

/-! ## The stations -/

/-- What an address names in the table that holds a list: the first entry of the list at that address. -/
theorem station?_stationTable {l : List StationCfg} (h : s.stations = stationTable l) (a : Nat) :
    s.station? a = if 1 ≤ a ∧ a ≤ 32 then (l.find? fun c => c.address = a).map StationCfg.fresh else none := by
  match a with
  | 0 => rfl
  | i + 1 =>
    by_cases hi : i < 32
    · rw [if_pos (by omega), State.station?, h, stationTable, get?_ofFn _ hi]
    · rw [if_neg (by omega), State.station?, h, (Table.get?_eq_none _).2 (by omega)]

theorem stationTable_fresh {l : List StationCfg} (h : s.stations = stationTable l) {a : Nat} {st : Station}
    (hst : s.station? a = some st) : 1 ≤ a ∧ a ≤ 32 ∧ st.misses = 0 ∧ st.silent = false ∧ st.slot = .empty := by
  rw [station?_stationTable h] at hst
  split at hst
  next ha =>
    obtain ⟨c, -, rfl⟩ := Option.map_eq_some_iff.1 hst
    exact ⟨ha.1, ha.2, rfl, rfl, rfl⟩
  next => cases hst

end Sys2Proof.Proofs.Starts
end

section
/-! PROOFS. What every shared operation keeps of the flags whose cause stands and of the bounds of the queues: the
clauses of the two invariants, field by field (R56, R59, R104, R166, R176, R183). -/

namespace Sys2Proof.Proofs.Standing

open Sys2Proof Sys2Proof.Machine
open Sys2Proof.Proofs.Tables Sys2Proof.Proofs.Flags Sys2Proof.Proofs.Blocks
open Sys2Proof.Proofs.Marks Sys2Proof.Proofs.Poll

variable {s t u : State}

/-! ## Steps that raise no cause without its flag -/

/-- From `s` to `t` no set flag is cleared and no cause arises without its flag; each bound that held still holds. -/
structure Keeps (s t : State) : Prop where
  phase : t.phase = s.phase
  pfw : t.pfw = s.pfw
  flags : ∀ f, flagIn s.flags f = true → flagIn t.flags f = true
  silent : t.anySilent = true → s.anySilent = true ∨ flagIn t.flags .stationSilent = true
  marked : ∀ k, (t.slot k).overCap = true → (s.slot k).overCap = true
  images : s.queue.Nodup → t.queue.Nodup
  searches : s.searchQueue.length ≤ 4 → t.searchQueue.length ≤ 4
  scanning : (s.scan = none → s.searchQueue = []) → t.scan = none → t.searchQueue = []
  windows : (∀ n, (s.window n).parts.length ≤ 4) → ∀ n, (t.window n).parts.length ≤ 4
  misses : (∀ a st, s.station? a = some st → st.misses ≤ 8) → ∀ a st, t.station? a = some st → st.misses ≤ 8

theorem Keeps.refl : Keeps s s where
  phase := rfl
  pfw := rfl
  flags _ h := h
  silent := .inl
  marked _ h := h
  images h := h
  searches h := h
  scanning h := h
  windows h := h
  misses h := h

theorem Keeps.trans (h : Keeps s t) (g : Keeps t u) : Keeps s u where
  phase := g.phase.trans h.phase
  pfw := g.pfw.trans h.pfw
  flags f hf := g.flags f (h.flags f hf)
  silent hu := by
    rcases g.silent hu with ht | hflag
    · exact (h.silent ht).imp_right (g.flags _)
    · exact .inr hflag
  marked k hk := h.marked k (g.marked k hk)
  images hs := g.images (h.images hs)
  searches hs := g.searches (h.searches hs)
  scanning hs := g.scanning (h.scanning hs)
  windows hs := g.windows (h.windows hs)
  misses hs := g.misses (h.misses hs)

theorem Keeps.foldl {α : Type} {op : State → α → State} (h : ∀ s a, Keeps s (op s a)) (as : List α) :
    ∀ s, Keeps s (as.foldl op s) := by
  induction as with
  | nil => intro s; exact .refl
  | cons a as ih => intro s; exact (h s a).trans (ih _)

theorem FlagsStand.of_keeps (h : Keeps s t) (hs : s.FlagsStand) : t.FlagsStand where
  silent hphase hsilent := by
    rw [h.phase] at hphase
    rcases h.silent (anySilent_iff.2 hsilent) with hold | hflag
    · exact h.flags _ (hs.silent hphase (anySilent_iff.1 hold))
    · exact hflag
  warning hphase hpfw := by
    rw [h.phase] at hphase
    rw [h.pfw] at hpfw
    exact h.flags _ (hs.warning hphase hpfw)
  marked hphase := by
    rintro ⟨k, hk⟩
    rw [h.phase] at hphase
    exact h.flags _ (hs.marked hphase ⟨k, h.marked k hk⟩)

theorem QueuesBounded.of_keeps (h : Keeps s t) (hs : s.QueuesBounded) : t.QueuesBounded where
  images := h.images hs.images
  searches := h.searches hs.searches
  scanning := h.scanning hs.scanning
  windows := h.windows hs.windows
  misses := h.misses hs.misses

/-! ## From what an operation changes -/

/-- A frame, with the clauses of the fields it names: what it does not name needs no more. -/
theorem keeps_of_clauses {own : List Field} (h : OnlyChanges own s t) (plain : Field.phase ∉ own ∧ Field.pfw ∉ own)
    (flags : .flags ∈ own → ∀ f, flagIn s.flags f = true → flagIn t.flags f = true)
    (silent : .stations ∈ own → t.anySilent = true → s.anySilent = true ∨ flagIn t.flags .stationSilent = true)
    (misses : .stations ∈ own → (∀ a st, s.station? a = some st → st.misses ≤ 8) →
      ∀ a st, t.station? a = some st → st.misses ≤ 8)
    (slots : .slots ∈ own → ∀ k, (t.slot k).overCap = true → (s.slot k).overCap = true)
    (queue : .queue ∈ own → s.queue.Nodup → t.queue.Nodup)
    (searches : .searchQueue ∈ own ∨ .scan ∈ own →
      (s.searchQueue.length ≤ 4 → t.searchQueue.length ≤ 4) ∧
        ((s.scan = none → s.searchQueue = []) → t.scan = none → t.searchQueue = []))
    (windows : .windows ∈ own → (∀ n, (s.window n).parts.length ≤ 4) → ∀ n, (t.window n).parts.length ≤ 4) :
    Keeps s t where
  phase := h .phase plain.1
  pfw := h .pfw plain.2
  flags := by
    by_cases hf : Field.flags ∈ own
    · exact flags hf
    · rw [show t.flags = s.flags from h .flags hf]
      exact fun _ => id
  silent := by
    by_cases hf : Field.stations ∈ own
    · exact silent hf
    · rw [State.anySilent, show t.stations = s.stations from h .stations hf]
      exact .inl
  misses := by
    by_cases hf : Field.stations ∈ own
    · exact misses hf
    · simp only [station?_congr (show t.stations = s.stations from h .stations hf)]
      exact id
  marked := by
    by_cases hf : Field.slots ∈ own
    · exact slots hf
    · simp only [State.slot, show t.slots = s.slots from h .slots hf]
      exact fun _ => id
  images := by
    by_cases hf : Field.queue ∈ own
    · exact queue hf
    · rw [show t.queue = s.queue from h .queue hf]
      exact id
  windows := by
    by_cases hf : Field.windows ∈ own
    · exact windows hf
    · simp only [State.window, show t.windows = s.windows from h .windows hf]
      exact id
  searches := by
    by_cases hf : Field.searchQueue ∈ own ∨ Field.scan ∈ own
    · exact (searches hf).1
    · rw [show t.searchQueue = s.searchQueue from h .searchQueue fun hq => hf (.inl hq)]
      exact id
  scanning := by
    by_cases hf : Field.searchQueue ∈ own ∨ Field.scan ∈ own
    · exact (searches hf).2
    · rw [show t.searchQueue = s.searchQueue from h .searchQueue fun hq => hf (.inl hq),
        show t.scan = s.scan from h .scan fun hq => hf (.inr hq)]
      exact id

/-- The fields that the two invariants speak of. -/
abbrev watched : List Field := [.phase, .pfw, .flags, .stations, .slots, .queue, .searchQueue, .scan, .windows]

/-- No field of a list is one that an operation changes. -/
def spared (l own : List Field) : Bool := l.all fun f => !own.contains f

theorem not_mem_of_spared {l own : List Field} {f : Field} (h : spared l own = true) (hf : f ∈ l) : f ∉ own := by
  simpa using List.all_eq_true.1 h f hf

section Rules

variable {own : List Field}

/-- An operation that changes nothing they speak of. -/
theorem keeps_of (h : OnlyChanges own s t) (hown : spared watched own = true) : Keeps s t := by
  have out {f : Field} (hf : f ∈ watched) : f ∉ own := not_mem_of_spared hown hf
  refine keeps_of_clauses h ⟨out (by decide), out (by decide)⟩ (fun hf => absurd hf (out (by decide)))
    (fun hf => absurd hf (out (by decide))) (fun hf => absurd hf (out (by decide)))
    (fun hf => absurd hf (out (by decide))) (fun hf => absurd hf (out (by decide))) ?_
    (fun hf => absurd hf (out (by decide)))
  rintro (hf | hf) <;> exact absurd hf (out (by decide))

theorem keeps_of_flags (h : OnlyChanges [.flags] s t) (hf : ∀ f, flagIn s.flags f = true → flagIn t.flags f = true) :
    Keeps s t :=
  keeps_of_clauses h (by decide) (fun _ => hf) (by simp) (by simp) (by simp) (by simp) (by simp) (by simp)

theorem keeps_of_slots (h : OnlyChanges [.slots] s t)
    (hslots : ∀ k, (t.slot k).overCap = true → (s.slot k).overCap = true) : Keeps s t :=
  keeps_of_clauses h (by decide) (by simp) (by simp) (by simp) (fun _ => hslots) (by simp) (by simp) (by simp)

theorem keeps_of_windows (h : OnlyChanges [.windows] s t)
    (hw : (∀ n, (s.window n).parts.length ≤ 4) → ∀ n, (t.window n).parts.length ≤ 4) : Keeps s t :=
  keeps_of_clauses h (by decide) (by simp) (by simp) (by simp) (by simp) (by simp) (by simp) fun _ => hw

theorem keeps_of_searches (h : OnlyChanges [.searchQueue, .scan] s t)
    (hlen : s.searchQueue.length ≤ 4 → t.searchQueue.length ≤ 4)
    (hidle : (s.scan = none → s.searchQueue = []) → t.scan = none → t.searchQueue = []) : Keeps s t :=
  keeps_of_clauses h (by decide) (by simp) (by simp) (by simp) (by simp) (by simp) (fun _ => ⟨hlen, hidle⟩) (by simp)

theorem keeps_of_stations (h : OnlyChanges [.poll, .stations, .flags] s t)
    (hflags : ∀ f, flagIn s.flags f = true → flagIn t.flags f = true)
    (hsilent : t.anySilent = true → s.anySilent = true ∨ flagIn t.flags .stationSilent = true)
    (hmisses : (∀ a st, s.station? a = some st → st.misses ≤ 8) →
      ∀ a st, t.station? a = some st → st.misses ≤ 8) : Keeps s t :=
  keeps_of_clauses h (by decide) (fun _ => hflags) (fun _ => hsilent) (fun _ => hmisses) (by simp) (by simp) (by simp)
    (by simp)

theorem keeps_of_queue (h : OnlyChanges own s t) (hq : s.queue.Nodup → t.queue.Nodup)
    (hown : spared (watched.erase .queue) own = true) : Keeps s t := by
  have out {f : Field} (hf : f ∈ watched.erase .queue) : f ∉ own := not_mem_of_spared hown hf
  refine keeps_of_clauses h ⟨out (by decide), out (by decide)⟩ (fun hf => absurd hf (out (by decide)))
    (fun hf => absurd hf (out (by decide))) (fun hf => absurd hf (out (by decide)))
    (fun hf => absurd hf (out (by decide))) (fun _ => hq) ?_ (fun hf => absurd hf (out (by decide)))
  rintro (hf | hf) <;> exact absurd hf (out (by decide))

end Rules

/-! ## Flags, the queue and the slots -/

theorem raise_keeps (a : Alarm) : Keeps s (s.raise a) :=
  keeps_of_flags (raise_frame a) (fun f hf => by rw [State.raise, flagIn_or, hf, Bool.true_or])

theorem raiseIf_keeps (c : Bool) (a : Alarm) : Keeps s (s.raiseIf c a) := by
  unfold State.raiseIf
  split
  · exact raise_keeps a
  · exact .refl

theorem enqueue_keeps (i : ImageId) : Keeps s (s.enqueue i) :=
  keeps_of_queue (enqueue_frame i) enqueue_nodup rfl

theorem enqueueAll_keeps (l : List ImageId) : Keeps s (s.enqueueAll l) :=
  keeps_of_queue (enqueueAll_frame l) enqueueAll_nodup rfl

/-- A slot that is changed and not marked. -/
theorem modifySlot_keeps (k : Nat) (f : Slot → Slot) (hf : ∀ c, (f c).overCap = true → c.overCap = true) :
    Keeps s (s.modifySlot k f) := by
  refine keeps_of_slots (modifySlot_frame k f) fun j hj => ?_
  simp only [State.modifySlot, State.slot, Table.getD, Table.get?_modify] at hj ⊢
  by_cases hkj : k = j
  · rw [if_pos hkj] at hj
    rcases hget : s.slots.get? j with _ | c <;> rw [hget] at hj
    · exact hj
    · exact hf c hj
  · rwa [if_neg hkj] at hj

theorem examineSlot_keeps (k : Nat) : Keeps s (s.examineSlot k) := by
  unfold State.examineSlot
  split
  · exact modifySlot_keeps k (fun c => { c with overCap := false }) nofun
  · exact .refl

theorem putWindow_keeps (n : Nat) (w : Window) (hw : (∀ n, (s.window n).parts.length ≤ 4) → w.parts.length ≤ 4) :
    Keeps s (s.putWindow n w) := by
  refine keeps_of_windows (putWindow_frame n w) fun hs m => ?_
  by_cases hmn : m = n
  · subst hmn
    by_cases hm : m ≤ 7
    · rw [window_putWindow_self hm]
      exact hw hs
    · rw [State.window, Table.getD_beyond _ _ (by omega)]
      exact Nat.zero_le _
  · rw [window_putWindow_ne hmn]
    exact hs m

/-! ## Places -/

theorem relevel_keeps (k : Nat) (l : List Handle) : ∀ (i : Nat) (s : State), Keeps s (relevel k i l s) := by
  induction l with
  | nil => intro i s; exact .refl
  | cons h hs ih =>
    intro i s
    exact ((keeps_of (putLocation_frame h _) rfl).trans (enqueue_keeps _)).trans (ih _ _)

theorem leaveSlot_keeps (h : Handle) (k : Nat) : Keeps s (s.leaveSlot h k) :=
  ((modifySlot_keeps k (fun c => { c with stack := c.stack.erase h }) fun _ => id).trans
    (relevel_keeps k _ _ _)).trans (examineSlot_keeps k)

theorem leavePlace_keeps (h : Handle) : Keeps s (s.leavePlace h) := by
  unfold State.leavePlace
  split
  · exact .refl
  · split
    · exact leaveSlot_keeps h _
    · exact keeps_of (modifyBed_frame _ _ _) rfl
    · exact keeps_of (cart_frame _) rfl
    · exact .refl
    · exact .refl

theorem joinPlace_keeps (h : Handle) (p : Place) : Keeps s (s.joinPlace h p) := by
  cases p with
  | slot k =>
    exact (modifySlot_keeps k (fun c => { c with stack := c.stack ++ [h] }) fun _ => id).trans
      (keeps_of (putLocation_frame h _) rfl)
  | bed t b => exact (keeps_of (modifyBed_frame t b _) rfl).trans (keeps_of (putLocation_frame h _) rfl)
  | cart => exact (keeps_of (cart_frame _) rfl).trans (keeps_of (putLocation_frame h _) rfl)
  | hook c => exact keeps_of (putLocation_frame h _) rfl
  | nowhere => exact keeps_of (putLocation_frame h _) rfl
  | scrapBin => exact .refl
  | choose => exact .refl

theorem movePlate_keeps (h : Handle) (p : Place) : Keeps s (s.movePlate h p) :=
  ((enqueue_keeps _).trans (leavePlace_keeps h)).trans (joinPlace_keeps h p)

theorem retirePlate_keeps (h : Handle) (why : RetireReason) : Keeps s (s.retirePlate h why) :=
  ((enqueue_keeps _).trans (leavePlace_keeps h)).trans (keeps_of (modifyPlate_frame h _) rfl)

theorem createPlate_keeps {ident : PlateId} {st : PlateSt} {mass : Nat} {h : Handle}
    (hc : s.createPlate ident st mass = some (t, h)) : Keeps s t :=
  keeps_of_queue (createPlate_frame hc) (fun hs => by
    unfold State.createPlate at hc
    split at hc
    · split at hc
      · cases hc
      · cases hc
        exact enqueueAll_nodup hs
    · cases hc) rfl

/-! ## Searches -/

/-- The unit scans whenever a search waits, and only shortens the queue. -/
theorem startScan_reads : s.startScan.searchQueue.length ≤ s.searchQueue.length
    ∧ (s.startScan.scan = none → s.startScan.searchQueue = []) := by
  unfold State.startScan
  split
  next q hscan => exact ⟨Nat.le_refl _, fun hnone => by rw [hscan] at hnone; cases hnone⟩
  next =>
    split
    next hnil => exact ⟨Nat.le_refl _, fun _ => hnil⟩
    next q qs hcons =>
      refine ⟨?_, nofun⟩
      rw [hcons]
      exact Nat.le_succ _

/-- The unit goes on after the queue or the scan in flight has changed. -/
theorem rescan_keeps {q : List SearchRec} {c : Option Scan} (hq : s.searchQueue.length ≤ 4 → q.length ≤ 4) :
    Keeps s (State.startScan { s with searchQueue := q, scan := c }) := by
  refine keeps_of_searches (OnlyChanges.trans ?_ startScan_frame) (fun hs => startScan_reads.1.trans (hq hs))
    fun _ => startScan_reads.2
  intro f hf
  cases f <;> first | rfl | exact absurd (by decide) hf

/-! ## Marks -/

theorem failIssued_keeps (h : Handle) : Keeps s (s.failIssued h) := by
  unfold State.failIssued
  split
  · exact .refl
  · exact (keeps_of (modifyPart_frame h _) rfl).trans (raiseIf_keeps _ _)

theorem emptyWindow_keeps (n : Nat) : Keeps s (s.emptyWindow n) :=
  (Keeps.foldl (fun _ h => failIssued_keeps h) _ s).trans (putWindow_keeps n _ fun _ => by simp)

theorem cutPart_keeps (h : Handle) (p : Part) : Keeps s (s.cutPart h p) :=
  (keeps_of (putCut_frame h _) rfl).trans (raiseIf_keeps _ _)

/-! ## Cranes and claims -/

theorem breach_keeps (c : Nat) : Keeps s (s.breach c) :=
  (raiseIf_keeps _ _).trans (keeps_of (putStopped_frame c _) rfl)

theorem reportBusy_keeps (c p : Nat) : Keeps s (s.reportBusy c p) := by
  unfold State.reportBusy
  dsimp only
  refine Keeps.trans (t := s.modifyCrane c fun k => { k with position := some p })
    (keeps_of (modifyCrane_frame c _) rfl) ?_
  split
  · exact keeps_of (putStopped_frame c _) rfl
  · exact breach_keeps c

theorem reportIdle_keeps (c p : Nat) : Keeps s (s.reportIdle c p) := by
  unfold State.reportIdle
  dsimp only
  refine Keeps.trans (t := s.modifyCrane c fun k => { k with position := some p })
    (keeps_of (modifyCrane_frame c _) rfl) ?_
  split
  · exact keeps_of ((putClaim_frame c _).trans (putStopped_frame c _)) rfl
  · exact breach_keeps c

theorem reportOffline_keeps (c p : Nat) : Keeps s (s.reportOffline c p) := by
  unfold State.reportOffline
  split
  · exact keeps_of (modifyCrane_frame c _) rfl
  · exact (raise_keeps _).trans (keeps_of (putStopped_frame c _) rfl)

theorem report_keeps (c p : Nat) : Keeps s (s.report c p) := by
  unfold State.report
  split
  · exact reportOffline_keeps c p
  · exact reportIdle_keeps c p
  all_goals exact reportBusy_keeps c p

/-! ## Legs -/

theorem dropIncoming_keeps (h : Handle) (p : Option Place) : Keeps s (s.dropIncoming h p) := by
  unfold State.dropIncoming
  split
  · exact modifySlot_keeps _ _ fun _ => id
  · exact keeps_of (cart_frame _) rfl
  · exact .refl

theorem addIncoming_keeps (h : Handle) (p : Place) : Keeps s (s.addIncoming h p) := by
  unfold State.addIncoming
  split
  · exact modifySlot_keeps _ _ fun _ => id
  · exact keeps_of (cart_frame _) rfl
  · exact .refl

theorem letGo_keeps (h : Handle) (l : Leg) : Keeps s (s.letGo h l) := by
  unfold State.letGo
  split
  · dsimp only
    have dropped : Keeps s (match l.plate with
        | some p => (s.dropIncoming h l.target).uncarry p
        | none => s.dropIncoming h l.target) := by
      split
      · exact (dropIncoming_keeps h _).trans (keeps_of (modifyPlate_frame _ _) rfl)
      · exact dropIncoming_keeps h _
    split
    · exact dropped.trans (keeps_of (freeCrane_frame _) rfl)
    · exact dropped
  · exact .refl

theorem stopLeg_keeps (h : Handle) (how : LegState) : Keeps s (s.stopLeg h how) := by
  unfold State.stopLeg
  split
  · exact .refl
  · dsimp only
    split
    · exact (letGo_keeps h _).trans (keeps_of (putLegState_frame h how) rfl)
    · exact (((letGo_keeps h _).trans (keeps_of (putLegState_frame h how) rfl)).trans
        (keeps_of (overLegs_frame _ _) rfl)).trans (keeps_of (settleBatch_frame _) rfl)

theorem endLeg_keeps (h : Handle) (how : LegState) : Keeps s (s.endLeg h how) := by
  unfold State.endLeg
  split
  · exact .refl
  · exact (stopLeg_keeps h how).trans (keeps_of (tellStopped_frame _) rfl)

theorem doneLeg_keeps (h : Handle) : Keeps s (s.doneLeg h) := by
  unfold State.doneLeg
  split
  · exact .refl
  · exact (((letGo_keeps h _).trans (keeps_of (putLegState_frame h _) rfl)).trans
      (keeps_of (settleBatch_frame _) rfl)).trans (keeps_of (tellDone_frame _) rfl)

theorem requeueLeg_keeps (h : Handle) : Keeps s (s.requeueLeg h) := by
  unfold State.requeueLeg
  split
  · exact .refl
  · rename_i l _
    have queued := (letGo_keeps (s := s) h l).trans (keeps_of (putLegState_frame h .queued) rfl)
    dsimp only
    split
    · exact (queued.trans (stopLeg_keeps h _)).trans (keeps_of (finishReturn_frame _ _ _) rfl)
    · split
      · exact queued.trans (endLeg_keeps h _)
      · exact queued.trans (keeps_of (modifyLeg_frame h _) rfl)

/-! ## The walk -/

theorem passOver_keeps (h : Handle) (l : Leg) (why : HoldUp) (skip : Bool) : Keeps s (s.passOver h l why skip) :=
  (keeps_of (modifyLeg_frame h _) rfl).trans (raiseIf_keeps _ _)

theorem assign_keeps (c : Nat) (h : Handle) (l : Leg) (p : Place) (q : Claim) : Keeps s (s.assign c h l p q) :=
  (((keeps_of (modifyLeg_frame h _) rfl).trans (addIncoming_keeps h p)).trans (keeps_of (carryFor_frame h l) rfl)).trans
    (keeps_of (modifyCrane_frame c _) rfl)

theorem tryLeg_keeps (c p : Nat) (h : Handle) : Keeps s (s.tryLeg c p h).1 := by
  unfold State.tryLeg
  split
  · exact .refl
  · split
    · exact passOver_keeps _ _ _ _
    · exact assign_keeps _ _ _ _ _

theorem consider_keeps (c p : Nat) (h : Handle) : Keeps s (s.consider c p h).1 := by
  unfold State.consider
  split; · exact .refl
  rename_i l _
  split; · exact .refl
  dsimp only
  split; · exact tryLeg_keeps c p h
  split; · exact (keeps_of (modifyLeg_frame h _) rfl).trans (endLeg_keeps h _)
  split; · exact passOver_keeps _ _ _ _
  split; · exact passOver_keeps _ _ _ _
  have digs : Keeps s (s.expandDigs h l (s.above l)).1 := keeps_of (expandDigs_frame h l _) rfl
  split
  · rename_i t top rest heq
    rw [heq] at digs
    exact digs.trans (tryLeg_keeps c p top)
  · rename_i t heq
    rw [heq] at digs
    exact digs

theorem walkOver_keeps (c p : Nat) (l : List Handle) : ∀ s : State, Keeps s (State.walkOver c p l s).1 := by
  induction l with
  | nil => intro s; exact .refl
  | cons h hs ih =>
    intro s
    have first := consider_keeps (s := s) c p h
    unfold State.walkOver
    split
    · rename_i t heq
      rw [heq] at first
      exact first
    · rename_i t heq
      rw [heq] at first
      exact first.trans (ih t)

/-! ## The end of a job -/

theorem consume_keeps (h : Handle) (t b : Nat) : Keeps s (s.consume h t b) :=
  (retirePlate_keeps h _).trans (keeps_of (modifyBed_frame t b _) rfl)

theorem createRemnant_keeps {j : Job} {r : PlateRec} {n b : Nat} {h : Handle}
    (hc : s.createRemnant j r n b = some (t, h)) : Keeps s t := by
  unfold State.createRemnant at hc
  dsimp only at hc
  split at hc
  · cases hc
  · split at hc
    · cases hc
    · rename_i u g hu
      simp only [Option.some.injEq, Prod.mk.injEq] at hc
      obtain ⟨rfl, -⟩ := hc
      exact (createPlate_keeps hu).trans (joinPlace_keeps g _)

theorem derive_keeps (j : Job) (t b : Nat) : Keeps s (s.derive j t b).state := by
  unfold State.derive
  split
  · exact keeps_of (modifyBed_frame t b _) rfl
  · dsimp only
    split
    · exact consume_keeps _ t b
    · rename_i u g hu
      exact (createRemnant_keeps hu).trans (consume_keeps _ t b)

/-- The last operations of a job end: the window emptied, the job's record, the promotion. -/
theorem closed_keeps {c : State} (active : Bool) (h : Handle) (f : Job → Job) (hc : Keeps s c) :
    Keeps s (if active = true then
      ((if active = true then c.emptyWindow (jobTable h) else c).modifyJob h f).promote (jobTable h) (jobBed h)
      else (if active = true then c.emptyWindow (jobTable h) else c).modifyJob h f) := by
  cases active with
  | false => exact hc.trans (keeps_of (modifyJob_frame h _) rfl)
  | true =>
    exact ((hc.trans (emptyWindow_keeps _)).trans (keeps_of (modifyJob_frame h _) rfl)).trans
      (keeps_of (promote_frame _ _) rfl)

theorem jobEnd_keeps (h : Handle) (j : Job) (pass : Bool) (v : Verdict) : Keeps s (s.jobEnd h j pass v).state := by
  unfold State.jobEnd
  refine closed_keeps _ h _ (Keeps.trans ?_ (keeps_of (commitNew_frame h _) rfl))
  refine Keeps.trans ?_ (keeps_of (shiftVerdict_frame (jobTable h) v j.nest) rfl)
  refine Keeps.trans ?_ (derive_keeps j (jobTable h) (jobBed h))
  split
  · exact .refl
  · exact keeps_of (scrapUncut_frame _) rfl

theorem cancelFetch_keeps (l : List Handle) : Keeps s (s.cancelFetch l) := by
  refine Keeps.foldl (fun s h => ?_) l s
  split
  · split
    · exact stopLeg_keeps h _
    · exact .refl
  · exact .refl

theorem abortUnpierced_keeps (h : Handle) (j : Job) : Keeps s (s.abortUnpierced h j) := by
  unfold State.abortUnpierced
  dsimp only
  have scrapped := (keeps_of (releasePlate_frame (s := s) j.plate h) rfl).trans
    (keeps_of (scrapUncut_frame j.parts) rfl)
  have rest (u : State) := ((keeps_of (shiftVerdict_frame (s := u) (jobTable h) .aborted j.nest) rfl).trans
    (cancelFetch_keeps (u.batchLegs j.fetchBatch))).trans (keeps_of (finishAbort_frame h j) rfl)
  rcases j.role == some Role.active with _ | _
  · exact scrapped.trans (rest _)
  · exact ((scrapped.trans (emptyWindow_keeps _)).trans (rest _)).trans (keeps_of (promote_frame _ _) rfl)

/-! ## Lift and set-down -/

theorem liftLoad_keeps (c : Nat) (l : Leg) (agrees : Bool) : Keeps s (s.liftLoad c l agrees) := by
  unfold State.liftLoad
  split
  · exact (movePlate_keeps _ _).trans (keeps_of (modifyPlate_frame _ _) rfl)
  · exact keeps_of (modifyBed_frame _ _ _) rfl
  · exact .refl

theorem lift_keeps (c : Nat) (h : Handle) (l : Leg) (load : Nat) (agrees : Bool) :
    Keeps s (s.lift c h l load agrees) :=
  (((liftLoad_keeps c l agrees).trans (keeps_of (modifyLeg_frame h _) rfl)).trans
    (keeps_of (modifyCrane_frame c _) rfl)).trans (raiseIf_keeps _ _)

theorem land_keeps (l : Leg) (p : Place) : Keeps s (s.land l p) := by
  unfold State.land
  split
  · exact movePlate_keeps _ p
  · split
    · exact keeps_of (modifyBed_frame _ _ _) rfl
    · exact .refl

theorem breakPlate_keeps (h : Handle) (r : PlateRec) (p : Place) : Keeps s (s.breakPlate h r p) := by
  unfold State.breakPlate
  dsimp only
  have moved := (movePlate_keeps (s := s) h p).trans
    (keeps_of (modifyPlate_frame h fun r => { r with st := { r.st with doubtful := true } }) rfl)
  split
  · exact moved.trans (endLeg_keeps _ _)
  · exact moved

/-! ## Stations -/

/-- A station whose record changes, and is not made SILENT. -/
theorem modifyStation_keeps (a : Nat) (f : Station → Station) (hsilent : ∀ st, (f st).silent = true → st.silent = true)
    (hmisses : ∀ st, st.misses ≤ 8 → (f st).misses ≤ 8) : Keeps s (s.modifyStation a f) := by
  rcases hst : s.station? a with _ | st
  · rw [State.modifyStation, hst]
    exact .refl
  refine keeps_of_stations ((modifyStation_frame a f).mono (by decide)) (fun g hg => by rwa [modifyStation_flags])
    (fun ht => .inl ?_) fun hs b x hx => ?_
  · obtain ⟨b, x, hx, hxs⟩ := anySilent_iff.1 ht
    by_cases hab : a = b
    · subst hab
      rw [station?_modifyStation_self f hst] at hx
      cases hx
      exact anySilent_iff.2 ⟨a, st, hst, hsilent st hxs⟩
    · rw [station?_modifyStation_ne f hab] at hx
      exact anySilent_iff.2 ⟨b, x, hx, hxs⟩
  · by_cases hab : a = b
    · subst hab
      rw [station?_modifyStation_self f hst] at hx
      cases hx
      exact hmisses st (hs a st hst)
    · rw [station?_modifyStation_ne f hab] at hx
      exact hs b x hx

theorem putAnswer_keeps (a : Nat) (v : AnsSlot) : Keeps s (s.putAnswer a v) :=
  modifyStation_keeps a (fun st => { st with slot := v }) (fun _ => id) fun _ => id

theorem idle_frame : OnlyChanges [.poll] s { s with poll := none } := by
  intro f hf
  cases f <;> first | rfl | exact absurd (by decide) hf

theorem heard_keeps (a : Nat) : Keeps s (s.heard a) := by
  unfold State.heard
  refine Keeps.trans (modifyStation_keeps a (fun st => { st with misses := 0, silent := false }) nofun
    fun _ _ => Nat.zero_le _) (keeps_of idle_frame rfl)

/-- An entry of the station table that is removed, or enrolled with no miss. -/
theorem putStation_keeps (a : Nat) (e : Option Station) (he : ∀ st, e = some st → st.silent = false ∧ st.misses ≤ 8) :
    Keeps s (s.putStation a e) := by
  have reads {b : Nat} {st : Station} (h : (s.putStation a e).station? b = some st) :
      s.station? b = some st ∨ e = some st := by
    obtain ⟨i, rfl, hi⟩ := station?_iff.1 h
    by_cases hai : a - 1 = i
    · subst hai
      by_cases hlt : a - 1 < 32
      · rw [State.putStation, Table.get?_set_self _ _ hlt] at hi
        exact .inr (Option.some.inj hi)
      · rw [(Table.get?_eq_none _).2 (by omega)] at hi
        cases hi
    · rw [State.putStation, Table.get?_set_ne _ _ hai] at hi
      exact .inl (station?_iff.2 ⟨i, rfl, hi⟩)
  refine keeps_of_stations ((putStation_frame a e).mono (by decide)) (fun _ => id) (fun ht => .inl ?_)
    fun hs b st hst => ?_
  · obtain ⟨b, st, hst, hsilent⟩ := anySilent_iff.1 ht
    rcases reads hst with hold | hnew
    · exact anySilent_iff.2 ⟨b, st, hold, hsilent⟩
    · rw [(he st hnew).1] at hsilent
      cases hsilent
  · rcases reads hst with hold | hnew
    · exact hs b st hold
    · exact (he st hnew).2

/-- The poll of a station ends in a miss: the count stops at eight, where the flag is raised. -/
theorem miss_keeps {a : Nat} {st : Station} (hst : s.station? a = some st) : Keeps s (s.miss a st) := by
  obtain ⟨-, -, hself, hother, hflags⟩ := miss_reads hst
  refine keeps_of_stations (miss_frame a st) (fun f hf => by rw [hflags, flagIn_or, hf, Bool.true_or])
    (fun ht => ?_) fun hs b x hx => ?_
  · obtain ⟨b, x, hx, hsilent⟩ := anySilent_iff.1 ht
    by_cases hba : b = a
    · subst hba
      rw [hself] at hx
      cases hx
      by_cases hold : st.silent = true
      · exact .inl (anySilent_iff.2 ⟨b, st, hst, hold⟩)
      · refine .inr ?_
        have hnow : st.silent = false ∧ 8 ≤ st.misses + 1 := by simpa [hold] using hsilent
        rw [hflags, if_pos hnow, flagIn_or, flagIn_bit, decide_eq_true rfl, Bool.or_true]
    · rw [hother b hba] at hx
      exact .inl (anySilent_iff.2 ⟨b, x, hx, hsilent⟩)
  · by_cases hba : b = a
    · subst hba
      rw [hself] at hx
      cases hx
      exact Nat.min_le_right _ _
    · rw [hother b hba] at hx
      exact hs b x hx

theorem failAttempt_keeps {a : Nat} {st : Station} (hst : s.station? a = some st) : Keeps s (s.failAttempt a st) := by
  unfold State.failAttempt
  split
  · exact .refl
  · split
    · exact miss_keeps hst
    · exact keeps_of (sendPoll_frame a _) rfl

/-! ## Withdrawal, the end of a scan, and enrolment -/

theorem withdrawSearch_keeps (a : Nat) : Keeps s (s.withdrawSearch a) :=
  rescan_keeps fun hs => (List.length_filter_le _ _).trans hs

theorem deferred_keeps (l : List Deferred) : Keeps s { s with deferred := l } :=
  keeps_of (own := [.deferred]) (fun f hf => by
    cases f <;> first | rfl | exact absurd (by decide) hf) rfl

theorem forget_keeps (a : Nat) : Keeps s (s.forget a) := by
  unfold State.forget
  refine Keeps.trans ?_ (withdrawSearch_keeps a)
  exact ((keeps_of (discardOpen_frame a) rfl).trans (keeps_of (putDraft_frame a []) rfl)).trans (deferred_keeps _)

theorem enrol_keeps (a : Nat) (kind : StationKind) (unit : Option Nat) (w : Nat) : Keeps s (s.enrol a kind unit w) :=
  (((forget_keeps a).trans (keeps_of (unbindCrane_frame a _) rfl)).trans
    (putStation_keeps a _ fun st hst => by cases hst; exact ⟨rfl, Nat.zero_le _⟩)).trans (enqueue_keeps _)

theorem removeStation_keeps (a : Nat) : Keeps s (s.removeStation a) := by
  unfold State.removeStation
  refine Keeps.trans (Keeps.trans ?_ (keeps_of (leaveRound_frame a) rfl)) (enqueue_keeps _)
  exact ((forget_keeps a).trans (keeps_of (unbindCrane_frame a _) rfl)).trans (putStation_keeps a none nofun)

theorem endScan_keeps (q : SearchRec) (l : List Candidate) : Keeps s (s.endScan q l) := by
  unfold State.endScan
  refine Keeps.trans ?_ (rescan_keeps id)
  split
  · split
    · exact putAnswer_keeps _ _
    · exact .refl
  · exact .refl

/-! ## The Hall Map -/

theorem putSlotCfg_keeps (k : Nat) (v : SlotCfg) : Keeps s (s.putSlotCfg k v) :=
  (keeps_of (hall_frame _) rfl).trans (examineSlot_keeps k)

end Sys2Proof.Proofs.Standing
end

section
/-! PROOFS. Every step keeps set the flags whose cause stands, and the queues within their bounds (R183, R56, R59,
R104, R166, R176): each request by what its block does, the rest of the commands one by one, start-up by its stages. -/

namespace Sys2Proof.Proofs.StandingKept

open Sys2Proof Sys2Proof.Machine
open Sys2Proof.Proofs.Tables Sys2Proof.Proofs.Flags Sys2Proof.Proofs.Blocks Sys2Proof.Proofs.Standing
open Sys2Proof.Proofs.Starts Sys2Proof.Proofs.Invariants

variable {s t : State} {k : Asker} {h : Handle}

/-- From `s` to `t` both invariants are kept. -/
structure Stays (s t : State) : Prop where
  flags : s.FlagsStand → t.FlagsStand
  queues : s.QueuesBounded → t.QueuesBounded

theorem Stays.of_keeps (h : Keeps s t) : Stays s t := ⟨FlagsStand.of_keeps h, QueuesBounded.of_keeps h⟩

theorem Stays.trans {u : State} (h : Stays s t) (g : Stays t u) : Stays s u :=
  ⟨g.flags ∘ h.flags, g.queues ∘ h.queues⟩

/-! ## Replies of the blocks -/

theorem ite_keeps {p : Prop} [Decidable p] {y z : Reply} (hy : Keeps s y.state) (hz : Keeps s z.state) :
    Keeps s (if p then y else z).state := by
  split <;> assumption

theorem registerPlate_keeps (f : RegisterF) : Keeps s (registerPlate k f s).state := by
  unfold registerPlate
  dsimp only
  split; · exact .refl
  split; · exact .refl
  split; · exact .refl
  split; · exact .refl
  split; · exact .refl
  split
  · exact .refl
  · rename_i t g ht
    have joined := (createPlate_keeps ht).trans (joinPlace_keeps g (.slot f.slot))
    exact joined

theorem amendPlate_keeps (f : AmendF) : Keeps s (amendPlate k f s).state := by
  unfold amendPlate
  dsimp only
  split; · exact .refl
  split; · exact .refl
  rename_i r _
  refine ite_keeps .refl (ite_keeps .refl (ite_keeps .refl (ite_keeps .refl (ite_keeps .refl ?_))))
  have hnew : Keeps s (s.modifyPlate f.plate (f.apply (s.massFor r.ident (f.newArea r)))) :=
    keeps_of (modifyPlate_frame _ _) rfl
  split
  · split
    · exact hnew
    · exact hnew.trans (enqueue_keeps (.state f.plate.idx))
  · rename_i place _
    exact hnew.trans (movePlate_keeps f.plate place)

theorem setHeld_keeps (v : Bool) : Keeps s (setHeld v k h s).state := by
  unfold setHeld
  split; · exact .refl
  split; · exact .refl
  split; · exact .refl
  split; · exact .refl
  split
  · exact .refl
  · exact (keeps_of (modifyPlate_frame h _) rfl).trans (enqueue_keeps _)

theorem retirePlate_request_keeps (f : RetireF) : Keeps s (retirePlate k f s).state := by
  unfold retirePlate
  split; · exact .refl
  split; · exact .refl
  split; · exact .refl
  split; · exact .refl
  split; · exact .refl
  split
  · exact .refl
  · exact retirePlate_keeps _ _

theorem findRemnant_keeps (f : FindF) : Keeps s (findRemnant k f s).state := by
  unfold findRemnant
  split; · exact .refl
  split; · exact .refl
  rename_i hroom
  refine rescan_keeps fun _ => ?_
  rw [List.length_append]
  exact Nat.not_le.1 hroom

theorem partCut_keeps (f : PartCutF) : Keeps s (partCut k f s).state := by
  unfold partCut
  split; · exact .refl
  split; · exact .refl
  split; · exact .refl
  split; · exact .refl
  split
  · exact cutPart_keeps _ _
  · exact .refl
  · exact .refl

theorem endJob_keeps (f : EndF) : Keeps s (endJob k f s).state := by
  unfold endJob
  dsimp only
  split; · exact .refl
  split; · exact .refl
  split; · exact .refl
  split; · exact .refl
  split; · exact .refl
  split
  · exact .refl
  · exact jobEnd_keeps _ _ _ _

theorem abortJob_keeps : Keeps s (abortJob k h s).state := by
  unfold abortJob
  dsimp only
  split; · exact .refl
  split; · exact .refl
  split
  · split; · exact .refl
    split
    · exact .refl
    · exact jobEnd_keeps _ _ _ _
  · split
    · exact .refl
    · exact abortUnpierced_keeps _ _

theorem nextMark_keeps : Keeps s (nextMark k () s).state := by
  unfold nextMark
  dsimp only
  split; · exact .refl
  split
  · split; · exact .refl
    split
    · exact .refl
    · rename_i hroom
      refine (keeps_of (modifyPart_frame _ _) rfl).trans (putWindow_keeps _ _ fun _ => ?_)
      rw [List.length_append]
      exact Nat.not_le.1 hroom
  · exact .refl

theorem confirmMark_keeps (o : MarkOutcome) : Keeps s (confirmMark o k h s).state := by
  unfold confirmMark
  dsimp only
  split; · exact .refl
  split
  · refine Keeps.trans ?_ (raiseIf_keeps _ _)
    refine (keeps_of (modifyPart_frame _ _) rfl).trans (putWindow_keeps _ _ fun hs => ?_)
    have hlen := hs k.unitNum
    rw [List.length_tail]
    exact (Nat.sub_le _ _).trans hlen
  · split <;> exact .refl

theorem handOver_state (c : Nat) : (s.handOver c).state = s := by
  obtain ⟨code, fields, hy, -⟩ := handOver_same (s := s) c
  rw [hy, Reply.state]

theorem parkOrWait_state (c : Nat) : (s.parkOrWait c).state = s := by
  obtain ⟨code, fields, hy, -⟩ := parkOrWait_same (s := s) c
  rw [hy, Reply.state]

theorem nextLeg_keeps : Keeps s (nextLeg k () s).state := by
  unfold nextLeg
  split
  · exact .refl
  · unfold State.nextFor
    split; · exact .refl
    rename_i p _
    split; · exact .refl
    have walked := walkOver_keeps k.unitNum p ((s.walk (s.craneBay k.unitNum)).map (·.1)) s
    split
    · rename_i t ht
      rw [ht] at walked
      exact (handOver_state (s := t) k.unitNum).symm ▸ walked
    · rename_i t ht
      rw [ht] at walked
      exact (parkOrWait_state (s := t) k.unitNum).symm ▸ walked
  · rw [handOver_state]
    exact .refl
  · exact .refl
  · exact .refl

theorem reported_state (l : Leg) (code : AnsCode) (fields : List Token) : (l.reported s code fields).state = s := by
  unfold Leg.reported
  split <;> rfl

theorem liftedReport_keeps (f : LiftedF) : Keeps s (liftedReport k f s).state := by
  unfold liftedReport
  dsimp only
  split; · exact .refl
  split; · exact .refl
  split
  · exact .refl
  · exact .refl
  · split; · exact .refl
    split; · exact .refl
    split
    · rw [reported_state]
      exact lift_keeps _ _ _ _ _
    · rw [reported_state]
      exact lift_keeps _ _ _ _ _
  · exact .refl

theorem setBack_keeps (l : Leg) (p : Place) : Keeps s (s.setBack h l p).state := by
  unfold State.setBack
  split
  · rw [reported_state]
    exact (land_keeps l p).trans (requeueLeg_keeps h)
  · exact .refl

theorem setDownLifted_keeps (l : Leg) (p : Place) : Keeps s (s.setDownLifted h l p).state := by
  unfold State.setDownLifted
  split
  · split
    · rw [reported_state]
      exact (land_keeps l p).trans (doneLeg_keeps h)
    · exact .refl
  · split
    · rw [reported_state]
      exact (land_keeps l p).trans (requeueLeg_keeps h)
    · exact .refl

theorem setDownReport_keeps (f : SetDownF) : Keeps s (setDownReport k f s).state := by
  unfold setDownReport
  split; · exact .refl
  split; · exact .refl
  split; · exact .refl
  split; · exact .refl
  split
  · exact setBack_keeps _ _
  · exact setDownLifted_keeps _ _
  · exact .refl

theorem legFault_keeps : Keeps s (legFault k h s).state := by
  unfold legFault
  split; · exact .refl
  split
  · exact requeueLeg_keeps h
  · exact .refl

theorem cancelLeg_keeps : Keeps s (cancelLeg k h s).state := by
  unfold cancelLeg
  split; · exact .refl
  split
  · split
    · exact endLeg_keeps h _
    · exact .refl
  · exact requeueLeg_keeps h
  · exact .refl

theorem breakSkeleton_keeps (l : Leg) (p : Place) : Keeps s (s.breakSkeleton h l p).state := by
  unfold State.breakSkeleton
  split
  · exact doneLeg_keeps h
  · split
    · exact (keeps_of (modifyBed_frame _ _ _) rfl).trans (endLeg_keeps h _)
    · exact .refl
  · exact .refl

theorem breakHook_keeps (f : BreakHookF) : Keeps s (breakHook k f s).state := by
  unfold breakHook
  split; · exact .refl
  split; · exact .refl
  split
  · split; · exact .refl
    split; · exact .refl
    split; · exact .refl
    split
    · exact .refl
    · exact breakPlate_keeps _ _ _
  · split
    · exact .refl
    · exact breakSkeleton_keeps _ _

theorem setReply_keeps (g : Group) (same : Bool) (ht : Keeps s t) : Keeps s (setReply s t g same).state := by
  unfold setReply
  split
  · exact .refl
  · exact ht.trans (enqueue_keeps _)

theorem setGrade_keeps (f : SetGradeF) : Keeps s (setGrade k f s).state := by
  unfold setGrade
  split; · exact .refl
  split; · exact .refl
  split; · exact .refl
  exact setReply_keeps _ _ (keeps_of (hall_frame _) rfl)

theorem setSlot_keeps (f : SetSlotF) : Keeps s (setSlot k f s).state := by
  unfold setSlot
  split; · exact .refl
  split; · exact .refl
  split; · exact .refl
  exact setReply_keeps _ _ (putSlotCfg_keeps _ _)

theorem setTable_keeps (f : SetTableF) : Keeps s (setTable k f s).state := by
  unfold setTable
  split; · exact .refl
  split; · exact .refl
  exact setReply_keeps _ _ (keeps_of (hall_frame _) rfl)

theorem setCrane_keeps (f : SetCraneF) : Keeps s (setCrane k f s).state := by
  unfold setCrane
  split; · exact .refl
  split; · exact .refl
  split; · exact .refl
  exact setReply_keeps _ _ (keeps_of (placeCrane_frame _ _) rfl)

theorem setCart_keeps (f : SetBayF) : Keeps s (setCart k f s).state := by
  unfold setCart
  split; · exact .refl
  split; · exact .refl
  split; · exact .refl
  exact setReply_keeps _ _ (keeps_of (hall_frame _) rfl)

theorem setScrapBin_keeps (f : SetBayF) : Keeps s (setScrapBin k f s).state := by
  unfold setScrapBin
  split; · exact .refl
  split; · exact .refl
  split; · exact .refl
  exact setReply_keeps _ _ (keeps_of (hall_frame _) rfl)

theorem setRunway_keeps (f : SetBayF) : Keeps s (setRunway k f s).state := by
  unfold setRunway
  split; · exact .refl
  split; · exact .refl
  split; · exact .refl
  exact setReply_keeps _ _ (keeps_of (hall_frame _) rfl)

theorem setAlertMask_keeps (f : AlertF) : Keeps s (setAlertMask k f s).state := by
  unfold setAlertMask
  split; · exact .refl
  split; · exact .refl
  split; · exact .refl
  exact setReply_keeps _ _ (keeps_of (hall_frame _) rfl)

theorem enrolStation_keeps (f : EnrolF) : Keeps s (enrolStation k f s).state := by
  unfold enrolStation
  split; · exact .refl
  split; · exact .refl
  split; · exact .refl
  split; · exact .refl
  split; · exact .refl
  split
  · exact .refl
  · exact enrol_keeps _ _ _ _

theorem removeStation_request_keeps (a : Nat) : Keeps s (removeStation k a s).state := by
  unfold removeStation
  split; · exact .refl
  split; · exact .refl
  split; · exact .refl
  split
  · exact .refl
  · exact removeStation_keeps _

theorem fetchResult_keeps : Keeps s (fetchResult k () s).state := by
  unfold fetchResult
  split; · exact .refl
  split
  · exact .refl
  · exact .refl
  · exact putAnswer_keeps _ _

theorem openBatchFor_keeps : Keeps s (openBatchFor k () s).state := keeps_of openBatchFor_frame rfl

/-- Clear Alarms sets again what still stands (R184). -/
theorem clearAlarms_stays (v : Nat) : Stays s (clearAlarms k v s).state := by
  unfold clearAlarms
  split
  · exact .of_keeps .refl
  · generalize BitVec.ofNat 12 v = set
    have stands {f : Alarm} (hs : flagIn s.flags f = true) (hf : flagIn s.standing f = true) :
        flagIn (s.clearFlags set).flags f = true := by
      rw [flagIn_clearFlags]
      split <;> assumption
    refine ⟨fun hs => ⟨fun hphase hsilent => ?_, fun hphase hpfw => ?_, fun hphase hmark => ?_⟩,
      fun hs => ⟨hs.images, hs.searches, hs.scanning, hs.windows, hs.misses⟩⟩
    · refine stands (hs.silent hphase hsilent) ?_
      rw [flagIn_standing]
      exact anySilent_iff.2 hsilent
    · refine stands (hs.warning hphase hpfw) ?_
      rw [flagIn_standing]
      exact hpfw
    · refine stands (hs.marked hphase hmark) ?_
      rw [flagIn_standing]
      exact anyOverCap_iff.2 hmark

/-! ## Requests -/

theorem answer_keeps (c : AnsCode) (l : List Token) : Keeps s (s.answer k c l) := keeps_of (answer_frame k c l) rfl

theorem deliver_keeps (r : Req) (y : Reply) : Keeps y.state (State.deliver r k y) := by
  cases y with
  | now u code fields => exact answer_keeps _ _
  | complete u code fields => exact (putAnswer_keeps _ _).trans (answer_keeps _ _)
  | search u => exact (putAnswer_keeps _ _).trans (answer_keeps _ _)
  | waits u images code fields =>
    cases images with
    | nil => exact (putAnswer_keeps _ _).trans (answer_keeps _ _)
    | cons i is => exact ((putAnswer_keeps _ _).trans (keeps_of (defer_frame _) rfl)).trans (answer_keeps _ _)

/-- A request keeps the invariants when its block does. -/
theorem request_stays {α : Type} {r : Req} {tag : Byte} {p : Payload α} {body : Asker → α → State → Reply}
    (hbody : ∀ k v s, Stays s (body k v s).state) (h : request r tag p s body = .next t) : Stays s t := by
  obtain ⟨a, st, -, rfl⟩ := request_next h
  rcases handle_cases (s := s) (a := a) (st := st) (r := r) (tag := tag) (p := p) (body := body) with
    ⟨code, hh⟩ | ⟨v, -, hh⟩ <;> rw [hh]
  · exact .of_keeps ((heard_keeps a).trans (answer_keeps _ _))
  · exact ((Stays.of_keeps (heard_keeps a)).trans (hbody _ _ _)).trans (.of_keeps (deliver_keeps r _))

theorem request_keeps {α : Type} {r : Req} {tag : Byte} {p : Payload α} {body : Asker → α → State → Reply}
    (hbody : ∀ k v s, Keeps s (body k v s).state) (h : request r tag p s body = .next t) : Stays s t :=
  request_stays (fun k v s => .of_keeps (hbody k v s)) h

/-- A read changes nothing. -/
theorem read_keeps {α : Type} {r : Req} {tag : Byte} {p : Payload α} {body : Asker → α → State → Reply}
    (hreads : ∀ k v s, (body k v s).state = s) (h : request r tag p s body = .next t) : Stays s t :=
  request_keeps (fun k v s => (hreads k v s).symm ▸ .refl) h

/-! ## The other commands -/

theorem poll_keeps (h : execPoll s = .next t) : Keeps s t := by
  have sent {u : State} {a n : Nat} (hu : OnlyChanges [.round, .roundPos] s u) : Keeps s (u.sendPoll a n) :=
    (keeps_of hu rfl).trans (keeps_of (sendPoll_frame a n) rfl)
  unfold execPoll at h
  split at h <;> try cases h
  split at h <;> try cases h
  split at h <;> try cases h
  split at h
  · cases h
    refine sent fun f hf => ?_
    cases f <;> first | rfl | exact absurd (by decide) hf
  · split at h <;> cases h
    refine sent fun f hf => ?_
    cases f <;> first | rfl | exact absurd (by decide) hf

theorem pollEvent_keeps {f : Nat → Station → State} (hf : ∀ a st, s.station? a = some st → Keeps s (f a st))
    (h : pollEvent s f = .next t) : Keeps s t := by
  unfold pollEvent at h
  split at h
  · cases h
  · cases h
  · rename_i a st hdue
    cases h
    exact hf a st (due_station hdue)

theorem scanReachEntry_keeps (h : execScanReachEntry s = .next t) : Keeps s t := by
  unfold execScanReachEntry at h
  split at h <;> try cases h
  split at h <;> try cases h
  dsimp only at h
  split at h <;> cases h
  · refine keeps_of_searches (fun f hf => ?_) id fun _ => nofun
    cases f <;> first | rfl | exact absurd (by decide) hf
  · exact endScan_keeps _ _

/-- The image that a write begins with leaves the queue. -/
theorem writeStart_keeps (h : execWriteStart s = .next t) : Keeps s t := by
  unfold execWriteStart at h
  split at h <;> try cases h
  split at h <;> cases h
  rename_i i rest _ hqueue
  refine keeps_of_queue (own := [.queue, .inFlight, .deferred]) (fun f hf => ?_) (fun hs => ?_) rfl
  · cases f <;> first | rfl | exact absurd (by decide) hf
  · rw [hqueue] at hs
    exact hs.of_cons

theorem written_keeps (x : Store) (w : Option Write) : Keeps s { s with store := x, inFlight := w } :=
  keeps_of (own := [.store, .inFlight]) (fun f hf => by
    cases f <;> first | rfl | exact absurd (by decide) hf) rfl

theorem writeEnd_keeps {fate : WriteFate} (h : execWriteEnd fate s = .next t) : Keeps s t := by
  unfold execWriteEnd at h
  split at h <;> try cases h
  split at h <;> try cases h
  rename_i w _
  dsimp only at h
  split at h
  · cases h
    exact (written_keeps _ s.inFlight).trans (keeps_of (writeDone_frame w _) rfl)
  · split at h <;> cases h
    · exact written_keeps _ _
    · exact ((written_keeps _ s.inFlight).trans (raise_keeps _)).trans (keeps_of (writeDone_frame w _) rfl)

theorem complete_keeps (d : Deferred) : Keeps s (s.complete d) := by
  unfold State.complete
  split
  · exact .refl
  · split
    · exact .refl
    · split
      · exact putAnswer_keeps _ _
      · exact .refl

theorem deferredComplete_keeps {n : Nat} (h : execDeferredComplete n s = .next t) : Keeps s t := by
  unfold execDeferredComplete at h
  split at h <;> try cases h
  split at h <;> try cases h
  split at h <;> cases h
  exact (complete_keeps _).trans (deferred_keeps _)

/-- POWER_WARNING is raised at the edge of PFW, and stands while PFW does (R177). -/
theorem pfwAssert_stays (h : execPfwAssert s = .next t) : Stays s t := by
  obtain rfl : State.raiseIf { s with pfw := true } (s.phase.writes && !s.pfw) .powerWarning = t := by
    simpa [execPfwAssert] using h
  have hkeeps := raiseIf_keeps (s := { s with pfw := true }) (s.phase.writes && !s.pfw) .powerWarning
  refine ⟨fun hs => ?_, fun hs => ?_⟩
  · refine ⟨fun hphase hsilent => ?_, fun hphase _ => ?_, fun hphase hmark => ?_⟩
    all_goals rw [hkeeps.phase] at hphase
    · rcases hkeeps.silent (anySilent_iff.2 hsilent) with hold | hflag
      · exact hkeeps.flags _ (hs.silent hphase (anySilent_iff.1 hold))
      · exact hflag
    · by_cases hpfw : s.pfw = true
      · exact hkeeps.flags _ (hs.warning hphase hpfw)
      · have hwrites : (s.phase.writes && !s.pfw) = true := by
          rcases hphase with h | h <;> simp_all [Phase.writes]
        rw [hwrites, State.raiseIf, if_pos rfl, State.raise, flagIn_or, flagIn_bit, decide_eq_true rfl, Bool.or_true]
    · obtain ⟨k, hk⟩ := hmark
      exact hkeeps.flags _ (hs.marked hphase ⟨k, hkeeps.marked k hk⟩)
  · exact QueuesBounded.of_keeps hkeeps ⟨hs.images, hs.searches, hs.scanning, hs.windows, hs.misses⟩

theorem pfwRelease_stays (h : execPfwRelease s = .next t) : Stays s t := by
  obtain rfl : { s with pfw := false } = t := by simpa [execPfwRelease] using h
  exact ⟨fun hs => ⟨hs.silent, nofun, hs.marked⟩,
    fun hs => ⟨hs.images, hs.searches, hs.scanning, hs.windows, hs.misses⟩⟩

theorem startupEnd_stays (h : execStartupEnd s = .next t) : Stays s t := by
  unfold execStartupEnd at h
  split at h <;> try cases h
  rename_i hphase
  split at h <;> cases h
  exact ⟨fun hs => ⟨fun _ => hs.silent (.inl hphase), fun _ => hs.warning (.inl hphase),
      fun _ => hs.marked (.inl hphase)⟩,
    fun hs => ⟨hs.images, hs.searches, hs.scanning, hs.windows, hs.misses⟩⟩

/-! ## Resets and start-up -/

/-- In reset and without supply no flag is due. -/
theorem flagsStand_of_held (h : s.phase = .off ∨ s.phase = .inReset) : s.FlagsStand := by
  have never (hphase : s.phase = .startup ∨ s.phase = .running) : False := by
    rcases h with h | h <;> rcases hphase with hp | hp <;> rw [h] at hp <;> cases hp
  exact ⟨fun hp => (never hp).elim, fun hp => (never hp).elim, fun hp => (never hp).elim⟩

theorem loaded_bounded (x : Store) : (loaded s x).QueuesBounded where
  images := List.nodup_nil
  searches := Nat.zero_le _
  scanning _ := rfl
  windows n := by
    rw [show (loaded s x).window n = State.reset.window n from rfl, reset_window]
    exact Nat.zero_le _
  misses a st hst := by
    obtain ⟨-, -, hmisses, -, -⟩ := stationTable_fresh rfl hst
    exact hmisses ▸ Nat.zero_le _

theorem cleared_bounded (ph : Phase) (x : Store) : (s.cleared ph x).QueuesBounded where
  images := List.nodup_nil
  searches := Nat.zero_le _
  scanning _ := rfl
  windows n := by
    rw [show (s.cleared ph x).window n = State.reset.window n from rfl, reset_window]
    exact Nat.zero_le _
  misses a st hst := by
    obtain ⟨-, -, hmisses, -, -⟩ := stationTable_fresh rfl hst
    exact hmisses ▸ Nat.zero_le _

/-- A part held in reset or without supply, its collections cleared. -/
theorem cleared_stays {ph : Phase} (x : Store) (hph : ph = .off ∨ ph = .inReset) : Stays s (s.cleared ph x) :=
  ⟨fun _ => flagsStand_of_held hph, fun _ => cleared_bounded ph x⟩

theorem raiseFound_keeps : Keeps s s.raiseFound := (raiseIf_keeps _ _).trans (raiseIf_keeps _ _)

theorem settleLocations_keeps : Keeps s s.settleLocations :=
  Keeps.foldl (fun _ h => (keeps_of (modifyPlate_frame h _) rfl).trans (enqueue_keeps _)) _ s

theorem settleDerivations_keeps : Keeps s s.settleDerivations :=
  Keeps.foldl (fun _ h => (keeps_of (modifyPlate_frame h _) rfl).trans (enqueue_keeps _)) _ s

theorem settled_keeps (x : Store) : Keeps (loaded s x) (settled s x) :=
  (((enqueueAll_keeps _).trans raiseFound_keeps).trans settleLocations_keeps).trans settleDerivations_keeps

theorem restack_keeps (k : Nat) (l : List Handle) : ∀ (level : Nat) (s : State), Keeps s (restack k level l s) := by
  induction l with
  | nil => intro level s; exact .refl
  | cons h hs ih =>
    intro level s
    rw [restack_cons]
    refine Keeps.trans ?_ (ih _ _)
    unfold putLevel
    split
    · split
      · exact .refl
      · exact (keeps_of (putLocation_frame h _) rfl).trans (enqueue_keeps _)
    · exact .refl

/-- The places rebuilt queue each image once, whatever slots are marked. -/
theorem rebuildPlaces_nodup (hs : s.queue.Nodup) : s.rebuildPlaces.queue.Nodup := by
  have slot (k : Nat) (u : State) (hu : u.queue.Nodup) : (u.rebuildSlot k).queue.Nodup := by
    have hrestacked := (restack_keeps k (u.storedStack k) 0 u).images hu
    rw [rebuildSlot_eq]
    split <;> exact hrestacked
  have slots (l : List Nat) : ∀ u : State, u.queue.Nodup → (l.foldl State.rebuildSlot u).queue.Nodup := by
    induction l with
    | nil => intro u hu; exact hu
    | cons k ks ih => intro u hu; exact ih _ (slot k u hu)
  rw [rebuildPlaces_queue, rebuiltSlots]
  exact slots (List.range 96) s hs

theorem bounded_of_places (h : OnlyChanges [.plates, .queue, .slots, .beds, .cart, .flags] s t) (hq : t.queue.Nodup)
    (hs : s.QueuesBounded) : t.QueuesBounded where
  images := hq
  searches := (show t.searchQueue = s.searchQueue from h .searchQueue (by decide)) ▸ hs.searches
  scanning := by
    rw [show t.scan = s.scan from h .scan (by decide),
      show t.searchQueue = s.searchQueue from h .searchQueue (by decide)]
    exact hs.scanning
  windows n := by
    rw [State.window, show t.windows = s.windows from h .windows (by decide)]
    exact hs.windows n
  misses a st hst := by
    rw [station?_congr (show t.stations = s.stations from h .stations (by decide))] at hst
    exact hs.misses a st hst

/-- A slot that start-up marks has OVER_CAPACITY raised (R54, R182). -/
theorem rebuildPlaces_marked {k : Nat} (h : (s.rebuildPlaces.slot k).overCap = true) :
    flagIn s.rebuildPlaces.flags .overCapacity = true := by
  rw [rebuildPlaces_eq] at h ⊢
  have hany : (rebuiltBeds (rebuiltSlots s)).anyOverCap = true := by
    rw [State.slot, raiseIf_slots] at h
    exact anyOverCap_iff.2 ⟨k, h⟩
  rw [State.raiseIf, if_pos hany, State.raise, flagIn_or, flagIn_bit, decide_eq_true rfl, Bool.or_true]

theorem startUp_keeps (x : Store) : Keeps (settled s x).rebuildPlaces (s.startUp x) := by
  have counted (u : State) : Keeps u { u with seqCounter := u.store.counter, headerFloor := u.store.counter } :=
    keeps_of (own := [.seqCounter, .headerFloor]) (fun f hf => by
      cases f <;> first | rfl | exact absurd (by decide) hf) rfl
  exact (((counted _).trans (enqueue_keeps _)).trans (raise_keeps _)).trans (raiseIf_keeps _ _)

theorem startUp_bounded (x : Store) : (s.startUp x).QueuesBounded :=
  have settled := QueuesBounded.of_keeps (settled_keeps (s := s) x) (loaded_bounded x)
  QueuesBounded.of_keeps (startUp_keeps x)
    (bounded_of_places rebuildPlaces_frame (rebuildPlaces_nodup settled.images) settled)

theorem startUp_flagsStand (x : Store) : (s.startUp x).FlagsStand where
  silent _ := by
    rintro ⟨a, st, hst, hsilent⟩
    have hstations : (s.startUp x).stations = stationTable (x.readStations.value.getD StationCfg.factory) :=
      startUp_frame .stations (by decide)
    obtain ⟨-, -, -, hloud, -⟩ := stationTable_fresh hstations hst
    rw [hloud] at hsilent
    cases hsilent
  warning _ hpfw := by
    have hsame : (s.startUp x).pfw = s.pfw := startUp_frame .pfw (by decide)
    rw [hsame] at hpfw
    rw [startUp_eq, hpfw, State.raiseIf, if_pos rfl, State.raise, flagIn_or, flagIn_bit, decide_eq_true rfl,
      Bool.or_true]
  marked _ := by
    rintro ⟨k, hk⟩
    exact (startUp_keeps x).flags _ (rebuildPlaces_marked ((startUp_keeps x).marked k hk))

theorem startUp_stays (x : Store) : Stays s (s.startUp x) := ⟨fun _ => startUp_flagsStand x, fun _ => startUp_bounded x⟩

theorem rst_keeps (v : Bool) : Keeps s { s with rst := v } :=
  keeps_of (own := [.rst]) (fun f hf => by
    cases f <;> first | rfl | exact absurd (by decide) hf) rfl

theorem powerOn_stays {d : Decay} (h : execPowerOn d s = .next t) : Stays s t := by
  unfold execPowerOn at h
  split at h <;> try cases h
  split at h <;> cases h
  · exact cleared_stays _ (.inr rfl)
  · exact startUp_stays _

theorem rstAssert_stays {fate : WriteFate} (h : execRstAssert fate s = .next t) : Stays s t := by
  unfold execRstAssert at h
  split at h <;> cases h
  · exact .of_keeps (rst_keeps true)
  · exact .of_keeps (rst_keeps true)
  · exact (Stays.of_keeps (rst_keeps true)).trans (cleared_stays _ (.inr rfl))

theorem rstRelease_stays {d : Decay} (h : execRstRelease d s = .next t) : Stays s t := by
  unfold execRstRelease at h
  split at h <;> cases h
  · exact (Stays.of_keeps (rst_keeps false)).trans (startUp_stays _)
  · exact .of_keeps (rst_keeps false)

theorem restartReset_stays {d : Decay} (h : execRestartReset d s = .next t) : Stays s t := by
  unfold execRestartReset at h
  split at h <;> cases h
  exact startUp_stays _

theorem powerLoss_stays {fate : WriteFate} (h : execPowerLoss fate s = .next t) : Stays s t := by
  unfold execPowerLoss at h
  split at h <;> cases h
  exact cleared_stays _ (.inl rfl)

/-! ## Every command -/

theorem exec_stays {c : Instr} (h : exec c s = .next t) : Stays s t := by
  cases c with
  | poll => exact .of_keeps (poll_keeps h)
  | replyTimeout => exact .of_keeps (pollEvent_keeps (fun _ _ => failAttempt_keeps) h)
  | badFrame | wrongAddressFrame =>
    exact .of_keeps (pollEvent_keeps (fun _ _ hst => (raise_keeps _).trans (failAttempt_keeps hst)) h)
  | idleFrame => exact .of_keeps (pollEvent_keeps (fun a _ _ => heard_keeps a) h)
  | unknownRequestCode =>
    exact .of_keeps (pollEvent_keeps (fun a _ _ => (heard_keeps a).trans (answer_keeps _ _)) h)
  | scanReachEntry => exact .of_keeps (scanReachEntry_keeps h)
  | writeStart => exact .of_keeps (writeStart_keeps h)
  | writeEnd => exact .of_keeps (writeEnd_keeps h)
  | deferredComplete => exact .of_keeps (deferredComplete_keeps h)
  | pfwAssert => exact pfwAssert_stays h
  | pfwRelease => exact pfwRelease_stays h
  | startupEnd => exact startupEnd_stays h
  | powerOn => exact powerOn_stays h
  | rstAssert => exact rstAssert_stays h
  | rstRelease => exact rstRelease_stays h
  | restartReset => exact restartReset_stays h
  | powerLoss => exact powerLoss_stays h
  | fetchResult => exact request_keeps (fun _ _ _ => fetchResult_keeps) h
  | enrolStation => exact request_keeps (fun _ f _ => enrolStation_keeps f) h
  | removeStation => exact request_keeps (fun _ a _ => removeStation_request_keeps a) h
  | registerPlate => exact request_keeps (fun _ f _ => registerPlate_keeps f) h
  | amendPlate => exact request_keeps (fun _ f _ => amendPlate_keeps f) h
  | holdPlate | releasePlate => exact request_keeps (fun _ _ _ => setHeld_keeps _) h
  | retirePlate => exact request_keeps (fun _ f _ => retirePlate_request_keeps f) h
  | findRemnant => exact request_keeps (fun _ f _ => findRemnant_keeps f) h
  | stageParts => exact request_keeps (fun _ f _ => keeps_of (stageParts_serves f).frame rfl) h
  | admitJob => exact request_keeps (fun _ f _ => keeps_of (admitJob_serves f).frame rfl) h
  | startJob => exact request_keeps (fun _ _ _ => keeps_of startJob_serves.frame rfl) h
  | partCut => exact request_keeps (fun _ f _ => partCut_keeps f) h
  | pauseJob => exact request_keeps (fun _ f _ => keeps_of (pauseJob_serves f).frame rfl) h
  | resumeJob => exact request_keeps (fun _ _ _ => keeps_of resumeJob_serves.frame rfl) h
  | endJob => exact request_keeps (fun _ f _ => endJob_keeps f) h
  | abortJob => exact request_keeps (fun _ _ _ => abortJob_keeps) h
  | clearBed => exact request_keeps (fun _ f _ => keeps_of (clearBed_serves f).frame rfl) h
  | nextMark => exact request_keeps (fun _ _ _ => nextMark_keeps) h
  | markMade | markFailed => exact request_keeps (fun _ _ _ => confirmMark_keeps _) h
  | confirmManualMark => exact request_keeps (fun _ _ _ => keeps_of confirmManualMark_serves.frame rfl) h
  | scrapPart => exact request_keeps (fun _ _ _ => keeps_of scrapPart_serves.frame rfl) h
  | sortPart => exact request_keeps (fun _ f _ => keeps_of (sortPart_serves f).frame rfl) h
  | dispatchPallet => exact request_keeps (fun _ n _ => keeps_of (dispatchPallet_serves n).frame rfl) h
  | openBatch => exact request_keeps (fun _ _ _ => openBatchFor_keeps) h
  | addLeg => exact request_keeps (fun _ f _ => keeps_of (addLeg_serves f).frame rfl) h
  | commitBatch => exact request_keeps (fun _ _ _ => keeps_of commitBatchFor_serves.frame rfl) h
  | nextLeg => exact request_keeps (fun _ _ _ => nextLeg_keeps) h
  | lifted => exact request_keeps (fun _ f _ => liftedReport_keeps f) h
  | setDown => exact request_keeps (fun _ f _ => setDownReport_keeps f) h
  | acceptLoad => exact request_keeps (fun _ _ _ => keeps_of acceptLoad_serves.frame rfl) h
  | legFault => exact request_keeps (fun _ _ _ => legFault_keeps) h
  | cancelLeg => exact request_keeps (fun _ _ _ => cancelLeg_keeps) h
  | breakHook => exact request_keeps (fun _ f _ => breakHook_keeps f) h
  | nextTrip => exact request_keeps (fun _ _ _ => keeps_of nextTrip_serves.frame rfl) h
  | cartArrived => exact request_keeps (fun _ v _ => keeps_of (cartArrived_serves v).frame rfl) h
  | craneReport => exact request_keeps (fun _ _ _ => report_keeps _ _) h
  | setGrade => exact request_keeps (fun _ f _ => setGrade_keeps f) h
  | setSlot => exact request_keeps (fun _ f _ => setSlot_keeps f) h
  | setTable => exact request_keeps (fun _ f _ => setTable_keeps f) h
  | setCrane => exact request_keeps (fun _ f _ => setCrane_keeps f) h
  | setCart => exact request_keeps (fun _ f _ => setCart_keeps f) h
  | setScrapBin => exact request_keeps (fun _ f _ => setScrapBin_keeps f) h
  | setRunway => exact request_keeps (fun _ f _ => setRunway_keeps f) h
  | setAlertMask => exact request_keeps (fun _ f _ => setAlertMask_keeps f) h
  | restart => exact request_keeps (fun _ _ _ => keeps_of (restartPending_frame true) rfl) h
  | clearAlarms => exact request_stays (fun _ v _ => clearAlarms_stays v) h
  | readStation | readSlot | readTable | readMarkerWindow | readPallet | readCrane
  | readSearchQueue | readAlarms | readPlate | readPart | readJobParts | readLeg | readBatch | readRunway
  | readHallMap => exact read_keeps (fun _ _ _ => by first | rfl | (split <;> rfl)) h

theorem step_stays (h : step s = .next t) : Stays s t := by
  unfold step at h
  split at h
  · cases h
    exact .of_keeps .refl
  · rename_i c rest _
    refine Stays.trans (.of_keeps (keeps_of (own := [.pending]) (fun f hf => ?_) rfl)) (exec_stays h)
    cases f <;> first | rfl | exact absurd (by decide) hf

/-- Settles O58: each command keeps both invariants; a request because its block and the delivery of its reply do. -/
theorem flagsAndQueuesKept : Obligations.FlagsAndQueuesKept := by
  unfold Obligations.FlagsAndQueuesKept
  exact ⟨fun _ _ hs h => (step_stays h).flags hs, fun _ _ hs h => (step_stays h).queues hs⟩

end Sys2Proof.Proofs.StandingKept
end

section
/-! PROOFS. The words of the array: what a read judges of them, and what a write leaves of them (R175, R178). -/

namespace Sys2Proof.Proofs.Cells

open Sys2Proof Sys2Proof.Machine

variable {m old : Image} {c : Cell} {ws : List (BitVec 64)} {k b : Nat}

/-! ## Bits that flip -/

theorem flip_getLsbD (bit : Nat) (hb : b < 72) :
    (c.flip bit).flipped.getLsbD b = (c.flipped.getLsbD b != (bit == b)) := by
  have hbit : (1#72 <<< bit).getLsbD b = (bit == b) := by
    rw [BitVec.getLsbD_shiftLeft, BitVec.getLsbD_one, Bool.eq_iff_iff]
    simp only [Bool.and_eq_true, Bool.not_eq_true', decide_eq_true_eq, decide_eq_false_iff_not, beq_iff_eq]
    omega
  rw [Cell.flip, BitVec.getLsbD_xor, hbit, Bool.bne_eq_xor]

/-- The flips of a write that name one word. -/
def flipAll (k : Nat) (flips : List (Nat × Nat)) (c : Cell) : Cell :=
  flips.foldl (fun c e => if e.1 = k then c.flip e.2 else c) c

theorem flipAll_data (flips : List (Nat × Nat)) : (flipAll k flips c).data = c.data := by
  unfold flipAll
  induction flips generalizing c with
  | nil => rfl
  | cons e es ih =>
    rw [List.foldl_cons, ih]
    split <;> rfl

theorem flipAll_flipped (flips : List (Nat × Nat)) (hb : b < 72) :
    (flipAll k flips c).flipped.getLsbD b = (c.flipped.getLsbD b != (flips.count (k, b) % 2 == 1)) := by
  unfold flipAll
  induction flips generalizing c with
  | nil => simp
  | cons e es ih =>
    have hone (n : Nat) : ((n + 1) % 2 == 1) = !(n % 2 == 1) := by
      rw [Bool.eq_iff_iff]
      simp
      omega
    rw [List.foldl_cons, ih, List.count_cons]
    by_cases hk : e.1 = k
    · rw [if_pos hk, flip_getLsbD _ hb]
      by_cases he : e.2 = b
      · rw [if_pos (by simp [← hk, ← he]), hone, beq_iff_eq.2 he]
        cases c.flipped.getLsbD b <;> cases List.count (k, b) es % 2 == 1 <;> rfl
      · rw [if_neg (by rintro h; exact he (congrArg Prod.snd (eq_of_beq h))), Nat.add_zero, beq_eq_false_iff_ne.2 he,
          Bool.bne_false]
    · rw [if_neg hk, if_neg (by rintro h; exact hk (congrArg Prod.fst (eq_of_beq h))), Nat.add_zero]

theorem cell?_flip (j bit : Nat) :
    (Image.flip j bit m).cell? k = (m.cell? k).map fun c => if j = k then c.flip bit else c := by
  unfold Image.flip Image.cell?
  rw [List.getElem?_modify]
  rcases m[k]? with _ | _ | c
  · rfl
  · by_cases hjk : j = k <;> simp [hjk]
  · by_cases hjk : j = k <;> simp [hjk]

theorem cell?_flips (flips : List (Nat × Nat)) :
    Image.cell? (flips.foldl (fun m e => m.flip e.1 e.2) m) k = (m.cell? k).map (flipAll k flips) := by
  induction flips generalizing m with
  | nil => exact (Option.map_id' (x := m.cell? k)).symm
  | cons e es ih =>
    rw [List.foldl_cons, ih, cell?_flip, Option.map_map]
    rfl

/-! ## Writes -/

theorem cell?_reached (left : List Nat) : Image.cell? (old.reached left ws) k
    = if k < ws.length ∧ k ∈ left then old.cell? k else (ws[k]?).map Cell.fresh := by
  unfold Image.reached Image.cell?
  rw [List.getElem?_map, List.getElem?_zipIdx]
  rcases hk : ws[k]? with _ | w
  · rw [if_neg fun h => Nat.not_le.2 h.1 (List.getElem?_eq_none_iff.1 hk)]
    rfl
  · obtain ⟨hlt, -⟩ := List.getElem?_eq_some_iff.1 hk
    by_cases hleft : k ∈ left
    · rw [if_pos ⟨hlt, hleft⟩]
      cases hold : old[k]? <;> simp [hleft, hold]
    · rw [if_neg fun h => hleft h.2]
      simp [hleft]

/-- A write leaves each word new or as it was, with the bits flipped that its fate names (R175, R178). -/
theorem write_reaches (fate : WriteFate) : Reaches old ws fate (old.write fate ws) := by
  intro k
  have hall : (List.range ws.length).all fate.left.contains = true ↔ ∀ j < ws.length, j ∈ fate.left := by simp
  have hcell : (old.write fate ws).cell? k = (wordAfter old ws fate.left k).map (flipAll k fate.flips) := by
    unfold Image.write wordAfter
    rw [cell?_flips]
    by_cases h : ∀ j < ws.length, j ∈ fate.left
    · rw [if_pos (hall.2 h), if_pos h]
    · rw [if_neg fun hc => h (hall.1 hc), if_neg h, cell?_reached]
  rw [hcell]
  rcases wordAfter old ws fate.left k with _ | c
  · rfl
  · exact ⟨flipAll k fate.flips c, rfl, flipAll_data _, fun b hb => flipAll_flipped _ hb⟩

theorem write_replaced {x : Store} {i : ImageId} (hi : i.ok = true) (fate : WriteFate) :
    Replaced x (x.write i ws fate) i (Reaches (x.image i) ws fate) :=
  ⟨by rw [Store.image_write_self hi]; exact write_reaches fate, fun _ hj => Store.image_write_ne hj⟩

/-! ## The judgement of a read -/

theorem readable_iff : c.readable = true ↔ c.oneFlip := by
  refine ⟨Cell.oneFlip_of_readable, fun h => ?_⟩
  rw [Cell.readable, Cell.whole, Bool.or_eq_true, beq_iff_eq, beq_iff_eq]
  by_cases hzero : c.flipped = 0#72
  · exact .inl hzero
  · obtain ⟨b, hb, hset⟩ : ∃ b < 72, c.flipped.getLsbD b = true := by
      by_contra hnone
      refine hzero (BitVec.eq_of_getLsbD_eq fun i hi => ?_)
      rw [BitVec.getLsbD_zero]
      exact Bool.eq_false_iff.2 fun hset => hnone ⟨i, hi, hset⟩
    have honly (i : Nat) : c.flipped.getLsbD i = (i == b) := by
      rw [Bool.eq_iff_iff, beq_iff_eq]
      exact ⟨fun hi => h i b hi hset, fun hi => hi ▸ hset⟩
    refine .inr ?_
    rw [Cell.flips, List.countP_congr (q := fun i => i == b) fun i _ => by rw [honly]]
    exact List.count_eq_one_of_mem List.nodup_range (List.mem_range.2 hb)

theorem judge_absent (h : ∀ c ∈ m, c = none) : m.judge = .absent := by
  unfold Image.judge
  rw [if_pos]
  simpa [Option.isNone_iff_eq_none] using h

theorem judge_bad (hsome : ∃ c ∈ m, c ≠ none) (h : none ∈ m ∨ ∃ c, some c ∈ m ∧ ¬c.oneFlip) : m.judge = .bad := by
  obtain ⟨c, hc, hne⟩ := hsome
  unfold Image.judge
  rw [if_neg, if_pos]
  · rw [Bool.not_eq_true', Bool.eq_false_iff]
    intro hall
    rw [List.all_eq_true] at hall
    rcases h with hnone | ⟨d, hd, hflips⟩
    · cases hall none hnone
    · exact hflips (readable_iff.1 (hall _ hd))
  · intro hall
    exact hne (Option.isNone_iff_eq_none.1 (List.all_eq_true.1 hall c hc))

/-- An image whose words can all be read: by its CRC bad, else sound, or corrected where a bit had flipped (R175). -/
theorem judge_cells {cells : List Cell} {crc : BitVec 64} (hread : ∀ c ∈ cells, c.oneFlip)
    (hdata : cells.map Cell.data = ws ++ [crc]) :
    Image.judge (cells.map some) = if crc = crcWord ws then
      (if ∀ c ∈ cells, c.flipped = 0#72 then .sound ws else .corrected ws) else .bad := by
  have hwords : Image.words (cells.map some) = ws ++ [crc] := by
    rw [Image.words, List.filterMap_map, ← hdata, ← List.filterMap_eq_map]
    rfl
  have hwritten : ¬(cells.map some).all Option.isNone = true := by
    intro hall
    rcases cells with _ | ⟨d, ds⟩
    · simp at hdata
    · simp at hall
  have hgood : (cells.map some).all (fun c => c.any Cell.readable) = true := by
    rw [List.all_map, List.all_eq_true]
    exact fun d hd => readable_iff.2 (hread d hd)
  have hwhole : (cells.map some).all (fun c => c.any Cell.whole) = true ↔ ∀ d ∈ cells, d.flipped = 0#72 := by
    rw [List.all_map, List.all_eq_true]
    exact forall₂_congr fun d _ => beq_iff_eq
  have hcrc : crcMatches (ws ++ [crc]) = true ↔ crc = crcWord ws := by simp [crcMatches]
  unfold Image.judge
  rw [if_neg hwritten, hgood, Bool.not_true, if_neg Bool.false_ne_true, hwords, List.dropLast_concat]
  by_cases hmatch : crc = crcWord ws
  · rw [hcrc.2 hmatch, Bool.not_true, if_neg Bool.false_ne_true, if_pos hmatch]
    exact if_congr hwhole rfl rfl
  · rw [Bool.eq_false_iff.2 fun h => hmatch (hcrc.1 h), Bool.not_false, if_pos rfl, if_neg hmatch]

end Sys2Proof.Proofs.Cells
end

section
/-! PROOFS. The pins, Restart, and what a reset or a loss of power leaves (R177, R178). -/

namespace Sys2Proof.Proofs.Pins

open Sys2Proof Sys2Proof.Machine
open Sys2Proof.Proofs.Requests Sys2Proof.Proofs.Blocks Sys2Proof.Proofs.Poll Sys2Proof.Proofs.Cells

variable {s : State}

/-! ## The collections cleared -/

theorem cleared_collections (ph : Phase) (x : Store) : CollectionsEmpty (s.cleared ph x) := by
  refine ⟨rfl, rfl, rfl, rfl, rfl, rfl, rfl,
    fun i hi => ⟨Table.get?_replicate _ (by omega), Table.getD_replicate ..⟩,
    fun i hi => ⟨Table.get?_replicate _ (by omega), Table.getD_replicate ..⟩,
    fun i hi => Table.get?_replicate _ (by omega), fun i hi => Table.get?_replicate _ (by omega),
    fun i hi => Table.get?_replicate _ (by omega), fun i hi => Table.get?_replicate _ (by omega), rfl,
    fun c => Table.getD_replicate .., fun k => ?_, fun b d => ?_, rfl, rfl⟩
  · rw [show (s.cleared ph x).slot k = ⟨[], [], false⟩ from Table.getD_replicate ..]
  · rw [show (s.cleared ph x).bed b d = ⟨[], false⟩ from Table.getD_replicate ..]

theorem tornStore_idle (fate : WriteFate) (h : s.inFlight = none) : s.tornStore fate = s.store := by
  rw [State.tornStore, h]

theorem tornStore_writing (fate : WriteFate) {w : Write} (h : s.inFlight = some w) (hw : w.image.ok = true) :
    Replaced s.store (s.tornStore fate) w.image (Reaches (s.store.image w.image) w.words fate) := by
  rw [State.tornStore, h]
  exact write_replaced hw fate

/-- What a reset by RST or a loss of power leaves, in the phase it leads to. -/
theorem reset_leaves {ph : Phase} (fate : WriteFate) (hph : ph = .inReset ∨ ph = .off) (v : Bool) (t : State)
    (ht : t = State.cleared { s with rst := v } ph (s.tornStore fate)) :
    t.phase = ph ∧ t.alert = false ∧ CollectionsEmpty t ∧ t.queue = []
      ∧ t.rst = v ∧ t.pfw = s.pfw ∧ t.pending = s.pending
      ∧ (s.inFlight = none → t.store = s.store)
      ∧ ∀ w, s.inFlight = some w → w.image.ok = true →
          Replaced s.store t.store w.image (Reaches (s.store.image w.image) w.words fate) := by
  subst ht
  refine ⟨rfl, ?_, cleared_collections _ _, rfl, rfl, rfl, rfl, fun h => tornStore_idle fate h,
    fun w h hw => tornStore_writing fate h hw⟩
  rcases hph with rfl | rfl <;> rfl

/-! ## The statement -/

theorem restart_request {a : Nat} {st : Station} {tag : Byte} (h : Asks reqRestart s a st) :
    ∃ t, exec (.restart tag (.fields ())) s = .next t ∧ t.restartPending = true
      ∧ Immediate s t a st tag .done [] ∧ OnlyChanges (lineFields ++ [.restartPending]) s t := by
  obtain ⟨t, hexec, himm, hframe, hline⟩ := request_answers (r := reqRestart) (tag := tag) (v := ())
    (body := fun _ _ s => .now { s with restartPending := true } .done []) (own := [.restartPending]) h rfl
    (restartPending_frame true) rfl
  exact ⟨t, hexec, hline .restartPending (by decide), himm, hframe⟩

/-- A pin set to a level, the rest as it was. -/
theorem rst_frame (v : Bool) : OnlyChanges [.rst] s { s with rst := v } := by
  intro f hf
  cases f <;> first | rfl | exact absurd (by decide) hf

theorem pfw_frame (v : Bool) : OnlyChanges [.pfw] s { s with pfw := v } := by
  intro f hf
  cases f <;> first | rfl | exact absurd (by decide) hf

theorem writes_iff : s.phase.writes = true ↔ s.phase = .startup ∨ s.phase = .running := by
  cases s.phase <;> simp [Phase.writes]

theorem pfwAssert_raises : ∃ t, exec .pfwAssert s = .next t ∧ t.pfw = true
    ∧ t.flags = (if s.pfw = false ∧ (s.phase = .startup ∨ s.phase = .running) then
        s.flags ||| Alarm.powerWarning.bit else s.flags)
    ∧ OnlyChanges [.pfw, .flags] s t := by
  refine ⟨_, rfl, raiseIf_pfw .., ?_, ?_⟩
  · have hcond : (s.phase.writes && !s.pfw) = true ↔ s.pfw = false ∧ (s.phase = .startup ∨ s.phase = .running) := by
      rw [Bool.and_eq_true, writes_iff, Bool.not_eq_true', and_comm]
    rw [raiseIf_flags_eq, if_congr hcond rfl rfl]
    split
    · rfl
    · exact BitVec.or_zero
  · exact ((pfw_frame true).mono (by decide)).trans ((raiseIf_frame _ _).mono (by decide))

theorem rstAssert_held (fate : WriteFate) (h : s.phase = .off ∨ s.phase = .inReset) :
    exec (.rstAssert fate) s = .next { s with rst := true } := by
  rcases h with h | h <;> simp only [exec, execRstAssert, h]

theorem rstAssert_resets (fate : WriteFate) (h : s.phase = .startup ∨ s.phase = .running) :
    exec (.rstAssert fate) s = .next (State.cleared { s with rst := true } .inReset (s.tornStore fate)) := by
  rcases h with h | h <;> simp only [exec, execRstAssert, h]

theorem powerLoss_resets (fate : WriteFate) (h : s.phase ≠ .off) :
    exec (.powerLoss fate) s = .next (s.cleared .off (s.tornStore fate)) := by
  rcases hp : s.phase with _ | _ | _ | _
  · exact absurd hp h
  all_goals simp only [exec, execPowerLoss, hp]

theorem rstRelease_held (d : Decay) (h : s.phase ≠ .inReset) :
    exec (.rstRelease d) s = .next { s with rst := false } := by
  rcases hp : s.phase with _ | _ | _ | _
  case inReset => exact absurd hp h
  all_goals simp only [exec, execRstRelease, hp]

/-- Settles O53: each pin by the branches of its command, a reset by what the cleared state holds. -/
theorem pinsAndResets : Obligations.PinsAndResets := by
  unfold Obligations.PinsAndResets
  refine ⟨fun s => ⟨pfwAssert_raises, _, rfl, rfl, pfw_frame false⟩, fun s a st tag h => ?_, ?_,
    fun s fate d => ⟨fun h => ⟨_, rstAssert_held fate h, rfl, rst_frame true⟩,
      fun h => ⟨_, rstRelease_held d h, rfl, rst_frame false⟩⟩⟩
  · obtain ⟨t, hexec, hpending, himm, hframe⟩ := restart_request (tag := tag) h
    refine ⟨t, hexec, hpending, himm, hframe, ?_, ?_⟩
    · simp [exec, execPoll, hpending]
    · simp [exec, execWriteStart, hpending]
  · rintro s fate c ph (⟨rfl, rfl, hphase⟩ | ⟨rfl, rfl, hphase⟩)
    · refine ⟨_, rstAssert_resets fate hphase, ?_⟩
      simpa using reset_leaves fate (.inl rfl) true _ rfl
    · refine ⟨_, powerLoss_resets fate hphase, ?_⟩
      simpa using reset_leaves fate (.inr rfl) s.rst _ rfl

end Sys2Proof.Proofs.Pins
end

section
/-! PROOFS. What start-up leaves in every case: empty collections, the stored stations, the flags of what it found
(R163, R178, R182, R186). -/

namespace Sys2Proof.Proofs.Startups

open Sys2Proof Sys2Proof.Machine
open Sys2Proof.Proofs.Flags Sys2Proof.Proofs.Poll Sys2Proof.Proofs.Pins Sys2Proof.Proofs.Starts

variable {s t : State} {x : Store}

/-! ## The command that begins start-up -/

theorem rstRelease_starts (d : Decay) (h : s.phase = .inReset) :
    exec (.rstRelease d) s = .next (State.startUp { s with rst := false } (s.store.decay d)) := by
  simp only [exec, execRstRelease, h]

theorem startsUp_exec {c : Instr} (h : StartsUp c s x) :
    ∃ u : State, exec c s = .next (u.startUp x) ∧ u.pfw = s.pfw ∧ u.pending = s.pending := by
  rcases h with ⟨d, rfl, hphase, hrst, rfl⟩ | ⟨d, rfl, hphase, rfl⟩ | ⟨d, rfl, hpending, hidle, rfl⟩
  · refine ⟨s, ?_, rfl, rfl⟩
    simp only [exec, execPowerOn, hphase, hrst]
    rfl
  · exact ⟨_, rstRelease_starts d hphase, rfl, rfl⟩
  · refine ⟨s, ?_, rfl, rfl⟩
    simp only [exec, execRestartReset, hpending, hidle, and_self, if_pos]

/-! ## The flags -/

/-- Whether the array read has a flag raised of its own (R181). -/
def foundCorrected (x : Store) : Bool :=
  x.someGroup .corrected || x.readHeader.condition == .corrected
    || x.readPlates.entries.any fun p => p.someImage .corrected

def foundDoubtful (x : Store) : Bool := x.someGroup .bad || x.readPlates.entries.any StoredPlate.raisesDoubt

theorem settled_flags : (settled s x).flags
    = (0#12 ||| (if foundCorrected x = true then Alarm.storeCorrected.bit else 0#12))
      ||| (if foundDoubtful x = true then Alarm.recordDoubtful.bit else 0#12) := by
  have hread : (s.readArray x).flags = 0#12 := readArray_frame .flags (by decide)
  have hstore : (s.readArray x).store = x := readArray_frame .store (by decide)
  have hsettle : (settled s x).flags = (s.readArray x).raiseFound.flags :=
    (settleLocations_frame.trans settleDerivations_frame) .flags (by decide)
  rw [hsettle, State.raiseFound, raiseIf_flags_eq, raiseIf_flags_eq, hread, hstore]
  rfl

/-- The slots, beds and cart rebuilt on the records settled. -/
def placed (s : State) (x : Store) : State := rebuiltBeds (rebuiltSlots (settled s x))

/-- Each flag that start-up leaves, and its cause (R182). -/
theorem flagIn_startUp (f : Alarm) : flagIn (s.startUp x).flags f = match f with
    | .restarted => true
    | .storeCorrected => foundCorrected x
    | .recordDoubtful => foundDoubtful x
    | .powerWarning => s.pfw
    | .overCapacity => (placed s x).anyOverCap
    | _ => false := by
  have hplaced : (placed s x).flags = (settled s x).flags :=
    ((rebuiltSlots_frame.mono (m := [.plates, .queue, .slots, .beds, .cart]) (by decide)).trans
      (rebuiltBeds_frame.mono (by decide))) .flags (by decide)
  have hcounter (u : State) : u.settleCounter.flags = u.flags := settleCounter_frame .flags (by decide)
  have hif (c : Bool) (g : Alarm) : flagIn (if c = true then g.bit else 0#12) f = (c && decide (g = f)) := by
    cases c <;> simp
  rw [startUp_eq, raiseIf_flags_eq, State.raise, hcounter, rebuildPlaces_eq, raiseIf_flags_eq]
  change flagIn ((((placed s x).flags ||| if (placed s x).anyOverCap = true then _ else _) ||| _) ||| _) f = _
  rw [hplaced, settled_flags]
  simp only [flagIn_or, hif, flagIn_zero, flagIn_bit]
  cases f <;> simp

/-! ## The collections -/

theorem rebuildSlot_incoming (k j : Nat) : ((s.rebuildSlot k).slot j).incoming = (s.slot j).incoming := by
  have hmark (u : State) (f : Slot → Slot) (hf : ∀ c, (f c).incoming = c.incoming) :
      ((u.modifySlot k f).slot j).incoming = (u.slot j).incoming := by
    simp only [State.modifySlot, State.slot, Table.getD, Table.get?_modify]
    split
    · rcases u.slots.get? j with _ | c
      · rfl
      · exact hf c
    · rfl
  have hstacked : ((stacked s k).slot j).incoming = (s.slot j).incoming := by
    have hrestack : (restack k 0 (s.storedStack k) s).slots = s.slots := restack_frame k _ 0 s .slots (by decide)
    rw [stacked, hmark, State.slot, hrestack, State.slot]
    exact fun _ => rfl
  rw [rebuildSlot_eq]
  split
  · exact (hmark _ (fun c => { c with overCap := true }) fun _ => rfl).trans hstacked
  · exact hstacked

theorem rebuiltSlots_incoming (j : Nat) : ((rebuiltSlots s).slot j).incoming = (s.slot j).incoming := by
  have hfold (l : List Nat) : ∀ u : State, ((l.foldl State.rebuildSlot u).slot j).incoming = (u.slot j).incoming := by
    induction l with
    | nil => exact fun _ => rfl
    | cons k ks ih => exact fun u => (ih _).trans (rebuildSlot_incoming k j)
  exact hfold (List.range 96) s

/-- After the places are rebuilt, start-up leaves them. -/
theorem startUp_places : OnlyChanges [.flags, .queue, .seqCounter, .headerFloor] (placed s x) (s.startUp x) := by
  rw [startUp_eq, rebuildPlaces_eq]
  exact ((((raiseIf_frame _ _).mono (by decide)).trans (settleCounter_frame.mono (by decide))).trans
    ((raise_frame _).mono (by decide))).trans ((raiseIf_frame _ _).mono (by decide))

theorem placed_slot_incoming (k : Nat) : ((s.startUp x).slot k).incoming = [] := by
  have hslots : (s.startUp x).slots = (placed s x).slots := startUp_places .slots (by decide)
  have hbeds : (placed s x).slots = (rebuiltSlots (settled s x)).slots := rebuiltBeds_frame .slots (by decide)
  have hsettled : (settled s x).slots = (loaded s x).slots := settled_frame .slots (by decide)
  rw [State.slot, hslots, hbeds, ← State.slot, rebuiltSlots_incoming, State.slot, hsettled]
  exact congrArg Slot.incoming (Table.getD_replicate k _)

theorem startUp_beds : (s.startUp x).beds = (placed s x).beds ∧ (s.startUp x).cart = (placed s x).cart :=
  ⟨startUp_places .beds (by decide), startUp_places .cart (by decide)⟩

theorem skeleton_bare (b d : Nat) : ((s.startUp x).bed b d).skeleton = false := by
  rw [State.bed, startUp_beds.1, Table.getD]
  by_cases h : bedIndex b d < 16
  · rw [placed, rebuiltBeds, get?_ofFn _ h, Option.getD_some]
  · rw [(Table.get?_eq_none _).2 (Nat.not_lt.1 h), Option.getD_none]

theorem startUp_collections : CollectionsEmpty (s.startUp x) := by
  have hframe := startUp_frame (s := s) (x := x)
  obtain ⟨-, -, -, -, -, -, -, htables, hjobs, hdrafts, hparts, hlegs, hbatches, -, hcranes, -⟩ :=
    cleared_collections (s := s) .startup x
  refine ⟨hframe .round (by decide), hframe .poll (by decide), hframe .deferred (by decide),
    hframe .restartPending (by decide), hframe .inFlight (by decide), hframe .searchQueue (by decide),
    hframe .scan (by decide), ?_, ?_, ?_, ?_, ?_, ?_, hframe .commitCounter (by decide), ?_, placed_slot_incoming,
    skeleton_bare, congrArg Cart.side startUp_beds.2, congrArg Cart.incoming startUp_beds.2⟩
  · rw [show (s.startUp x).tables = _ from hframe .tables (by decide)]
    simp only [State.window, show (s.startUp x).windows = _ from hframe .windows (by decide)]
    exact htables
  · rw [show (s.startUp x).jobs = _ from hframe .jobs (by decide)]
    simp only [State.pallet, show (s.startUp x).pallets = _ from hframe .pallets (by decide)]
    exact hjobs
  · rw [show (s.startUp x).drafts = _ from hframe .drafts (by decide)]
    exact hdrafts
  · rw [show (s.startUp x).parts = _ from hframe .parts (by decide)]
    exact hparts
  · rw [show (s.startUp x).legs = _ from hframe .legs (by decide)]
    exact hlegs
  · rw [show (s.startUp x).batches = _ from hframe .batches (by decide)]
    exact hbatches
  · simp only [State.crane, show (s.startUp x).cranes = _ from hframe .cranes (by decide)]
    exact hcranes

/-! ## The stations and ALERT -/

theorem startUp_stations :
    (s.startUp x).stations = stationTable (x.readStations.value.getD StationCfg.factory) :=
  startUp_frame .stations (by decide)

theorem startUp_alert : (s.startUp x).alert = true ↔ (s.startUp x).hall.alarms.enable = true
    ∧ ∃ f : Alarm, flagIn (s.startUp x).flags f = true ∧ flagIn (s.startUp x).hall.alarms.mask f = true := by
  have hphase : (s.startUp x).phase = .startup := startUp_frame .phase (by decide)
  rw [alert_running (.inl hphase), Bool.and_eq_true, bne_iff_ne, ne_zero_iff]
  simp only [flagIn_and, Bool.and_eq_true]

theorem powerOn_held (d : Decay) (hphase : s.phase = .off) (hrst : s.rst = true) :
    exec (.powerOn d) s = .next (s.cleared .inReset (s.store.decay d)) := by
  simp only [exec, execPowerOn, hphase, hrst, if_pos]

/-- Settles O54: by the frames of the stages of start-up, the flags they raise, and the station table of the array. -/
theorem resetsAreFollowedByStartup : Obligations.ResetsAreFollowedByStartup := by
  unfold Obligations.ResetsAreFollowedByStartup
  refine ⟨fun c s x h => ?_, fun s d hphase hrst => ⟨_, powerOn_held d hphase hrst, rfl, rfl, hrst, rfl⟩,
    fun s d h => ?_, fun s hphase hqueue hidle => ?_, fun s h => ?_⟩
  · obtain ⟨u, hexec, hpfw, hpending⟩ := startsUp_exec h
    have hframe := startUp_frame (s := u) (x := x)
    refine ⟨_, hexec, hframe .phase (by decide), startUp_collections, hframe .store (by decide),
      (show (u.startUp x).pfw = u.pfw from hframe .pfw (by decide)).trans hpfw,
      (show (u.startUp x).pending = u.pending from hframe .pending (by decide)).trans hpending,
      fun a kind unit weight h1 h32 l hl hfind => ?_, fun a l hl hnone => ?_, fun hl => ?_,
      fun a st hst => stationTable_fresh startUp_stations hst, flagIn_startUp _, (flagIn_startUp _).trans hpfw,
      fun f hf => ?_, startUp_alert⟩
    · rw [station?_stationTable startUp_stations, if_pos ⟨h1, h32⟩, hl]
      have hfind' : (l.find? fun e => e.address = a) = some ⟨a, kind, unit, weight⟩ := hfind
      rw [Option.getD_some, hfind']
      rfl
    · have hfind : (l.find? fun e => e.address = a) = none := by simpa using hnone
      rw [station?_stationTable startUp_stations, hl, Option.getD_some, hfind]
      split <;> rfl
    · simp only [station?_stationTable startUp_stations, hl]
      refine ⟨rfl, fun a ha => ?_⟩
      have hfind : StationCfg.factory.find? (fun c => c.address = a) = none := by
        simp [StationCfg.factory, Ne.symm ha]
      rw [Option.getD_none, hfind]
      split <;> rfl
    · rw [flagIn_startUp]
      fin_cases hf <;> rfl
  · exact ⟨_, rstRelease_starts d h, startUp_frame .rst (by decide)⟩
  · refine ⟨{ s with phase := .running }, by simp [exec, execStartupEnd, hphase, hqueue, hidle], rfl, fun f hf => ?_⟩
    cases f <;> first | rfl | exact absurd (by decide) hf
  · unfold exec execStartupEnd
    rcases hphase : s.phase with _ | _ | _ | _ <;> try rfl
    rw [if_neg]
    rintro ⟨hqueue, hidle⟩
    rcases h with h | h | h
    · exact h hphase
    · exact h hqueue
    · exact h hidle

end Sys2Proof.Proofs.Startups
end

section
/-! PROOFS. The plate records through start-up: a change that touches each record alone, and the stages of start-up as
such changes, with the images they queue (R182). -/

namespace Sys2Proof.Proofs.Records

open Sys2Proof Sys2Proof.Machine
open Sys2Proof.Proofs.Tables Sys2Proof.Proofs.Order Sys2Proof.Proofs.Starts

variable {s t u : State} {h g : Handle} {r : PlateRec}

/-! ## Changes record by record -/

/-- Every plate entry of `t` is that of `s`, its record passed through `f` with its handle. -/
def Changed (f : Handle → PlateRec → PlateRec) (s t : State) : Prop :=
  ∀ i, t.plates.get? i = (s.plates.get? i).map fun e => ⟨e.gen, e.record.map (f ⟨i, e.gen⟩)⟩

theorem Changed.refl : Changed (fun _ r => r) s s := by
  intro i
  rcases s.plates.get? i with _ | ⟨gen, _ | r⟩ <;> rfl

theorem Changed.of_plates (hp : t.plates = s.plates) : Changed (fun _ r => r) s t := by
  intro i
  rw [hp]
  exact Changed.refl i

theorem Changed.trans {f e : Handle → PlateRec → PlateRec} (hf : Changed f s t) (he : Changed e t u) :
    Changed (fun h r => e h (f h r)) s u := by
  intro i
  rw [he i, hf i]
  rcases s.plates.get? i with _ | ⟨gen, _ | r⟩ <;> rfl

theorem Changed.congr {f e : Handle → PlateRec → PlateRec} (hf : Changed f s t)
    (h : ∀ g r, s.plate? g = some r → f g r = e g r) : Changed e s t := by
  intro i
  rw [hf i]
  rcases hi : s.plates.get? i with _ | ⟨gen, _ | r⟩
  · rfl
  · rfl
  · have hr : s.plate? ⟨i, gen⟩ = some r := Pool.find_eq_some.2 hi
    simp only [Option.map_some, h _ _ hr]

theorem Changed.plate? {f : Handle → PlateRec → PlateRec} (hf : Changed f s t) (h : Handle) :
    t.plate? h = (s.plate? h).map (f h) := by
  unfold State.plate? Pool.find
  rw [hf h.idx]
  rcases s.plates.get? h.idx with _ | e
  · rfl
  · simp only [Option.map_some]
    split
    next hgen => rw [hgen]
    next => rfl

theorem Changed.keep {f : Handle → PlateRec → PlateRec} (hf : Changed f s t) (hp : u.plates = t.plates) :
    Changed f s u := by
  intro i
  rw [hp]
  exact hf i

theorem modifyPlate_changed (h : Handle) (f : PlateRec → PlateRec) :
    Changed (fun g r => if g = h then f r else r) s (s.modifyPlate h f) := by
  intro i
  change (Pool.modify s.plates h f).get? i = _
  unfold Pool.modify
  rcases hr : s.plates.find h with _ | r
  · rcases hi : s.plates.get? i with _ | ⟨gen, _ | r⟩
    · rfl
    · rfl
    · have hne : (⟨i, gen⟩ : Handle) ≠ h := by
        rintro rfl
        rw [Pool.find_eq_some.2 hi] at hr
        cases hr
      simp only [Option.map_some, if_neg hne]
  · have hh := Pool.find_eq_some.1 hr
    have hlt : h.idx < 1024 := (List.getElem?_eq_some_iff.1 hh).1.trans_eq s.plates.size_eq
    by_cases hi : h.idx = i
    · subst hi
      simp only [Table.get?_set_self _ _ hlt, hh, Option.map_some, if_pos]
    · have hne (gen : Nat) : (⟨i, gen⟩ : Handle) ≠ h := by
        rintro rfl
        exact hi rfl
      simp only [Table.get?_set_ne _ _ hi, if_neg (hne _)]
      exact Changed.refl (s := s) i

/-- A change of the records named by a list, the same on each: a second time it changes nothing. -/
theorem foldl_changed {op : State → Handle → State} {f : PlateRec → PlateRec}
    (hop : ∀ s h, Changed (fun g r => if g = h then f r else r) s (op s h)) (hf : ∀ r, f (f r) = f r)
    (l : List Handle) : ∀ s, Changed (fun g r => if g ∈ l then f r else r) s (l.foldl op s) := by
  induction l with
  | nil => exact fun s => Changed.refl.congr fun _ _ _ => by rw [if_neg List.not_mem_nil]
  | cons h hs ih =>
    intro s
    refine ((hop s h).trans (ih _)).congr fun g r _ => ?_
    by_cases hgh : g = h <;> by_cases hghs : g ∈ hs <;> simp [hgh, hghs, hf]

/-! ## The handles that pass a test -/

theorem mem_stockWhere {p : PlateRec → Bool} :
    h ∈ s.stockWhere p ↔ ∃ r, s.plate? h = some r ∧ r.st.disposition = .stock ∧ p r = true := by
  rw [State.stockWhere, mem_handles]
  simp only [Bool.and_eq_true, beq_iff_eq, State.plate?]

/-- The handles of a pool that pass a test, position by position. -/
theorem handles_eq {α : Type} {n : Nat} (t : Pool α n) (p : α → Bool) : t.handles p
    = (List.range n).filterMap fun i => (t.get? i).bind fun e => (e.record.filter p).map fun _ => ⟨i, e.gen⟩ := by
  rw [Pool.handles, filterMap_zipIdx, t.size_eq]
  refine List.filterMap_congr fun i _ => congrArg (Option.bind _) (funext fun e => ?_)
  rcases e.record with _ | r
  · rfl
  · by_cases hp : p r = true <;> simp [hp, Option.filter]

theorem handles_nodup {α : Type} {n : Nat} (t : Pool α n) (p : α → Bool) : (t.handles p).Nodup := by
  rw [handles_eq]
  refine List.nodup_range.filterMap fun i j h hi hj => ?_
  have hidx {k : Nat} (hk : h ∈ (t.get? k).bind fun e => (e.record.filter p).map fun _ => (⟨k, e.gen⟩ : Handle)) :
      h.idx = k := by
    obtain ⟨e, -, he⟩ := Option.bind_eq_some_iff.1 hk
    obtain ⟨-, -, rfl⟩ := Option.map_eq_some_iff.1 he
    rfl
  rw [← hidx hi, ← hidx hj]

/-- The handles that pass a test, where each record passes it as before. -/
theorem stockWhere_congr {f : Handle → PlateRec → PlateRec} {p : PlateRec → Bool} (hf : Changed f s t)
    (hp : ∀ g r, s.plate? g = some r →
      ((f g r).st.disposition == .stock && p (f g r)) = (r.st.disposition == .stock && p r)) :
    t.stockWhere p = s.stockWhere p := by
  rw [State.stockWhere, State.stockWhere, handles_eq, handles_eq]
  refine List.filterMap_congr fun i _ => ?_
  rw [hf i]
  rcases hi : s.plates.get? i with _ | ⟨gen, _ | r⟩
  · rfl
  · rfl
  · have := hp ⟨i, gen⟩ r (Pool.find_eq_some.2 hi)
    simp only [Option.map_some, Option.bind_some, Option.filter, this]
    split <;> rfl

/-! ## The plates stored on a hook or a bed (R182 step 1) -/

/-- A plate that start-up makes DOUBTFUL: stock, on a hook or a bed, and not so already. -/
def doubted (r : PlateRec) : Bool := r.st.disposition == .stock && (r.unsettled && !r.st.doubtful)

def doubtful (r : PlateRec) : PlateRec := { r with st := { r.st with doubtful := true } }

theorem enqueue_changed {f : Handle → PlateRec → PlateRec} (h : Changed f s t) (i : ImageId) :
    Changed f s (t.enqueue i) :=
  h.keep (enqueue_frame i .plates (by decide))

theorem foldl_queue {op : State → Handle → State}
    (hop : ∀ s h i, i ∈ (op s h).queue ↔ i ∈ s.queue ∨ i = .state h.idx) (l : List Handle) {i : ImageId} :
    ∀ s, i ∈ (l.foldl op s).queue ↔ i ∈ s.queue ∨ ∃ h ∈ l, i = .state h.idx := by
  induction l with
  | nil => simp
  | cons h hs ih =>
    intro s
    rw [List.foldl_cons, ih, hop]
    simp only [List.mem_cons, exists_eq_or_imp, or_assoc]

theorem mem_doubted {r : PlateRec} (hr : s.plate? h = some r) :
    h ∈ s.stockWhere (fun r => r.unsettled && !r.st.doubtful) ↔ doubted r = true := by
  simp only [mem_stockWhere, hr, Option.some.injEq, doubted, Bool.and_eq_true, beq_iff_eq]
  exact ⟨fun ⟨_, heq, h⟩ => heq ▸ h, fun h => ⟨r, rfl, h⟩⟩

theorem settleLocations_changed :
    Changed (fun _ r => if doubted r then doubtful r else r) s s.settleLocations := by
  refine (foldl_changed (f := doubtful) (fun u g => enqueue_changed (modifyPlate_changed g _) _) (fun _ => rfl)
    _ s).congr fun g r hr => ?_
  simp only [mem_doubted hr]

theorem settleLocations_queue {i : ImageId} : i ∈ s.settleLocations.queue ↔
    i ∈ s.queue ∨ ∃ g r, s.plate? g = some r ∧ doubted r = true ∧ i = .state g.idx := by
  rw [State.settleLocations, foldl_queue (op := State.markDoubtful) fun u g i => mem_enqueue]
  refine or_congr Iff.rfl (exists_congr fun g => ?_)
  simp only [mem_stockWhere, doubted, Bool.and_eq_true, beq_iff_eq]
  exact ⟨fun ⟨⟨r, hr, h⟩, hi⟩ => ⟨r, hr, h, hi⟩, fun ⟨r, hr, h, hi⟩ => ⟨⟨r, hr, h⟩, hi⟩⟩

/-! ## The parents of torn derivations (R182 step 2) -/

theorem mem_parents : h ∈ s.parents ↔ ∃ g r, s.plate? g = some r ∧ r.st.disposition = .stock
    ∧ r.ident.origin = .derived ∧ r.ident.parent = some h := by
  simp only [State.parents, List.mem_filterMap, mem_stockWhere, beq_iff_eq]
  constructor
  · rintro ⟨g, ⟨r, hr, hstock, horigin⟩, hparent⟩
    rw [hr] at hparent
    exact ⟨g, r, hr, hstock, horigin, hparent⟩
  · rintro ⟨g, r, hr, hstock, horigin, hparent⟩
    exact ⟨g, ⟨r, hr, hstock, horigin⟩, by rw [hr]; exact hparent⟩

/-- A record that gave the material of a derived plate, retired. -/
def consumed (r : PlateRec) : PlateRec :=
  { r with
    st := { r.st with disposition := .retired .consumed, location := .nowhere }
    job := none
    leg := none
    mass := none }

theorem mem_torn {r : PlateRec} (hr : s.plate? h = some r) :
    (h ∈ (s.stockWhere fun _ => true).filter fun g => s.parents.contains g) ↔
      r.st.disposition = .stock ∧ h ∈ s.parents := by
  simp only [List.mem_filter, mem_stockWhere, hr, Option.some.injEq, List.contains_iff_mem, and_true]
  exact ⟨fun ⟨⟨_, heq, hst⟩, h⟩ => ⟨heq ▸ hst, h⟩, fun ⟨hst, h⟩ => ⟨⟨r, rfl, hst⟩, h⟩⟩

theorem settleDerivations_changed :
    Changed (fun g r => if r.st.disposition = .stock ∧ g ∈ s.parents then consumed r else r) s
      s.settleDerivations := by
  refine (foldl_changed (f := consumed) (fun u g => enqueue_changed (modifyPlate_changed g _) _) (fun _ => rfl)
    _ s).congr fun g r hr => ?_
  simp only [mem_torn hr]

theorem settleDerivations_queue {i : ImageId} : i ∈ s.settleDerivations.queue ↔ i ∈ s.queue
    ∨ ∃ g r, s.plate? g = some r ∧ r.st.disposition = .stock ∧ g ∈ s.parents ∧ i = .state g.idx := by
  rw [State.settleDerivations, foldl_queue (op := State.retireParent) fun u g i => mem_enqueue]
  refine or_congr Iff.rfl (exists_congr fun g => ?_)
  constructor
  · rintro ⟨hg, hi⟩
    obtain ⟨r, hr, -⟩ := mem_stockWhere.1 (List.mem_filter.1 hg).1
    obtain ⟨hst, hp⟩ := (mem_torn hr).1 hg
    exact ⟨r, hr, hst, hp, hi⟩
  · rintro ⟨r, hr, hst, hp, hi⟩
    exact ⟨(mem_torn hr).2 ⟨hst, hp⟩, hi⟩

/-! ## The stacks (R182 step 3) -/

/-- The record of a plate that lies at a level of a slot's stack. -/
def atLevel (k level : Nat) (r : PlateRec) : PlateRec := { r with st := { r.st with location := .slot k level } }

theorem atLevel_self {r : PlateRec} {k level : Nat} : atLevel k level r = r ↔ r.st.location = .slot k level := by
  obtain ⟨ident, ⟨⟩, job, leg, mass⟩ := r
  simp [atLevel, eq_comm]

theorem putLevel_changed (k level : Nat) (h : Handle) :
    Changed (fun g r => if g = h then atLevel k level r else r) s (putLevel k level h s) := by
  unfold putLevel
  split
  next r hr =>
    split
    next hloc =>
      refine Changed.refl.congr fun g r' hg => ?_
      split
      next hgh =>
        rw [hgh, hr] at hg
        cases hg
        exact (atLevel_self.2 hloc).symm
      next => rfl
    next => exact enqueue_changed (modifyPlate_changed h _) _
  next hr =>
    refine Changed.refl.congr fun g r' hg => ?_
    rw [if_neg]
    rintro rfl
    rw [hr] at hg
    cases hg

theorem putLevel_queue {k level : Nat} {i : ImageId} : i ∈ (putLevel k level h s).queue ↔
    i ∈ s.queue ∨ ∃ r, s.plate? h = some r ∧ atLevel k level r ≠ r ∧ i = .state h.idx := by
  unfold putLevel
  split
  next r hr =>
    simp only [hr, Option.some.injEq, exists_eq_left', ne_eq, atLevel_self]
    split
    next hloc => simp [hloc]
    next hloc =>
      rw [mem_enqueue, State.putLocation, show (s.modifyPlate h _).queue = s.queue from rfl]
      simp [hloc]
  next hr => simp [hr]

theorem restack_changed {k : Nat} {l : List Handle} (hl : l.Nodup) : ∀ {level : Nat} {s : State},
    Changed (fun g r => if g ∈ l then atLevel k (level + l.idxOf g) r else r) s (restack k level l s) := by
  induction l with
  | nil => exact Changed.refl.congr fun _ _ _ => by rw [if_neg List.not_mem_nil]
  | cons h hs ih =>
    intro level s
    obtain ⟨hh, hhs⟩ := List.nodup_cons.1 hl
    rw [restack_cons]
    refine ((putLevel_changed k level h).trans (ih hhs)).congr fun g r _ => ?_
    by_cases hgh : g = h
    · subst hgh
      simp [hh]
    · by_cases hghs : g ∈ hs
      · simp only [hgh, hghs, if_pos, if_false, List.mem_cons, or_true, List.idxOf_cons_ne _ (Ne.symm hgh)]
        rw [show level + 1 + hs.idxOf g = level + (hs.idxOf g).succ by omega]
      · simp [hgh, hghs]

theorem restack_queue {k : Nat} {l : List Handle} (hl : l.Nodup) {i : ImageId} : ∀ {level : Nat} {s : State},
    i ∈ (restack k level l s).queue ↔ i ∈ s.queue
      ∨ ∃ g r, g ∈ l ∧ s.plate? g = some r ∧ atLevel k (level + l.idxOf g) r ≠ r ∧ i = .state g.idx := by
  induction l with
  | nil => simp [restack]
  | cons h hs ih =>
    intro level s
    obtain ⟨hh, hhs⟩ := List.nodup_cons.1 hl
    rw [restack_cons, ih hhs, putLevel_queue, or_assoc]
    refine or_congr Iff.rfl ?_
    have hlevel {g : Handle} (hg : g ∈ hs) : level + (h :: hs).idxOf g = level + 1 + hs.idxOf g := by
      have hne : h ≠ g := fun heq => hh (heq ▸ hg)
      rw [List.idxOf_cons_ne _ hne]
      omega
    have hplate {g : Handle} (hg : g ∈ hs) : (putLevel k level h s).plate? g = s.plate? g := by
      have hne : g ≠ h := fun heq => hh (heq ▸ hg)
      simp [(putLevel_changed k level h).plate?, hne]
    constructor
    · rintro (⟨r, hr, hne, hi⟩ | ⟨g, r, hg, hr, hne, hi⟩)
      · exact ⟨h, r, List.mem_cons_self, hr, by rwa [List.idxOf_cons_self], hi⟩
      · exact ⟨g, r, List.mem_cons_of_mem _ hg, hplate hg ▸ hr, by rwa [hlevel hg], hi⟩
    · rintro ⟨g, r, hg, hr, hne, hi⟩
      rcases List.mem_cons.1 hg with rfl | hg
      · exact .inl ⟨r, hr, by rwa [List.idxOf_cons_self] at hne, hi⟩
      · exact .inr ⟨g, r, hg, (hplate hg).symm ▸ hr, by rwa [hlevel hg] at hne, hi⟩

/-! ## The slots, one after the other -/

theorem mem_storedStack {k : Nat} : h ∈ s.storedStack k ↔
    ∃ r, s.plate? h = some r ∧ r.st.disposition = .stock ∧ r.st.location.place = .slot k := by
  rw [State.storedStack, sortBy_perm.mem_iff, mem_stockWhere]
  simp only [beq_iff_eq]

theorem storedStack_nodup (k : Nat) : (s.storedStack k).Nodup :=
  sortBy_perm.nodup_iff.2 (handles_nodup _ _)

theorem insertBy_congr {α : Type} {b c : α → α → Bool} {a : α} {l : List α} (h : ∀ x ∈ l, b a x = c a x) :
    insertBy b a l = insertBy c a l := by
  induction l with
  | nil => rfl
  | cons x xs ih =>
    rw [insertBy, insertBy, h x List.mem_cons_self, ih fun y hy => h y (List.mem_cons_of_mem _ hy)]

theorem sortBy_congr {α : Type} {b c : α → α → Bool} {l : List α} (h : ∀ x ∈ l, ∀ y ∈ l, b x y = c x y) :
    sortBy b l = sortBy c l := by
  induction l with
  | nil => rfl
  | cons a as ih =>
    rw [sortBy, sortBy, ih fun x hx y hy => h x (List.mem_cons_of_mem _ hx) y (List.mem_cons_of_mem _ hy)]
    exact insertBy_congr fun x hx =>
      h a List.mem_cons_self x (List.mem_cons_of_mem _ (sortBy_perm.mem_iff.1 hx))

/-- A slot's stack stays where the plates stored there stay. -/
theorem storedStack_congr {f : Handle → PlateRec → PlateRec} {k : Nat} (hf : Changed f s t)
    (hplace : ∀ g r, (f g r).st.disposition = r.st.disposition ∧ (f g r).st.location.place = r.st.location.place)
    (hkeep : ∀ g r, r.st.location.place = .slot k → f g r = r) : t.storedStack k = s.storedStack k := by
  have hwhere : t.stockWhere (fun r => r.st.location.place == .slot k)
      = s.stockWhere fun r => r.st.location.place == .slot k :=
    stockWhere_congr hf fun g r _ => by rw [(hplace g r).1, (hplace g r).2]
  have hkeys {h : Handle} (hh : h ∈ s.stockWhere fun r => r.st.location.place == .slot k) :
      t.stackKeys h = s.stackKeys h := by
    obtain ⟨r, hr, -, hloc⟩ := mem_stockWhere.1 hh
    rw [State.stackKeys, State.stackKeys, hf.plate?, hr, Option.map_some, hkeep h r (beq_iff_eq.1 hloc)]
  rw [State.storedStack, State.storedStack, hwhere]
  exact sortBy_congr fun x hx y hy => by rw [hkeys hx, hkeys hy]

/-- A record once the slots below `n` are rebuilt: at its place in the stack that the records of `s` give. -/
def relaid (s : State) (n : Nat) (h : Handle) (r : PlateRec) : PlateRec :=
  match r.st.location with
  | .slot k _ => if k < n ∧ r.st.disposition = .stock then atLevel k ((s.storedStack k).idxOf h) r else r
  | _ => r

theorem relaid_eq (s : State) (n : Nat) (h : Handle) (r : PlateRec) :
    relaid s n h r = r ∨ ∃ k level, r.st.location.place = .slot k ∧ k < n ∧ relaid s n h r = atLevel k level r := by
  unfold relaid
  split
  next k level hloc =>
    split
    next hk => exact .inr ⟨k, _, by rw [hloc]; rfl, hk.1, rfl⟩
    next => exact .inl rfl
  next => exact .inl rfl

theorem relaid_place (s : State) (n : Nat) (h : Handle) (r : PlateRec) :
    (relaid s n h r).st.disposition = r.st.disposition
      ∧ (relaid s n h r).st.location.place = r.st.location.place := by
  rcases relaid_eq s n h r with heq | ⟨k, level, hplace, -, heq⟩ <;> rw [heq]
  · exact ⟨rfl, rfl⟩
  · exact ⟨rfl, hplace.symm⟩

/-- What a rebuilt slot holds, by the records as they were settled. -/
def restored (s : State) (k : Nat) : Slot :=
  { s.slot k with
    stack := s.storedStack k
    overCap := (s.slot k).overCap || (decide ((s.slotCfg k).capacity < (s.storedStack k).length)
      || decide ((s.slotCfg k).limit < ((s.storedStack k).map s.stackShare).sum)) }

/-- The slots below `n` are rebuilt, and the plates in them put at their levels. -/
structure Relaid (s : State) (n : Nat) (t : State) : Prop where
  frame : OnlyChanges [.plates, .queue, .slots] s t
  plates : Changed (relaid s n) s t
  slots : ∀ k, k ≤ 95 → t.slot k = if k < n then restored s k else s.slot k
  queue : ∀ i, i ∈ t.queue ↔ i ∈ s.queue
    ∨ ∃ g r, s.plate? g = some r ∧ relaid s n g r ≠ r ∧ i = .state g.idx

theorem relaid_zero (s : State) : Relaid s 0 s := by
  have hzero (h : Handle) (r : PlateRec) : relaid s 0 h r = r := by
    rcases relaid_eq s 0 h r with heq | ⟨_, _, -, hk, -⟩
    · exact heq
    · exact absurd hk (Nat.not_lt_zero _)
  refine ⟨.refl, Changed.refl.congr fun g r _ => (hzero g r).symm, fun k _ => by rw [if_neg (Nat.not_lt_zero _)],
    fun i => ?_⟩
  simp [hzero]

theorem stackShare_changed {f : Handle → PlateRec → PlateRec} (hf : Changed f s t)
    (hshare : ∀ g r, (f g r).st.doubtful = r.st.doubtful ∧ (f g r).mass = r.mass) (h : Handle) :
    t.stackShare h = s.stackShare h := by
  rw [State.stackShare, State.stackShare, hf.plate?]
  rcases s.plate? h with _ | r
  · rfl
  · simp only [Option.map_some, (hshare h r).1, (hshare h r).2]

theorem relaid_share (s : State) (n : Nat) (h : Handle) (r : PlateRec) :
    (relaid s n h r).st.doubtful = r.st.doubtful ∧ (relaid s n h r).mass = r.mass := by
  rcases relaid_eq s n h r with heq | ⟨k, level, -, -, heq⟩ <;> rw [heq] <;> exact ⟨rfl, rfl⟩

theorem relaid_own {n : Nat} {g : Handle} {r : PlateRec} (hloc : r.st.location.place = .slot n) :
    relaid s n g r = r := by
  rcases relaid_eq s n g r with heq | ⟨k, level, hplace, hk, -⟩
  · exact heq
  · rw [hloc] at hplace
    cases hplace
    exact absurd hk (Nat.lt_irrefl _)

/-- The records that one slot more moves are those of its stack. -/
theorem relaid_succ_eq {n : Nat} {g : Handle} {r : PlateRec} (hr : s.plate? g = some r) :
    relaid s (n + 1) g r
      = if g ∈ s.storedStack n then atLevel n ((s.storedStack n).idxOf g) r else relaid s n g r := by
  have hmem : g ∈ s.storedStack n ↔ r.st.disposition = .stock ∧ r.st.location.place = .slot n := by
    simp only [mem_storedStack, hr, Option.some.injEq, exists_eq_left']
  unfold relaid
  split
  next k level hloc =>
    simp only [hmem, hloc, Location.place, Place.slot.injEq]
    by_cases hk : k = n
    · subst hk
      by_cases hst : r.st.disposition = .stock <;> simp [hst]
    · simp only [hk, and_false, if_false, show k < n + 1 ↔ k < n by omega]
  next hloc =>
    rw [if_neg]
    rw [hmem]
    rintro ⟨-, hplace⟩
    rcases hl : r.st.location with ⟨k, level⟩ | _ | _ | _ | _
    · exact hloc k level hl
    all_goals
      rw [hl] at hplace
      cases hplace

/-- What a slot holds once it is rebuilt on the records of `s`. -/
theorem rebuildSlot_slot {n j : Nat} (hn : n < 96) (hj : j ≤ 95) :
    (s.rebuildSlot n).slot j = if n = j then restored s n else s.slot j := by
  have hrestack : OnlyChanges [.plates, .queue] s (restack n 0 (s.storedStack n) s) := restack_frame n _ 0 s
  have hslot (k : Nat) : (restack n 0 (s.storedStack n) s).slot k = s.slot k :=
    congrArg (fun u => Table.getD u k _) (hrestack .slots (by decide))
  have hstacked {k : Nat} (hk : k ≤ 95) : (stacked s n).slot k
      = if n = k then { s.slot k with stack := s.storedStack n } else s.slot k := by
    rw [stacked, modifySlot_slot _ _ hk, hslot]
  have hshare : (stacked s n).stackShare = s.stackShare := by
    refine funext fun h => stackShare_changed (f := fun g r => if g ∈ s.storedStack n then _ else r)
      (restack_changed (s := s) (k := n) (level := 0) (storedStack_nodup n)) (fun g r => ?_) h
    split <;> exact ⟨rfl, rfl⟩
  have hcfg : (stacked s n).slotCfg n = s.slotCfg n :=
    congrArg (fun u : HallMap => Table.getD u.slots n _) (stacked_frame (s := s) n .hall (by decide))
  have hover : (stacked s n).overBounds n = (decide ((s.slotCfg n).capacity < (s.storedStack n).length)
      || decide ((s.slotCfg n).limit < ((s.storedStack n).map s.stackShare).sum)) := by
    rw [State.overBounds, State.stackMass, hshare, hstacked (by omega), if_pos rfl, hcfg]
  rw [rebuildSlot_eq]
  by_cases hnj : n = j
  · subst hnj
    rw [restored, ← hover, if_pos rfl]
    split
    next h => rw [modifySlot_slot _ _ hj, hstacked hj, if_pos rfl, if_pos rfl, h, Bool.or_true]
    next h => rw [hstacked hj, if_pos rfl, Bool.eq_false_iff.2 h, Bool.or_false]
  · rw [if_neg hnj]
    split
    · rw [modifySlot_slot _ _ hj, hstacked hj, if_neg hnj, if_neg hnj]
    · rw [hstacked hj, if_neg hnj]

theorem rebuildSlot_plates (k : Nat) : (s.rebuildSlot k).plates = (restack k 0 (s.storedStack k) s).plates := by
  rw [rebuildSlot_eq]
  split <;> rfl

theorem rebuildSlot_queue (k : Nat) : (s.rebuildSlot k).queue = (restack k 0 (s.storedStack k) s).queue := by
  rw [rebuildSlot_eq]
  split <;> rfl

/-- One slot more. -/
theorem relaid_succ {n : Nat} (hn : n < 96) (h : Relaid s n t) : Relaid s (n + 1) (t.rebuildSlot n) := by
  obtain ⟨hframe, hplates, hslots, hqueue⟩ := h
  have hstack : t.storedStack n = s.storedStack n :=
    storedStack_congr hplates (relaid_place s n) fun g r => relaid_own
  have hown {g : Handle} {r : PlateRec} (hr : s.plate? g = some r) (hg : g ∈ s.storedStack n) :
      relaid s n g r = r := by
    obtain ⟨r', hr', -, hloc⟩ := mem_storedStack.1 hg
    rw [hr] at hr'
    cases hr'
    exact relaid_own hloc
  have hrestack := restack_changed (s := t) (k := n) (level := 0) (storedStack_nodup (s := s) n)
  refine ⟨(hframe.mono (by decide)).trans (rebuildSlot_frame n), fun i => ?_, fun k hk => ?_, fun i => ?_⟩
  · rw [rebuildSlot_plates, hstack]
    refine ((hplates.trans hrestack).congr fun g r hr => ?_) i
    rw [relaid_succ_eq hr, Nat.zero_add]
    split
    next hg => rw [hown hr hg]
    next => rfl
  · rw [rebuildSlot_slot hn hk, hslots k hk]
    by_cases hnk : n = k
    · subst hnk
      have hshare : t.stackShare = s.stackShare := funext (stackShare_changed hplates (relaid_share s n))
      have hcfg : t.slotCfg n = s.slotCfg n :=
        congrArg (fun u : HallMap => Table.getD u.slots n _) (hframe .hall (by decide))
      rw [if_pos rfl, if_pos (Nat.lt_succ_self n), restored, restored, hslots n hk, if_neg (Nat.lt_irrefl n), hstack,
        hshare, hcfg]
    · simp only [hnk, if_false, show k < n + 1 ↔ k < n by omega]
  · rw [rebuildSlot_queue, hstack, restack_queue (storedStack_nodup n), hqueue i, or_assoc]
    refine or_congr Iff.rfl ⟨?_, ?_⟩
    · rintro (⟨g, r, hr, hne, hi⟩ | ⟨g, r, hg, hr, hne, hi⟩)
      · refine ⟨g, r, hr, ?_, hi⟩
        rwa [relaid_succ_eq hr, if_neg fun hg => hne (hown hr hg)]
      · rw [hplates.plate?] at hr
        obtain ⟨r', hr', rfl⟩ := Option.map_eq_some_iff.1 hr
        rw [hown hr' hg, Nat.zero_add] at hne
        exact ⟨g, r', hr', by rwa [relaid_succ_eq hr', if_pos hg], hi⟩
    · rintro ⟨g, r, hr, hne, hi⟩
      rw [relaid_succ_eq hr] at hne
      split at hne
      next hg =>
        refine .inr ⟨g, r, hg, ?_, by rwa [Nat.zero_add], hi⟩
        rw [hplates.plate?, hr, Option.map_some, hown hr hg]
      next => exact .inl ⟨g, r, hr, hne, hi⟩

theorem rebuiltSlots_relaid (s : State) : Relaid s 96 (rebuiltSlots s) := by
  have hfold (n : Nat) : n ≤ 96 → Relaid s n ((List.range n).foldl State.rebuildSlot s) := by
    induction n with
    | zero => exact fun _ => relaid_zero s
    | succ n ih =>
      intro hn
      rw [List.range_succ, List.foldl_append]
      exact relaid_succ (by omega) (ih (by omega))
  exact hfold 96 le_rfl

end Sys2Proof.Proofs.Records
end

section
/-! PROOFS. What start-up makes of the plate images, entry by entry: the records found, settled and laid at their
levels, and the images queued on the way (R181, R182). -/

namespace Sys2Proof.Proofs.Arrays

open Sys2Proof Sys2Proof.Machine
open Sys2Proof.Proofs.Tables Sys2Proof.Proofs.Order Sys2Proof.Proofs.Starts Sys2Proof.Proofs.Startups
open Sys2Proof.Proofs.Records Sys2Proof.Proofs.Requests Sys2Proof.Proofs.Places

variable {s t : State} {x : Store} {h : Handle} {r : PlateRec} {p : StoredPlate} {i g : Nat} {ident : PlateId}

/-! ## The records found -/

theorem get?_map {α β : Type} {n : Nat} (t : Table α n) (f : α → β) (i : Nat) :
    (t.map f).get? i = (t.get? i).map f := List.getElem?_map ..

theorem names_iff : p.Names g ident ↔ p.named = some (g, ident) := by
  unfold StoredPlate.Names StoredPlate.named
  rcases p.identity.value with _ | ⟨g', ident'⟩
  · simp
  · rcases p.genWord.value with _ | w
    · simp
    · simp only [Option.some.injEq, forall_eq', Prod.mk.injEq, Option.ite_none_right_eq_some]
      exact ⟨fun ⟨⟨hg, hi⟩, hw⟩ => ⟨hw.trans hg.symm, hg, hi⟩, fun ⟨hw, hg, hi⟩ => ⟨⟨hg, hi⟩, hw.trans hg⟩⟩

theorem stateFor_some {st : PlateSt} : p.stateFor g = some st ↔ p.state.value = some (g, st) := by
  unfold StoredPlate.stateFor
  rcases p.state.value with _ | ⟨gs, st'⟩
  · simp
  · simp only [Option.ite_none_right_eq_some, Option.some.injEq, Prod.mk.injEq]

theorem stateFor_none : p.stateFor g = none ↔ ∀ st, p.state.value ≠ some (g, st) := by
  simp only [Option.eq_none_iff_forall_ne_some, ne_eq, stateFor_some]

/-- The state part in which start-up finds a record. -/
def foundState (p : StoredPlate) (g : Nat) : PlateSt := (p.stateFor g).getD PlateSt.lost

/-- The record that start-up finds in an entry whose images name it. -/
def foundRec (s : State) (x : Store) (p : StoredPlate) (g : Nat) (ident : PlateId) : PlateRec :=
  ⟨ident, foundState p g, none, none, (mapped s x).startMass ident (foundState p g)⟩

theorem loaded_entry (hp : x.readPlates.get? i = some p) :
    (loaded s x).plates.get? i = some ((mapped s x).classify p) := by
  simp only [loaded, get?_map, hp, Option.map_some]

theorem classify_named (h : p.Names g ident) : (mapped s x).classify p = ⟨g, some (foundRec s x p g ident)⟩ := by
  rw [State.classify, names_iff.1 h]
  rfl

theorem classify_free (h : ∀ g ident, ¬p.Names g ident) : (mapped s x).classify p = ⟨p.freeGen, none⟩ := by
  have hnone : p.named = none := Option.eq_none_iff_forall_ne_some.2 fun e he => h e.1 e.2 (names_iff.2 he)
  rw [State.classify, hnone]

/-- A handle names a record after the array is read where the images of its entry name one of its generation. -/
theorem loaded_plate? : (loaded s x).plate? h = some r ↔
    ∃ p ident, x.readPlates.get? h.idx = some p ∧ p.Names h.gen ident ∧ r = foundRec s x p h.gen ident := by
  rw [State.plate?, Pool.find_eq_some]
  constructor
  · intro he
    rcases hp : x.readPlates.get? h.idx with _ | p
    · simp [loaded, get?_map, hp] at he
    · rw [loaded_entry hp] at he
      by_cases hn : ∃ g ident, p.Names g ident
      · obtain ⟨g, ident, hn⟩ := hn
        rw [classify_named hn] at he
        cases he
        exact ⟨p, ident, rfl, hn, rfl⟩
      · rw [classify_free fun g ident hgi => hn ⟨g, ident, hgi⟩] at he
        exact absurd (congrArg Entry.record (Option.some.inj he)) (Option.some_ne_none r).symm
  · rintro ⟨p, ident, hp, hn, rfl⟩
    rw [loaded_entry hp, classify_named hn]

/-! ## The records settled -/

/-- A record found, DOUBTFUL where it lay on a hook or a bed. -/
def doubtedRec (r : PlateRec) : PlateRec := if doubted r then doubtful r else r

/-- The parents that step 2 finds named. -/
def torn (s : State) (x : Store) : List Handle := ((s.readArray x).raiseFound).settleLocations.parents

/-- A record found, as steps 1 and 2 leave it. -/
def settledRec (l : List Handle) (h : Handle) (r : PlateRec) : PlateRec :=
  if r.st.disposition = .stock ∧ h ∈ l then consumed (doubtedRec r) else doubtedRec r

theorem doubtedRec_eq (r : PlateRec) : doubtedRec r = { r with st := { r.st with doubtful := r.st.doubtful
    || (r.st.disposition == .stock && r.unsettled) } } := by
  unfold doubtedRec
  split
  next h =>
    simp only [doubted, Bool.and_eq_true] at h
    obtain ⟨hstock, hunsettled, -⟩ := h
    rw [doubtful, hstock, hunsettled, Bool.and_self, Bool.or_true]
  next h =>
    have hkeep : (r.st.doubtful || (r.st.disposition == .stock && r.unsettled)) = r.st.doubtful := by
      simp only [doubted] at h
      rcases hd : r.st.doubtful with _ | _
      · simpa [hd] using h
      · rfl
    rw [hkeep]

theorem located_changed :
    Changed (fun _ r => doubtedRec r) (loaded s x) ((s.readArray x).raiseFound).settleLocations := by
  have hread : ((s.readArray x).raiseFound).plates = (loaded s x).plates :=
    ((readArray_frame.mono (m := [.queue, .flags]) (by decide)).trans (raiseFound_frame.mono (by decide))) .plates
      (by decide)
  exact (Changed.of_plates hread).trans settleLocations_changed

theorem settled_changed : Changed (settledRec (torn s x)) (loaded s x) (settled s x) := by
  refine (located_changed.trans settleDerivations_changed).congr fun g r _ => ?_
  have hst : (doubtedRec r).st.disposition = r.st.disposition := by rw [doubtedRec_eq]
  simp only [hst]
  rfl

theorem mem_torn : h ∈ torn s x ↔ Derives x h := by
  rw [torn, mem_parents]
  constructor
  · rintro ⟨g, r, hr, hstock, horigin, hparent⟩
    rw [located_changed.plate?] at hr
    obtain ⟨r', hr', rfl⟩ := Option.map_eq_some_iff.1 hr
    obtain ⟨p, ident, hp, hn, rfl⟩ := loaded_plate?.1 hr'
    rw [doubtedRec_eq] at hstock horigin hparent
    refine ⟨g.idx, p, g.gen, ident, hp, hn, horigin, hparent, fun st hst => ?_⟩
    rw [← stateFor_some] at hst
    simpa [foundRec, foundState, hst] using hstock
  · rintro ⟨k, p, g, ident, hp, hn, horigin, hparent, hstock⟩
    refine ⟨⟨k, g⟩, doubtedRec (foundRec s x p g ident), ?_, ?_, ?_, ?_⟩
    · rw [located_changed.plate?, loaded_plate?.2 ⟨p, ident, hp, hn, rfl⟩, Option.map_some]
    all_goals rw [doubtedRec_eq]
    · change (foundState p g).disposition = .stock
      rw [foundState]
      rcases hst : p.stateFor g with _ | st
      · rfl
      · exact hstock st (stateFor_some.1 hst)
    · exact horigin
    · exact hparent

/-! ## The records laid at their levels -/

/-- The record in which start-up leaves one it found. -/
def endRec (s : State) (x : Store) (h : Handle) (r : PlateRec) : PlateRec :=
  relaid (settled s x) 96 h (settledRec (torn s x) h r)

theorem startUp_rebuilt : OnlyChanges [.beds, .cart, .flags, .queue, .seqCounter, .headerFloor]
    (rebuiltSlots (settled s x)) (s.startUp x) :=
  (rebuiltBeds_frame.mono (by decide)).trans (startUp_places.mono (by decide))

/-- The records settled, laid at their levels. -/
theorem laid_changed : Changed (relaid (settled s x) 96) (settled s x) (s.startUp x) := by
  have hplates : (s.startUp x).plates = (rebuiltSlots (settled s x)).plates := startUp_rebuilt .plates (by decide)
  exact (rebuiltSlots_relaid _).plates.keep hplates

theorem startUp_changed : Changed (endRec s x) (loaded s x) (s.startUp x) := settled_changed.trans laid_changed

theorem startUp_slot {k : Nat} (hk : k ≤ 95) : (s.startUp x).slot k = restored (settled s x) k := by
  have hslots : (s.startUp x).slots = (rebuiltSlots (settled s x)).slots :=
    startUp_rebuilt .slots (by decide)
  rw [State.slot, hslots, ← State.slot, (rebuiltSlots_relaid _).slots k hk, if_pos (by omega)]

/-- Laying a plate at its level changes its location alone, and that only where it lies in a slot. -/
theorem relaid_location (s : State) (n : Nat) (h : Handle) (r : PlateRec) :
    ∃ l, relaid s n h r = { r with st := { r.st with location := l } }
      ∧ (l ≠ r.st.location → r.st.disposition = .stock ∧ ∃ k level, r.st.location = .slot k level) := by
  unfold relaid
  split
  next k level hloc =>
    split
    next hk => exact ⟨_, rfl, fun _ => ⟨hk.2, k, level, hloc⟩⟩
    next => exact ⟨_, rfl, fun hne => absurd rfl hne⟩
  next => exact ⟨_, rfl, fun hne => absurd rfl hne⟩

/-! ## The images queued -/

theorem exists_changed {f : Handle → PlateRec → PlateRec} (hf : Changed f s t) (P : Handle → PlateRec → Prop) :
    (∃ g r, t.plate? g = some r ∧ P g r) ↔ ∃ g r, s.plate? g = some r ∧ P g (f g r) := by
  refine exists_congr fun g => ?_
  simp only [hf.plate?, Option.map_eq_some_iff]
  exact ⟨fun ⟨_, ⟨r, hr, heq⟩, h⟩ => ⟨r, hr, heq ▸ h⟩, fun ⟨r, hr, h⟩ => ⟨_, ⟨r, hr, rfl⟩, h⟩⟩

theorem found_changed : Changed (fun _ r => r) (loaded s x) (s.readArray x).raiseFound :=
  .of_plates (((readArray_frame.mono (m := [.queue, .flags]) (by decide)).trans
    (raiseFound_frame.mono (by decide))) .plates (by decide))

/-- The images queued as the array is read and after step 1. -/
theorem located_queue {j : ImageId} : j ∈ (((s.readArray x).raiseFound).settleLocations).queue ↔
    j ∈ x.readQueue ∨ ∃ g r, (loaded s x).plate? g = some r ∧ doubted r = true ∧ j = .state g.idx := by
  have hqueue : ((s.readArray x).raiseFound).queue = (s.readArray x).queue := raiseFound_frame .queue (by decide)
  have hempty : (loaded s x).queue = [] := rfl
  rw [settleLocations_queue, hqueue, readArray_eq, enqueueAll_queue, mem_joining, hempty]
  refine or_congr (by simp) (exists_changed found_changed fun g r => doubted r = true ∧ j = .state g.idx)

/-- The images queued after step 2. -/
theorem settled_queue {j : ImageId} : j ∈ (settled s x).queue ↔ j ∈ x.readQueue
    ∨ (∃ g r, (loaded s x).plate? g = some r ∧ doubted r = true ∧ j = .state g.idx)
    ∨ ∃ g r, (loaded s x).plate? g = some r ∧ r.st.disposition = .stock ∧ g ∈ torn s x ∧ j = .state g.idx := by
  have hst (r : PlateRec) : (doubtedRec r).st.disposition = r.st.disposition := by rw [doubtedRec_eq]
  rw [settled, settleDerivations_queue, located_queue, or_assoc]
  refine or_congr Iff.rfl (or_congr Iff.rfl ((exists_changed located_changed
    fun g r => r.st.disposition = .stock ∧ g ∈ torn s x ∧ j = .state g.idx).trans ?_))
  simp only [hst]

theorem settleCounter_queue {j : ImageId} : j ∈ s.settleCounter.queue ↔ j ∈ s.queue ∨ j = .header := mem_enqueue

theorem startUp_queue {j : ImageId} : j ∈ (s.startUp x).queue ↔ j ∈ x.readQueue ∨ j = .header
    ∨ ∃ g r, (loaded s x).plate? g = some r ∧ (doubted r = true ∨ (r.st.disposition = .stock ∧ g ∈ torn s x)
      ∨ endRec s x g r ≠ settledRec (torn s x) g r) ∧ j = .state g.idx := by
  have hmove {Q H D T L : Prop} : ((Q ∨ D ∨ T) ∨ L) ∨ H ↔ Q ∨ H ∨ D ∨ T ∨ L := by tauto
  have hcounter : j ∈ (s.startUp x).queue ↔ j ∈ (rebuiltSlots (settled s x)).queue ∨ j = .header := by
    rw [startUp_eq, raiseIf_queue, raise_queue, settleCounter_queue, rebuildPlaces_queue]
  have hlaid : j ∈ (rebuiltSlots (settled s x)).queue ↔ j ∈ (settled s x).queue ∨ ∃ g r,
      (loaded s x).plate? g = some r ∧ endRec s x g r ≠ settledRec (torn s x) g r ∧ j = .state g.idx :=
    ((rebuiltSlots_relaid _).queue j).trans (or_congr Iff.rfl (exists_changed settled_changed
      fun g r => relaid (settled s x) 96 g r ≠ r ∧ j = .state g.idx))
  rw [hcounter, hlaid, settled_queue]
  have hsplit (P : Handle → PlateRec → Prop) {A B C : Handle → PlateRec → Prop} :
      (∃ g r, P g r ∧ (A g r ∨ B g r ∨ C g r) ∧ j = .state g.idx) ↔ (∃ g r, P g r ∧ A g r ∧ j = .state g.idx)
        ∨ (∃ g r, P g r ∧ B g r ∧ j = .state g.idx) ∨ ∃ g r, P g r ∧ C g r ∧ j = .state g.idx := by
    simp only [or_and_right, and_or_left, exists_or]
  rw [hsplit]
  simp only [and_assoc]
  exact hmove

/-! ## The images queued as they are read -/

theorem mem_when {α : Type} {a b : α} {c : Prop} [Decidable c] : a ∈ (if c then [b] else []) ↔ a = b ∧ c := by
  split
  next h => simp [h]
  next h => simp [h]

theorem mem_queued {j : ImageId} : j ∈ p.queued i ↔
    (j = .genWord i ∧ (p.genWord.condition = .corrected ∨ (p.genWord.value = none ∧ ∃ g ident, p.Names g ident)))
      ∨ (j = .identity i ∧ p.identity.condition = .corrected)
      ∨ (j = .state i ∧ (p.state.condition = .corrected ∨ p.secondRow = true)) := by
  have hnamed : p.named.isSome = true ↔ ∃ g ident, p.Names g ident := by
    simp only [Option.isSome_iff_exists, Prod.exists, names_iff]
  simp only [StoredPlate.queued, List.mem_append, mem_when, Bool.or_eq_true, Bool.and_eq_true, beq_iff_eq, hnamed,
    Option.isNone_iff_eq_none, or_assoc, and_comm (a := ∃ g ident, p.Names g ident)]

theorem secondRow_iff : p.secondRow = true ↔ ∃ g ident, p.Names g ident ∧ ∀ st, p.state.value ≠ some (g, st) := by
  simp only [names_iff, ← stateFor_none, StoredPlate.secondRow]
  rcases p.named with _ | ⟨g, ident⟩
  · simp
  · simp only [Option.isNone_iff_eq_none, Option.some.injEq, Prod.mk.injEq]
    exact ⟨fun h => ⟨g, ident, ⟨rfl, rfl⟩, h⟩, fun ⟨_, _, ⟨hg, _⟩, h⟩ => hg ▸ h⟩

theorem mem_groupQueue {j : ImageId} : j ∈ x.groupQueue ↔ ∃ g, j = .group g ∧ x.groupCondition g ≠ .sound := by
  have hall (g : Group) : g ∈ Group.all := by cases g <;> decide
  have hrewritten (c : Condition) : c.rewritten = true ↔ c ≠ .sound := by cases c <;> simp [Condition.rewritten]
  simp only [Store.groupQueue, List.mem_map, List.mem_filter, hall, true_and, hrewritten]
  exact ⟨fun ⟨g, h, hj⟩ => ⟨g, hj.symm, h⟩, fun ⟨g, hj, h⟩ => ⟨g, h, hj.symm⟩⟩

theorem mem_readQueue {j : ImageId} : j ∈ x.readQueue ↔
    (∃ g, j = .group g ∧ x.groupCondition g ≠ .sound)
      ∨ (∃ i p, x.readPlates.get? i = some p ∧ j ∈ p.queued i)
      ∨ (j = .header ∧ x.readHeader.condition = .corrected) := by
  rw [Store.readQueue, List.mem_append, List.mem_append, mem_groupQueue, mem_when, beq_iff_eq, or_assoc]
  refine or_congr Iff.rfl (or_congr ?_ Iff.rfl)
  simp only [List.mem_flatten, List.mem_map, Prod.exists, List.mem_zipIdx_iff_getElem?, ↓existsAndEq, and_true]
  exact ⟨fun ⟨p, i, hp, hj⟩ => ⟨i, p, hp, hj⟩, fun ⟨i, p, hp, hj⟩ => ⟨p, i, hp, hj⟩⟩

theorem readQueue_plate {j : ImageId} (hp : x.readPlates.get? i = some p)
    (hj : j = .genWord i ∨ j = .identity i ∨ j = .state i) : j ∈ x.readQueue ↔ j ∈ p.queued i := by
  have hidx {k : Nat} {q : StoredPlate} (hq : j ∈ q.queued k) : k = i := by
    rw [mem_queued] at hq
    rcases hj with rfl | rfl | rfl <;> simpa [eq_comm] using hq.imp And.left (Or.imp And.left And.left)
  rw [mem_readQueue]
  constructor
  · rintro (⟨g, hg, -⟩ | ⟨k, q, hq, hqueued⟩ | ⟨hheader, -⟩)
    · rcases hj with rfl | rfl | rfl <;> cases hg
    · obtain rfl := hidx hqueued
      rw [hp] at hq
      cases hq
      exact hqueued
    · rcases hj with rfl | rfl | rfl <;> cases hheader
  · exact fun h => .inr (.inl ⟨i, p, hp, h⟩)

/-! ## Start-up's records by the images -/

theorem startUp_plate? : (s.startUp x).plate? h = some r ↔ ∃ p ident, x.readPlates.get? h.idx = some p
    ∧ p.Names h.gen ident ∧ r = endRec s x h (foundRec s x p h.gen ident) := by
  simp only [startUp_changed.plate?, Option.map_eq_some_iff, loaded_plate?]
  exact ⟨fun ⟨_, ⟨p, ident, hp, hn, he⟩, hr⟩ => ⟨p, ident, hp, hn, he ▸ hr.symm⟩,
    fun ⟨p, ident, hp, hn, hr⟩ => ⟨_, ⟨p, ident, hp, hn, rfl⟩, hr.symm⟩⟩

theorem settled_plate? : (settled s x).plate? h = some r ↔ ∃ p ident, x.readPlates.get? h.idx = some p
    ∧ p.Names h.gen ident ∧ r = settledRec (torn s x) h (foundRec s x p h.gen ident) := by
  simp only [settled_changed.plate?, Option.map_eq_some_iff, loaded_plate?]
  exact ⟨fun ⟨_, ⟨p, ident, hp, hn, he⟩, hr⟩ => ⟨p, ident, hp, hn, he ▸ hr.symm⟩,
    fun ⟨p, ident, hp, hn, hr⟩ => ⟨_, ⟨p, ident, hp, hn, rfl⟩, hr.symm⟩⟩

/-- A record still STOCK after step 2 was not retired. -/
theorem settledRec_stock {l : List Handle} (h : (settledRec l g' r).st.disposition = .stock) :
    settledRec l g' r = doubtedRec r := by
  unfold settledRec at h ⊢
  split
  next hp =>
    rw [if_pos hp] at h
    cases h
  next => rfl

theorem foundState_eq {st : PlateSt} (h : p.state.value = some (g, st)) : foundState p g = st := by
  rw [foundState, stateFor_some.2 h, Option.getD_some]

/-! ## The stacks -/

/-- The level and the sequence number by which a plate of a slot is stacked are the stored ones. -/
theorem settled_stackKeys {k l : Nat} {st : PlateSt} (hin : h ∈ (settled s x).storedStack k)
    (hp : x.readPlates.get? h.idx = some p) (hst : p.state.value = some (h.gen, st))
    (hid : p.identity.value = some (h.gen, ident)) (hloc : st.location = .slot k l) :
    (settled s x).stackKeys h = [l, ident.seq] := by
  obtain ⟨r, hr, hstock, -⟩ := mem_storedStack.1 hin
  obtain ⟨p', ident', hp', ⟨hid', -⟩, rfl⟩ := settled_plate?.1 hr
  rw [hp] at hp'
  cases hp'
  rw [hid] at hid'
  cases hid'
  rw [settledRec_stock hstock] at hr
  rw [State.stackKeys, hr, doubtedRec_eq]
  simp only [foundRec, foundState_eq hst, hloc]

end Sys2Proof.Proofs.Arrays
end

section
/-! PROOFS. Start-up by the array it reads: the places rebuilt, the alarms of what it found, and the plate entries with
their images (R54, R181, R182). -/

namespace Sys2Proof.Proofs.Restored

open Sys2Proof Sys2Proof.Machine
open Sys2Proof.Proofs.Tables Sys2Proof.Proofs.Flags Sys2Proof.Proofs.Order Sys2Proof.Proofs.Starts
open Sys2Proof.Proofs.Startups Sys2Proof.Proofs.Records Sys2Proof.Proofs.Arrays Sys2Proof.Proofs.Walk

variable {s t : State} {x : Store} {h : Handle} {r : PlateRec} {p : StoredPlate} {i g : Nat} {ident : PlateId}

/-! ## The places -/

theorem restored_stack (s : State) (k : Nat) : (restored s k).stack = s.storedStack k := rfl

theorem startUp_stack {k : Nat} (hk : k ≤ 95) : ((s.startUp x).slot k).stack = (settled s x).storedStack k := by
  rw [startUp_slot hk, restored_stack]

theorem relaid_of_slot {n k : Nat} (hk : k < n) (hstock : r.st.disposition = .stock)
    (hplace : r.st.location.place = .slot k) : relaid s n h r = atLevel k ((s.storedStack k).idxOf h) r := by
  unfold relaid
  split
  next j level hloc =>
    rw [hloc] at hplace
    cases hplace
    exact if_pos ⟨hk, hstock⟩
  next hloc =>
    rcases hl : r.st.location with ⟨j, level⟩ | _ | _ | _ | _
    · exact absurd hl (hloc j level)
    all_goals
      rw [hl] at hplace
      cases hplace

/-- A STOCK plate of a slot lies at its place in the stack that the records give. -/
theorem relaid_slot {k : Nat} (hr : (settled s x).plate? h = some r) (hk : k ≤ 95) :
    h ∈ (settled s x).storedStack k → relaid (settled s x) 96 h r = atLevel k (((settled s x).storedStack k).idxOf h) r
    := by
  intro hin
  obtain ⟨r', hr', hstock, hplace⟩ := mem_storedStack.1 hin
  rw [hr] at hr'
  cases hr'
  exact relaid_of_slot (by omega) hstock hplace

theorem startUp_level {k level : Nat} (hk : k ≤ 95) : ((s.startUp x).slot k).stack[level]? = some h ↔
    ∃ r, (s.startUp x).plate? h = some r ∧ r.st.disposition = .stock ∧ r.st.location = .slot k level := by
  have hnodup : ((settled s x).storedStack k).Nodup := storedStack_nodup k
  rw [startUp_stack hk]
  simp only [laid_changed.plate?, Option.map_eq_some_iff]
  constructor
  · intro hlevel
    have hin := List.mem_of_getElem? hlevel
    obtain ⟨r, hr, hstock, -⟩ := mem_storedStack.1 hin
    refine ⟨_, ⟨r, hr, rfl⟩, (relaid_place _ _ _ _).1.trans hstock, ?_⟩
    obtain ⟨hlt, rfl⟩ := List.getElem?_eq_some_iff.1 hlevel
    rw [relaid_slot hr hk hin, atLevel, hnodup.idxOf_getElem]
  · rintro ⟨_, ⟨r, hr, rfl⟩, hstock, hloc⟩
    obtain ⟨hst, hplace⟩ := relaid_place (settled s x) 96 h r
    have hin : h ∈ (settled s x).storedStack k :=
      mem_storedStack.2 ⟨r, hr, hst ▸ hstock, by rw [← hplace, hloc]; rfl⟩
    rw [relaid_slot hr hk hin, atLevel, Location.slot.injEq] at hloc
    rw [← hloc.2]
    exact List.getElem?_idxOf hin

/-- A stack stands in the order of the stored levels, and of the sequence numbers where these are equal. -/
theorem startUp_ordered {k i j : Nat} {h g : Handle} {p q : StoredPlate} {lh lg : Nat} {sh sg : PlateSt}
    {nh ng : PlateId} (hk : k ≤ 95) (hij : i < j) (hi : ((s.startUp x).slot k).stack[i]? = some h)
    (hj : ((s.startUp x).slot k).stack[j]? = some g) (hp : x.readPlates.get? h.idx = some p)
    (hsh : p.state.value = some (h.gen, sh)) (hnh : p.identity.value = some (h.gen, nh))
    (hlh : sh.location = .slot k lh) (hq : x.readPlates.get? g.idx = some q)
    (hsg : q.state.value = some (g.gen, sg)) (hng : q.identity.value = some (g.gen, ng))
    (hlg : sg.location = .slot k lg) : lh < lg ∨ (lh = lg ∧ nh.seq ≤ ng.seq) := by
  rw [startUp_stack hk] at hi hj
  have hsorted : ((settled s x).storedStack k).Pairwise fun h g =>
      keysBefore ((settled s x).stackKeys g) ((settled s x).stackKeys h) = false :=
    sortBy_not_before (before := fun h g => keysBefore ((settled s x).stackKeys h) ((settled s x).stackKeys g))
      (fun _ _ => keysBefore_anti) fun _ _ _ => keysBefore_trans
  have hkeys := List.pairwise_iff_getElem.1 hsorted i j (List.getElem?_eq_some_iff.1 hi).1
    (List.getElem?_eq_some_iff.1 hj).1 hij
  rw [(List.getElem?_eq_some_iff.1 hi).2, (List.getElem?_eq_some_iff.1 hj).2,
    settled_stackKeys (List.mem_of_getElem? hi) hp hsh hnh hlh,
    settled_stackKeys (List.mem_of_getElem? hj) hq hsg hng hlg] at hkeys
  simp only [keysBefore] at hkeys
  split at hkeys
  next => cases hkeys
  next hle =>
    split at hkeys
    next hlt => exact .inl hlt
    next hge =>
      refine .inr ⟨by omega, ?_⟩
      split at hkeys
      next => cases hkeys
      next hseq => exact Nat.not_lt.1 hseq

theorem startUp_overCap {k : Nat} (hk : k ≤ 95) : ((s.startUp x).slot k).overCap
    = (decide (((s.startUp x).slotCfg k).capacity < ((s.startUp x).slot k).stack.length)
      || decide (((s.startUp x).slotCfg k).limit < (s.startUp x).stackMass k)) := by
  have hloaded : ((settled s x).slot k).overCap = false := by
    have hslots : (settled s x).slots = (loaded s x).slots := settled_frame .slots (by decide)
    rw [State.slot, hslots]
    exact congrArg Slot.overCap (Table.getD_replicate k _)
  have hcfg : (s.startUp x).slotCfg k = (settled s x).slotCfg k := by
    have hhall : (s.startUp x).hall = (rebuiltSlots (settled s x)).hall := startUp_rebuilt .hall (by decide)
    have hhall' : (rebuiltSlots (settled s x)).hall = (settled s x).hall := rebuiltSlots_frame .hall (by decide)
    rw [State.slotCfg, State.slotCfg, hhall, hhall']
  have hshare : (s.startUp x).stackShare = (settled s x).stackShare := by
    have hplates : (s.startUp x).plates = (rebuiltSlots (settled s x)).plates := startUp_rebuilt .plates (by decide)
    exact funext (stackShare_changed ((rebuiltSlots_relaid _).plates.trans (.of_plates hplates))
      (relaid_share (settled s x) 96))
  rw [hcfg, State.stackMass, hshare, startUp_stack hk, startUp_slot hk, restored, hloaded, Bool.false_or]

theorem rebuiltBeds_bed {b d : Nat} (hb : b ≤ 7) (hd : d ≤ 1) :
    ((rebuiltBeds s).bed b d).plates = s.stockWhere fun r => r.st.location == Location.bed b d := by
  have hidx : bedIndex b d < 16 := by unfold bedIndex; omega
  have hdiv : bedIndex b d / 2 = b ∧ bedIndex b d % 2 = d := by unfold bedIndex; omega
  rw [State.bed, rebuiltBeds, Table.getD, get?_ofFn _ hidx, Option.getD_some, hdiv.1, hdiv.2]

theorem rebuiltBeds_cart : (rebuiltBeds s).cart.plates = s.stockWhere fun r => r.st.location == Location.cart := rfl

theorem mem_stockAt {l : Location} (hplates : s.plates = t.plates) :
    h ∈ t.stockWhere (fun r => r.st.location == l) ↔
      ∃ r, s.plate? h = some r ∧ r.st.disposition = .stock ∧ r.st.location = l := by
  simp only [mem_stockWhere, State.plate?, hplates, beq_iff_eq]

theorem startUp_plates : (s.startUp x).plates = (rebuiltSlots (settled s x)).plates :=
  startUp_rebuilt .plates (by decide)

theorem startUp_bed {b d : Nat} (hb : b ≤ 7) (hd : d ≤ 1) : h ∈ ((s.startUp x).bed b d).plates ↔
    ∃ r, (s.startUp x).plate? h = some r ∧ r.st.disposition = .stock ∧ r.st.location = .bed b d := by
  rw [State.bed, startUp_beds.1, ← State.bed, placed, rebuiltBeds_bed hb hd, mem_stockAt startUp_plates]

theorem startUp_cart : h ∈ (s.startUp x).cart.plates ↔
    ∃ r, (s.startUp x).plate? h = some r ∧ r.st.disposition = .stock ∧ r.st.location = .cart := by
  rw [startUp_beds.2, placed, rebuiltBeds_cart, mem_stockAt startUp_plates]

/-! ## The flags -/

theorem someGroup_iff {c : Condition} : x.someGroup c = true ↔ ∃ g, x.groupCondition g = c := by
  have hall (g : Group) : g ∈ Group.all := by cases g <;> decide
  simp [Store.someGroup, hall]

theorem some_entry_iff {P : StoredPlate → Bool} :
    x.readPlates.entries.any P = true ↔ ∃ i p, x.readPlates.get? i = some p ∧ P p = true := any_entries _ _

theorem foundCorrected_iff : foundCorrected x = true ↔ (∃ g, x.groupCondition g = .corrected)
    ∨ x.readHeader.condition = .corrected
    ∨ ∃ i p, x.readPlates.get? i = some p ∧ (p.genWord.condition = .corrected
      ∨ p.identity.condition = .corrected ∨ p.state.condition = .corrected) := by
  simp only [foundCorrected, StoredPlate.someImage, Bool.or_eq_true, beq_iff_eq, someGroup_iff, some_entry_iff,
    or_assoc]

theorem foundDoubtful_iff : foundDoubtful x = true ↔ (∃ g, x.groupCondition g = .bad)
    ∨ ∃ i p, x.readPlates.get? i = some p ∧ (p.genWord.condition = .bad ∨ p.identity.condition = .bad
      ∨ p.state.condition = .bad ∨ (p.state.condition = .absent ∧ ∃ g ident, p.Names g ident)) := by
  have habsent (p : StoredPlate) : (p.secondRow = true ∧ p.state.condition = .absent) ↔
      p.state.condition = .absent ∧ ∃ g ident, p.Names g ident := by
    rw [secondRow_iff]
    constructor
    · exact fun ⟨⟨g, ident, hn, _⟩, h⟩ => ⟨h, g, ident, hn⟩
    · rintro ⟨h, g, ident, hn⟩
      refine ⟨⟨g, ident, hn, ?_⟩, h⟩
      rcases hstate : p.state with _ | _ | _ | _ <;> rw [hstate] at h <;> cases h
      exact nofun
  simp only [foundDoubtful, StoredPlate.raisesDoubt, StoredPlate.someImage, Bool.or_eq_true, Bool.and_eq_true,
    beq_iff_eq, someGroup_iff, some_entry_iff, or_assoc, habsent]

/-! ## Where a plate lies -/

theorem startUp_entry : (s.startUp x).plates.get? i = some ⟨g, some r⟩ ↔ ∃ p ident, x.readPlates.get? i = some p
    ∧ p.Names g ident ∧ r = endRec s x ⟨i, g⟩ (foundRec s x p g ident) :=
  (Pool.find_eq_some (h := ⟨i, g⟩)).symm.trans startUp_plate?

theorem names_unique {g' : Nat} {ident' : PlateId} (h : p.Names g ident) (h' : p.Names g' ident') :
    g' = g ∧ ident' = ident := by
  have heq : some (g', ident') = some (g, ident) := h'.1.symm.trans h.1
  cases heq
  exact ⟨rfl, rfl⟩

/-- When the state image of a record is queued: as it is read, or as the record is settled or laid. -/
theorem startUp_state_queued (hp : x.readPlates.get? i = some p) (hn : p.Names g ident) :
    .state i ∈ (s.startUp x).queue ↔ p.state.condition = .corrected ∨ (∀ st, p.state.value ≠ some (g, st))
      ∨ doubted (foundRec s x p g ident) = true
      ∨ ((foundRec s x p g ident).st.disposition = .stock ∧ Derives x ⟨i, g⟩)
      ∨ endRec s x ⟨i, g⟩ (foundRec s x p g ident) ≠ settledRec (torn s x) ⟨i, g⟩ (foundRec s x p g ident) := by
  have hsecond : p.secondRow = true ↔ ∀ st, p.state.value ≠ some (g, st) := by
    rw [secondRow_iff]
    exact ⟨fun ⟨g', ident', hn', h⟩ => (names_unique hn hn').1 ▸ h, fun h => ⟨g, ident, hn, h⟩⟩
  have hread : ImageId.state i ∈ x.readQueue ↔ p.state.condition = .corrected ∨ p.secondRow = true := by
    rw [readQueue_plate hp (.inr (.inr rfl)), mem_queued]
    simp
  rw [startUp_queue, hread, hsecond, or_assoc]
  refine or_congr Iff.rfl (or_congr Iff.rfl ⟨?_, fun h => .inr ⟨⟨i, g⟩, _, loaded_plate?.2 ⟨p, ident, hp, hn, rfl⟩,
    h.imp_right (Or.imp_left (And.imp_right mem_torn.2)), rfl⟩⟩)
  rintro (hheader | ⟨h, r, hr, hcause, hj⟩)
  · cases hheader
  · obtain ⟨p', ident', hp', hn', rfl⟩ := loaded_plate?.1 hr
    obtain rfl : i = h.idx := ImageId.state.inj hj
    rw [hp] at hp'
    cases hp'
    obtain ⟨rfl, rfl⟩ := names_unique hn hn'
    exact hcause.imp_right (Or.imp_left (And.imp_right mem_torn.1))

/-- A plate that does not lie where it was stored has its state image queued. -/
theorem startUp_moved {st : PlateSt} (hp : x.readPlates.get? i = some p) (hst : p.state.value = some (g, st))
    (hr : (s.startUp x).plates.get? i = some ⟨g, some r⟩) (hne : r.st.location ≠ st.location) :
    .state i ∈ (s.startUp x).queue := by
  obtain ⟨p', ident, hp', hn, rfl⟩ := startUp_entry.1 hr
  rw [hp] at hp'
  cases hp'
  rw [startUp_state_queued hp hn]
  by_contra hnone
  simp only [not_or, not_and, ne_eq, not_not] at hnone
  obtain ⟨-, -, -, hkept, hlaid⟩ := hnone
  rw [hlaid, settledRec, if_neg fun ⟨hstock, htorn⟩ => hkept hstock (mem_torn.1 htorn), doubtedRec_eq] at hne
  exact hne (show (foundState p g).location = _ by rw [foundState_eq hst])

theorem placed_overCap_iff :
    (placed s x).anyOverCap = true ↔ ∃ k, k ≤ 95 ∧ ((s.startUp x).slot k).overCap = true := by
  have hslot (k : Nat) : (s.startUp x).slot k = (placed s x).slot k :=
    congrArg (fun l => Table.getD l k _) (startUp_places .slots (by decide))
  simp only [anyOverCap_iff, ← hslot]
  refine ⟨fun ⟨k, hk⟩ => ⟨k, ?_, hk⟩, fun ⟨k, _, hk⟩ => ⟨k, hk⟩⟩
  by_contra hbeyond
  rw [State.slot, Table.getD_beyond _ _ (by omega)] at hk
  cases hk

/-- Settles O56: the records settled, the slots rebuilt on them one after the other, the beds and the cart after
them. -/
theorem startupRebuildsPlaces : Obligations.StartupRebuildsPlaces := by
  unfold Obligations.StartupRebuildsPlaces
  intro c s x h
  obtain ⟨u, hexec, -, -⟩ := startsUp_exec h
  refine ⟨_, hexec, fun k level h hk => startUp_level hk, fun k i j h g p q lh lg sh sg nh ng => startUp_ordered,
    fun i p g st r => startUp_moved, fun k => startUp_overCap, fun b d h => startUp_bed, fun h => startUp_cart,
    ?_, ?_, ?_⟩
  · rw [flagIn_startUp]
    exact placed_overCap_iff
  · rw [flagIn_startUp]
    exact foundCorrected_iff
  · rw [flagIn_startUp]
    exact foundDoubtful_iff

/-! ## The entries -/

/-- The torn parent of a derivation, as it ends: retired, with its place and its mass gone. -/
theorem endRec_consumed (h : r.st.disposition = .stock ∧ Derives x ⟨i, g⟩) :
    endRec s x ⟨i, g⟩ r = consumed (doubtedRec r) := by
  rw [endRec, settledRec, if_pos ⟨h.1, mem_torn.2 h.2⟩]
  rfl

/-- Any other record: it may have become DOUBTFUL, and where it lies in a slot it takes its level there. -/
theorem endRec_kept (h : ¬(r.st.disposition = .stock ∧ Derives x ⟨i, g⟩)) : ∃ l, endRec s x ⟨i, g⟩ r
    = { r with st := { r.st with
          location := l
          doubtful := r.st.doubtful || (r.st.disposition == .stock && r.unsettled) } }
      ∧ (l ≠ r.st.location → r.st.disposition = .stock ∧ ∃ k level, r.st.location = .slot k level) := by
  rw [endRec, settledRec, if_neg fun ⟨hstock, htorn⟩ => h ⟨hstock, mem_torn.1 htorn⟩, doubtedRec_eq]
  exact relaid_location _ _ _ _

theorem startUp_free (hp : x.readPlates.get? i = some p) (h : ∀ g ident, ¬p.Names g ident) :
    (s.startUp x).plates.get? i = some ⟨p.freeGen, none⟩ := by
  rw [startUp_changed i, loaded_entry hp, classify_free h]
  rfl

theorem foundState_lost (h : ∀ st, p.state.value ≠ some (g, st)) : foundState p g = PlateSt.lost := by
  rw [foundState, stateFor_none.2 h, Option.getD_none]

theorem foundRec_mass : (foundRec s x p g ident).mass = (mapped s x).startMass ident (foundState p g) := rfl

/-- The record of a plate whose state image is lost. -/
theorem endRec_lost (hlost : ∀ st, p.state.value ≠ some (g, st)) :
    let r := endRec s x ⟨i, g⟩ (foundRec s x p g ident)
    r.st.panels = none ∧ r.st.area = none ∧ r.st.location = .nowhere ∧ r.st.held = false ∧ r.st.massDoubt = false
      ∧ r.st.doubtful = true ∧ r.mass = none ∧ (¬Derives x ⟨i, g⟩ → r.st.disposition = .stock) := by
  intro r
  have hfound : foundRec s x p g ident = ⟨ident, PlateSt.lost, none, none, none⟩ := by
    rw [foundRec, foundState_lost hlost]
    rfl
  by_cases hd : Derives x ⟨i, g⟩
  · have hr : r = consumed (doubtedRec (foundRec s x p g ident)) := endRec_consumed ⟨by rw [hfound]; rfl, hd⟩
    rw [hr, doubtedRec_eq, hfound]
    exact ⟨rfl, rfl, rfl, rfl, rfl, rfl, rfl, fun h => absurd hd h⟩
  · obtain ⟨l, hr, hl⟩ := endRec_kept (s := s) (r := foundRec s x p g ident) fun h => hd h.2
    have hnowhere : l = .nowhere := by
      by_contra hne
      rw [hfound] at hl
      obtain ⟨-, k, level, hslot⟩ := hl hne
      cases hslot
    rw [show r = _ from hr, hnowhere, hfound]
    exact ⟨rfl, rfl, rfl, rfl, rfl, rfl, rfl, fun _ => rfl⟩

theorem startUp_grade (n : Nat) : (s.startUp x).grade n = (mapped s x).grade n := by
  have hhall : (s.startUp x).hall = (loaded s x).hall := startUp_frame .hall (by decide)
  rw [State.grade, hhall]
  rfl

/-- The record of a plate whose state image is good. -/
theorem endRec_found {st : PlateSt} (hst : p.state.value = some (g, st)) :
    let r := endRec s x ⟨i, g⟩ (foundRec s x p g ident)
    r.st.panels = st.panels ∧ r.st.area = st.area ∧ r.st.held = st.held ∧ r.st.massDoubt = st.massDoubt
      ∧ r.st.doubtful = (st.doubtful || (st.disposition == .stock && match st.location with
          | .hook _ => true
          | .bed _ _ => true
          | _ => false))
      ∧ (¬Derives x ⟨i, g⟩ ∨ st.disposition ≠ .stock →
          r.st.disposition = st.disposition
            ∧ (st.disposition ≠ .stock ∨ (∀ k level, st.location ≠ .slot k level) → r.st.location = st.location)
            ∧ (∀ area, st.disposition = .stock → st.area = some area →
                r.mass = some (massOf area ident.thickness ((s.startUp x).grade ident.grade).density))) := by
  intro r
  have hfound : (foundRec s x p g ident).st = st := foundState_eq hst
  have hunsettled : (foundRec s x p g ident).unsettled = match st.location with
      | .hook _ => true
      | .bed _ _ => true
      | _ => false := by
    rw [PlateRec.unsettled, hfound] <;> rfl
  by_cases hd : st.disposition = .stock ∧ Derives x ⟨i, g⟩
  · have hr : r = consumed (doubtedRec (foundRec s x p g ident)) := endRec_consumed (hfound ▸ hd)
    rw [hr, doubtedRec_eq, hunsettled, hfound]
    exact ⟨rfl, rfl, rfl, rfl, rfl, fun h => (h.elim (absurd hd.2) (absurd hd.1))⟩
  · obtain ⟨l, hr, hl⟩ := endRec_kept (s := s) (r := foundRec s x p g ident) (hfound ▸ hd)
    rw [hfound] at hl
    rw [show r = _ from hr, hunsettled, hfound]
    refine ⟨rfl, rfl, rfl, rfl, rfl, fun _ => ⟨rfl, fun h => ?_, fun area hstock harea => ?_⟩⟩
    · by_contra hne
      obtain ⟨hstock, k, level, hslot⟩ := hl hne
      exact h.elim (absurd hstock) fun h => h k level hslot
    · rw [foundRec_mass, foundState_eq hst, startUp_grade, State.startMass, hstock, harea]
      rfl

theorem foundRec_stock (hstock : ∀ st, p.state.value = some (g, st) → st.disposition = .stock) :
    (foundRec s x p g ident).st.disposition = .stock := by
  change (foundState p g).disposition = .stock
  by_cases hlost : ∀ st, p.state.value ≠ some (g, st)
  · rw [foundState_lost hlost]
    rfl
  · simp only [not_forall, ne_eq, not_not] at hlost
    obtain ⟨st, hst⟩ := hlost
    rw [foundState_eq hst]
    exact hstock st hst

/-- The record of a torn parent. -/
theorem endRec_torn (hd : Derives x ⟨i, g⟩) (hstock : ∀ st, p.state.value = some (g, st) → st.disposition = .stock) :
    let r := endRec s x ⟨i, g⟩ (foundRec s x p g ident)
    r.st.disposition = .retired .consumed ∧ r.st.location = .nowhere ∧ r.mass = none := by
  intro r
  rw [show r = _ from endRec_consumed ⟨foundRec_stock hstock, hd⟩]
  exact ⟨rfl, rfl, rfl⟩

/-- A record keeps its identity, and no job or leg holds it. -/
theorem endRec_own : let r := endRec s x ⟨i, g⟩ (foundRec s x p g ident)
    r.ident = ident ∧ r.job = none ∧ r.leg = none := by
  intro r
  by_cases hd : (foundRec s x p g ident).st.disposition = .stock ∧ Derives x ⟨i, g⟩
  · rw [show r = _ from endRec_consumed hd, doubtedRec_eq]
    exact ⟨rfl, rfl, rfl⟩
  · obtain ⟨l, hr, -⟩ := endRec_kept (s := s) hd
    rw [show r = _ from hr]
    exact ⟨rfl, rfl, rfl⟩

/-! ## The images queued -/

theorem startUp_read_queued {j : ImageId} (hj : ∀ k, j ≠ .state k) (hheader : j ≠ .header) :
    j ∈ (s.startUp x).queue ↔ j ∈ x.readQueue := by
  rw [startUp_queue]
  exact ⟨fun h => h.elim id fun h => h.elim (absurd · hheader) fun ⟨g, _, _, _, h⟩ => absurd h (hj _), .inl⟩

theorem startUp_state_cause {st : PlateSt} (hp : x.readPlates.get? i = some p) (hn : p.Names g ident)
    (hst : p.state.value = some (g, st)) :
    (doubted (foundRec s x p g ident) = true
      ∨ ((foundRec s x p g ident).st.disposition = .stock ∧ Derives x ⟨i, g⟩)
      ∨ endRec s x ⟨i, g⟩ (foundRec s x p g ident) ≠ settledRec (torn s x) ⟨i, g⟩ (foundRec s x p g ident))
    ↔ st.disposition = .stock
        ∧ ((st.doubtful = false ∧ match st.location with
            | .hook _ => True
            | .bed _ _ => True
            | _ => False)
          ∨ Derives x ⟨i, g⟩
          ∨ ∃ r, (s.startUp x).plates.get? i = some ⟨g, some r⟩ ∧ r.st.location ≠ st.location) := by
  have hfound : (foundRec s x p g ident).st = st := foundState_eq hst
  have hdoubted : doubted (foundRec s x p g ident) = true ↔ st.disposition = .stock ∧ st.doubtful = false
      ∧ match st.location with
        | .hook _ => True
        | .bed _ _ => True
        | _ => False := by
    have hunsettled : (foundRec s x p g ident).unsettled = true ↔ match st.location with
        | .hook _ => True
        | .bed _ _ => True
        | _ => False := by
      rw [PlateRec.unsettled, hfound]
      rcases st.location with _ | _ | _ | _ | _ <;> simp
    rw [doubted, Bool.and_eq_true, Bool.and_eq_true, hunsettled, hfound, beq_iff_eq, Bool.not_eq_true',
      and_comm (b := st.doubtful = false)]
  rw [hdoubted, hfound]
  constructor
  · rintro (⟨hstock, hdoubt⟩ | ⟨hstock, hd⟩ | hlaid)
    · exact ⟨hstock, .inl hdoubt⟩
    · exact ⟨hstock, .inr (.inl hd)⟩
    · by_cases hd : st.disposition = .stock ∧ Derives x ⟨i, g⟩
      · exact ⟨hd.1, .inr (.inl hd.2)⟩
      · obtain ⟨l, hr, hl⟩ := endRec_kept (s := s) (r := foundRec s x p g ident) (hfound ▸ hd)
        have hne : l ≠ (foundRec s x p g ident).st.location := by
          rintro rfl
          refine hlaid (hr.trans ?_)
          rw [settledRec, if_neg fun ⟨hstock, htorn⟩ => hd ⟨hfound ▸ hstock, mem_torn.1 htorn⟩, doubtedRec_eq]
        obtain ⟨hstock, -⟩ := hl hne
        rw [hfound] at hstock
        refine ⟨hstock, .inr (.inr ⟨_, startUp_entry.2 ⟨p, ident, hp, hn, rfl⟩, ?_⟩)⟩
        rw [hr]
        exact hfound ▸ hne
  · rintro ⟨hstock, hdoubt | hd | ⟨r, hr, hne⟩⟩
    · exact .inl ⟨hstock, hdoubt⟩
    · exact .inr (.inl ⟨hstock, hd⟩)
    · obtain ⟨p', ident', hp', hn', rfl⟩ := startUp_entry.1 hr
      rw [hp] at hp'
      cases hp'
      obtain ⟨-, rfl⟩ := names_unique hn hn'
      by_cases hd : Derives x ⟨i, g⟩
      · exact .inr (.inl ⟨hstock, hd⟩)
      · refine .inr (.inr fun hlaid => hne ?_)
        rw [hlaid, settledRec, if_neg fun ⟨_, htorn⟩ => hd (mem_torn.1 htorn), doubtedRec_eq]
        change (foundRec s x p g ident').st.location = _
        rw [hfound]

theorem startUp_named_state_queued (hp : x.readPlates.get? i = some p) (hn : p.Names g ident) :
    .state i ∈ (s.startUp x).queue ↔ p.state.condition = .corrected ∨ (∀ st, p.state.value ≠ some (g, st))
      ∨ ∃ st, p.state.value = some (g, st) ∧ st.disposition = .stock
        ∧ ((st.doubtful = false ∧ match st.location with
            | .hook _ => True
            | .bed _ _ => True
            | _ => False)
          ∨ Derives x ⟨i, g⟩
          ∨ ∃ r, (s.startUp x).plates.get? i = some ⟨g, some r⟩ ∧ r.st.location ≠ st.location) := by
  rw [startUp_state_queued (s := s) hp hn]
  by_cases hlost : ∀ st, p.state.value ≠ some (g, st)
  · exact ⟨fun _ => .inr (.inl hlost), fun _ => .inr (.inl hlost)⟩
  · simp only [not_forall, ne_eq, not_not] at hlost
    obtain ⟨st, hst⟩ := hlost
    rw [startUp_state_cause hp hn hst]
    refine or_congr Iff.rfl (or_congr Iff.rfl ⟨fun h => ⟨st, hst, h⟩, fun ⟨st', hst', h⟩ => ?_⟩)
    rw [hst] at hst'
    cases hst'
    exact h

theorem startUp_plate_queued (hp : x.readPlates.get? i = some p) :
    (.genWord i ∈ (s.startUp x).queue ↔
      p.genWord.condition = .corrected ∨ (p.genWord.value = none ∧ ∃ g ident, p.Names g ident))
    ∧ (.identity i ∈ (s.startUp x).queue ↔ p.identity.condition = .corrected)
    ∧ ((∀ g ident, ¬p.Names g ident) → (.state i ∈ (s.startUp x).queue ↔ p.state.condition = .corrected)) := by
  refine ⟨?_, ?_, fun hfree => ?_⟩
  · rw [startUp_read_queued (j := .genWord i) nofun nofun, readQueue_plate hp (.inl rfl), mem_queued]
    simp
  · rw [startUp_read_queued (j := .identity i) nofun nofun, readQueue_plate hp (.inr (.inl rfl)), mem_queued]
    simp
  · have hnot : ¬p.secondRow = true := fun h => by
      obtain ⟨g, ident, hn, -⟩ := secondRow_iff.1 h
      exact hfree g ident hn
    have hread : ImageId.state i ∈ x.readQueue ↔ p.state.condition = .corrected := by
      rw [readQueue_plate hp (.inr (.inr rfl)), mem_queued]
      simp [hnot]
    rw [startUp_queue, hread]
    refine ⟨?_, .inl⟩
    rintro (h | hheader | ⟨h, r, hr, -, hj⟩)
    · exact h
    · cases hheader
    · obtain ⟨p', ident, hp', hn, -⟩ := loaded_plate?.1 hr
      obtain rfl : i = h.idx := ImageId.state.inj hj
      rw [hp] at hp'
      cases hp'
      exact absurd hn (hfree _ _)

/-! ## The counter -/

theorem foldl_max (l : List Nat) : ∀ a : Nat, a ≤ l.foldl max a ∧ (∀ b ∈ l, b ≤ l.foldl max a)
    ∧ (l.foldl max a = a ∨ l.foldl max a ∈ l) := by
  induction l with
  | nil => exact fun a => ⟨le_rfl, nofun, .inl rfl⟩
  | cons b bs ih =>
    intro a
    obtain ⟨hinit, hall, hattained⟩ := ih (max a b)
    refine ⟨(le_max_left a b).trans hinit, fun c hc => ?_, ?_⟩
    · rcases List.mem_cons.1 hc with rfl | hc
      · exact (le_max_right a c).trans hinit
      · exact hall c hc
    · rw [List.foldl_cons]
      rcases hattained with h | h
      · rw [h]
        rcases max_choice a b with hm | hm <;> rw [hm]
        · exact .inl rfl
        · exact .inr List.mem_cons_self
      · exact .inr (List.mem_cons_of_mem _ h)

theorem mem_seqs {n : Nat} : n ∈ x.seqs ↔
    ∃ i p g ident, x.readPlates.get? i = some p ∧ p.identity.value = some (g, ident) ∧ ident.seq = n := by
  simp only [Store.seqs, List.mem_filterMap]
  constructor
  · rintro ⟨p, hmem, hn⟩
    obtain ⟨i, hp⟩ := List.mem_iff_getElem?.1 hmem
    rcases hid : p.identity.value with _ | ⟨g, ident⟩
    · rw [hid] at hn
      cases hn
    · rw [hid] at hn
      exact ⟨i, p, g, ident, hp, hid, Option.some.inj hn⟩
  · rintro ⟨i, p, g, ident, hp, hid, rfl⟩
    exact ⟨p, List.mem_iff_getElem?.2 ⟨i, hp⟩, by rw [hid]⟩

theorem settleCounter_counts : s.settleCounter.seqCounter = s.store.counter
    ∧ s.settleCounter.headerFloor = s.store.counter :=
  ⟨enqueue_frame .header .seqCounter (by decide), enqueue_frame .header .headerFloor (by decide)⟩

theorem startUp_counter : (s.startUp x).seqCounter = x.counter ∧ (s.startUp x).headerFloor = x.counter := by
  have hstore : ((settled s x).rebuildPlaces).store = x :=
    ((settled_frame.mono (m := [.plates, .queue, .slots, .beds, .cart, .flags]) (by decide)).trans
      rebuildPlaces_frame) .store (by decide)
  have hlast : OnlyChanges [.flags] ((settled s x).rebuildPlaces).settleCounter (s.startUp x) := by
    rw [startUp_eq]
    exact (raise_frame _).trans (raiseIf_frame _ _)
  obtain ⟨hseq, hfloor⟩ := settleCounter_counts (s := (settled s x).rebuildPlaces)
  rw [hstore] at hseq hfloor
  exact ⟨Eq.trans (hlast .seqCounter (by decide)) hseq, Eq.trans (hlast .headerFloor (by decide)) hfloor⟩

/-- The counter: one past the highest of the header's floor and the stored sequence numbers. -/
theorem counter_top : ∃ top, x.counter = min (top + 1) 4294967296 ∧ x.readHeader.value.getD 0 ≤ top
    ∧ (∀ i p g ident, x.readPlates.get? i = some p → p.identity.value = some (g, ident) → ident.seq ≤ top)
    ∧ (top = x.readHeader.value.getD 0
      ∨ ∃ i p g ident, x.readPlates.get? i = some p ∧ p.identity.value = some (g, ident) ∧ ident.seq = top) := by
  obtain ⟨hinit, hall, hattained⟩ := foldl_max x.seqs (x.readHeader.value.getD 0)
  exact ⟨_, rfl, hinit, fun i p g ident hp hid => hall _ (mem_seqs.2 ⟨i, p, g, ident, hp, hid, rfl⟩),
    hattained.imp_right mem_seqs.1⟩

/-- Settles O55: by the classification of the entries, the records settled and laid, and the images that each stage
queues. -/
theorem startupReadsTheArray : Obligations.StartupReadsTheArray := by
  unfold Obligations.StartupReadsTheArray
  intro c s x h
  obtain ⟨u, hexec, -, -⟩ := startsUp_exec h
  refine ⟨_, hexec, startUp_frame .hall (by decide), fun g => ?_, fun i p hp => ⟨fun hfree => ?_, fun g ident hn => ?_⟩,
    fun i p hp => ?_, ?_,
    startUp_counter.2.trans startUp_counter.1.symm, startUp_queue.2 (.inr (.inl rfl))⟩
  · rw [startUp_read_queued (j := .group g) nofun nofun, mem_readQueue]
    simp [mem_queued]
  · rw [startUp_free hp hfree, StoredPlate.freeGen]
    rcases p.genWord.value with _ | w <;> rfl
  · refine ⟨_, startUp_entry.2 ⟨p, ident, hp, hn, rfl⟩, ?_⟩
    obtain ⟨hident, hjob, hleg⟩ := endRec_own (s := u) (x := x) (i := i) (p := p) (g := g) (ident := ident)
    refine ⟨hident, hjob, hleg, fun hlost => ?_, fun st hst => endRec_found hst, fun hd hstock => ?_⟩
    · obtain ⟨hpanels, harea, hloc, hheld, hmassDoubt, hdoubt, hmass, hkept⟩ := endRec_lost hlost
      exact ⟨hpanels, harea, hloc, hheld, hmassDoubt, hdoubt, hmass,
        (startUp_state_queued hp hn).2 (.inr (.inl hlost)), hkept⟩
    · obtain ⟨hretired, hloc, hmass⟩ := endRec_torn hd hstock
      exact ⟨hretired, hloc, hmass,
        (startUp_state_queued hp hn).2 (.inr (.inr (.inr (.inl ⟨foundRec_stock hstock, hd⟩))))⟩
  · obtain ⟨hgen, hid, hfree⟩ := startUp_plate_queued (s := u) hp
    exact ⟨hgen, hid, hfree, fun g ident hn => startUp_named_state_queued hp hn⟩
  · rw [startUp_counter.1]
    exact counter_top

end Sys2Proof.Proofs.Restored
end

section
/-! PROOFS. The field encoding of R174: what each writer of a field wrote, its reader reads back, and leaves what
follows. -/

namespace Sys2Proof.Proofs.Codec

open Sys2Proof Sys2Proof.Machine

variable {α : Type} {take : List Byte → Option (α × List Byte)} {put : α → List Byte} {ok : α → Bool}

/-- A reader reads back what a writer wrote of a value that passes `ok`, and leaves the bytes that follow. -/
def Reads (take : List Byte → Option (α × List Byte)) (put : α → List Byte) (ok : α → Bool) : Prop :=
  ∀ v l, ok v = true → take (put v ++ l) = some (v, l)

theorem Reads.mono {ok' : α → Bool} (hr : Reads take put ok) (h : ∀ v, ok' v = true → ok v = true) :
    Reads take put ok' := fun v l hv => hr v l (h v hv)

/-- Reading a field that was written, and going on with the bytes after it. -/
theorem Reads.bind {β : Type} (hr : Reads take put ok) {v : α} {l : List Byte} (h : ok v = true)
    (k : α × List Byte → Option β) : (take (put v ++ l) >>= k) = k (v, l) := by
  rw [hr v l h]
  rfl

/-! ## Numbers -/

theorem toNat_low (n : Nat) : (BitVec.ofNat 8 n).toNat = n % 256 := BitVec.toNat_ofNat ..

theorem reads1 : Reads take1 put1 fits1 := by
  intro n l h
  have hn : n < 256 := of_decide_eq_true h
  simp only [put1, take1, List.cons_append, List.nil_append, toNat_low, Nat.mod_eq_of_lt hn]

theorem reads2 : Reads take2 put2 fits2 := by
  intro n l h
  have hn : n < 65536 := of_decide_eq_true h
  simp only [put2, take2, List.cons_append, List.nil_append, toNat_low]
  rw [show n % 256 + 256 * (n / 256 % 256) = n by omega]

theorem reads4 : Reads take4 put4 fits4 := by
  intro n l h
  have hn : n < 4294967296 := of_decide_eq_true h
  simp only [put4, put2, take4, List.cons_append, List.nil_append, toNat_low]
  rw [show n % 256 + 256 * (n / 256 % 256) + 65536 * (n / 65536 % 256 + 256 * (n / 65536 / 256 % 256)) = n by omega]

theorem readsSigned : Reads takeSigned putSigned fitsSigned := by
  intro v l h
  simp only [fitsSigned, Bool.and_eq_true, decide_eq_true_eq] at h
  have hfits : fits4 (v % 4294967296).toNat = true := by
    rw [fits4, decide_eq_true_eq]
    omega
  rw [takeSigned, putSigned, reads4 _ _ hfits]
  have hvalue : (if (v % 4294967296).toNat < 2147483648 then ((v % 4294967296).toNat : Int)
      else ((v % 4294967296).toNat : Int) - 4294967296) = v := by
    split <;> omega
  simp only [hvalue]

/-! ## Handles, texts and places -/

theorem readsHandle : Reads takeHandle putHandle handleFits := by
  intro h l hfits
  simp only [handleFits, Bool.and_eq_true] at hfits
  simp [takeHandle, putHandle, reads2 _ _ hfits.1, reads1 _ _ hfits.2]

theorem readsText : Reads takeText putText textFits := by
  intro t l h
  have hlen : t.length ≤ 12 := of_decide_eq_true h
  have hfits : fits1 t.length = true := decide_eq_true (by omega)
  simp [takeText, putText, reads1 _ _ hfits, hlen]

theorem readsPlace : Reads takePlace putPlace Place.fits := by
  have hform (n : Nat) (hn : n < 256) (l : List Byte) : take1 (put1 n ++ l) = some (n, l) :=
    reads1 n l (decide_eq_true hn)
  intro p l h
  rcases p with k | ⟨t, b⟩ | _ | c | _ | _ | _ <;> simp only [Place.fits, Bool.and_eq_true] at h
  case slot => simp [takePlace, putPlace, hform, reads1 _ _ h]
  case bed => simp [takePlace, putPlace, hform, reads1 _ _ h.1, reads1 _ _ h.2]
  case hook => simp [takePlace, putPlace, hform, reads1 _ _ h]
  all_goals simp [takePlace, putPlace, hform]

/-! ## Optional fields and lists -/

theorem Reads.opt (hr : Reads take put ok) : Reads (takeOpt take) (putOpt put) (optFits ok) := by
  intro o l h
  rcases o with _ | v
  · simp [takeOpt, putOpt, reads1 0 _ rfl]
  · simp [takeOpt, putOpt, reads1 1 _ rfl, hr _ _ (show ok v = true from h)]

theorem Reads.entries (hr : Reads take put ok) (l : List Byte) (as : List α) (h : ∀ a ∈ as, ok a = true) :
    takeEntries take as.length (putEntries put as ++ l) = some (as, l) := by
  induction as with
  | nil => rfl
  | cons a as ih =>
    have ha := h a List.mem_cons_self
    have has := ih fun b hb => h b (List.mem_cons_of_mem _ hb)
    simp [putEntries, takeEntries, hr _ _ ha, has]

theorem Reads.list (hr : Reads take put ok) : Reads (takeList take) (putList put) (listFits ok) := by
  intro as l h
  simp only [listFits, Bool.and_eq_true, decide_eq_true_eq, List.all_eq_true] at h
  have hfits : fits1 as.length = true := decide_eq_true (by omega)
  simp [takeList, putList, reads1 _ _ hfits, h.1, hr.entries l as h.2]

end Sys2Proof.Proofs.Codec
end

section
/-! PROOFS. Requests on the wire (R162, R167, R174): the fields of every request read back, the command that a payload
spells, and the frame that carries it. -/

namespace Sys2Proof.Proofs.Wire

open Sys2Proof Sys2Proof.Machine
open Sys2Proof.Proofs.Codec

/-! ## The fields of the requests -/

theorem readsUnit : Reads takeUnit putUnit unitFits := fun _ _ _ => rfl

theorem readsPanel : Reads takePanel putPanel Panel.fits := by
  intro f l h
  simp only [Panel.fits, Bool.and_eq_true] at h
  simp only [takePanel, putPanel, List.append_assoc]
  simp only [↓reads2.bind, h]
  rfl

theorem readsDraftEntry : Reads takeDraftEntry putDraftEntry DraftEntry.fits := by
  intro f l h
  simp only [DraftEntry.fits, Bool.and_eq_true] at h
  simp only [takeDraftEntry, putDraftEntry, List.append_assoc]
  simp only [↓readsText.bind, ↓reads4.bind, h]
  rfl

theorem readsEnrolF : Reads takeEnrolF putEnrolF EnrolF.fits := by
  intro f l h
  simp only [EnrolF.fits, Bool.and_eq_true] at h
  simp only [takeEnrolF, putEnrolF, List.append_assoc]
  simp only [↓reads1.bind, ↓reads1.opt.bind, h]
  rfl

theorem readsRegisterF : Reads takeRegisterF putRegisterF RegisterF.fits := by
  intro f l h
  simp only [RegisterF.fits, Bool.and_eq_true] at h
  simp only [takeRegisterF, putRegisterF, List.append_assoc]
  simp only [↓readsText.bind, ↓reads1.bind, ↓reads2.bind, h]
  rfl

theorem readsAmendF : Reads takeAmendF putAmendF AmendF.fits := by
  intro f l h
  simp only [AmendF.fits, Bool.and_eq_true] at h
  simp only [takeAmendF, putAmendF, List.append_assoc]
  simp only [↓readsHandle.bind, ↓readsPanel.list.bind, ↓reads4.opt.bind, ↓readsPlace.opt.bind, h]
  rfl

theorem readsRetireF : Reads takeRetireF putRetireF RetireF.fits := by
  intro f l h
  simp only [RetireF.fits, Bool.and_eq_true] at h
  simp only [takeRetireF, putRetireF, List.append_assoc]
  simp only [↓readsHandle.bind, ↓reads1.bind, h]
  rfl

theorem readsReadNumF : Reads takeReadNumF putReadNumF ReadNumF.fits := by
  intro f l h
  simp only [ReadNumF.fits, Bool.and_eq_true] at h
  simp only [takeReadNumF, putReadNumF, List.append_assoc]
  simp only [↓reads1.bind, ↓reads1.opt.bind, h]
  rfl

theorem readsReadHandleF : Reads takeReadHandleF putReadHandleF ReadHandleF.fits := by
  intro f l h
  simp only [ReadHandleF.fits, Bool.and_eq_true] at h
  simp only [takeReadHandleF, putReadHandleF, List.append_assoc]
  simp only [↓readsHandle.bind, ↓reads1.opt.bind, h]
  rfl

theorem readsFindF : Reads takeFindF putFindF FindF.fits := by
  intro f l h
  simp only [FindF.fits, Bool.and_eq_true] at h
  simp only [takeFindF, putFindF, List.append_assoc]
  simp only [↓reads1.bind, ↓reads2.bind, h]
  rfl

theorem readsStageF : Reads takeStageF putStageF StageF.fits := by
  intro f l h
  simp only [StageF.fits, Bool.and_eq_true] at h
  simp only [takeStageF, putStageF, List.append_assoc]
  simp only [↓reads1.bind, ↓readsDraftEntry.list.bind, h]
  rfl

theorem readsAdmitF : Reads takeAdmitF putAdmitF AdmitF.fits := by
  intro f l h
  simp only [AdmitF.fits, Bool.and_eq_true] at h
  simp only [takeAdmitF, putAdmitF, List.append_assoc]
  simp only [↓reads1.bind, ↓reads4.bind, ↓readsHandle.bind, ↓reads2.bind, h]
  rfl

theorem readsPartCutF : Reads takePartCutF putPartCutF PartCutF.fits := by
  intro f l h
  simp only [PartCutF.fits, Bool.and_eq_true] at h
  simp only [takePartCutF, putPartCutF, List.append_assoc]
  simp only [↓readsHandle.bind, ↓reads1.bind, h]
  rfl

theorem readsPauseF : Reads takePauseF putPauseF PauseF.fits := by
  intro f l h
  simp only [PauseF.fits, Bool.and_eq_true] at h
  simp only [takePauseF, putPauseF, List.append_assoc]
  simp only [↓readsHandle.bind, ↓reads1.bind, h]
  rfl

theorem readsEndF : Reads takeEndF putEndF EndF.fits := by
  intro f l h
  simp only [EndF.fits, Bool.and_eq_true] at h
  simp only [takeEndF, putEndF, List.append_assoc]
  simp only [↓readsHandle.bind, ↓reads1.bind, h]
  rfl

theorem readsBedF : Reads takeBedF putBedF BedF.fits := by
  intro f l h
  simp only [BedF.fits, Bool.and_eq_true] at h
  simp only [takeBedF, putBedF, List.append_assoc]
  simp only [↓reads1.bind, h]
  rfl

theorem readsSortF : Reads takeSortF putSortF SortF.fits := by
  intro f l h
  simp only [SortF.fits, Bool.and_eq_true] at h
  simp only [takeSortF, putSortF, List.append_assoc]
  simp only [↓readsHandle.bind, ↓reads1.bind, h]
  rfl

theorem readsAddLegF : Reads takeAddLegF putAddLegF AddLegF.fits := by
  intro f l h
  simp only [AddLegF.fits, Bool.and_eq_true] at h
  simp only [takeAddLegF, putAddLegF, List.append_assoc]
  simp only [↓readsHandle.bind, ↓reads1.bind, ↓readsPlace.bind, h]
  rfl

theorem readsLiftedF : Reads takeLiftedF putLiftedF LiftedF.fits := by
  intro f l h
  simp only [LiftedF.fits, Bool.and_eq_true] at h
  simp only [takeLiftedF, putLiftedF, List.append_assoc]
  simp only [↓readsHandle.bind, ↓readsSigned.bind, h]
  rfl

theorem readsSetDownF : Reads takeSetDownF putSetDownF SetDownF.fits := by
  intro f l h
  simp only [SetDownF.fits, Bool.and_eq_true] at h
  simp only [takeSetDownF, putSetDownF, List.append_assoc]
  simp only [↓readsHandle.bind, ↓readsPlace.bind, h]
  rfl

theorem readsBreakHookF : Reads takeBreakHookF putBreakHookF BreakHookF.fits := by
  intro f l h
  simp only [BreakHookF.fits, Bool.and_eq_true] at h
  simp only [takeBreakHookF, putBreakHookF, List.append_assoc]
  simp only [↓reads1.bind, ↓readsPlace.bind, ↓readsHandle.opt.bind, h]
  rfl

theorem readsSetGradeF : Reads takeSetGradeF putSetGradeF SetGradeF.fits := by
  intro f l h
  simp only [SetGradeF.fits, Bool.and_eq_true] at h
  simp only [takeSetGradeF, putSetGradeF, List.append_assoc]
  simp only [↓reads1.bind, ↓readsText.bind, ↓reads2.bind, h]
  rfl

theorem readsSetSlotF : Reads takeSetSlotF putSetSlotF SetSlotF.fits := by
  intro f l h
  simp only [SetSlotF.fits, Bool.and_eq_true] at h
  simp only [takeSetSlotF, putSetSlotF, List.append_assoc]
  simp only [↓reads1.bind, ↓reads2.bind, ↓reads4.bind, h]
  rfl

theorem readsSetTableF : Reads takeSetTableF putSetTableF SetTableF.fits := by
  intro f l h
  simp only [SetTableF.fits, Bool.and_eq_true] at h
  simp only [takeSetTableF, putSetTableF, List.append_assoc]
  simp only [↓reads1.bind, ↓reads2.bind, h]
  rfl

theorem readsSetCraneF : Reads takeSetCraneF putSetCraneF SetCraneF.fits := by
  intro f l h
  simp only [SetCraneF.fits, Bool.and_eq_true] at h
  simp only [takeSetCraneF, putSetCraneF, List.append_assoc]
  simp only [↓reads1.bind, ↓reads4.bind, ↓reads2.bind, h]
  rfl

theorem readsSetBayF : Reads takeSetBayF putSetBayF SetBayF.fits := by
  intro f l h
  simp only [SetBayF.fits, Bool.and_eq_true] at h
  simp only [takeSetBayF, putSetBayF, List.append_assoc]
  simp only [↓reads1.bind, ↓reads2.bind, h]
  rfl

theorem readsAlertF : Reads takeAlertF putAlertF AlertF.fits := by
  intro f l h
  simp only [AlertF.fits, Bool.and_eq_true] at h
  simp only [takeAlertF, putAlertF, List.append_assoc]
  simp only [↓reads2.bind, ↓reads1.bind, h]
  rfl

/-! ## The command that a payload spells -/

variable {i : Instr} {tag : Byte} {code : Nat} {bytes : List Byte}

/-- A payload exactly filled by the fields that were written (R167). -/
theorem payloadBy_put {α : Type} {take : List Byte → Option (α × List Byte)} {put : α → List Byte} {ok : α → Bool}
    (hr : Reads take put ok) {v : α} (h : ok v = true) : payloadBy take (put v) = .fields v := by
  have hread := hr v [] h
  rw [List.append_nil] at hread
  rw [payloadBy, hread]

/-- A request is read back from its payload, when its code and its payload are taken as they were given. -/
theorem decoded {α : Type} {take : List Byte → Option (α × List Byte)} {put : α → List Byte} {ok : α → Bool}
    {f : Payload α → Instr} {p : Payload α} {t : Byte} {c : Nat} (hr : Reads take put ok)
    (hput : ∀ v, encodeRequest (f (.fields v)) = some (t, c, put v)) (hbad : encodeRequest (f .malformed) = none)
    (htake : ∀ l, decodeRequest t c l = f (payloadBy take l)) (hc : c < 256) (hwf : p.fits ok = true)
    (henc : encodeRequest (f p) = some (tag, code, bytes)) : decodeRequest tag code bytes = f p ∧ code < 256 := by
  rcases p with _ | v
  · rw [hbad] at henc
    cases henc
  · rw [hput] at henc
    cases henc
    exact ⟨(htake _).trans (congrArg f (payloadBy_put hr hwf)), hc⟩

theorem decode_encode (hwf : i.wf = true) (henc : encodeRequest i = some (tag, code, bytes)) :
    decodeRequest tag code bytes = i ∧ code < 256 := by
  cases i
  case fetchResult t p | readSearchQueue t p | nextMark t p | openBatch t p | commitBatch t p | nextLeg t p |
      nextTrip t p | restart t p | readAlarms t p =>
    exact decoded readsUnit (fun _ => rfl) rfl (fun _ => rfl) (by decide) hwf henc
  case readStation t p | removeStation t p | dispatchPallet t p | readMarkerWindow t p | cartArrived t p |
      readCrane t p =>
    exact decoded reads1 (fun _ => rfl) rfl (fun _ => rfl) (by decide) hwf henc
  case enrolStation t p =>
    exact decoded readsEnrolF (fun _ => rfl) rfl (fun _ => rfl) (by decide) hwf henc
  case registerPlate t p =>
    exact decoded readsRegisterF (fun _ => rfl) rfl (fun _ => rfl) (by decide) hwf henc
  case readPlate t p | holdPlate t p | releasePlate t p | startJob t p | resumeJob t p | abortJob t p |
      markMade t p | markFailed t p | confirmManualMark t p | scrapPart t p | readPart t p | acceptLoad t p |
      legFault t p | cancelLeg t p | readLeg t p =>
    exact decoded readsHandle (fun _ => rfl) rfl (fun _ => rfl) (by decide) hwf henc
  case amendPlate t p =>
    exact decoded readsAmendF (fun _ => rfl) rfl (fun _ => rfl) (by decide) hwf henc
  case retirePlate t p =>
    exact decoded readsRetireF (fun _ => rfl) rfl (fun _ => rfl) (by decide) hwf henc
  case readSlot t p | readTable t p | readPallet t p | readRunway t p | readHallMap t p =>
    exact decoded readsReadNumF (fun _ => rfl) rfl (fun _ => rfl) (by decide) hwf henc
  case findRemnant t p =>
    exact decoded readsFindF (fun _ => rfl) rfl (fun _ => rfl) (by decide) hwf henc
  case stageParts t p =>
    exact decoded readsStageF (fun _ => rfl) rfl (fun _ => rfl) (by decide) hwf henc
  case admitJob t p =>
    exact decoded readsAdmitF (fun _ => rfl) rfl (fun _ => rfl) (by decide) hwf henc
  case partCut t p =>
    exact decoded readsPartCutF (fun _ => rfl) rfl (fun _ => rfl) (by decide) hwf henc
  case pauseJob t p =>
    exact decoded readsPauseF (fun _ => rfl) rfl (fun _ => rfl) (by decide) hwf henc
  case endJob t p =>
    exact decoded readsEndF (fun _ => rfl) rfl (fun _ => rfl) (by decide) hwf henc
  case clearBed t p =>
    exact decoded readsBedF (fun _ => rfl) rfl (fun _ => rfl) (by decide) hwf henc
  case sortPart t p =>
    exact decoded readsSortF (fun _ => rfl) rfl (fun _ => rfl) (by decide) hwf henc
  case readJobParts t p | readBatch t p =>
    exact decoded readsReadHandleF (fun _ => rfl) rfl (fun _ => rfl) (by decide) hwf henc
  case addLeg t p =>
    exact decoded readsAddLegF (fun _ => rfl) rfl (fun _ => rfl) (by decide) hwf henc
  case lifted t p =>
    exact decoded readsLiftedF (fun _ => rfl) rfl (fun _ => rfl) (by decide) hwf henc
  case setDown t p =>
    exact decoded readsSetDownF (fun _ => rfl) rfl (fun _ => rfl) (by decide) hwf henc
  case breakHook t p =>
    exact decoded readsBreakHookF (fun _ => rfl) rfl (fun _ => rfl) (by decide) hwf henc
  case craneReport t p =>
    exact decoded readsSigned (fun _ => rfl) rfl (fun _ => rfl) (by decide) hwf henc
  case setGrade t p =>
    exact decoded readsSetGradeF (fun _ => rfl) rfl (fun _ => rfl) (by decide) hwf henc
  case setSlot t p =>
    exact decoded readsSetSlotF (fun _ => rfl) rfl (fun _ => rfl) (by decide) hwf henc
  case setTable t p =>
    exact decoded readsSetTableF (fun _ => rfl) rfl (fun _ => rfl) (by decide) hwf henc
  case setCrane t p =>
    exact decoded readsSetCraneF (fun _ => rfl) rfl (fun _ => rfl) (by decide) hwf henc
  case setCart t p | setScrapBin t p | setRunway t p =>
    exact decoded readsSetBayF (fun _ => rfl) rfl (fun _ => rfl) (by decide) hwf henc
  case clearAlarms t p =>
    exact decoded reads2 (fun _ => rfl) rfl (fun _ => rfl) (by decide) hwf henc
  case setAlertMask t p =>
    exact decoded readsAlertF (fun _ => rfl) rfl (fun _ => rfl) (by decide) hwf henc
  all_goals cases henc

/-! ## Frames -/

variable {a b : Nat}

theorem judge_sealed (body : List Byte) : judge (sealed body) = readBody body := by
  have hlen : (body ++ crcBytes (crc16 body)).length - 2 = body.length := by
    rw [List.length_append]
    exact Nat.add_sub_cancel ..
  have hjudge : judge (sealed body) = if (0xA5#8 : Byte) = 0xA5#8
      ∧ (body ++ crcBytes (crc16 body)).drop ((body ++ crcBytes (crc16 body)).length - 2)
        = crcBytes (crc16 ((body ++ crcBytes (crc16 body)).take ((body ++ crcBytes (crc16 body)).length - 2)))
      then readBody ((body ++ crcBytes (crc16 body)).take ((body ++ crcBytes (crc16 body)).length - 2))
      else none := rfl
  rw [hjudge, hlen, List.take_left, List.drop_left, if_pos ⟨rfl, rfl⟩]

theorem judge_request (ha : a ≤ 255) (hc : code < 256) (hlen : bytes.length ≤ 120) :
    judge (requestFrame a tag code bytes) = some (.request a tag code bytes) := by
  rw [requestFrame, judge_sealed]
  simp [readBody, put1, Config.payloadMax]
  omega

theorem judge_idle (ha : a ≤ 255) : judge (idleFrameBytes a) = some (.idle a) := by
  rw [idleFrameBytes, judge_sealed]
  simp [readBody, put1]
  omega

/-- Settles O60: by reading back each kind of field, then each request, and by the CRC of the frame that carries it. -/
theorem requestsReadBack : Obligations.RequestsReadBack := by
  unfold Obligations.RequestsReadBack
  intro i tag code bytes hwf henc
  obtain ⟨hdecode, hcode⟩ := decode_encode hwf henc
  refine ⟨hdecode, fun a b ha hlen => ⟨?_, ?_⟩⟩
  · simp only [frameCommand, judge_request ha hcode hlen, hdecode]
  · simp only [frameCommand, judge_idle ha]

end Sys2Proof.Proofs.Wire
end

section
/-! PROOFS. The contents of the images: words filled with bytes and read again, and the fields of every image read back
as they were written, within the words it has (R13, R175, R176). -/

namespace Sys2Proof.Proofs.Contents

open Sys2Proof Sys2Proof.Machine
open Sys2Proof.Proofs.Codec Sys2Proof.Proofs.Wire

variable {α : Type} {take : List Byte → Option (α × List Byte)} {put : α → List Byte} {ok : α → Bool}

/-! ## Words and their bytes -/

theorem packWord_getLsbD (l : List Byte) {k : Nat} (hk : k < 64) :
    (packWord l).getLsbD k = ((l[k / 8]?).getD 0#8).getLsbD (k % 8) := by
  induction l generalizing k with
  | nil => simp [packWord]
  | cons b bs ih =>
    have hcons : packWord (b :: bs) = (packWord bs <<< 8) ||| b.setWidth 64 := rfl
    rw [hcons, BitVec.getLsbD_or, BitVec.getLsbD_shiftLeft, BitVec.getLsbD_setWidth]
    by_cases hlow : k < 8
    · simp [hk, hlow, Nat.div_eq_of_lt hlow, Nat.mod_eq_of_lt hlow]
    · have hbeyond : b.getLsbD k = false := BitVec.getLsbD_of_ge b k (Nat.not_lt.1 hlow)
      have hdiv : k / 8 = (k - 8) / 8 + 1 := by omega
      have hmod : k % 8 = (k - 8) % 8 := by omega
      rw [hbeyond, ih (k := k - 8) (by omega), hdiv, List.getElem?_cons_succ, hmod]
      simp [hk, hlow]

/-- A word gives back the bytes that filled it, and zeros after them. -/
theorem wordBytes_packWord {l : List Byte} (hl : l.length ≤ 8) :
    wordBytes (packWord l) = l ++ List.replicate (8 - l.length) 0#8 := by
  refine List.ext_getElem? fun i => ?_
  by_cases hi : i < 8
  · have hbyte : ((packWord l >>> (8 * i)).setWidth 8 : Byte) = (l[i]?).getD 0#8 := by
      refine BitVec.eq_of_getLsbD_eq fun j hj => ?_
      rw [BitVec.getLsbD_setWidth, BitVec.getLsbD_ushiftRight, packWord_getLsbD l (by omega),
        show (8 * i + j) / 8 = i by omega, show (8 * i + j) % 8 = j by omega]
      simp [hj]
    have hword : (wordBytes (packWord l))[i]? = some ((l[i]?).getD 0#8) := by
      rw [wordBytes, List.getElem?_map, List.getElem?_range hi, Option.map_some, hbyte]
    rw [hword]
    by_cases hil : i < l.length
    · rw [List.getElem?_append_left hil, List.getElem?_eq_getElem hil, Option.getD_some]
    · rw [List.getElem?_append_right (by omega), List.getElem?_eq_none (by omega), Option.getD_none,
        List.getElem?_replicate, if_pos (by omega)]
  · rw [List.getElem?_eq_none (by simp [wordBytes]; omega), List.getElem?_eq_none (by simp; omega)]

/-- Words filled with a run of bytes give them back, and zeros after them. -/
theorem packWords_bytes (n : Nat) : ∀ {l : List Byte}, l.length ≤ 8 * n →
    ∃ z, (packWords n l).flatMap wordBytes = l ++ List.replicate z 0#8 := by
  induction n with
  | zero =>
    intro l hl
    obtain rfl := List.eq_nil_of_length_eq_zero (Nat.le_zero.1 hl)
    exact ⟨0, rfl⟩
  | succ n ih =>
    intro l hl
    obtain ⟨z, hz⟩ := ih (l := l.drop 8) (by rw [List.length_drop]; omega)
    have htake : (l.take 8).length ≤ 8 := List.length_take_le ..
    rw [packWords, List.flatMap_cons, hz, wordBytes_packWord htake]
    by_cases hlong : 8 ≤ l.length
    · refine ⟨z, ?_⟩
      rw [List.length_take, Nat.min_eq_left hlong, Nat.sub_self, List.replicate_zero, List.append_nil,
        ← List.append_assoc, List.take_append_drop]
    · refine ⟨8 - l.length + z, ?_⟩
      rw [List.take_of_length_le (by omega), List.drop_of_length_le (by omega), List.nil_append, List.append_assoc,
        ← List.replicate_add]

/-- An image written with the bytes of a value reads back sound, with the value (R175). -/
theorem read_written (hr : ∀ l, take (put v ++ l) = some (v, l)) {n : Nat} (hsize : (put v).length ≤ 8 * n) :
    (Image.fresh (imageWords n (put v))).read take = .sound v := by
  obtain ⟨z, hz⟩ := packWords_bytes n hsize
  have hspelled : spelled take (packWords n (put v)) = some v := by
    rw [spelled, hz, hr]
    simp
  rw [Image.read, imageWords, Image.judge_fresh, Stored.parse, hspelled]

/-! ## The fields that only images hold -/

theorem reads8 : Reads take8 put8 fun n => decide (n < 18446744073709551616) := by
  intro n l h
  have hn := of_decide_eq_true h
  have hlow (m : Nat) (l : List Byte) : take4 (put4 m ++ l) = some (m % 4294967296, l) := by
    simp only [put4, put2, take4, List.cons_append, List.nil_append, toNat_low]
    rw [show m % 256 + 256 * (m / 256 % 256) + 65536 * (m / 65536 % 256 + 256 * (m / 65536 / 256 % 256))
      = m % 4294967296 by omega]
  simp only [take8, put8, List.append_assoc, hlow, Option.bind_eq_bind, Option.bind_some, Option.pure_def]
  rw [show n % 4294967296 + 4294967296 * (n / 4294967296 % 4294967296) = n by omega]

variable {β : Type} {l : List Byte} {k : α × List Byte → Option β}

/-- Reading a choice that was written by its number, and going on with the bytes after it. -/
theorem choice_bind {ofNum : Nat → Option α} {n : Nat} {v : α} (hn : n < 256) (hv : ofNum n = some v) :
    (takeChoice ofNum (put1 n ++ l) >>= k) = k (v, l) := by
  simp [takeChoice, reads1 _ _ (decide_eq_true hn), hv]

theorem flag_bind (v : Bool) {k : Bool × List Byte → Option β} : (takeFlag (putFlag v ++ l) >>= k) = k (v, l) := by
  cases v <;> exact choice_bind (by decide) rfl

theorem enable_bind (v : Bool) {k : Bool × List Byte → Option β} :
    (takeChoice enableOfNum (put1 (enableNum v) ++ l) >>= k) = k (v, l) := by
  cases v <;> exact choice_bind (by decide) rfl

theorem origin_bind (v : Origin) {k : Origin × List Byte → Option β} :
    (takeChoice Origin.ofNum (put1 v.num ++ l) >>= k) = k (v, l) := by
  cases v <;> exact choice_bind (by decide) rfl

theorem disposition_bind (v : Disposition) {k : Disposition × List Byte → Option β} :
    (takeChoice Disposition.ofNum (put1 v.num ++ l) >>= k) = k (v, l) := by
  rcases v with _ | _ | _ | _ <;> exact choice_bind (by decide) rfl

theorem bay_bind (v : Bay) {k : Bay × List Byte → Option β} :
    (takeChoice Bay.ofNum (put1 v.num ++ l) >>= k) = k (v, l) := by
  cases v <;> exact choice_bind (by decide) rfl

theorem purpose_bind (v : Purpose) {k : Purpose × List Byte → Option β} :
    (takeChoice Purpose.ofNum (put1 v.num ++ l) >>= k) = k (v, l) := by
  cases v <;> exact choice_bind (by decide) rfl

theorem kind_bind (v : StationKind) {k : StationKind × List Byte → Option β} :
    (takeChoice StationKind.ofNum (put1 v.num ++ l) >>= k) = k (v, l) := by
  cases v <;> exact choice_bind (by decide) rfl

theorem readsLocation : Reads takeLocation putLocation Location.fits := by
  have hform (n : Nat) (hn : n < 256) (l : List Byte) : take1 (put1 n ++ l) = some (n, l) :=
    reads1 n l (decide_eq_true hn)
  intro v l h
  rcases v with ⟨k, level⟩ | ⟨t, b⟩ | c | _ | _ <;> simp only [Location.fits, Bool.and_eq_true] at h
  case slot => simp [takeLocation, putLocation, hform, reads1 _ _ h.1, reads1 _ _ h.2]
  case bed => simp [takeLocation, putLocation, hform, reads1 _ _ h.1, reads1 _ _ h.2]
  case hook => simp [takeLocation, putLocation, hform, reads1 _ _ h]
  all_goals simp [takeLocation, putLocation, hform]

/-! ## The records of the images -/

theorem readsIdentity : Reads takeIdentity (fun v => putIdentity v.1 v.2) fun v => fits1 v.1 && v.2.fits := by
  intro v l h
  simp only [PlateId.fits, Bool.and_eq_true] at h
  simp only [takeIdentity, putIdentity, List.append_assoc]
  simp only [↓reads1.bind, ↓reads2.bind, ↓reads4.bind, ↓origin_bind, ↓readsHandle.opt.bind, ↓readsText.bind,
    h]
  rfl

theorem readsState : Reads takeState (fun v => putState v.1 v.2) fun v => fits1 v.1 && v.2.fits := by
  have hpanels : Reads (takeList takePanel) (putList putPanel)
      fun l => decide (l.length ≤ Config.maxPanels) && l.all Panel.fits := by
    refine readsPanel.list.mono fun l h => ?_
    rw [Bool.and_eq_true] at h
    rw [listFits, Bool.and_eq_true, decide_eq_true_eq]
    exact ⟨le_trans (of_decide_eq_true h.1) (by decide), h.2⟩
  intro v l h
  simp only [PlateSt.fits, Bool.and_eq_true] at h
  simp only [takeState, putState, List.append_assoc]
  simp only [↓reads1.bind, ↓disposition_bind, ↓readsLocation.bind, ↓hpanels.opt.bind, ↓reads4.opt.bind,
    ↓flag_bind, h]
  rfl

theorem readsGrade : Reads takeGrade putGrade Grade.fits := by
  intro v l h
  simp only [Grade.fits, Bool.and_eq_true, decide_eq_true_eq] at h
  have htext : textFits v.label = true := decide_eq_true (by omega)
  simp only [takeGrade, putGrade, List.append_assoc]
  simp only [↓readsText.bind, ↓reads1.bind, ↓reads2.bind, htext, h]
  rfl

theorem readsSlotCfg : Reads takeSlotCfg putSlotCfg SlotCfg.fits := by
  intro v l h
  simp only [SlotCfg.fits, Bool.and_eq_true] at h
  simp only [takeSlotCfg, putSlotCfg, List.append_assoc]
  simp only [↓bay_bind, ↓reads2.bind, ↓purpose_bind, ↓reads1.bind, ↓reads4.bind, h]
  rfl

theorem readsTableCfg : Reads takeTableCfg putTableCfg TableCfg.fits := by
  intro v l h
  simp only [TableCfg.fits, Bool.and_eq_true] at h
  simp only [takeTableCfg, putTableCfg, List.append_assoc]
  simp only [↓reads2.bind, h]
  rfl

theorem readsCraneCfg : Reads takeCraneCfg putCraneCfg CraneCfg.fits := by
  intro v l h
  simp only [CraneCfg.fits, Bool.and_eq_true] at h
  simp only [takeCraneCfg, putCraneCfg, List.append_assoc]
  simp only [↓bay_bind, ↓reads1.bind, ↓reads2.bind, ↓reads4.bind, h]
  rfl

theorem readsPerBay : Reads takePerBay putPerBay PerBay.fits := by
  intro v l h
  simp only [PerBay.fits, Bool.and_eq_true] at h
  simp only [takePerBay, putPerBay, List.append_assoc]
  simp only [↓reads2.bind, h]
  rfl

/-- A station of the stored list fits, and is bound to a crane where it is of the kind CRANE (R163). -/
def stationFits (c : StationCfg) : Bool :=
  fits1 c.address && optFits fits1 c.unit && fits1 c.weight && (c.kind != .crane || c.unit.isSome)

theorem readsStationCfg : Reads takeStationCfg putStationCfg stationFits := by
  intro v l h
  simp only [stationFits, Bool.and_eq_true, Bool.or_eq_true, bne_iff_ne] at h
  obtain ⟨hbytes, hbound⟩ := h
  have hcrane : ¬(v.kind = .crane ∧ v.unit = none) := by
    rintro ⟨hkind, hunit⟩
    rcases hbound with h | h
    · exact h hkind
    · rw [hunit] at h
      cases h
  simp only [takeStationCfg, putStationCfg, List.append_assoc]
  simp only [↓reads1.bind, ↓kind_bind, ↓reads1.opt.bind, hbytes, hcrane, if_false]

theorem alarmCfg_put (v : AlarmCfg) (l : List Byte) : takeAlarmCfg (putAlarmCfg v ++ l) = some (v, l) := by
  have hmask : v.mask.toNat < 4096 := v.mask.isLt
  have hfits : fits2 v.mask.toNat = true := decide_eq_true (by omega)
  simp only [takeAlarmCfg, putAlarmCfg, List.append_assoc]
  simp only [↓reads2.bind, ↓enable_bind, hfits, hmask, if_true, BitVec.ofNat_toNat,
    BitVec.setWidth_eq]

theorem takeTable_put (hr : Reads take put ok) {n : Nat} (t : Table α n) (h : t.entries.all ok = true) (l : List Byte) :
    takeTable n take (putEntries put t.entries ++ l) = some (t, l) := by
  have hread := hr.entries l t.entries (List.all_eq_true.1 h)
  rw [t.size_eq] at hread
  rw [takeTable, hread]
  exact dif_pos t.size_eq

/-! ## The bytes that the contents fill -/

@[simp] theorem put1_length (n : Nat) : (put1 n).length = 1 := rfl
@[simp] theorem put2_length (n : Nat) : (put2 n).length = 2 := rfl
@[simp] theorem put4_length (n : Nat) : (put4 n).length = 4 := rfl
@[simp] theorem putHandle_length (h : Handle) : (putHandle h).length = 3 := rfl
@[simp] theorem putPanel_length (p : Panel) : (putPanel p).length = 8 := rfl
@[simp] theorem putFlag_length (b : Bool) : (putFlag b).length = 1 := rfl

@[simp] theorem putText_length (t : Text) : (putText t).length = t.length + 1 := by
  rw [putText, List.length_append, put1_length, Nat.add_comm]

theorem putOpt_length {o : Option α} {n : Nat} (h : ∀ v, o = some v → (put v).length ≤ n) :
    (putOpt put o).length ≤ n + 1 := by
  rcases o with _ | v
  · exact Nat.le_add_left 1 n
  · have := h v rfl
    simp only [putOpt, List.length_append, put1_length]
    omega

theorem putEntries_length {as : List α} {n : Nat} (h : ∀ v ∈ as, (put v).length ≤ n) :
    (putEntries put as).length ≤ as.length * n := by
  induction as with
  | nil => exact Nat.zero_le _
  | cons a as ih =>
    have ha := h a List.mem_cons_self
    have has := ih fun v hv => h v (List.mem_cons_of_mem _ hv)
    rw [putEntries, List.length_append, List.length_cons, Nat.add_mul, Nat.one_mul]
    omega

theorem putLocation_length (v : Location) : (putLocation v).length ≤ 3 := by
  cases v <;> simp [putLocation]

theorem putIdentity_length {g : Nat} {v : PlateId} (h : v.fits = true) : (putIdentity g v).length ≤ 40 := by
  simp only [PlateId.fits, Bool.and_eq_true, textFits, decide_eq_true_eq] at h
  obtain ⟨⟨⟨⟨⟨⟨⟨⟨⟨⟨⟨-, -⟩, hheat⟩, -⟩, -⟩, -⟩, -⟩, -⟩, -⟩, -⟩, -⟩, -⟩ := h
  have hparent : (putOpt putHandle v.parent).length ≤ 3 + 1 := putOpt_length fun _ _ => le_rfl
  simp only [putIdentity, List.length_append, put1_length, put2_length, put4_length, putText_length]
  omega

theorem putState_length {g : Nat} {v : PlateSt} (h : v.fits = true) : (putState g v).length ≤ 48 := by
  simp only [PlateSt.fits, Bool.and_eq_true] at h
  obtain ⟨⟨-, hpanels⟩, -⟩ := h
  have hlist : (putOpt (putList putPanel) v.panels).length ≤ 33 + 1 := by
    refine putOpt_length fun l hl => ?_
    rw [hl, optFits, Bool.and_eq_true, decide_eq_true_eq] at hpanels
    have hcount : l.length ≤ 4 := hpanels.1
    have hentries : (putEntries putPanel l).length ≤ l.length * 8 := putEntries_length fun _ _ => le_rfl
    rw [putList, List.length_append, put1_length]
    omega
  have harea : (putOpt put4 v.area).length ≤ 4 + 1 := putOpt_length fun _ _ => le_rfl
  have hloc := putLocation_length v.location
  simp only [putState, List.length_append, put1_length, putFlag_length]
  omega

theorem putGrade_length {v : Grade} (h : v.fits = true) : (putGrade v).length ≤ 17 := by
  simp only [Grade.fits, Bool.and_eq_true, decide_eq_true_eq] at h
  obtain ⟨⟨⟨⟨⟨hlabel, -⟩, -⟩, -⟩, -⟩, -⟩ := h
  simp only [putGrade, List.length_append, put1_length, put2_length, putText_length]
  omega

theorem putStationCfg_length (v : StationCfg) : (putStationCfg v).length ≤ 5 := by
  have hunit : (putOpt put1 v.unit).length ≤ 1 + 1 := putOpt_length fun _ _ => le_rfl
  simp only [putStationCfg, List.length_append, put1_length]
  omega

end Sys2Proof.Proofs.Contents
end

section
/-! PROOFS. The Record Store at work: the words of an image spell its record, writes begin and end, deferred requests
complete (R13, R14, R175, R176). -/

namespace Sys2Proof.Proofs.Writes

open Sys2Proof Sys2Proof.Machine
open Sys2Proof.Proofs.Tables Sys2Proof.Proofs.Cells Sys2Proof.Proofs.Pins Sys2Proof.Proofs.Codec
open Sys2Proof.Proofs.Wire Sys2Proof.Proofs.Contents

variable {s t : State} {i : ImageId} {n : Nat} {w : Write} {fate : WriteFate} {d : Deferred}

/-! ## The words of an image -/

theorem table_size {α : Type} {put : α → List Byte} {n k : Nat} (t : Table α n)
    (h : ∀ v ∈ t.entries, (put v).length ≤ k) : (putEntries put t.entries).length ≤ n * k := by
  have := putEntries_length h
  rwa [t.size_eq] at this

/-- The list of the stations group fits: each address is one of the 32, each entry as the stations are. -/
theorem stationList_eq : s.stationList = (enrolledWith s fun _ => true).filterMap fun a =>
    (s.station? a).map fun st => ⟨a, st.kind, st.unit, st.weight⟩ := by
  rw [State.stationList, addressesOf_eq]
  refine List.filterMap_congr fun a _ => ?_
  rcases s.station? a with _ | st <;> rfl

theorem stationList_fits (h : ∀ a st, s.station? a = some st → st.fits = true) :
    listFits stationFits s.stationList = true ∧ s.stationList.length ≤ 32 := by
  have hlen : s.stationList.length ≤ 32 := by
    refine (List.length_filterMap_le ..).trans ?_
    rw [State.addressesOf, indicesWhere_eq, List.length_map]
    exact (List.length_filter_le ..).trans (List.length_range ..).le
  refine ⟨?_, hlen⟩
  rw [listFits, Bool.and_eq_true, decide_eq_true_eq, List.all_eq_true]
  refine ⟨by omega, fun c hc => ?_⟩
  rw [stationList_eq, List.mem_filterMap] at hc
  obtain ⟨a, ha, hc⟩ := hc
  obtain ⟨st, hst, rfl⟩ := Option.map_eq_some_iff.1 hc
  have hfits := h a st hst
  simp only [Station.fits, Bool.and_eq_true] at hfits
  obtain ⟨⟨hweight, hunit⟩, hcrane⟩ := hfits
  have haddress : fits1 a = true := by
    have := List.mem_range.1 (List.mem_filter.1 ha).1
    exact decide_eq_true (by omega)
  simp only [stationFits, haddress, hunit, hweight, hcrane, Bool.and_true]

theorem words_of_contents {b : List Byte} (h : s.contents i = some b) : s.wordsFor i = imageWords i.size b := by
  rw [State.wordsFor, h]

theorem plateEntry_some {e : Entry PlateRec} {r : PlateRec} (he : s.plates.get? n = some e) (hr : e.record = some r) :
    s.plateEntry n = some (e.gen, r) := by
  rw [State.plateEntry, he]
  simp only [hr]

/-- The words that a write takes read back as the record that the image keeps (R13, R175, R176). -/
theorem wordsFor_holds (h : Fits s i) : Holds s i (s.wordsFor i) := by
  rcases i with n | n | n | _ | g
  case genWord =>
    obtain ⟨e, r, he, hr, hgen⟩ := h
    refine ⟨e, r, he, hr, ?_⟩
    rw [words_of_contents (b := put1 e.gen) (by rw [State.contents, plateEntry_some he hr]; rfl)]
    exact read_written (fun l => reads1 _ l hgen) (show 1 ≤ 8 * 1 by decide)
  case identity =>
    obtain ⟨e, r, he, hr, hgen, hid⟩ := h
    refine ⟨e, r, he, hr, ?_⟩
    rw [words_of_contents (b := putIdentity e.gen r.ident) (by rw [State.contents, plateEntry_some he hr]; rfl)]
    exact read_written (put := fun v : Nat × PlateId => putIdentity v.1 v.2) (v := (e.gen, r.ident))
      (fun l => readsIdentity (e.gen, r.ident) l (Bool.and_eq_true_iff.2 ⟨hgen, hid⟩)) (putIdentity_length hid)
  case state =>
    obtain ⟨e, r, he, hr, hgen, hst⟩ := h
    refine ⟨e, r, he, hr, ?_⟩
    rw [words_of_contents (b := putState e.gen r.st) (by rw [State.contents, plateEntry_some he hr]; rfl)]
    exact read_written (put := fun v : Nat × PlateSt => putState v.1 v.2) (v := (e.gen, r.st))
      (fun l => readsState (e.gen, r.st) l (Bool.and_eq_true_iff.2 ⟨hgen, hst⟩)) (putState_length hst)
  case header =>
    have hfloor : s.headerFloor ≤ 4294967296 := h
    rw [words_of_contents rfl]
    exact read_written (fun l => reads8 _ l (decide_eq_true (by omega))) le_rfl
  case group =>
    cases g
    case grades =>
      rw [words_of_contents rfl]
      exact read_written (put := fun t : Table Grade 64 => putEntries putGrade t.entries)
        (takeTable_put readsGrade _ h) (table_size _ fun v hv => putGrade_length (List.all_eq_true.1 h v hv))
    case slots =>
      rw [words_of_contents rfl]
      exact read_written (put := fun t : Table SlotCfg 96 => putEntries putSlotCfg t.entries)
        (takeTable_put readsSlotCfg _ h) (table_size _ (k := 9) fun _ _ => le_rfl)
    case tables =>
      rw [words_of_contents rfl]
      exact read_written (put := fun t : Table TableCfg 8 => putEntries putTableCfg t.entries)
        (takeTable_put readsTableCfg _ h) (table_size _ (k := 4) fun _ _ => le_rfl)
    case cranes =>
      rw [words_of_contents rfl]
      exact read_written (put := fun t : Table CraneCfg 6 => putEntries putCraneCfg t.entries)
        (takeTable_put readsCraneCfg _ h)
        ((table_size _ (k := 14) fun _ _ => le_rfl).trans (by decide))
    case cart =>
      rw [words_of_contents rfl]
      exact read_written (fun l => readsPerBay _ l h) (show 4 ≤ 8 by decide)
    case bins =>
      rw [words_of_contents rfl]
      exact read_written (fun l => readsPerBay _ l h) (show 4 ≤ 8 by decide)
    case runways =>
      rw [words_of_contents rfl]
      exact read_written (fun l => readsPerBay _ l h) (show 4 ≤ 8 by decide)
    case stations =>
      obtain ⟨hfits, hcount⟩ := stationList_fits h
      rw [words_of_contents rfl]
      change _ = Stored.sound _
      rw [← stationList_eq]
      refine read_written (fun l => readsStationCfg.list _ l hfits) ?_
      have hentries : (putEntries putStationCfg s.stationList).length ≤ s.stationList.length * 5 :=
        putEntries_length fun v _ => putStationCfg_length v
      rw [putList, List.length_append, put1_length]
      change _ ≤ 8 * 21
      omega
    case alarms =>
      rw [words_of_contents rfl]
      exact read_written (alarmCfg_put _) (show 3 ≤ 8 by decide)

/-! ## The judgement of an image -/

theorem judge_read {m : Image} {cells : List Cell} {ws : List (BitVec 64)} {crc : BitVec 64}
    (hm : m = cells.map some) (hread : ∀ c ∈ cells, c.oneFlip) (hdata : cells.map Cell.data = ws ++ [crc]) :
    (crc ≠ (crc16 (ws.flatMap wordBytes)).setWidth 64 → m.judge = .bad)
      ∧ (crc = (crc16 (ws.flatMap wordBytes)).setWidth 64 →
          ((∀ c ∈ cells, c.flipped = 0#72) → m.judge = .sound ws)
          ∧ ((∃ c ∈ cells, c.flipped ≠ 0#72) → m.judge = .corrected ws)) := by
  rw [hm, judge_cells hread hdata]
  have hclosed : (crc16 (ws.flatMap wordBytes)).setWidth 64 = crcWord ws := rfl
  rw [hclosed]
  refine ⟨fun hcrc => if_neg hcrc, fun hcrc => ⟨fun hwhole => ?_, fun ⟨c, hc, hflip⟩ => ?_⟩⟩
  · rw [if_pos hcrc, if_pos hwhole]
  · rw [if_pos hcrc, if_neg fun hwhole => hflip (hwhole c hc)]

theorem agrees_iff {m : Image} {ws : List (BitVec 64)} {crc : BitVec 64} :
    m.agrees (ws ++ [crc]) = true ↔ m.judge = .sound ws ∨ m.judge = .corrected ws := by
  rw [Image.agrees, List.dropLast_concat, beq_iff_eq]
  rcases m.judge with _ | _ | _ | _ <;> simp [Stored.value]

/-! ## The beginning of a write -/

theorem words_cells (cells : List Cell) : Image.words (cells.map some) = cells.map Cell.data := by
  rw [Image.words, List.filterMap_map, ← List.filterMap_eq_map]
  rfl

/-- A FREE plate entry has no record for its images: the words are those of the image as it was read. -/
theorem wordsFor_free {e : Entry PlateRec} {cells : List Cell} (hi : i = .genWord n ∨ i = .identity n ∨ i = .state n)
    (he : s.plates.get? n = some e) (hr : e.record = none) (hcells : s.store.image i = cells.map some) :
    s.wordsFor i = cells.map Cell.data := by
  have hfree : s.plateEntry n = none := by
    rw [State.plateEntry, he]
    simp only [hr]
  have hnone : s.contents i = none := by
    rcases hi with rfl | rfl | rfl <;> simp only [State.contents, hfree, Option.map_none]
  rw [State.wordsFor, hnone, hcells]
  exact words_cells cells

theorem writeStart_exec {rest : List ImageId} (hphase : s.phase = .startup ∨ s.phase = .running)
    (hrestart : s.restartPending = false) (hpfw : s.pfw = false) (hidle : s.inFlight = none)
    (hqueue : s.queue = i :: rest) : exec .writeStart s = .next { s with
      queue := rest
      inFlight := some ⟨i, s.wordsFor i, 1⟩
      deferred := s.deferred.map (Deferred.begin i) } := by
  simp [exec, execWriteStart, writes_iff.2 hphase, hrestart, hpfw, hidle, hqueue]

theorem writeStart_refused (h : s.pfw = true ∨ s.queue = [] ∨ s.inFlight ≠ none) :
    exec .writeStart s = .refused (.notEnabled .writeNotDue) := by
  change execWriteStart s = _
  unfold execWriteStart
  split
  next hgo =>
    obtain ⟨-, -, hpfw⟩ := hgo
    split
    next hidle hqueue =>
      rcases h with h | h | h
      · simp [h] at hpfw
      · simp [h] at hqueue
      · exact absurd hidle h
    next => rfl
  next => rfl

/-! ## The end of a write -/

/-- The state once the words of the write in flight have reached their image, before it is read back. -/
def reachedBy (s : State) (w : Write) (fate : WriteFate) : State :=
  { s with store := s.store.write w.image w.words fate }

theorem writeEnd_exec (hphase : s.phase = .startup ∨ s.phase = .running) (hw : s.inFlight = some w) :
    exec (.writeEnd fate) s = .next
      (if ((reachedBy s w fate).store.image w.image).agrees w.words then (reachedBy s w fate).writeDone w false
      else if w.attempt < 2 then { reachedBy s w fate with inFlight := some { w with attempt := w.attempt + 1 } }
      else ((reachedBy s w fate).raise .storeWriteFault).writeDone w true) := by
  simp only [exec, execWriteEnd, writes_iff.2 hphase, hw, if_true, reachedBy]
  split
  next => rfl
  next => split <;> rfl

/-- What the end of a write leaves: the deferred requests that saw it begin have seen it end, and a failure raises
STORE_WRITE_FAULT (R13, R176). -/
def Ended (s t : State) (w : Write) (failed : Bool) : Prop :=
  t.inFlight = none
    ∧ t.deferred = s.deferred.map (fun q =>
        { q with
          waits := q.waits.filter fun x => !(x.image == w.image && x.begun)
          failed := q.failed || (failed && q.waits.any fun x => x.image == w.image && x.begun) })
    ∧ t.flags = (if failed then s.flags ||| Alarm.storeWriteFault.bit else s.flags)
    ∧ OnlyChanges [.store, .inFlight, .deferred, .flags] s t

theorem writeDone_ended (failed : Bool) (hdeferred : t.deferred = s.deferred)
    (hflags : t.flags = if failed then s.flags ||| Alarm.storeWriteFault.bit else s.flags)
    (hframe : OnlyChanges [.store, .flags] s t) : Ended s (t.writeDone w failed) w failed := by
  refine ⟨rfl, congrArg (List.map _) hdeferred, hflags, (hframe.mono (by decide)).trans ?_⟩
  intro f hf
  cases f <;> first | rfl | exact absurd (by decide) hf

theorem reachedBy_frame : OnlyChanges [.store] s (reachedBy s w fate) := by
  intro f hf
  cases f <;> first | rfl | exact absurd (by decide) hf

/-- The three ends of a write: its words read back, a first failure, a second (R176). -/
theorem writeEnd_ends (hphase : s.phase = .startup ∨ s.phase = .running) (hw : s.inFlight = some w) :
    ∃ t, exec (.writeEnd fate) s = .next t ∧ t.store = s.store.write w.image w.words fate
      ∧ ((t.store.image w.image).agrees w.words = true → Ended s t w false)
      ∧ ((t.store.image w.image).agrees w.words = false →
        (2 ≤ w.attempt → Ended s t w true)
        ∧ (w.attempt < 2 → t.inFlight = some { w with attempt := w.attempt + 1 }
            ∧ OnlyChanges [.store, .inFlight] s t)) := by
  have hexec := writeEnd_exec (fate := fate) hphase hw
  by_cases hagrees : ((reachedBy s w fate).store.image w.image).agrees w.words = true
  · rw [if_pos hagrees] at hexec
    refine ⟨_, hexec, rfl, fun _ => writeDone_ended false rfl rfl (reachedBy_frame.mono (by decide)), fun h => ?_⟩
    exact absurd hagrees (Bool.eq_false_iff.1 h)
  · rw [if_neg hagrees] at hexec
    by_cases hfirst : w.attempt < 2
    · rw [if_pos hfirst] at hexec
      refine ⟨_, hexec, rfl, fun h => absurd h hagrees, fun _ => ⟨fun h => absurd hfirst (Nat.not_lt.2 h),
        fun _ => ⟨rfl, fun f hf => ?_⟩⟩⟩
      cases f <;> first | rfl | exact absurd (by decide) hf
    · rw [if_neg hfirst] at hexec
      exact ⟨_, hexec, rfl, fun h => absurd h hagrees, fun _ => ⟨fun _ => writeDone_ended true rfl rfl
        ((reachedBy_frame.mono (by decide)).trans ((raise_frame _).mono (by decide))),
        fun h => absurd h hfirst⟩⟩

/-! ## The completion of deferred requests -/

theorem deferredComplete_waits (hphase : s.phase = .running) (hd : s.deferred[n]? = some d) (h : d.waits ≠ []) :
    exec (.deferredComplete n) s = .refused (.notEnabled .notComplete) := by
  simp [exec, execDeferredComplete, hphase, hd, h]

theorem deferredComplete_exec (hphase : s.phase = .running) (hd : s.deferred[n]? = some d) (h : d.waits = []) :
    exec (.deferredComplete n) s = .next { s.complete d with deferred := s.deferred.eraseIdx n } := by
  simp [exec, execDeferredComplete, hphase, hd, h]

theorem complete_frame : OnlyChanges [.stations] s (s.complete d) := by
  unfold State.complete
  split
  · exact .refl
  · split
    · exact .refl
    · split
      · exact putAnswer_frame _ _
      · exact .refl

theorem finalCode_eq : d.finalCode = if d.failed = true ∧ d.code = .done then .doneUnsaved else d.code := by
  simp only [Deferred.finalCode, Bool.and_eq_true, beq_iff_eq]

/-- The slot IN_FLIGHT for a request takes its final answer (R169). -/
theorem complete_held {a : Nat} {st : Station} (ha : d.station = some a) (hst : s.station? a = some st)
    (hslot : st.slot = .inFlight d.tag) :
    (s.complete d).station? a = some { st with slot := .held d.tag d.request d.finalCode d.fields }
      ∧ ∀ b, b ≠ a → (s.complete d).station? b = s.station? b := by
  have hcomplete : s.complete d = s.putAnswer a (.held d.tag d.request d.finalCode d.fields) := by
    unfold State.complete
    simp only [ha, hst, hslot, if_true]
  rw [hcomplete]
  exact ⟨station?_modifyStation_self _ hst, fun b hb => station?_modifyStation_ne _ hb.symm⟩

/-- No slot waits for the request: no station changes. -/
theorem complete_lost (h : d.station = none ∨ ∃ a st, d.station = some a ∧ s.station? a = some st
    ∧ st.slot ≠ .inFlight d.tag) : s.complete d = s := by
  unfold State.complete
  rcases h with h | ⟨a, st, ha, hst, hslot⟩
  · simp only [h]
  · simp only [ha, hst, hslot, if_false]

/-- Settles O52: by the judgement of words, the codecs of the images, and the steps of the write queue. -/
theorem writesRunAndComplete : Obligations.WritesRunAndComplete := by
  unfold Obligations.WritesRunAndComplete
  refine ⟨fun m => ⟨judge_absent, judge_bad, fun cells ws crc => judge_read⟩,
    fun s i rest hphase hrestart hpfw hidle hqueue => ?_, fun s => writeStart_refused,
    fun s w fate hphase hw hok => ?_, fun s n d hphase hd => ⟨deferredComplete_waits hphase hd, fun hdone => ?_⟩⟩
  · refine ⟨_, _, writeStart_exec hphase hrestart hpfw hidle hqueue, rfl, rfl, rfl, rfl, wordsFor_holds,
      fun n e hi he hr cells => wordsFor_free hi he hr, rfl, fun f hf => ?_⟩
    cases f <;> first | rfl | exact absurd (by decide) hf
  · obtain ⟨t, hexec, hstore, hgood, hbad⟩ := writeEnd_ends (fate := fate) hphase hw
    refine ⟨t, hexec, by rw [hstore]; exact write_replaced hok fate, fun ws crc hwords => ?_,
      fun ws hwords hclean => ?_⟩
    · rw [hwords, agrees_iff] at hgood
      refine ⟨hgood, fun hsound hcorrected => hbad ?_⟩
      rw [hwords, Bool.eq_false_iff, ne_eq, agrees_iff]
      exact not_or.2 ⟨hsound, hcorrected⟩
    · have himage : t.store.image w.image = Image.fresh w.words := by
        rw [hstore, Store.write, Store.image_putImage_self hok, hclean]
        exact Image.write_clean (by rw [hwords]; simp)
      refine ⟨himage, hgood ?_⟩
      rw [himage, hwords]
      exact agrees_iff.2 (.inl Image.judge_fresh)
  · refine ⟨_, deferredComplete_exec hphase hd hdone, rfl, fun a st ha hst hslot => ?_, fun hlost => ?_, ?_⟩
    · obtain ⟨hheld, hother⟩ := complete_held ha hst hslot
      exact ⟨fun held heq => by rw [heq, ← finalCode_eq]; exact hheld, hother⟩
    · exact (congrArg State.stations (complete_lost hlost) : (s.complete d).stations = s.stations)
    · refine (complete_frame (d := d) |>.mono (by decide)).trans fun f hf => ?_
      cases f <;> first | rfl | exact absurd (by decide) hf

end Sys2Proof.Proofs.Writes
end

section
/-! PROOFS. The fields of answers: how the model writes them and how claims speak of them, the bytes they take, and the
page of a long list (R174). -/

namespace Sys2Proof.Proofs.Fields

open Sys2Proof Sys2Proof.Machine

variable {α : Type} {l m : List Token}

/-! ## The same fields in the two spellings -/

theorem given_eq (o : Option α) (f : α → List Token) : given o f = optTok o f := by cases o <;> rfl

theorem yes_eq (b : Bool) : yes b = flagTok b := rfl

theorem counted_eq (l : List (List Token)) : counted l = listTok l := rfl

theorem nth_kind (v : StationKind) :
    nth [StationKind.supervisor, .table, .marker, .crane, .cart, .terminal] v = .choice v.num := by cases v <;> rfl

theorem nth_origin (v : Origin) : nth [Origin.mill, .derived] v = .choice v.num := by cases v <;> rfl

theorem nth_bay (v : Bay) : nth [Bay.a, .b] v = .choice v.num := by cases v <;> rfl

theorem nth_purpose (v : Purpose) : nth [Purpose.stock, .remnant, .intake] v = .choice v.num := by cases v <;> rfl

theorem nth_verdict (v : Verdict) : nth [Verdict.pass, .fail, .aborted] v = .choice v.num := by cases v <;> rfl

theorem nth_jobState (v : JobState) :
    nth [JobState.admitted, .loaded, .burning, .paused, .ended, .cleared] v = .choice v.num := by cases v <;> rfl

theorem nth_role (v : Role) : nth [Role.active, .staged] v = .choice v.num := by cases v <;> rfl

theorem nth_pauseCause (v : PauseCause) : nth [PauseCause.arcLoss, .collision, .operator] v = .choice v.num := by
  cases v <;> rfl

theorem nth_mark (v : MarkState) : nth [MarkState.planned, .issued, .marked, .failed] v = .choice v.num := by
  cases v <;> rfl

theorem nth_cut (v : CutState) : nth [CutState.uncut, .cut, .scrapped] v = .choice v.num := by cases v <;> rfl

theorem nth_outcome (v : MarkOutcome) : nth [MarkOutcome.made, .failed] v = .choice v.num := by cases v <;> rfl

theorem nth_legKind (v : LegKind) :
    nth [LegKind.fetch, .ret, .clearRemnant, .clearSkeleton, .dig, .transferOut, .transferIn, .manual] v
      = .choice v.num := by cases v <;> rfl

theorem nth_legState (v : LegState) :
    nth [LegState.queued, .assigned, .lifted, .check, .done, .cancelled, .failed] v = .choice v.num := by
  cases v <;> rfl

theorem nth_holdUp (v : HoldUp) : nth [HoldUp.blocked, .full, .overload, .noWork, .tooDeep] v = .choice v.num := by
  cases v <;> rfl

theorem nth_batchState (v : BatchState) : nth [BatchState.opened, .committed, .done, .cancelled] v = .choice v.num := by
  cases v <;> rfl

theorem nth_craneState (v : CraneState) :
    nth [CraneState.offline, .idle, .assigned, .loaded, .check] v = .choice v.num := by cases v <;> rfl

/-! ## The bytes of fields -/

/-- A field whose width is one that the line has: a number in one, two or four bytes. -/
def Token.regular (t : Token) : Bool :=
  match t with
  | .num w _ => w == 1 || w == 2 || w == 4
  | _ => true

/-- Fields that all have widths of the line. -/
def regular (l : List Token) : Bool := l.all Token.regular

@[simp] theorem regular_nil : regular [] = true := rfl
@[simp] theorem regular_cons (t : Token) : regular (t :: l) = (Token.regular t && regular l) := rfl
@[simp] theorem regular_append : regular (l ++ m) = (regular l && regular m) := List.all_append ..
@[simp] theorem regular_num (w : Nat) (v : Int) : Token.regular (.num w v) = (w == 1 || w == 2 || w == 4) := rfl
@[simp] theorem regular_handle (h : Handle) : Token.regular (.handle h) = true := rfl
@[simp] theorem regular_choice (n : Nat) : Token.regular (.choice n) = true := rfl
@[simp] theorem regular_text (t : Text) : Token.regular (.text t) = true := rfl
@[simp] theorem regular_place (p : Place) : Token.regular (.place p) = true := rfl
@[simp] theorem regular_flag (b : Bool) : Token.regular (flagTok b) = true := rfl

theorem regular_optTok {o : Option α} {f : α → List Token} (h : ∀ a, regular (f a) = true) :
    regular (optTok o f) = true := by
  cases o
  · rfl
  · exact h _

theorem regular_flatten {l : List (List Token)} (h : ∀ e ∈ l, regular e = true) : regular l.flatten = true := by
  rw [regular, List.all_flatten, List.all_eq_true]
  exact h

theorem regular_listTok {l : List (List Token)} (h : ∀ e ∈ l, regular e = true) : regular (listTok l) = true :=
  regular_flatten h

theorem token_bytes {t : Token} (h : Token.regular t = true) : t.bytes.length = t.size := by
  rcases t with ⟨w, v⟩ | h | n | t | p
  · simp only [regular_num, Bool.or_eq_true, beq_iff_eq] at h
    rcases h with (rfl | rfl) | rfl <;> rfl
  · rfl
  · rfl
  · exact (List.length_append ..).trans rfl
  · cases p <;> rfl

theorem bytesOf_eq (h : regular l = true) : bytesOf l = sizeOfTokens l := by
  rw [bytesOf, sizeOfTokens, List.length_flatten, List.map_map]
  exact congrArg List.sum (List.map_congr_left fun t ht => token_bytes (List.all_eq_true.1 h t ht))

@[simp] theorem sizeOfTokens_nil : sizeOfTokens [] = 0 := rfl
@[simp] theorem sizeOfTokens_cons (t : Token) : sizeOfTokens (t :: l) = t.size + sizeOfTokens l := List.sum_cons
@[simp] theorem sizeOfTokens_append : sizeOfTokens (l ++ m) = sizeOfTokens l + sizeOfTokens m := by
  rw [sizeOfTokens, List.map_append, List.sum_append]
  rfl

/-! ## Pages -/

/-- As many whole entries as fit: a beginning of the list, within the room, and no entry more would fit. -/
theorem fitting_prefix (l : List (List Token)) : ∀ room, ∃ after, l = fitting room l ++ after
    ∧ sizeOfTokens (fitting room l).flatten ≤ room
    ∧ ∀ e, after.head? = some e → room < sizeOfTokens (fitting room l).flatten + sizeOfTokens e := by
  induction l with
  | nil => exact fun room => ⟨[], rfl, Nat.zero_le _, nofun⟩
  | cons e es ih =>
    intro room
    unfold fitting
    split
    next hfits =>
      obtain ⟨after, hes, hroom, hmore⟩ := ih (room - sizeOfTokens e)
      refine ⟨after, congrArg (e :: ·) hes, ?_, fun d hd => ?_⟩
      · rw [List.flatten_cons, sizeOfTokens_append]
        omega
      · have := hmore d hd
        rw [List.flatten_cons, sizeOfTokens_append]
        omega
    next hfits =>
      refine ⟨e :: es, rfl, Nat.zero_le _, fun d hd => ?_⟩
      obtain rfl : e = d := Option.some.inj hd
      simpa using hfits

theorem regular_pageTok {used : Nat} {start : Option Nat} {entries : List (List Token)}
    (h : ∀ e ∈ entries, regular e = true ∧ 1 ≤ sizeOfTokens e) : regular (pageTok used start entries) = true := by
  obtain ⟨after, hsplit, -⟩ := fitting_prefix (entries.drop (start.getD 0)) (120 - used - 1)
  exact regular_flatten fun e he => (h e (List.mem_of_mem_drop (hsplit.symm ▸ List.mem_append_left after he))).1

/-- A list on the line is a page of it, beside the rest of the payload (R174). -/
theorem pages_pageTok {head used : Nat} {rest : List Token} {start : Option Nat} {entries : List (List Token)}
    (hused : used = head + sizeOfTokens rest) (hrest : regular rest = true)
    (hentries : ∀ e ∈ entries, regular e = true ∧ 1 ≤ sizeOfTokens e) :
    Pages head rest start entries (pageTok used start entries) := by
  obtain ⟨after, hsplit, hroom, hmore⟩ := fitting_prefix (entries.drop (start.getD 0)) (120 - used - 1)
  have hpage : pageTok used start entries
      = .num 1 entries.length :: (fitting (120 - used - 1) (entries.drop (start.getD 0))).flatten := rfl
  rw [hpage]
  generalize fitting (120 - used - 1) (entries.drop (start.getD 0)) = shown at *
  have hmem {e : List Token} (he : e ∈ shown ++ after) : regular e = true ∧ 1 ≤ sizeOfTokens e :=
    hentries e (List.mem_of_mem_drop (hsplit.symm ▸ he))
  have hlisted : bytesOf (.num 1 entries.length :: shown.flatten) = 1 + sizeOfTokens shown.flatten := by
    have hregular := regular_flatten fun e he => (hmem (List.mem_append_left after he)).1
    rw [bytesOf_eq (by rw [regular_cons, hregular]; rfl), sizeOfTokens_cons]
    rfl
  refine ⟨shown, after, hsplit, rfl, fun hshown => ?_, fun e he => ?_⟩
  · obtain ⟨e, he⟩ := List.exists_mem_of_ne_nil _ hshown
    obtain ⟨before, behind, rfl⟩ := List.append_of_mem he
    have hsome := (hmem (List.mem_append_left after he)).2
    rw [List.flatten_append, List.flatten_cons, sizeOfTokens_append, sizeOfTokens_append] at hlisted hroom
    rw [List.flatten_append, List.flatten_cons, hlisted, bytesOf_eq hrest]
    omega
  · have hlast := hmore e he
    have hregular := (hmem (List.mem_append_right shown (List.mem_of_mem_head? he))).1
    rw [hlisted, bytesOf_eq hrest, bytesOf_eq hregular]
    omega

/-- The entries of a list of handles. -/
theorem handles_entries (l : List Handle) :
    ∀ e ∈ l.map (fun h => [Token.handle h]), regular e = true ∧ 1 ≤ sizeOfTokens e := by
  intro e he
  obtain ⟨h, -, rfl⟩ := List.mem_map.1 he
  exact ⟨rfl, Nat.le_add_left 1 2⟩

/-- A page between two parts of the payload. -/
theorem pages_middle {head : Nat} {front tail : List Token} {start : Option Nat} {entries : List (List Token)}
    (hfront : regular front = true) (htail : regular tail = true)
    (hentries : ∀ e ∈ entries, regular e = true ∧ 1 ≤ sizeOfTokens e) :
    Pages head (front ++ tail) start entries
      (pageTok (head + sizeOfTokens front + sizeOfTokens tail) start entries) :=
  pages_pageTok (by rw [sizeOfTokens_append, Nat.add_assoc]) (by rw [regular_append, hfront, htail]; rfl) hentries

end Sys2Proof.Proofs.Fields
end

section
/-! PROOFS. The reads of tables and collections: each answers with the fields that stand and changes nothing but the
line (R17, R49, R70, R97, R121, R122, R123, R150, R161, R173, R179). -/

namespace Sys2Proof.Proofs.Readings

open Sys2Proof Sys2Proof.Machine
open Sys2Proof.Proofs.Pallets (request_unchanged askerOf)
open Sys2Proof.Proofs.Requests Sys2Proof.Proofs.Tables Sys2Proof.Proofs.Order Sys2Proof.Proofs.Walk
open Sys2Proof.Proofs.Fields Sys2Proof.Proofs.Promotes

variable {s : State} {a : Nat} {st : Station} {tag : Byte} {c : Instr} {code : AnsCode} {fields : List Token}
  {h : Handle} {i n : Nat} {start : Option Nat}

/-- A request answered at once that changes nothing but the line. -/
def Answers (s : State) (a : Nat) (st : Station) (tag : Byte) (c : Instr) (code : AnsCode) (fields : List Token) :
    Prop :=
  ∃ t, exec c s = .next t ∧ Immediate s t a st tag code fields ∧ OnlyChanges lineFields s t

/-- A read answers what its block makes of the state heard. -/
theorem answers_block {α : Type} {r : Req} {v : α} {body : Asker → α → State → Reply} (hasks : Asks r s a st)
    (hexec : exec c s = request r tag (.fields v) s body)
    (hbody : body (askerOf a st tag) v (s.heard a) = .now (s.heard a) code fields) :
    Answers s a st tag c code fields := by
  rw [Answers, hexec]
  exact request_unchanged hasks hbody

theorem Answers.of_eq {fields' : List Token} (h : Answers s a st tag c code fields) (heq : fields = fields') :
    Answers s a st tag c code fields' := heq ▸ h

/-- What is read of the state beyond the line is what stood before. -/
theorem heard_read {β : Type} (read : State → β)
    (hread : ∀ st p f d, read { s with stations := st, poll := p, lastFrame := f, deferred := d } = read s) :
    read (s.heard a) = read s := read_of_line read heard_line hread

/-! ## Stations, plates, the search queue -/

theorem readStation_far (hasks : Asks reqReadStation s a st) (hn : n = 0 ∨ 32 < n) :
    Answers s a st tag (.readStation tag (.fields n)) .badRequest [] :=
  answers_block hasks rfl (if_neg (by simp [inRange]; omega))

theorem readStation_answers (hasks : Asks reqReadStation s a st) (h1 : 1 ≤ n) (h32 : n ≤ 32) :
    Answers s a st tag (.readStation tag (.fields n)) .done ((s.heard a).stationTokens n) :=
  answers_block hasks rfl (if_pos (by simp [inRange, h1, h32]))

theorem placesIn_eq (round : List (Option Nat)) :
    placesIn n round = (List.range round.length).filter fun i => round[i]? == some (some n) := by
  rw [placesIn, positions_filter round fun e => e == some n]
  refine List.filter_congr fun i _ => ?_
  rcases round[i]? with _ | _ | b <;> simp

theorem stationTokens_eq {x : Station} (hx : (s.heard a).station? n = some x) : (s.heard a).stationTokens n
    = .choice 1 :: nth [StationKind.supervisor, .table, .marker, .crane, .cart, .terminal] x.kind
        :: given x.unit (fun v => [.num 1 v]) ++ [.num 1 x.weight, .num 1 x.misses, yes x.silent]
        ++ (match x.slot with
          | .empty => [.choice 0]
          | .inFlight g => [.choice 1, .num 1 g.toNat]
          | .held g _ _ _ => [.choice 2, .num 1 g.toNat])
        ++ counted (((List.range s.round.length).filter fun i => s.round[i]? == some (some n)).map fun i =>
            [.num 1 i]) := by
  rw [State.stationTokens, hx, ← placesIn_eq, heard_round]
  simp only [given_eq, yes_eq, counted_eq, nth_kind]
  rcases x.slot with _ | _ | _ <;> rfl

theorem readPlate_answers (hasks : Asks reqReadPlate s a st) :
    (s.plate? h = none → Answers s a st tag (.readPlate tag (.fields h)) .noSuch [])
      ∧ ∀ r, s.plate? h = some r → Answers s a st tag (.readPlate tag (.fields h)) .done (s.plateTokens h r) := by
  refine ⟨fun hnone => answers_block hasks rfl ?_, fun r hr => answers_block hasks rfl ?_⟩
  · simp only [heard_plate?, hnone] <;> rfl
  · simp only [heard_plate?, hr]
    exact congrArg (Reply.now _ _) (heard_read (fun u => u.plateTokens h r) (fun _ _ _ _ => rfl))

theorem plateTokens_eq (r : PlateRec) : s.plateTokens h r
    = [.handle h, nth [Origin.mill, .derived] r.ident.origin] ++ given r.ident.parent (fun g => [.handle g])
      ++ [.num 1 r.ident.depth, .text r.ident.heat, .num 1 r.ident.grade, .num 2 r.ident.thickness,
        .num 2 r.ident.length, .num 2 r.ident.width, .num 1 r.ident.headTrim, .num 1 r.ident.tailTrim,
        .num 1 r.ident.sideATrim, .num 1 r.ident.sideBTrim, .num 4 r.ident.seq]
      ++ (match r.st.disposition with
        | .stock => [.choice 0]
        | .retired w => [.choice 1, nth [RetireReason.consumed, .scrapped, .shipped] w])
      ++ (match r.st.location with
        | .slot k level => [.place (.slot k), .num 1 level]
        | .bed b d => [.place (.bed b d)]
        | .hook c => [.place (.hook c)]
        | .cart => [.place .cart]
        | .nowhere => [.place .nowhere])
      ++ given r.st.panels (fun l => counted (l.map fun p =>
          [.num 2 p.x, .num 2 p.y, .num 2 p.length, .num 2 p.width]))
      ++ given r.st.area (fun n => [.num 4 n])
      ++ [yes r.st.held, yes r.st.massDoubt, yes r.st.doubtful]
      ++ (match r.leg, r.job with
        | some l, _ => [.choice 2, .handle l]
        | none, some j => [.choice 1, .handle j]
        | none, none => [.choice 0])
      ++ given r.mass (fun m => [.num 4 m])
      ++ (match r.st.location with
        | .slot k level => [.choice 1, .num 1 ((s.slot k).stack.length - level - 1 : Nat)]
        | _ => [.choice 0]) := by
  have hdisposition : r.st.disposition.tokens = match r.st.disposition with
      | .stock => [.choice 0]
      | .retired w => [.choice 1, nth [RetireReason.consumed, .scrapped, .shipped] w] := by
    rcases r.st.disposition with _ | _ | _ | _ <;> rfl
  have hlocation : r.st.location.tokens = match r.st.location with
      | .slot k level => [.place (.slot k), .num 1 level]
      | .bed b d => [.place (.bed b d)]
      | .hook c => [.place (.hook c)]
      | .cart => [.place .cart]
      | .nowhere => [.place .nowhere] := by
    cases r.st.location <;> rfl
  have huse : r.use.tokens = match r.leg, r.job with
      | some l, _ => [.choice 2, .handle l]
      | none, some j => [.choice 1, .handle j]
      | none, none => [.choice 0] := by
    rw [PlateRec.use]
    rcases r.leg with _ | _ <;> rcases r.job with _ | _ <;> rfl
  have hdepth : optTok (s.depthOf r) (fun d => [.num 1 d]) = match r.st.location with
      | .slot k level => [.choice 1, .num 1 ((s.slot k).stack.length - level - 1 : Nat)]
      | _ => [.choice 0] := by
    rw [State.depthOf]
    cases r.st.location <;> rfl
  rw [State.plateTokens, PlateId.tokens, PlateSt.tokens, hdisposition, hlocation, huse, hdepth]
  simp only [given_eq, counted_eq, yes_eq, nth_origin, List.append_assoc] <;> rfl

theorem readSearchQueue_answers (hasks : Asks reqReadSearchQueue s a st) :
    Answers s a st tag (.readSearchQueue tag (.fields ())) .done s.searchTokens :=
  answers_block hasks rfl (congrArg (Reply.now _ _) (heard_read State.searchTokens (fun _ _ _ _ => rfl)))

/-! ## Slots and tables -/

theorem regular_slotCfg (c : SlotCfg) : regular c.tokens = true := rfl

theorem slotCfg_tokens (c : SlotCfg) : c.tokens
    = [nth [Bay.a, .b] c.bay, .num 2 c.position, nth [Purpose.stock, .remnant, .intake] c.purpose, .num 1 c.capacity,
      .num 4 c.limit] := by
  rw [nth_bay, nth_purpose]
  rfl

theorem readSlot_far (hasks : Asks reqReadSlot s a st) (hi : 95 < i) :
    Answers s a st tag (.readSlot tag (.fields ⟨i, start⟩)) .badRequest [] :=
  answers_block hasks rfl (if_neg (by change ¬i < 96; omega))

theorem readSlot_answers (hasks : Asks reqReadSlot s a st) (hi : i ≤ 95) :
    Answers s a st tag (.readSlot tag (.fields ⟨i, start⟩)) .done (s.slotTokens (askerOf a st tag) i start) :=
  answers_block hasks rfl ((if_pos (by change i < 96; omega)).trans (congrArg (Reply.now _ _)
    (heard_read (fun u => u.slotTokens (askerOf a st tag) i start) fun _ _ _ _ => rfl)))

/-- What Read Slot gives after the stack. -/
def slotTail (s : State) (i : Nat) : List Token :=
  [.num 1 (s.slot i).stack.length, .num 4 (s.stackMass i), .num 1 (s.slot i).incoming.length,
    .num 4 (s.incomingMass i)] ++ listTok ((s.slot i).incoming.map fun h => [.handle h]) ++ [flagTok (s.slot i).overCap]

theorem regular_slotTail : regular (slotTail s i) = true := by
  simp [slotTail, regular_listTok fun e he => (handles_entries _ e he).1]

theorem slot_pages {k : Asker} : ∃ listed,
    Pages k.head ((s.slotCfg i).tokens ++ slotTail s i) start ((s.slot i).stack.map fun h => [.handle h]) listed
      ∧ s.slotTokens k i start = (s.slotCfg i).tokens ++ listed ++ slotTail s i :=
  ⟨_, pages_middle (regular_slotCfg _) regular_slotTail (handles_entries _), rfl⟩

theorem readTable_far (hasks : Asks reqReadTable s a st) (hi : 7 < i) :
    Answers s a st tag (.readTable tag (.fields ⟨i, start⟩)) .badRequest [] :=
  answers_block hasks rfl (if_neg (by change ¬i ≤ 7; omega))

theorem readTable_answers (hasks : Asks reqReadTable s a st) (hi : i ≤ 7) :
    Answers s a st tag (.readTable tag (.fields ⟨i, start⟩)) .done (s.tableTokens (askerOf a st tag) i start) :=
  answers_block hasks rfl ((if_pos hi).trans (congrArg (Reply.now _ _)
    (heard_read (fun u => u.tableTokens (askerOf a st tag) i start) fun _ _ _ _ => rfl)))

/-- What Read Table gives of a table before its beds. -/
def tableFront (q : TableSeq) : List Token :=
  .num 1 q.gantry :: verdictTokens q.verdictN ++ verdictTokens q.verdictN1

theorem regular_verdict (o : Option VerdictRec) : regular (verdictTokens o) = true := regular_optTok fun _ => rfl

theorem regular_job (o : Option (Handle × Job)) : regular (jobTokens o) = true := by
  refine regular_optTok fun e => ?_
  simp [regular_optTok]

/-- Two pages in one payload, each behind a choice of its own: the second has the room that the first leaves. -/
theorem two_pages {head n m : Nat} {front jobs : List Token} {l0 l1 : List (List Token)}
    (hfront : regular front = true) (hjobs : regular jobs = true)
    (h0 : ∀ e ∈ l0, regular e = true ∧ 1 ≤ sizeOfTokens e) (h1 : ∀ e ∈ l1, regular e = true ∧ 1 ≤ sizeOfTokens e) :
    let used := head + sizeOfTokens front + sizeOfTokens jobs + 2
    let listed0 := pageTok (used + 1) start l0
    Pages head (front ++ [.choice n, .choice m, .num 1 0] ++ jobs) start l0 listed0
      ∧ Pages head (front ++ [.choice n, .choice m] ++ listed0 ++ jobs) start l1
        (pageTok (used + sizeOfTokens listed0) start l1) := by
  intro used listed0
  have hused : used = head + sizeOfTokens front + sizeOfTokens jobs + 2 := rfl
  have hlisted : regular listed0 = true := regular_pageTok h0
  refine ⟨pages_pageTok ?_ ?_ h0, pages_pageTok ?_ ?_ h1⟩
  · simp only [sizeOfTokens_append, sizeOfTokens_cons, sizeOfTokens_nil, Token.size]
    omega
  · simp only [regular_append, hfront, hjobs]
    rfl
  · simp only [sizeOfTokens_append, sizeOfTokens_cons, sizeOfTokens_nil, Token.size]
    omega
  · simp only [regular_append, hfront, hjobs, hlisted]
    rfl

theorem table_pages {k : Asker} : ∃ listed0 listed1,
    Pages k.head (tableFront (s.tableSeq i) ++ [.choice (s.bedState i 0).num, .choice (s.bedState i 1).num, .num 1 0]
        ++ (jobTokens (s.bedJob i 0) ++ jobTokens (s.bedJob i 1))) start
      ((s.bed i 0).plates.map fun h => [.handle h]) listed0
    ∧ Pages k.head (tableFront (s.tableSeq i) ++ [.choice (s.bedState i 0).num, .choice (s.bedState i 1).num]
        ++ listed0 ++ (jobTokens (s.bedJob i 0) ++ jobTokens (s.bedJob i 1))) start
      ((s.bed i 1).plates.map fun h => [.handle h]) listed1
    ∧ s.tableTokens k i start = tableFront (s.tableSeq i) ++ .choice (s.bedState i 0).num :: listed0
      ++ .choice (s.bedState i 1).num :: listed1 ++ (jobTokens (s.bedJob i 0) ++ jobTokens (s.bedJob i 1)) := by
  have hfront : regular (tableFront (s.tableSeq i)) = true := by simp [tableFront, regular_verdict]
  have hjobs : regular (jobTokens (s.bedJob i 0) ++ jobTokens (s.bedJob i 1)) = true := by simp [regular_job]
  obtain ⟨hpage0, hpage1⟩ := two_pages (head := k.head) (start := start) (n := (s.bedState i 0).num)
    (m := (s.bedState i 1).num) hfront hjobs (handles_entries (s.bed i 0).plates) (handles_entries (s.bed i 1).plates)
  exact ⟨_, _, hpage0, hpage1, rfl⟩

theorem verdictTokens_eq (o : Option VerdictRec) : verdictTokens o
    = given o fun v => [nth [Verdict.pass, .fail, .aborted] v.verdict, .num 4 v.nest] := by
  rw [verdictTokens, given_eq]
  simp only [nth_verdict]

theorem jobTokens_eq (o : Option (Handle × Job)) : jobTokens o = given o fun e =>
    [.handle e.1, .num 4 e.2.nest, .handle e.2.plate,
        nth [JobState.admitted, .loaded, .burning, .paused, .ended, .cleared] e.2.state]
      ++ given e.2.role (fun r => [nth [Role.active, .staged] r])
      ++ [.num 1 e.2.parts.length, .num 1 e.2.resume, yes e.2.pierced, yes e.2.fetchLost]
      ++ given e.2.pauseCause (fun w => [nth [PauseCause.arcLoss, .collision, .operator] w])
      ++ given e.2.verdict (fun v => [nth [Verdict.pass, .fail, .aborted] v])
      ++ given e.2.fetchBatch (fun h => [.handle h]) ++ given e.2.clearBatch (fun h => [.handle h]) := by
  simp only [given_eq, yes_eq, nth_jobState, nth_role, nth_pauseCause, nth_verdict]
  rfl

/-- The state of a bed by its number. -/
theorem bedState_num {b d : Nat} : (s.bedState b d).num = match s.bedJob b d with
    | none => if (s.bed b d).plates = [] ∧ (s.bed b d).skeleton = false then 0 else 1
    | some e => 2 + [JobState.admitted, .loaded, .burning, .paused, .ended].idxOf e.2.state := by
  unfold State.bedState
  rcases hj : s.bedJob b d with _ | ⟨h, j⟩
  · by_cases hbare : (s.bed b d).plates = [] ∧ (s.bed b d).skeleton = false
    · simp [State.bedBare, hbare, BedState.num]
    · have hfull : ¬s.bedBare b d = true := by simpa [State.bedBare] using hbare
      simp [hbare, hfull, BedState.num]
  · have hlive : j.state ≠ .cleared := (bedJob_iff.1 hj).2.2
    dsimp only
    generalize j.state = v at hlive
    cases v
    case cleared => exact absurd rfl hlive
    all_goals rfl

/-! ## Parts, windows, pallets, jobs -/

theorem readPart_answers (hasks : Asks reqReadPart s a st) :
    (s.part? h = none → Answers s a st tag (.readPart tag (.fields h)) .noSuch [])
      ∧ ∀ p, s.part? h = some p → Answers s a st tag (.readPart tag (.fields h)) .done (s.partTokens h p) := by
  refine ⟨fun hnone => answers_block hasks rfl ?_, fun p hp => answers_block hasks rfl ?_⟩
  · simp only [heard_part?, hnone] <;> rfl
  · simp only [heard_part?, hp]
    exact congrArg (Reply.now _ _) (heard_read (fun u => u.partTokens h p) (fun _ _ _ _ => rfl))

theorem positionTok (l : List Handle) : optTok (positionIn h l) (fun n => [.num 1 n])
    = if h ∈ l then [.choice 1, .num 1 (l.idxOf h)] else [.choice 0] := by
  rw [positionIn]
  split <;> rfl

theorem readMarkerWindow_answers (hasks : Asks reqReadMarkerWindow s a st) :
    (7 < i → Answers s a st tag (.readMarkerWindow tag (.fields i)) .badRequest [])
      ∧ (i ≤ 7 → Answers s a st tag (.readMarkerWindow tag (.fields i)) .done (s.windowTokens i)) :=
  ⟨fun hi => answers_block hasks rfl (if_neg (Nat.not_le.2 hi)),
    fun hi => answers_block hasks rfl ((if_pos hi).trans (congrArg (Reply.now _ _)
      (heard_read (fun u => u.windowTokens i) fun _ _ _ _ => rfl)))⟩

/-- What Read Marker Window gives, the window and the next part read part by part. -/
theorem windowTokens_eq : s.windowTokens i = given (s.activeJob i) (fun e => [.handle e.1])
    ++ counted ((s.window i).parts.map fun h =>
        [.handle h, .num 1 (((s.part? h).map Part.index).getD 0),
          nth [CutState.uncut, .cut, .scrapped] (((s.part? h).map Part.cut).getD .uncut)])
    ++ given (s.window i).last (fun c => [.handle c.part, nth [MarkOutcome.made, .failed] c.outcome])
    ++ given ((s.activeJob i).bind fun e =>
        if e.2.state ∈ [JobState.loaded, .burning, .paused] then s.nextPart e.2.parts else none)
      (fun n => [.num 1 n.2.index]) := by
  have hpart : (fun h => match s.part? h with
      | some p => [Token.handle h, .num 1 p.index, .choice p.cut.num]
      | none => [.handle h, .num 1 0, .choice 0]) = fun h => [.handle h, .num 1 (((s.part? h).map Part.index).getD 0),
        .choice (((s.part? h).map Part.cut).getD .uncut).num] := by
    funext h
    rcases s.part? h with _ | p <;> rfl
  have hnext : (match s.activeJob i with
      | some (_, j) =>
        if j.state = .loaded ∨ j.state = .burning ∨ j.state = .paused then s.nextPart j.parts else none
      | none => none) = (s.activeJob i).bind fun e =>
        if e.2.state ∈ [JobState.loaded, .burning, .paused] then s.nextPart e.2.parts else none := by
    rcases s.activeJob i with _ | ⟨g, j⟩
    · rfl
    · simp
  simp only [given_eq, counted_eq, nth_cut, nth_outcome, ← hpart, ← hnext]
  rfl

theorem readPallet_answers (hasks : Asks reqReadPallet s a st) :
    (15 < i → Answers s a st tag (.readPallet tag (.fields ⟨i, start⟩)) .badRequest [])
      ∧ (i ≤ 15 → Answers s a st tag (.readPallet tag (.fields ⟨i, start⟩)) .done
          (s.palletTokens (askerOf a st tag) i start)) :=
  ⟨fun hi => answers_block hasks rfl (if_neg (Nat.not_le.2 hi)),
    fun hi => answers_block hasks rfl ((if_pos hi).trans (congrArg (Reply.now _ _)
      (heard_read (fun u => u.palletTokens (askerOf a st tag) i start) fun _ _ _ _ => rfl)))⟩

theorem pallet_pages {k : Asker} {tail : List Token} (htail : tail = [.num 1 (s.pallet i).length,
      .num 1 ((s.pallet i).countP fun h => (s.part? h).any fun p => p.mark != .marked)]) :
    ∃ listed, Pages k.head tail start ((s.pallet i).map fun h => [.handle h]) listed
      ∧ s.palletTokens k i start = listed ++ tail := by
  have hcount : s.notMarked = fun h => (s.part? h).any fun p => p.mark != .marked := by
    funext h
    rw [State.notMarked]
    rcases s.part? h with _ | p <;> rfl
  subst htail
  refine ⟨_, pages_pageTok rfl rfl (handles_entries _), ?_⟩
  rw [State.palletTokens, hcount]

/-- What Read Job Parts gives of one part. -/
theorem jobPartTokens_eq : s.jobPartTokens = fun g => .handle g :: given (s.part? g) fun p =>
    [nth [MarkState.planned, .issued, .marked, .failed] p.mark, nth [CutState.uncut, .cut, .scrapped] p.cut]
      ++ (match p.placement with
        | .onBed => [.choice 0]
        | .pallet n => [.choice 1, .num 1 n]
        | .nowhere => [.choice 2]) ++ [yes p.manual] := by
  funext g
  rw [State.jobPartTokens, given_eq]
  rcases s.part? g with _ | p
  · rfl
  · simp only [nth_mark, nth_cut, optTok, yes_eq]
    cases p.placement <;> rfl

theorem jobParts_pages {k : Asker} {j : Job} {tail : List Token}
    (htail : tail = [.num 1 (j.parts.countP fun g => (s.part? g).any fun p =>
        p.cut == .cut && (p.mark == .planned || p.mark == .failed)),
      yes (j.parts.all fun g => (s.part? g).all fun p => !(p.cut == .cut && p.placement == .onBed))]) :
    ∃ listed, Pages k.head tail start (j.parts.map s.jobPartTokens) listed
      ∧ s.jobPartsTokens k j start = listed ++ tail := by
  have hcount : s.isUnmarkedCut = fun g => (s.part? g).any fun p =>
      p.cut == .cut && (p.mark == .planned || p.mark == .failed) := by
    funext g
    rw [State.isUnmarkedCut]
    rcases s.part? g with _ | p <;> rfl
  have hsorted : s.sorted j.parts
      = j.parts.all fun g => (s.part? g).all fun p => !(p.cut == .cut && p.placement == .onBed) := by
    rw [State.sorted]
    refine congrArg (List.all _) (funext fun g => ?_)
    rcases s.part? g with _ | p <;> rfl
  subst htail
  refine ⟨_, pages_pageTok rfl rfl fun e he => ?_, ?_⟩
  · obtain ⟨g, -, rfl⟩ := List.mem_map.1 he
    rw [State.jobPartTokens]
    rcases s.part? g with _ | p
    · exact ⟨rfl, Nat.le_add_left 1 _⟩
    · refine ⟨?_, Nat.le_trans (by decide) (Nat.le_add_right 3 _)⟩
      cases hp : p.placement <;> simp [Placement.tokens, hp]
  · rw [State.jobPartsTokens, hcount, hsorted]
    rfl

theorem readJobParts_answers (hasks : Asks reqReadJobParts s a st) :
    (s.job? h = none → Answers s a st tag (.readJobParts tag (.fields ⟨h, start⟩)) .noSuch [])
      ∧ ∀ j, s.job? h = some j → Answers s a st tag (.readJobParts tag (.fields ⟨h, start⟩)) .done
          (s.jobPartsTokens (askerOf a st tag) j start) := by
  refine ⟨fun hnone => answers_block hasks rfl ?_, fun j hj => answers_block hasks rfl ?_⟩
  · simp only [heard_job?, hnone] <;> rfl
  · simp only [heard_job?, hj]
    exact congrArg (Reply.now _ _)
      (heard_read (fun u => u.jobPartsTokens (askerOf a st tag) j start) (fun _ _ _ _ => rfl))

/-! ## Legs, batches, cranes -/

theorem readLeg_answers (hasks : Asks reqReadLeg s a st) :
    (s.leg? h = none → Answers s a st tag (.readLeg tag (.fields h)) .noSuch [])
      ∧ ∀ l, s.leg? h = some l → Answers s a st tag (.readLeg tag (.fields h)) .done (l.tokens h) := by
  refine ⟨fun hnone => answers_block hasks rfl ?_, fun l hl => answers_block hasks rfl ?_⟩
  · simp only [heard_leg?, hnone] <;> rfl
  · simp only [heard_leg?, hl]

theorem readBatch_answers (hasks : Asks reqReadBatch s a st) :
    (s.batch? h = none → Answers s a st tag (.readBatch tag (.fields ⟨h, start⟩)) .noSuch [])
      ∧ ∀ b, s.batch? h = some b → Answers s a st tag (.readBatch tag (.fields ⟨h, start⟩)) .done
          (s.batchTokens (askerOf a st tag) h b start) := by
  refine ⟨fun hnone => answers_block hasks rfl ?_, fun b hb => answers_block hasks rfl ?_⟩
  · simp only [heard_batch?, hnone] <;> rfl
  · simp only [heard_batch?, hb]
    exact congrArg (Reply.now _ _)
      (heard_read (fun u => u.batchTokens (askerOf a st tag) h b start) (fun _ _ _ _ => rfl))

theorem batchEntries_eq (b : Batch) : s.batchEntries b = b.legs.filterMap fun g => (s.leg? g).map fun l =>
    [.handle g,
        nth [LegKind.fetch, .ret, .clearRemnant, .clearSkeleton, .dig, .transferOut, .transferIn, .manual] l.kind,
        nth [LegState.queued, .assigned, .lifted, .check, .done, .cancelled, .failed] l.state]
      ++ given l.plate (fun p => [.handle p])
      ++ given l.holdUp (fun w => [nth [HoldUp.blocked, .full, .overload, .noWork, .tooDeep] w]) := by
  rw [State.batchEntries]
  refine List.filterMap_congr fun g _ => ?_
  simp only [nth_legKind, nth_legState, nth_holdUp, given_eq]
  rcases s.leg? g with _ | l <;> rfl

theorem batch_pages {k : Asker} (b : Batch) : ∃ listed,
    Pages k.head (.handle h :: b.origin.tokens ++ .choice b.state.num :: optTok b.seq fun n => [.num 4 n]) start
        (s.batchEntries b) listed
      ∧ s.batchTokens k h b start
        = .handle h :: b.origin.tokens ++ listed ++ .choice b.state.num :: optTok b.seq fun n => [.num 4 n] := by
  have hfront : regular (.handle h :: b.origin.tokens) = true := by
    cases ho : b.origin <;> rfl
  have hback : regular (.choice b.state.num :: optTok b.seq fun n => [.num 4 n]) = true :=
    regular_optTok fun _ => rfl
  refine ⟨_, pages_middle hfront hback fun e he => ?_, rfl⟩
  obtain ⟨g, -, hg⟩ := List.mem_filterMap.1 he
  rcases hl : s.leg? g with _ | l
  · rw [hl] at hg
    cases hg
  · rw [hl] at hg
    obtain rfl := Option.some.inj hg
    simp [Leg.batchTokens, regular_optTok]
    simp [Token.size]
    omega

theorem readCrane_answers (hasks : Asks reqReadCrane s a st) :
    (5 < i → Answers s a st tag (.readCrane tag (.fields i)) .badRequest [])
      ∧ (i ≤ 5 → Answers s a st tag (.readCrane tag (.fields i)) .done ((s.heard a).craneTokens i)) :=
  ⟨fun hi => answers_block hasks rfl (if_neg (Nat.not_le.2 hi)), fun hi => answers_block hasks rfl (if_pos hi)⟩

/-! ## Runways and the Hall Map -/

theorem readRunway_far (hasks : Asks reqReadRunway s a st) (hi : 2 ≤ i) :
    Answers s a st tag (.readRunway tag (.fields ⟨i, start⟩)) .badRequest [] := by
  obtain ⟨k, rfl⟩ := Nat.exists_eq_add_of_le' hi
  exact answers_block hasks rfl rfl

theorem readRunway_answers {bay : Bay} (hasks : Asks reqReadRunway s a st) (hbay : Bay.ofNum i = some bay) :
    Answers s a st tag (.readRunway tag (.fields ⟨i, start⟩)) .done
      ((s.heard a).runwayTokens (askerOf a st tag) bay start) :=
  answers_block hasks rfl (by simp only [hbay])

theorem readHallMap_far (hasks : Asks reqReadHallMap s a st) (hi : 9 ≤ i) :
    Answers s a st tag (.readHallMap tag (.fields ⟨i, start⟩)) .badRequest [] := by
  obtain ⟨k, rfl⟩ := Nat.exists_eq_add_of_le' hi
  exact answers_block hasks rfl rfl

theorem readHallMap_answers {g : Group} (hasks : Asks reqReadHallMap s a st) (hg : Group.ofNum i = some g) :
    Answers s a st tag (.readHallMap tag (.fields ⟨i, start⟩)) .done
      (pageTok (askerOf a st tag).head start ((s.heard a).groupEntries g)) :=
  answers_block hasks rfl (by simp only [hg])

/-- The cranes of a runway from west to east. -/
theorem cranesWestToEast_spec (bay : Bay) : (s.cranesWestToEast bay).Nodup
    ∧ (∀ c, c ∈ s.cranesWestToEast bay ↔ c ≤ 5 ∧ s.inService c = true ∧ (s.craneCfg c).runway = bay)
    ∧ (s.cranesWestToEast bay).Pairwise fun c d => (s.craneCfg c).order ≤ (s.craneCfg d).order := by
  refine ⟨sortBy_perm.nodup_iff.2 (List.nodup_range.filter _), fun c => ?_, ?_⟩
  · rw [State.cranesWestToEast, sortBy_perm.mem_iff, State.runwayCranes, List.mem_filter, List.mem_range,
      Bool.and_eq_true, beq_iff_eq, State.craneBay]
    exact and_congr Nat.lt_succ_iff Iff.rfl
  · refine (sortBy_not_before (fun c d h => ?_) fun c d e hcd hde => ?_).imp fun h => ?_
    · rw [decide_eq_true_eq] at h
      rw [decide_eq_false_iff_not]
      omega
    · rw [decide_eq_true_eq] at hcd hde ⊢
      exact hcd.trans hde
    · rw [decide_eq_false_iff_not] at h
      exact Nat.not_lt.1 h

theorem runway_pages {k : Asker} (bay : Bay) : ∃ listed,
    Pages k.head (.num 2 (s.hall.runways.get bay) :: listTok ((s.cranesWestToEast bay).map s.runwayCraneTokens)) start
        ((s.spans bay).map fun e => [.handle e.1, .num 2 e.2.1, .num 2 e.2.2]) listed
      ∧ s.runwayTokens k bay start
        = .num 2 (s.hall.runways.get bay) :: listTok ((s.cranesWestToEast bay).map s.runwayCraneTokens) ++ listed := by
  have hcranes : regular (listTok ((s.cranesWestToEast bay).map s.runwayCraneTokens)) = true := by
    refine regular_listTok fun e he => ?_
    obtain ⟨c, -, rfl⟩ := List.mem_map.1 he
    simp [State.runwayCraneTokens, claimTokens, regular_optTok]
  refine ⟨_, pages_pageTok rfl hcranes fun e he => ?_, rfl⟩
  obtain ⟨g, -, rfl⟩ := List.mem_map.1 he
  exact ⟨rfl, Nat.le_add_left 1 _⟩

theorem runwayCraneTokens_eq (c : Nat) : s.runwayCraneTokens c
    = [.num 1 c, .num 2 (s.craneCfg c).hw] ++ given (s.crane c).position (fun p => [.num 2 p])
      ++ given (s.crane c).claim (fun q => [.num 2 q.lo, .num 2 q.hi])
      ++ [yes (s.crane c).stopped, yes (s.craneSilent c)] := by
  simp only [given_eq, yes_eq]
  rfl

/-- What the stored group keeps of a station does not change when it is heard. -/
theorem cfg_heard (b : Nat) :
    ((s.heard a).station? b).map (fun x => (⟨b, x.kind, x.unit, x.weight⟩ : StationCfg))
      = (s.station? b).map fun x => ⟨b, x.kind, x.unit, x.weight⟩ := by
  by_cases hb : b = a
  · subst hb
    rcases hst : s.station? b with _ | x
    · have hheard : (s.heard b).station? b = s.station? b :=
        station?_congr (by simp only [State.heard, State.modifyStation, hst])
      rw [hheard, hst]
    · rw [station?_heard_self hst]
      rfl
  · rw [station?_heard_ne (Ne.symm hb)]

/-- The entries of the stations group are as they stand, heard or not. -/
theorem stationEntries_heard : (s.heard a).groupEntries .stations
    = (enrolledWith s fun _ => true).filterMap fun b => (s.station? b).map fun x =>
      [.num 1 b, nth [StationKind.supervisor, .table, .marker, .crane, .cart, .terminal] x.kind]
        ++ given x.unit (fun v => [.num 1 v]) ++ [.num 1 x.weight] := by
  have henrolled : enrolledWith (s.heard a) (fun _ => true) = enrolledWith s fun _ => true := by
    refine List.filter_congr fun b _ => ?_
    have hb := congrArg Option.isSome (cfg_heard (s := s) (a := a) b)
    rw [Option.isSome_map, Option.isSome_map] at hb
    rw [Option.any_true, Option.any_true, hb]
  have hlist : (s.heard a).stationList = (enrolledWith s fun _ => true).filterMap fun b =>
      (s.station? b).map fun x => ⟨b, x.kind, x.unit, x.weight⟩ := by
    rw [State.stationList, addressesOf_eq, henrolled]
    refine List.filterMap_congr fun b _ => (cfg_heard (s := s) (a := a) b ▸ ?_)
    rcases (s.heard a).station? b with _ | x <;> rfl
  rw [State.groupEntries, hlist, List.map_filterMap]
  refine List.filterMap_congr fun b _ => ?_
  rw [Option.map_map]
  refine congrArg (Option.map · (s.station? b)) (funext fun x => ?_)
  rw [nth_kind]
  rcases x with ⟨kind, _ | unit, weight, misses, silent, slot⟩ <;> rfl

/-- The entries of a group that Read Hall Map lists: none is empty, and their fields have widths of the line. -/
theorem groupEntries_regular (g : Group) : ∀ e ∈ s.groupEntries g, regular e = true ∧ 1 ≤ sizeOfTokens e := by
  have hmap {α : Type} {l : List α} {f : α → List Token} (h : ∀ v, regular (f v) = true ∧ 1 ≤ sizeOfTokens (f v)) :
      ∀ e ∈ l.map f, regular e = true ∧ 1 ≤ sizeOfTokens e := by
    intro e he
    obtain ⟨v, -, rfl⟩ := List.mem_map.1 he
    exact h v
  cases g
  case grades => exact hmap fun v => ⟨rfl, by simp [Grade.tokens, Token.size]⟩
  case slots => exact hmap fun v => ⟨rfl, Nat.le_add_left 1 _⟩
  case tables => exact hmap fun v => ⟨rfl, Nat.le_add_left 1 _⟩
  case cranes => exact hmap fun v => ⟨rfl, Nat.le_add_left 1 _⟩
  case stations =>
    refine hmap fun v => ⟨?_, ?_⟩
    · simp [StationCfg.tokens, regular_optTok]
    · simp [StationCfg.tokens, Token.size]
  all_goals
    intro e he
    fin_cases he <;> exact ⟨rfl, Nat.le_add_left 1 _⟩

theorem hall_pages {k : Asker} {g : Group} {entries : List (List Token)} (h : s.groupEntries g = entries) :
    Pages k.head [] start entries (pageTok k.head start (s.groupEntries g)) :=
  h ▸ pages_pageTok rfl rfl (groupEntries_regular g)

/-- Settles O8: each read answers with its block's fields; these are spelled out, and long lists paged. -/
theorem readsAnswerAndChangeNothing : Obligations.ReadsAnswerAndChangeNothing := by
  unfold Obligations.ReadsAnswerAndChangeNothing
  rintro s u a st tag head rfl rfl answers handles claim placed marked cut ended inBay legKind legState heldUp kind
    slotCfg craneCfg job bed
  refine ⟨fun n hasks => ⟨readStation_far hasks, fun h1 h32 hnone => ?_, fun x h1 h32 hx => ?_⟩, fun h hasks => ?_,
    fun i start hasks => ⟨readSlot_far hasks, fun tail hi htail => ?_⟩, fun hasks => ?_,
    fun i start hasks => ⟨readTable_far hasks, fun q front jobs hi hq hfront hjobs => ?_⟩, fun h hasks => ?_,
    fun i hasks => ?_,
    fun i start hasks => ?_, fun h start hasks => ?_, fun h hasks => ?_, fun h start hasks => ?_, fun c hasks => ?_,
    fun i start hasks => ?_, fun i start hasks => ?_⟩
  · have htokens : (s.heard a).stationTokens n = [.choice 0] := by rw [State.stationTokens, hnone]
    exact htokens ▸ readStation_answers hasks h1 h32
  · exact stationTokens_eq hx ▸ readStation_answers hasks h1 h32
  · obtain ⟨hnone, hsome⟩ := readPlate_answers (tag := tag) (h := h) hasks
    exact ⟨hnone, fun r hr => plateTokens_eq r ▸ hsome r hr⟩
  · obtain ⟨listed, hpages, htokens⟩ := slot_pages (s := s) (i := i) (start := start) (k := askerOf a st tag)
    have hanswers := readSlot_answers (tag := tag) (start := start) hasks hi
    rw [htokens, slotCfg_tokens] at hanswers
    rw [slotCfg_tokens] at hpages
    subst htail
    exact ⟨listed, hpages, hanswers⟩
  · exact readSearchQueue_answers hasks
  · obtain ⟨listed0, listed1, hpage0, hpage1, htokens⟩ :=
      table_pages (s := s) (i := i) (start := start) (k := askerOf a st tag)
    have hfront' : tableFront (s.tableSeq i) = front := by
      rw [hfront, ← verdictTokens_eq, ← verdictTokens_eq, State.tableSeq, Table.getD, hq]
      rfl
    have hbed (b d : Nat) : Token.choice (s.bedState b d).num = bed b d := congrArg Token.choice bedState_num
    have hjob : jobTokens (s.bedJob i 0) ++ jobTokens (s.bedJob i 1) = jobs := by
      rw [hjobs, jobTokens_eq, jobTokens_eq]
    rw [hfront', hbed, hbed, hjob] at hpage0 hpage1 htokens
    exact ⟨listed0, listed1, hpage0, hpage1, (readTable_answers hasks hi).of_eq htokens⟩
  · obtain ⟨hnone, hsome⟩ := readPart_answers (tag := tag) (h := h) hasks
    refine ⟨hnone, fun p line hp hline => (hsome p hp).of_eq ?_⟩
    have hposition : optTok (s.partPosition h p) (fun n => [.num 1 n])
        = if h ∈ line then [.choice 1, .num 1 (line.idxOf h)] else [.choice 0] := by
      rw [← positionTok, hline, State.partPosition]
      cases p.placement <;> rfl
    rw [State.partTokens, hposition]
    simp only [marked, cut, nth_mark, nth_cut, yes_eq]
    congr 3
  · obtain ⟨hfar, hnear⟩ := readMarkerWindow_answers (tag := tag) (i := i) hasks
    refine ⟨hfar, fun hi => (hnear hi).of_eq ?_⟩
    exact windowTokens_eq
  · obtain ⟨hfar, hnear⟩ := readPallet_answers (tag := tag) (i := i) (start := start) hasks
    refine ⟨hfar, fun tail hi htail => ?_⟩
    obtain ⟨listed, hpages, htokens⟩ := pallet_pages (start := start) (k := askerOf a st tag) htail
    exact ⟨listed, hpages, (hnear hi).of_eq htokens⟩
  · obtain ⟨hnone, hsome⟩ := readJobParts_answers (tag := tag) (h := h) (start := start) hasks
    refine ⟨hnone, fun j tail hj htail => ?_⟩
    obtain ⟨listed, hpages, htokens⟩ := jobParts_pages (start := start) (k := askerOf a st tag) htail
    rw [jobPartTokens_eq] at hpages
    exact ⟨listed, hpages, (hsome j hj).of_eq htokens⟩
  · obtain ⟨hnone, hsome⟩ := readLeg_answers (tag := tag) (h := h) hasks
    refine ⟨hnone, fun l hl => (hsome l hl).of_eq ?_⟩
    simp only [inBay, legKind, legState, heldUp, nth_bay, nth_legKind, nth_legState, nth_holdUp, given_eq, yes_eq]
    rfl
  · obtain ⟨hnone, hsome⟩ := readBatch_answers (tag := tag) (h := h) (start := start) hasks
    refine ⟨hnone, fun b front back hb hfront hback => ?_⟩
    obtain ⟨listed, hpages, htokens⟩ := batch_pages (s := s) (h := h) (start := start) (k := askerOf a st tag) b
    have hfront' : .handle h :: b.origin.tokens = front := by
      rw [hfront]
      cases b.origin <;> rfl
    have hback' : (.choice b.state.num :: optTok b.seq fun n => [.num 4 n]) = back := by
      rw [hback, nth_batchState, given_eq]
    rw [hfront', hback'] at hpages htokens
    rw [batchEntries_eq] at hpages
    exact ⟨listed, hpages, (hsome b hb).of_eq htokens⟩
  · obtain ⟨hfar, hnear⟩ := readCrane_answers (tag := tag) (i := c) hasks
    refine ⟨hfar, fun hc => (hnear hc).of_eq ?_⟩
    rw [State.craneTokens, heard_craneCfg, heard_crane]
    simp only [craneCfg, inBay, claim, nth_bay, nth_craneState, given_eq, yes_eq]
    rfl
  · refine ⟨readRunway_far hasks, fun bay hbay => ?_⟩
    have hof : Bay.ofNum i = some bay := by rcases hbay with ⟨rfl, rfl⟩ | ⟨rfl, rfl⟩ <;> rfl
    obtain ⟨hnodup, hmem, hsorted⟩ := cranesWestToEast_spec (s := s.heard a) bay
    obtain ⟨listed, hpages, htokens⟩ :=
      runway_pages (s := s.heard a) (start := start) (k := askerOf a st tag) bay
    simp only [heard_craneCfg] at hmem hsorted
    refine ⟨_, listed, _, hnodup, hmem, hsorted, ?_, hpages, (readRunway_answers hasks hof).of_eq htokens⟩
    have hcranes : (s.heard a).runwayCraneTokens = fun c =>
        [.num 1 c, .num 2 (s.craneCfg c).hw] ++ given (s.crane c).position (fun p => [.num 2 p])
          ++ claim (s.crane c).claim ++ [yes (s.crane c).stopped, yes ((s.heard a).craneSilent c)] := by
      funext c
      rw [runwayCraneTokens_eq, heard_craneCfg, heard_crane]
    rw [hcranes, heard_hall, counted_eq]
    cases bay <;> rfl
  · have hlists {g : Group} {entries : List (List Token)} (hg : Group.ofNum i = some g)
        (hentries : (s.heard a).groupEntries g = entries) : ∃ listed,
        Pages (askerOf a st tag).head [] start entries listed
          ∧ Answers s a st tag (.readHallMap tag (.fields ⟨i, start⟩)) .done listed :=
      ⟨_, hall_pages hentries, readHallMap_answers hasks hg⟩
    have hslot : SlotCfg.tokens = slotCfg := funext slotCfg_tokens
    have hcrane : CraneCfg.tokens = craneCfg := by
      funext v
      simp only [craneCfg, inBay, nth_bay]
      rfl
    refine ⟨readHallMap_far hasks, ?_, ?_, ?_, ?_, ?_, ?_, ?_, ?_, ?_⟩
    all_goals
      rintro rfl
      refine hlists rfl ?_
    · rw [State.groupEntries, heard_hall]
      rfl
    · rw [State.groupEntries, heard_hall, hslot]
    · rw [State.groupEntries, heard_hall]
      rfl
    · rw [State.groupEntries, heard_hall, hcrane]
    · rw [State.groupEntries, heard_hall]
    · rw [State.groupEntries, heard_hall]
    · rw [State.groupEntries, heard_hall]
    · exact stationEntries_heard
    · rw [State.groupEntries, heard_hall]
      rfl

end Sys2Proof.Proofs.Readings
end

section
/-! PROOFS. The legs of a fetch batch that an unpierced abort cancels (R93, step 5): what becomes of each, of the batch,
and of the crane of an ASSIGNED one. -/

namespace Sys2Proof.Proofs.Cancels

open Sys2Proof Sys2Proof.Machine
open Sys2Proof.Proofs.Tables (modify_get?_ne firstIdx_isSome)
open Sys2Proof.Proofs.Makes (modify_of_get? count_pos legEntryFree_iff batchEntryFree_iff)
open Sys2Proof.Proofs.JobEnds (mem_batchLegs)
open Sys2Proof.Proofs.Ends (Drops LetsGo letGo_letsGo dropIncoming_drops)

/-! ## Pools whose records change in place -/

section Pools

variable {α : Type} {n : Nat} {R : α → α → Prop} {t u w : Pool α n} {g : Handle} {r q : α}

/-- Every entry keeps its generation, and its record, if it has one, changes by `R`. -/
def Evolves (R : α → α → Prop) (t u : Pool α n) : Prop :=
  ∀ i e, t.get? i = some e → ∃ d, u.get? i = some d ∧ d.gen = e.gen ∧ Option.Rel R e.record d.record

theorem Evolves.refl (hR : ∀ r, R r r) : Evolves R t t := by
  intro i e he
  refine ⟨e, he, rfl, ?_⟩
  rcases e.record with _ | r
  · exact .none
  · exact .some (hR r)

theorem Evolves.trans (hR : ∀ p q r, R p q → R q r → R p r) (h : Evolves R t u) (k : Evolves R u w) :
    Evolves R t w := by
  intro i e he
  obtain ⟨d, hd, hgen, hrel⟩ := h i e he
  obtain ⟨c, hc, hgen', hrel'⟩ := k i d hd
  refine ⟨c, hc, hgen'.trans hgen, ?_⟩
  generalize e.record = x at hrel
  generalize d.record = y at hrel hrel'
  generalize c.record = z at hrel'
  cases hrel with
  | none => exact hrel'
  | some hab => cases hrel' with | some hbc => exact .some (hR _ _ _ hab hbc)

theorem Evolves.mono {S : α → α → Prop} (hRS : ∀ r q, R r q → S r q) (h : Evolves R t u) : Evolves S t u := by
  intro i e he
  obtain ⟨d, hd, hgen, hrel⟩ := h i e he
  refine ⟨d, hd, hgen, ?_⟩
  generalize e.record = x at hrel
  generalize d.record = y at hrel
  cases hrel with
  | none => exact .none
  | some hab => exact .some (hRS _ _ hab)

theorem Evolves.modify {f : α → α} (hR : ∀ r, R r r) (hf : ∀ r, t.find g = some r → R r (f r)) :
    Evolves R t (Pool.modify t g f) := by
  rcases hr : t.find g with _ | r
  · unfold Pool.modify
    rw [hr]
    exact .refl hR
  · intro i e he
    by_cases hi : i = g.idx
    · subst hi
      have hg := Pool.find_eq_some.1 hr
      obtain rfl : ⟨g.gen, some r⟩ = e := Option.some.inj (hg.symm.trans he)
      exact ⟨_, modify_of_get? f hg, rfl, .some (hf r hr)⟩
    · exact Evolves.refl hR i e he |>.imp fun d hd => ⟨(modify_get?_ne f hi).trans hd.1, hd.2⟩

theorem Evolves.find (h : Evolves R t u) (hr : t.find g = some r) : ∃ q, u.find g = some q ∧ R r q := by
  obtain ⟨⟨gen, rec⟩, hd, hgen, hrel⟩ := h _ _ (Pool.find_eq_some.1 hr)
  cases hrel with
  | some hR =>
    obtain rfl : gen = g.gen := hgen
    exact ⟨_, Pool.find_eq_some.2 hd, hR⟩

theorem Evolves.origin (h : Evolves R t u) (hq : u.find g = some q) : ∃ r, t.find g = some r ∧ R r q := by
  have hget := Pool.find_eq_some.1 hq
  rcases he : t.get? g.idx with _ | ⟨gen, rec⟩
  · rw [u.get?_eq_none.2 (t.get?_eq_none.1 he)] at hget
    cases hget
  · obtain ⟨d, hd, hgen, hrel⟩ := h _ _ he
    obtain rfl : ⟨g.gen, some q⟩ = d := Option.some.inj (hget.symm.trans hd)
    obtain rfl : g.gen = gen := hgen
    cases hrel with
    | some hR => exact ⟨_, Pool.find_eq_some.2 he, hR⟩

end Pools

variable {s t u : State} {g h e fb : Handle} {l m : Leg} {b x : Batch} {rest : List Handle}

/-! ## What a stop may do to a leg, and to a batch -/

/-- A leg that the cancellation of a fetch stops: QUEUED or ASSIGNED. -/
abbrev Stoppable (l : Leg) : Prop := l.state = .queued ∨ l.state = .assigned

/-- A QUEUED or ASSIGNED leg may be CANCELLED, one on a hook marked to end; no other changes. -/
def Stops (l m : Leg) : Prop :=
  m = l ∨ (l.state.onHook = true ∧ m = { l with ending := true })
    ∨ (Stoppable l ∧ m = { l with state := .cancelled, crane := m.crane }
        ∧ (l.state = .assigned ∨ l.crane = none → m.crane = none))

/-- A COMMITTED batch may become DONE or CANCELLED. -/
def Settles (b c : Batch) : Prop :=
  c = b ∨ (b.state = .committed ∧ (c.state = .done ∨ c.state = .cancelled) ∧ c = { b with state := c.state })

theorem Stops.refl (l : Leg) : Stops l l := .inl rfl

theorem Settles.refl (b : Batch) : Settles b b := .inl rfl

theorem not_stoppable_onHook (hl : l.state.onHook = true) : ¬Stoppable l := by
  rintro (h | h) <;> rw [h] at hl <;> cases hl

theorem unfinished_of_onHook {v : LegState} (hon : v.onHook = true) : v.unfinished = true := by
  revert hon
  cases v <;> decide

theorem settled_of (hhook : l.state.onHook = false) (hno : ¬Stoppable l) : l.state.unfinished = false := by
  unfold Stoppable at hno
  generalize l.state = v at *
  cases v <;> simp_all [LegState.unfinished, LegState.onHook]

/-- A leg that a stop leaves neither QUEUED, nor ASSIGNED, nor on a hook stays as it is. -/
theorem Stops.fixed (h : Stops l m) (hhook : l.state.onHook = false) (hno : ¬Stoppable l) : m = l := by
  rcases h with h | ⟨hon, -⟩ | ⟨hst, -⟩
  · exact h
  · rw [hhook] at hon
    cases hon
  · exact (hno hst).elim

theorem Stops.trans (a b c : Leg) (hab : Stops a b) (hbc : Stops b c) : Stops a c := by
  rcases hab with rfl | ⟨hon, rfl⟩ | ⟨hst, hb, hcrane⟩
  · exact hbc
  · rcases hbc with rfl | ⟨-, rfl⟩ | ⟨hst, -⟩
    · exact .inr (.inl ⟨hon, rfl⟩)
    · exact .inr (.inl ⟨hon, rfl⟩)
    · exact (not_stoppable_onHook (l := { a with ending := true }) hon hst).elim
  · have hstate : b.state = .cancelled := by rw [hb]
    obtain rfl := hbc.fixed (by rw [hstate]; rfl) (by rw [Stoppable, hstate]; simp)
    exact .inr (.inr ⟨hst, hb, hcrane⟩)

theorem Settles.trans (a b c : Batch) (hab : Settles a b) (hbc : Settles b c) : Settles a c := by
  rcases hab with rfl | ⟨hcom, hst, hb⟩
  · exact hbc
  · rcases hbc with rfl | ⟨hcom', -⟩
    · exact .inr ⟨hcom, hst, hb⟩
    · rw [hcom'] at hst
      rcases hst with h | h <;> cases h

/-- What stays of a leg whatever a stop does to it. -/
theorem Stops.keeps (h : Stops l m) : m.batch = l.batch ∧ m.kind = l.kind ∧ m.state.onHook = l.state.onHook
    ∧ (m.state.unfinished = true → l.state.unfinished = true) ∧ (Stoppable m → m = l) := by
  rcases h with rfl | ⟨hon, rfl⟩ | ⟨hst, hm, -⟩
  · exact ⟨rfl, rfl, rfl, id, fun _ => rfl⟩
  · exact ⟨rfl, rfl, rfl, id, fun hst => (not_stoppable_onHook (l := { l with ending := true }) hon hst).elim⟩
  · rw [hm]
    refine ⟨rfl, rfl, ?_, nofun, fun h => (by rcases h with h | h <;> cases h)⟩
    rcases hst with h | h <;> rw [h] <;> rfl

theorem Settles.keeps {c : Batch} (h : Settles b c) : c.legs = b.legs ∧ c.origin = b.origin
    ∧ (b.state ≠ .committed → c = b) := by
  rcases h with rfl | ⟨hcom, -, hc⟩
  · exact ⟨rfl, rfl, fun _ => rfl⟩
  · rw [hc]
    exact ⟨rfl, rfl, fun hno => (hno hcom).elim⟩

theorem afterStop_stops (p : Nat) (l : Leg) : Stops l (l.afterStop p) := by
  unfold Leg.afterStop
  split
  next hq => exact .inr (.inr ⟨.inl hq.1, rfl, fun h => by simpa [hq.1] using h⟩)
  · split
    next hon => exact .inr (.inl ⟨hon, rfl⟩)
    · exact .inl rfl

theorem overLegs_evolves {f : Leg → Leg} (hf : ∀ l, Stops l (f l)) (legs : List Handle) :
    ∀ s : State, Evolves Stops s.legs (s.overLegs f legs).legs := by
  induction legs with
  | nil => exact fun s => .refl Stops.refl
  | cons g gs ih => exact fun s => (Evolves.modify Stops.refl fun r _ => hf r).trans Stops.trans (ih (s.modifyLeg g f))

theorem settleBatch_evolves (hb : Handle) : Evolves Settles s.batches (s.settleBatch hb).batches := by
  unfold State.settleBatch
  rcases hx : s.batch? hb with _ | b
  · exact .refl Settles.refl
  · dsimp only
    split
    next hcom =>
      refine Evolves.modify Settles.refl fun r hr => ?_
      obtain rfl : b = r := Option.some.inj (hx.symm.trans hr)
      exact .inr ⟨hcom.1, by dsimp only; split <;> simp, rfl⟩
    · exact .refl Settles.refl

/-! ## A state in which legs were stopped -/

/-- Legs were stopped, and their batches settled. -/
structure Calms (s t : State) : Prop where
  legs : Evolves Stops s.legs t.legs
  batches : Evolves Settles s.batches t.batches

theorem Calms.refl : Calms s s := ⟨.refl Stops.refl, .refl Settles.refl⟩

theorem Calms.trans (h : Calms s t) (k : Calms t u) : Calms s u :=
  ⟨h.legs.trans Stops.trans k.legs, h.batches.trans Settles.trans k.batches⟩

theorem stopLeg_calms (hl : s.leg? h = some l) (hst : Stoppable l) : Calms s (s.stopLeg h .cancelled) := by
  have hgo := letGo_frame (s := s) h l
  have hput : Evolves Stops s.legs ((s.letGo h l).putLegState h .cancelled).legs := by
    rw [State.putLegState, State.modifyLeg, hgo .legs (by decide)]
    refine Evolves.modify Stops.refl fun r hr => ?_
    obtain rfl : l = r := Option.some.inj (hl.symm.trans hr)
    exact .inr (.inr ⟨hst, rfl, fun _ => rfl⟩)
  have hbatches : ((s.letGo h l).putLegState h .cancelled).batches = s.batches := hgo .batches (by decide)
  unfold State.stopLeg
  simp only [hl]
  split
  · exact ⟨hput, by rw [hbatches]; exact .refl Settles.refl⟩
  next b _ =>
    have hover := overLegs_evolves (afterStop_stops l.position) b.legs ((s.letGo h l).putLegState h .cancelled)
    have hkept := overLegs_frame (s := (s.letGo h l).putLegState h .cancelled) (Leg.afterStop l.position) b.legs
    generalize ((s.letGo h l).putLegState h .cancelled).overLegs (Leg.afterStop l.position) b.legs = u at *
    refine ⟨?_, ?_⟩
    · rw [settleBatch_frame (s := u) l.batch .legs (by decide)]
      exact hput.trans Stops.trans hover
    · rw [← hbatches, ← hkept .batches (by decide)]
      exact settleBatch_evolves l.batch

theorem Calms.leg? (h : Calms s t) (hl : s.leg? g = some l) : ∃ m, t.leg? g = some m ∧ Stops l m := h.legs.find hl

theorem Calms.was (h : Calms s t) (hm : t.leg? g = some l) : ∃ k, s.leg? g = some k ∧ Stops k l := h.legs.origin hm

/-- A leg entry that was free to take still is. -/
theorem Calms.freeLegs (h : Calms s t) (hfree : 1 ≤ s.freeLegs) : 1 ≤ t.freeLegs := by
  obtain ⟨i, e, he, hok⟩ := count_pos.1 hfree
  obtain ⟨d, hd, -, hrel⟩ := h.legs i e he
  refine count_pos.2 ⟨i, d, hd, (legEntryFree_iff d).2 fun m hm => ?_⟩
  rw [hm] at hrel
  generalize hl : e.record = o at hrel
  cases hrel with
  | some hstops =>
    next l =>
      obtain ⟨hsettled, hbatch⟩ := (legEntryFree_iff e).1 hok l hl
      have hno : ¬Stoppable l := by rintro (h | h) <;> rw [h] at hsettled <;> cases hsettled
      have hoff : l.state.onHook = false := Bool.eq_false_iff.2 fun hon => by
        rw [unfinished_of_onHook hon] at hsettled
        cases hsettled
      obtain rfl := hstops.fixed hoff hno
      refine ⟨hsettled, fun c hc => ?_⟩
      obtain ⟨b, hb, hset⟩ := h.batches.origin hc
      obtain ⟨hopen, hcom⟩ := hbatch b hb
      rw [hset.keeps.2.2 hcom]
      exact ⟨hopen, hcom⟩

theorem Calms.hasFreeBatch (h : Calms s t) (hfree : s.hasFreeBatch = true) : t.hasFreeBatch = true := by
  obtain ⟨i, e, he, hok⟩ := firstIdx_isSome.1 hfree
  obtain ⟨d, hd, -, hrel⟩ := h.batches i e he
  refine firstIdx_isSome.2 ⟨i, d, hd, (batchEntryFree_iff d).2 fun c hc => ?_⟩
  rw [hc] at hrel
  generalize hb : e.record = o at hrel
  cases hrel with
  | some hset =>
    have hno := (batchEntryFree_iff e).1 hok _ hb
    rw [hset.keeps.2.2 hno.2]
    exact hno

theorem Calms.batchLegs (h : Calms s t) (o : Option Handle) : t.batchLegs o = s.batchLegs o := by
  unfold State.batchLegs
  rcases o with _ | fb
  · rfl
  · dsimp only
    rcases hb : s.batch? fb with _ | b
    · rcases hc : t.batch? fb with _ | c
      · rfl
      · obtain ⟨b, hb', -⟩ := h.batches.origin hc
        exact absurd (hb.symm.trans hb') nofun
    · obtain ⟨c, hc, hset⟩ := h.batches.find hb
      have hc' : t.batch? fb = some c := hc
      rw [hc']
      exact hset.keeps.1

theorem Calms.carryingOnHook (h : Calms s t) (j : Job) : t.carryingOnHook j = s.carryingOnHook j := by
  unfold State.carryingOnHook
  rw [h.batchLegs]
  refine congrArg (s.batchLegs j.fetchBatch).any (funext fun g => ?_)
  rcases hl : s.leg? g with _ | l
  · rcases hm : t.leg? g with _ | m
    · rfl
    · obtain ⟨l, hl', -⟩ := h.was hm
      exact absurd (hl.symm.trans hl') nofun
  · obtain ⟨m, hm, hstops⟩ := h.leg? hl
    obtain ⟨-, hkind, hhook, -⟩ := hstops.keeps
    rw [hm]
    simp only [Leg.carries, hkind, hhook]

/-! ## The legs of a list, one after another -/

theorem cancelFetch_skip (hno : ∀ l, s.leg? e = some l → ¬Stoppable l) :
    s.cancelFetch (e :: rest) = s.cancelFetch rest := by
  unfold State.cancelFetch
  rw [List.foldl_cons]
  rcases hl : s.leg? e with _ | l
  · rfl
  · dsimp only
    rw [if_neg (hno l hl)]

theorem cancelFetch_stop (hl : s.leg? e = some l) (hst : Stoppable l) :
    s.cancelFetch (e :: rest) = (s.stopLeg e .cancelled).cancelFetch rest := by
  unfold State.cancelFetch
  rw [List.foldl_cons, hl]
  dsimp only
  rw [if_pos hst]

/-- A statement about the cancellation of a list follows from its three cases. -/
theorem cancelFetch_cases {P : List Handle → State → State → Prop} (hnil : ∀ s, P [] s s)
    (hskip : ∀ e rest s t, (∀ l, s.leg? e = some l → ¬Stoppable l) → P rest s t → P (e :: rest) s t)
    (hstop : ∀ e rest s t l, s.leg? e = some l → Stoppable l → P rest (s.stopLeg e .cancelled) t → P (e :: rest) s t)
    (rest : List Handle) : ∀ s : State, P rest s (s.cancelFetch rest) := by
  induction rest with
  | nil => exact hnil
  | cons e rest ih =>
    intro s
    by_cases hex : ∃ l, s.leg? e = some l ∧ Stoppable l
    · obtain ⟨l, hl, hst⟩ := hex
      rw [cancelFetch_stop hl hst]
      exact hstop e rest s _ l hl hst (ih _)
    · have hno : ∀ l, s.leg? e = some l → ¬Stoppable l := fun l hl hst => hex ⟨l, hl, hst⟩
      rw [cancelFetch_skip hno]
      exact hskip e rest s _ hno (ih s)

theorem cancelFetch_calms (rest : List Handle) (s : State) : Calms s (s.cancelFetch rest) :=
  cancelFetch_cases (P := fun _ => Calms) (fun _ => .refl) (fun _ _ _ _ _ h => h)
    (fun _ _ _ _ _ hl hst h => (stopLeg_calms hl hst).trans h) rest s

theorem cancelFetch_own (rest : List Handle) (s : State) :
    OnlyChanges [.slots, .cart, .plates, .cranes, .legs, .batches] s (s.cancelFetch rest) :=
  cancelFetch_cases (P := fun _ => OnlyChanges [.slots, .cart, .plates, .cranes, .legs, .batches]) (fun _ => .refl)
    (fun _ _ _ _ _ h => h) (fun _ _ _ _ _ _ _ h => stopLeg_own.trans h) rest s

theorem cancelFetch_idle (hno : ∀ e ∈ rest, ∀ l, s.leg? e = some l → ¬Stoppable l) : s.cancelFetch rest = s := by
  induction rest with
  | nil => rfl
  | cons e rest ih =>
    obtain ⟨he, hrest⟩ := List.forall_mem_cons.1 hno
    rw [cancelFetch_skip he, ih hrest]

/-- A leg whose batch is no longer there stops alone. -/
theorem stopLeg_alone (hl : s.leg? h = some l) (hb : s.batch? l.batch = none) :
    s.stopLeg h .cancelled = (s.letGo h l).putLegState h .cancelled := by
  have hnone : ((s.letGo h l).putLegState h .cancelled).batch? l.batch = none :=
    (batch?_of_kept (letGo_frame (s := s) h l .batches (by decide))).trans hb
  unfold State.stopLeg
  simp only [hl, hnone]

/-- A leg that is stopped is CANCELLED. -/
theorem stopLeg_cancelled (hl : s.leg? h = some l) :
    ∃ m, (s.stopLeg h .cancelled).leg? h = some m ∧ ¬Stoppable m := by
  rcases hb : s.batch? l.batch with _ | b
  · rw [stopLeg_alone hl hb, Ends.letGo_putLegState_leg? hl, if_pos rfl]
    exact ⟨_, rfl, by rintro (h | h) <;> cases h⟩
  · obtain ⟨hself, -⟩ := stopLeg_reads (how := .cancelled) hl hb (.inl rfl)
    exact ⟨_, hself, by rintro (h | h) <;> cases h⟩

/-- No leg of the list is QUEUED or ASSIGNED afterwards. -/
theorem cancelFetch_stopped (rest : List Handle) (s : State) :
    ∀ g ∈ rest, ∀ m, (s.cancelFetch rest).leg? g = some m → ¬Stoppable m := by
  induction rest generalizing s with
  | nil => exact fun _ hg => (List.not_mem_nil hg).elim
  | cons e rest ih =>
    intro g hg m hm
    by_cases hex : ∃ l, s.leg? e = some l ∧ Stoppable l
    · obtain ⟨l, hl, hst⟩ := hex
      rw [cancelFetch_stop hl hst] at hm
      rcases List.mem_cons.1 hg with rfl | hg
      · obtain ⟨k, hk, hdone⟩ := stopLeg_cancelled hl
        obtain ⟨k', hk', hstops⟩ := (cancelFetch_calms rest _).was hm
        obtain rfl : k = k' := Option.some.inj (hk.symm.trans hk')
        exact fun h => hdone (hstops.keeps.2.2.2.2 h ▸ h)
      · exact ih _ g hg m hm
    · have hno : ∀ l, s.leg? e = some l → ¬Stoppable l := fun l hl hst => hex ⟨l, hl, hst⟩
      rw [cancelFetch_skip hno] at hm
      rcases List.mem_cons.1 hg with rfl | hg
      · obtain ⟨k, hk, hstops⟩ := (cancelFetch_calms rest _).was hm
        exact fun h => hno k hk (hstops.keeps.2.2.2.2 h ▸ h)
      · exact ih _ g hg m hm

/-! ## One stop, as the other legs see it -/

/-- Another leg is as it was, or as the stop in its batch leaves it. -/
theorem stopLeg_other (hne : g ≠ h) : (s.stopLeg h .cancelled).leg? g = s.leg? g
    ∨ ∃ p, (s.stopLeg h .cancelled).leg? g = (s.leg? g).map (Leg.afterStop p) := by
  rcases hl : s.leg? h with _ | l
  · exact .inl (by simp only [State.stopLeg, hl])
  · rcases hb : s.batch? l.batch with _ | b
    · exact .inl (by rw [stopLeg_alone hl hb, Ends.letGo_putLegState_leg? hl, if_neg hne.symm])
    · obtain ⟨-, hothers, -⟩ := stopLeg_reads (how := .cancelled) hl hb (.inl rfl)
      have hg := hothers g hne
      split at hg
      · exact .inr ⟨l.position, hg⟩
      · exact .inl hg

theorem afterStop_assigned (p : Nat) (hl : l.state = .assigned) : l.afterStop p = l := by
  simp [Leg.afterStop, hl, LegState.onHook]

theorem afterStop_onHook (p : Nat) (hl : l.state.onHook = true) : l.afterStop p = { l with ending := true } := by
  have hq : l.state ≠ .queued := fun h => not_stoppable_onHook hl (.inl h)
  simp [Leg.afterStop, hq, hl]

/-- Stopping a leg does, beyond letting it go, only what concerns legs and batches. -/
theorem stopLeg_rest (hl : s.leg? h = some l) :
    OnlyChanges [.legs, .batches] (s.letGo h l) (s.stopLeg h .cancelled) := by
  have hput : OnlyChanges [.legs, .batches] (s.letGo h l) ((s.letGo h l).putLegState h .cancelled) :=
    (putLegState_frame h _).mono (by decide)
  unfold State.stopLeg
  simp only [hl]
  split
  · exact hput
  · exact (hput.trans ((overLegs_frame _ _).mono (by decide))).trans ((settleBatch_frame _).mono (by decide))

/-! ## The fetch batch of the list -/

/-- The list's legs name this batch. -/
abbrev OfBatch (s : State) (rest : List Handle) (fb : Handle) : Prop :=
    ∀ e ∈ rest, ∀ l, s.leg? e = some l → l.batch = fb

theorem OfBatch.stop (h : OfBatch s rest fb) (hcalm : Calms s t) : OfBatch t rest fb := by
  intro e he m hm
  obtain ⟨l, hl, hstops⟩ := hcalm.was hm
  exact hstops.keeps.1.trans (h e he l hl)

/-- Where a leg of the list is stopped, those of its batch on a hook are marked to end. -/
theorem cancelFetch_ending (hb : s.batch? fb = some x) (hown : OfBatch s rest fb)
    (hex : ∃ e ∈ rest, ∃ k, s.leg? e = some k ∧ Stoppable k) (hg : g ∈ x.legs) (hl : s.leg? g = some l)
    (hon : l.state.onHook = true) : (s.cancelFetch rest).leg? g = some { l with ending := true } := by
  induction rest with
  | nil =>
    obtain ⟨e, he, -⟩ := hex
    exact (List.not_mem_nil he).elim
  | cons e rest ih =>
    have ⟨hfirst, (hrest : OfBatch s rest fb)⟩ := List.forall_mem_cons.1 hown
    by_cases hst : ∃ k, s.leg? e = some k ∧ Stoppable k
    · obtain ⟨k, hk, hst⟩ := hst
      have hne : g ≠ e := by
        rintro rfl
        obtain rfl : l = k := Option.some.inj (hl.symm.trans hk)
        exact not_stoppable_onHook hon hst
      obtain ⟨-, hothers, -⟩ := stopLeg_reads (how := .cancelled) hk (by rw [hfirst k hk]; exact hb) (.inl rfl)
      have hmarked : (s.stopLeg e .cancelled).leg? g = some { l with ending := true } := by
        rw [hothers g hne, if_pos hg, hl, Option.map_some, afterStop_onHook _ hon]
      rw [cancelFetch_stop hk hst]
      obtain ⟨m, hm, hstops⟩ := (cancelFetch_calms rest _).leg? hmarked
      rcases hstops with rfl | ⟨-, rfl⟩ | ⟨hst, -⟩
      · exact hm
      · exact hm
      · exact (not_stoppable_onHook (l := { l with ending := true }) hon hst).elim
    · have hno : ∀ k, s.leg? e = some k → ¬Stoppable k := fun k hk h => hst ⟨k, hk, h⟩
      rw [cancelFetch_skip hno]
      refine ih hrest ?_
      obtain ⟨e', he', k, hk, hst'⟩ := hex
      rcases List.mem_cons.1 he' with rfl | he'
      · exact (hst ⟨k, hk, hst'⟩).elim
      · exact ⟨e', he', k, hk, hst'⟩

theorem allSettled_of (legs : List Handle) : s.allSettled legs = true ↔
    ∀ g ∈ legs, ∀ l, s.leg? g = some l → l.state.unfinished = false := by
  unfold State.allSettled
  rw [List.all_eq_true]
  refine forall_congr' fun g => forall_congr' fun _ => ?_
  rcases s.leg? g with _ | l <;> simp

/-- With a leg left unfinished, the batch stays when another leg of it stops. -/
theorem stopLeg_batch_stays {k : Leg} (hb : s.batch? fb = some x) (hk : s.leg? e = some k) (hfb : k.batch = fb)
    (hg : g ∈ x.legs)
    (hm : (s.stopLeg e .cancelled).leg? g = some m) (hun : m.state.unfinished = true) :
    (s.stopLeg e .cancelled).batch? fb = some x := by
  subst hfb
  obtain ⟨-, -, -, hself, -⟩ := stopLeg_reads (how := .cancelled) hk hb (.inl rfl)
  refine hself.trans (congrArg some (if_neg fun h => ?_))
  have hdone := (allSettled_of _).1 h.2 g hg m hm
  rw [hun] at hdone
  cases hdone

/-- A batch with a leg on a hook stays. -/
theorem cancelFetch_batch_hooked (hb : s.batch? fb = some x) (hown : OfBatch s rest fb) (hg : g ∈ x.legs)
    (hl : s.leg? g = some l) (hon : l.state.onHook = true) : (s.cancelFetch rest).batch? fb = some x := by
  induction rest generalizing s l with
  | nil => exact hb
  | cons e rest ih =>
    have ⟨hfirst, (hrest : OfBatch s rest fb)⟩ := List.forall_mem_cons.1 hown
    by_cases hst : ∃ k, s.leg? e = some k ∧ Stoppable k
    · obtain ⟨k, hk, hst⟩ := hst
      have hcalm := stopLeg_calms hk hst
      obtain ⟨m, hm, hstops⟩ := hcalm.leg? hl
      have hon' : m.state.onHook = true := hstops.keeps.2.2.1.trans hon
      rw [cancelFetch_stop hk hst]
      exact ih (stopLeg_batch_stays hb hk (hfirst k hk) hg hm (unfinished_of_onHook hon')) (hrest.stop hcalm) hm hon'
    · rw [cancelFetch_skip fun k hk h => hst ⟨k, hk, h⟩]
      exact ih hb hrest hl hon

/-- A COMMITTED batch none of whose legs is on a hook is CANCELLED, if a leg of it was stopped. -/
theorem cancelFetch_batch_settled (hb : s.batch? fb = some x) (hcom : x.state = .committed) (hown : OfBatch s rest fb)
    (hex : ∃ e ∈ rest, ∃ k, s.leg? e = some k ∧ Stoppable k) (hin : ∀ e ∈ rest, e ∈ x.legs)
    (hall : ∀ g ∈ x.legs, ∀ l, s.leg? g = some l → Stoppable l → g ∈ rest)
    (hoff : ∀ g ∈ x.legs, ∀ l, s.leg? g = some l → l.state.onHook = false) :
    (s.cancelFetch rest).batch? fb = some { x with state := .cancelled } := by
  induction rest generalizing s with
  | nil =>
    obtain ⟨e, he, -⟩ := hex
    exact (List.not_mem_nil he).elim
  | cons e rest ih =>
    have ⟨hfirst, (hrest : OfBatch s rest fb)⟩ := List.forall_mem_cons.1 hown
    obtain ⟨hein, hin⟩ := List.forall_mem_cons.1 hin
    by_cases hst : ∃ k, s.leg? e = some k ∧ Stoppable k
    · obtain ⟨k, hk, hst⟩ := hst
      have hcalm := stopLeg_calms hk hst
      have hoff' : ∀ g ∈ x.legs, ∀ l, (s.stopLeg e .cancelled).leg? g = some l → l.state.onHook = false := by
        intro g hg m hm
        obtain ⟨l, hl, hstops⟩ := hcalm.was hm
        exact hstops.keeps.2.2.1.trans (hoff g hg l hl)
      have hall' : ∀ g ∈ x.legs, ∀ l, (s.stopLeg e .cancelled).leg? g = some l → Stoppable l → g ∈ rest := by
        intro g hg m hm hst'
        obtain ⟨l, hl, hstops⟩ := hcalm.was hm
        refine (List.mem_cons.1 (hall g hg l hl (hstops.keeps.2.2.2.2 hst' ▸ hst'))).resolve_left ?_
        rintro rfl
        obtain ⟨c, hc, hdone⟩ := stopLeg_cancelled hk
        exact hdone (Option.some.inj (hc.symm.trans hm) ▸ hst')
      rw [cancelFetch_stop hk hst]
      by_cases hmore : ∃ g ∈ rest, ∃ l, (s.stopLeg e .cancelled).leg? g = some l ∧ Stoppable l
      · obtain ⟨g, hg, l, hl, hst'⟩ := hmore
        have hun : l.state.unfinished = true := by rcases hst' with h | h <;> rw [h] <;> rfl
        exact ih (stopLeg_batch_stays hb hk (hfirst k hk) (hin g hg) hl hun) (hrest.stop hcalm) ⟨g, hg, l, hl, hst'⟩ hin
          hall' hoff'
      · rw [cancelFetch_idle fun g hg l hl h => hmore ⟨g, hg, l, hl, h⟩]
        obtain ⟨hself, -, -, hbatch, -⟩ := stopLeg_reads (how := .cancelled) hk (by rw [hfirst k hk]; exact hb)
          (.inl rfl)
        rw [hfirst k hk] at hbatch
        have hsettled : (s.stopLeg e .cancelled).allSettled x.legs = true := by
          refine (allSettled_of _).2 fun g hg l hl => ?_
          exact settled_of (hoff' g hg l hl) fun h => hmore ⟨g, hall' g hg l hl h, l, hl, h⟩
        have hnotDone : ¬(s.stopLeg e .cancelled).allDone x.legs = true := by
          unfold State.allDone
          rw [List.all_eq_true]
          intro h
          have hdone := h e hein
          rw [hself] at hdone
          cases hdone
        rw [hbatch, if_pos ⟨hcom, hsettled⟩, if_neg hnotDone]
    · have hno : ∀ k, s.leg? e = some k → ¬Stoppable k := fun k hk h => hst ⟨k, hk, h⟩
      rw [cancelFetch_skip hno]
      refine ih hb hrest ?_ hin (fun g hg l hl h => ?_) hoff
      · obtain ⟨e', he', k, hk, hst'⟩ := hex
        rcases List.mem_cons.1 he' with rfl | he'
        · exact (hno k hk hst').elim
        · exact ⟨e', he', k, hk, hst'⟩
      · refine (List.mem_cons.1 (hall g hg l hl h)).resolve_left ?_
        rintro rfl
        exact hno l hl h

/-- A batch that the list's legs do not name, and a leg outside the list's batch, stay. -/
theorem cancelFetch_batch_other (hown : OfBatch s rest fb) (hg : g ≠ fb) :
    (s.cancelFetch rest).batch? g = s.batch? g := by
  induction rest generalizing s with
  | nil => rfl
  | cons e rest ih =>
    have ⟨hfirst, (hrest : OfBatch s rest fb)⟩ := List.forall_mem_cons.1 hown
    by_cases hst : ∃ k, s.leg? e = some k ∧ Stoppable k
    · obtain ⟨k, hk, hst⟩ := hst
      rw [cancelFetch_stop hk hst, ih (hrest.stop (stopLeg_calms hk hst))]
      rcases hb : s.batch? k.batch with _ | b
      · rw [stopLeg_alone hk hb]
        exact batch?_of_kept (letGo_frame (s := s) e k .batches (by decide))
      · obtain ⟨-, -, hothers, -⟩ := stopLeg_reads (how := .cancelled) hk hb (.inl rfl)
        exact hothers g (by rw [hfirst k hk]; exact hg)
    · rw [cancelFetch_skip fun k hk h => hst ⟨k, hk, h⟩]
      exact ih hrest

theorem cancelFetch_leg_other (hown : OfBatch s rest fb) (hb : ∀ x, s.batch? fb = some x → g ∉ x.legs) (hg : g ∉ rest) :
    (s.cancelFetch rest).leg? g = s.leg? g := by
  induction rest generalizing s with
  | nil => rfl
  | cons e rest ih =>
    have ⟨hfirst, (hrest : OfBatch s rest fb)⟩ := List.forall_mem_cons.1 hown
    obtain ⟨hne, hg⟩ := not_or.1 (fun h => hg (List.mem_cons.2 h))
    by_cases hst : ∃ k, s.leg? e = some k ∧ Stoppable k
    · obtain ⟨k, hk, hst⟩ := hst
      have hcalm := stopLeg_calms hk hst
      rw [cancelFetch_stop hk hst, ih (hrest.stop hcalm) (fun y hy => ?_) hg]
      · rcases hx : s.batch? k.batch with _ | x
        · rw [stopLeg_alone hk hx, Ends.letGo_putLegState_leg? hk, if_neg (Ne.symm hne)]
        · obtain ⟨-, hothers, -⟩ := stopLeg_reads (how := .cancelled) hk hx (.inl rfl)
          rw [hothers g hne, if_neg (hb x (by rw [← hfirst k hk]; exact hx))]
      · obtain ⟨x, hx, hset⟩ := hcalm.batches.origin hy
        rw [hset.keeps.1]
        exact hb x hx
    · rw [cancelFetch_skip fun k hk h => hst ⟨k, hk, h⟩]
      exact ih hrest hb hg

/-! ## The crane and the place of an ASSIGNED leg -/

/-- Where no leg is ASSIGNED, no place, crane or plate is touched. -/
theorem cancelFetch_queued (hno : ∀ e ∈ rest, ∀ l, s.leg? e = some l → l.state ≠ .assigned) :
    OnlyChanges [.legs, .batches] s (s.cancelFetch rest) := by
  induction rest generalizing s with
  | nil => exact .refl
  | cons e rest ih =>
    obtain ⟨hfirst, hrest⟩ := List.forall_mem_cons.1 hno
    by_cases hst : ∃ k, s.leg? e = some k ∧ Stoppable k
    · obtain ⟨k, hk, hst⟩ := hst
      have hcalm := stopLeg_calms hk hst
      rw [cancelFetch_stop hk hst]
      refine (stopLeg_queued hk (hst.resolve_right (hfirst k hk))).trans (ih fun g hg m hm hassigned => ?_)
      obtain ⟨l, hl, hstops⟩ := hcalm.was hm
      exact hrest g hg l hl (hstops.keeps.2.2.2.2 (.inr hassigned) ▸ hassigned)
    · rw [cancelFetch_skip fun k hk h => hst ⟨k, hk, h⟩]
      exact ih hrest

/-- The one ASSIGNED leg of the list is let go, and beside that no place, crane or plate is touched. -/
theorem cancelFetch_assigned (hg : g ∈ rest) (hl : s.leg? g = some l) (hassigned : l.state = .assigned)
    (hothers : ∀ e ∈ rest, e ≠ g → ∀ k, s.leg? e = some k → k.state ≠ .assigned) :
    ∃ v, OnlyChanges [.legs, .batches] s v ∧ OnlyChanges [.legs, .batches] (v.letGo g l) (s.cancelFetch rest) := by
  induction rest generalizing s with
  | nil => exact (List.not_mem_nil hg).elim
  | cons e rest ih =>
    obtain ⟨hfirst, hrest⟩ := List.forall_mem_cons.1 hothers
    by_cases hst : ∃ k, s.leg? e = some k ∧ Stoppable k
    · obtain ⟨k, hk, hst⟩ := hst
      have hcalm := stopLeg_calms hk hst
      have hrest' : ∀ y ∈ rest, y ≠ g → ∀ m, (s.stopLeg e .cancelled).leg? y = some m → m.state ≠ .assigned := by
        intro y hy hne m hm hassigned
        obtain ⟨k, hk, hstops⟩ := hcalm.was hm
        exact hrest y hy hne k hk (hstops.keeps.2.2.2.2 (.inr hassigned) ▸ hassigned)
      rw [cancelFetch_stop hk hst]
      by_cases he : e = g
      · subst he
        obtain rfl : l = k := Option.some.inj (hl.symm.trans hk)
        refine ⟨s, .refl, (stopLeg_rest hl).trans (cancelFetch_queued fun y hy m hm hassigned => ?_)⟩
        by_cases hy' : y = e
        · subst hy'
          obtain ⟨c, hc, hdone⟩ := stopLeg_cancelled hl
          exact hdone (Option.some.inj (hc.symm.trans hm) ▸ .inr hassigned)
        · exact hrest' y hy hy' m hm hassigned
      · have hstays : (s.stopLeg e .cancelled).leg? g = some l := by
          rcases stopLeg_other (s := s) (Ne.symm he) with h | ⟨p, h⟩
          · exact h.trans hl
          · rw [h, hl, Option.map_some, afterStop_assigned p hassigned]
        obtain ⟨v, hv, hgo⟩ := ih ((List.mem_cons.1 hg).resolve_left (Ne.symm he)) hstays hrest'
        exact ⟨v, (stopLeg_queued hk (hst.resolve_right (hfirst he k hk))).trans hv, hgo⟩
    · have hno : ∀ k, s.leg? e = some k → ¬Stoppable k := fun k hk h => hst ⟨k, hk, h⟩
      rw [cancelFetch_skip hno]
      refine ih ((List.mem_cons.1 hg).resolve_left ?_) hl hrest
      rintro rfl
      exact hno l hl (.inr hassigned)

/-- What a leg in hand lets go, whether or not it has a crane. -/
theorem letGo_places (hhand : l.state.inHand = true) : Drops s (s.letGo h l) h l.target
    ∧ ∀ g, (s.letGo h l).plate? g = if l.plate = some g then (s.plate? g).map ({ · with leg := none })
      else s.plate? g := by
  rcases hc : l.crane with _ | c
  · have hdef : s.letGo h l = match l.plate with
        | some p => (s.dropIncoming h l.target).uncarry p
        | none => s.dropIncoming h l.target := by
      unfold State.letGo
      rw [if_pos hhand]
      simp only [hc] <;> rfl
    have hplates (g : Handle) : (s.dropIncoming h l.target).plate? g = s.plate? g :=
      congrArg (·.find g) (dropIncoming_frame (s := s) h l.target .plates (by decide))
    have hdrops := dropIncoming_drops (s := s) h l.target
    rw [hdef]
    rcases l.plate with _ | p
    · exact ⟨hdrops, fun g => by simp [hplates]⟩
    · exact ⟨hdrops, fun g => by simp [State.uncarry, modifyPlate_plate?, hplates]⟩
  · obtain ⟨hdrops, -, hplates⟩ := letGo_letsGo (s := s) (h := h) hhand hc
    exact ⟨hdrops, hplates⟩

/-- At most the carrying leg of a plate goes. -/
def Uncarried (r q : PlateRec) : Prop := q = { r with leg := q.leg }

theorem Uncarried.trans (p q r : PlateRec) (hpq : Uncarried p q) (hqr : Uncarried q r) : Uncarried p r := by
  rw [Uncarried] at *
  rw [hqr, hpq]

theorem letGo_uncarries (s : State) (h : Handle) (l : Leg) : Evolves Uncarried s.plates (s.letGo h l).plates := by
  have hdrop : (s.dropIncoming h l.target).plates = s.plates := dropIncoming_frame h l.target .plates (by decide)
  have huncarry : Evolves Uncarried s.plates (match l.plate with
      | some p => (s.dropIncoming h l.target).uncarry p
      | none => s.dropIncoming h l.target).plates := by
    rcases l.plate with _ | p
    · dsimp only
      rw [hdrop]
      exact .refl fun _ => rfl
    · dsimp only
      rw [State.uncarry, State.modifyPlate, hdrop]
      exact .modify (fun _ => rfl) fun _ _ => rfl
  unfold State.letGo
  split
  · dsimp only
    split
    · rw [freeCrane_frame _ .plates (by decide)]
      exact huncarry
    · exact huncarry
  · exact .refl fun _ => rfl

theorem cancelFetch_uncarries (rest : List Handle) (s : State) :
    Evolves Uncarried s.plates (s.cancelFetch rest).plates :=
  cancelFetch_cases (P := fun _ s t => Evolves Uncarried s.plates t.plates) (fun _ => .refl fun _ => rfl)
    (fun _ _ _ _ _ h => h) (fun e _ s _ l hl _ h => by
      refine Evolves.trans Uncarried.trans ?_ h
      rw [stopLeg_rest hl .plates (by decide)]
      exact letGo_uncarries s e l) rest s

end Sys2Proof.Proofs.Cancels
end

section
/-! PROOFS. The abort of a job that has not pierced (R93, R94), step by step. -/

namespace Sys2Proof.Proofs.Aborts

open Sys2Proof Sys2Proof.Machine
open Sys2Proof.Proofs.Pallets (askerOf)
open Sys2Proof.Proofs.Requests Sys2Proof.Proofs.Makes Sys2Proof.Proofs.Promotes Sys2Proof.Proofs.Cancels
open Sys2Proof.Proofs.Burn (clearJob_reads)
open Sys2Proof.Proofs.Ends (Drops letGo_letsGo freed_congr)
open Sys2Proof.Proofs.Returns (lands_of_drops lands_nothing)
open Sys2Proof.Proofs.JobEnds (mem_batchLegs opened_batch? active_iff)
open Sys2Proof.Proofs.Power (carryingOnHook_iff returnable_iff noRoom_iff torch_iff live_iff)

variable {s t u a w v c d : State} {h g hb fb : Handle} {j jc : Job} {l m : Leg} {b x y : Batch} {tbl bd : Nat}
  {hook back active : Bool}

/-! ## Handles of records whose entry another took -/

section Pools

variable {α : Type} {n : Nat} {ok : Entry α → Bool} {rs : List α} {p q : Pool α n} {hs : List Handle} {r r' : α}

/-- A handle that names a record before and after others are made names the same one. -/
theorem made_names (hmade : Made ok rs p q hs) (hr : p.find g = some r) (hr' : q.find g = some r') : r' = r := by
  by_cases hex : ∃ k ∈ hs, k.idx = g.idx
  · obtain ⟨k, hk, hidx⟩ := hex
    obtain ⟨-, htaken, -⟩ := hmade.lowest
    obtain ⟨e, he, -, hgen⟩ := htaken k hk
    obtain ⟨i, hi⟩ := List.mem_iff_getElem?.1 hk
    obtain ⟨z, hz⟩ : ∃ z, rs[i]? = some z := by
      obtain ⟨hlt, -⟩ := List.getElem?_eq_some_iff.1 hi
      exact ⟨_, List.getElem?_eq_getElem (hmade.length ▸ hlt)⟩
    have hnew := Pool.find_eq_some.1 (hmade.records i k z hi hz)
    have hold := Pool.find_eq_some.1 hr'
    rw [hidx, Pool.find_eq_some.1 hr] at he
    cases he
    rw [hidx, hold] at hnew
    have hsame : g.gen = k.gen := congrArg Entry.gen (Option.some.inj hnew)
    simp at hgen
    omega
  · have hsame := find_of_get? (hmade.entries g.idx fun k hk hidx => hex ⟨k, hk, hidx⟩)
    exact Option.some.inj ((hr'.symm.trans hsame).trans hr)

end Pools

theorem opened_names_leg {legs : List Leg} (ho : Opened s t b legs hb) (hl : s.leg? g = some l)
    (hm : t.leg? g = some m) :
    m = l := made_names ho.made hl hm

theorem opened_names_batch {legs : List Leg} (ho : Opened s t b legs hb) (hx : s.batch? g = some x)
    (hy : t.batch? g = some y) : y = x := by
  obtain ⟨⟨-, htaken, -⟩, -, hothers, -⟩ := ho.takes
  by_cases hidx : g.idx = hb.idx
  · obtain ⟨e, he, -, hgen⟩ := htaken hb List.mem_cons_self
    have hnew := Pool.find_eq_some.1 hy
    rw [← hidx, Pool.find_eq_some.1 hx] at he
    cases he
    rw [hidx, ho.batch] at hnew
    have hsame : hb.gen = g.gen := congrArg Entry.gen (Option.some.inj hnew)
    simp at hgen
    omega
  · exact Option.some.inj ((hy.symm.trans (find_of_get? (hothers _ hidx))).trans hx)

/-! ## The job is finished by where its plate is (R93, step 6; R94) -/

/-- An unpierced job that ends. -/
abbrev endedUnpierced (hb : Option Handle) (j : Job) : Job :=
  { j with state := .ended, verdict := some .aborted, role := none, clearBatch := hb }

/-- The RETURN leg as it is made. -/
abbrev returning (tbl : Nat) (plate : Handle) (hb : Handle) : Leg :=
    { returnLeg tbl plate with batch := hb, position := 0 }

/-- A return batch stands for the job. -/
abbrev Returning (h : Handle) (j jc : Job) (tbl : Nat) (hook : Bool) (c d : State) (hb : Handle) (b : Batch)
    (g : Handle) :
    Prop :=
  d.job? h = some (endedUnpierced (some hb) jc) ∧ d.batch? hb = some b ∧ b.origin = .job h ∧ b.legs = [g]
    ∧ (hook = true → b.state = .opened) ∧ (hook = false → b.state = .committed ∧ b.seq = some c.commitCounter)
    ∧ d.leg? g = some (returning tbl j.plate hb)

/-- What the finish leaves: the job ENDED with a return batch, or CLEARED and its scrapped parts retired. -/
structure Finished (h : Handle) (j jc : Job) (tbl : Nat) (hook back : Bool) (c d : State) : Prop where
  cleared : hook = false → back = false →
    d.job? h = some { jc with state := .cleared, role := none, verdict := some .aborted }
  returns : hook = true ∨ back = true → ∃ hb b g, Returning h j jc tbl hook c d hb b g
  parts : ∀ g p, c.part? g = some p → d.part? g =
    if (hook = false ∧ back = false) ∧ g ∈ jc.parts ∧ p.cut = .scrapped then none else some p
  jobs : ∀ g, g ≠ h → d.job? g = c.job? g
  legs : ∀ g l m, c.leg? g = some l → d.leg? g = some m → m = l
  unfinished : ∀ g l, c.leg? g = some l → l.state.unfinished = true → d.leg? g = some l
  batches : ∀ g x y, c.batch? g = some x → d.batch? g = some y → y = x
  live : ∀ g x, c.batch? g = some x → x.state = .committed → d.batch? g = some x
  outside : ∀ o g l, c.leg? g = some l → l.state.unfinished = true → g ∈ d.batchLegs o → g ∈ c.batchLegs o
  own : OnlyChanges finishFields c d

theorem endUnpierced_job? (o : Option Handle) (g : Handle) :
    (s.endUnpierced h o).job? g = if h = g then (s.job? g).map (endedUnpierced o) else s.job? g := modifyJob_job? _

/-- With the return batch made, the job ENDED with it. -/
theorem finished_of_opened (hjob : c.job? h = some jc) (hany : hook = true ∨ back = true) {hs : List Handle}
    {seq : Option Nat} {v : BatchState} (ho : Opened c w ⟨.job h, hs, v, seq⟩ [returnLeg tbl j.plate] hb)
    (hopen : hook = true → v = .opened) (hcom : hook = false → v = .committed ∧ seq = some c.commitCounter)
    (hown : OnlyChanges [.legs, .batches, .commitCounter] c w) :
    Finished h j jc tbl hook back c (w.endUnpierced h (some hb)) := by
  have hend := endUnpierced_frame (s := w) h (some hb)
  have hjobs (g : Handle) : w.job? g = c.job? g := job?_of_kept (hown .jobs (by decide))
  have hleg (g : Handle) : (w.endUnpierced h (some hb)).leg? g = w.leg? g := leg?_of_kept (hend .legs (by decide))
  have hbatch (g : Handle) : (w.endUnpierced h (some hb)).batch? g = w.batch? g :=
    batch?_of_kept (hend .batches (by decide))
  have hno : ¬(hook = false ∧ back = false) := by
    rintro ⟨rfl, rfl⟩
    rcases hany with h | h <;> cases h
  obtain ⟨g, rfl⟩ : ∃ g, hs = [g] := List.length_eq_one_iff.1 (ho.made.length.trans (placed_length 0 _))
  refine ⟨fun hh hb => (hno ⟨hh, hb⟩).elim, fun _ => ⟨hb, _, g, ?_, (hbatch hb).trans ho.batch?, rfl, rfl, hopen, hcom,
    (hleg g).trans (ho.leg? (j := 0) rfl rfl)⟩, fun g p hp => ?_, fun g hg => ?_, fun g l m hl hm => ?_,
    fun g l hl hun => (hleg g).trans (ho.keeps_leg hl hun), fun g x y hx hy => ?_, fun g x hx hcom => ?_,
    fun o g l hl hun hg => ?_, (hown.mono (by decide)).trans (hend.mono (by decide))⟩
  · rw [endUnpierced_job?, if_pos rfl, hjobs, hjob]
    rfl
  · rw [if_neg fun h => hno h.1, ← hp]
    exact congrArg (·.find g) ((hend .parts (by decide)).trans (hown .parts (by decide)))
  · rw [endUnpierced_job?, if_neg hg.symm, hjobs]
  · exact opened_names_leg ho hl ((hleg g).symm.trans hm)
  · exact opened_names_batch ho hx ((hbatch g).symm.trans hy)
  · exact (hbatch g).trans (ho.keeps_batch hx (.inr hcom)).2
  · obtain ⟨fb, y, rfl, hy, hmem⟩ := mem_batchLegs.1 hg
    rcases opened_batch? ho ((hbatch fb).symm.trans hy) with ⟨-, rfl⟩ | hold
    · exact (ho.made.apart hl (legEntryFree_unfinished hun) g hmem rfl).elim
    · exact mem_batchLegs.2 ⟨fb, y, rfl, hold, hmem⟩

/-- With nothing to return, the job CLEARED. -/
theorem finished_of_cleared (hjob : c.job? h = some jc) :
    Finished h j jc tbl false false c ((c.modifyJob h fun j => { j with verdict := some .aborted }).clearJob h) := by
  have hput : (c.modifyJob h fun j => { j with verdict := some .aborted }).job? h =
      some { jc with verdict := some .aborted } := by
    rw [modifyJob_job?, if_pos rfl, hjob]
    rfl
  obtain ⟨hself, hothers, hparts⟩ := clearJob_reads hput
  have hown : OnlyChanges [.jobs, .parts] c
      ((c.modifyJob h fun j => { j with verdict := some .aborted }).clearJob h) :=
    ((modifyJob_frame h _).mono (by decide)).trans ((clearJob_frame h).mono (by decide))
  have hleg (g : Handle) := leg?_of_kept (g := g) (hown .legs (by decide))
  have hbatch (g : Handle) := batch?_of_kept (g := g) (hown .batches (by decide))
  refine ⟨fun _ _ => hself, fun h => (by rcases h with h | h <;> cases h), fun g p hp => ?_,
    fun g hg => (hothers g hg).trans ((modifyJob_job? _).trans (if_neg hg.symm)),
    fun g l m hl hm => Option.some.inj ((hm.symm.trans (hleg g)).trans hl), fun g l hl _ => (hleg g).trans hl,
    fun g x y hx hy => Option.some.inj ((hy.symm.trans (hbatch g)).trans hx), fun g x hx _ => (hbatch g).trans hx,
    fun o g l _ _ hg => ?_, hown.mono (by decide)⟩
  · rw [hparts g p hp]
    simp
  · obtain ⟨fb, y, ho, hy, hmem⟩ := mem_batchLegs.1 hg
    exact mem_batchLegs.2 ⟨fb, y, ho, (hbatch fb).symm.trans hy, hmem⟩

theorem finishAbort_finished (htbl : tbl = jobTable h) (hbd : bd = jobBed h) (hjob : c.job? h = some jc)
    (hhook : c.carryingOnHook j = hook) (hback : c.returnable j tbl bd = back)
    (hroom : hook = true ∨ back = true → 1 ≤ c.freeLegs ∧ c.hasFreeBatch = true) :
    Finished h j jc tbl hook back c (c.finishAbort h j) := by
  have hfresh : ∀ l ∈ [returnLeg tbl j.plate], l.state.unfinished = true := by
    intro l hl
    rw [List.mem_singleton.1 hl]
    rfl
  unfold State.finishAbort
  rw [hhook, ← htbl, ← hbd, hback]
  rcases hook with _ | _
  · rcases back with _ | _
    · exact finished_of_cleared hjob
    · obtain ⟨hfree, hbatch⟩ := hroom (.inr rfl)
      obtain ⟨w, hb, hs, hcommit, hopened, -, hown⟩ :=
        commitNew_opened h hbatch (legs := [returnLeg tbl j.plate]) hfree hfresh
      rw [if_neg Bool.false_ne_true, if_pos rfl]
      dsimp only
      rw [hcommit]
      exact finished_of_opened hjob (.inr rfl) hopened nofun (fun _ => ⟨rfl, rfl⟩) hown
  · obtain ⟨hfree, hbatch⟩ := hroom (.inl rfl)
    obtain ⟨w, hb, hs, hopen, hopened, hown⟩ :=
      openBatch_opened (.job h) hbatch (legs := [returnLeg tbl j.plate]) hfree hfresh
    rw [if_pos rfl]
    simp only [hopen]
    exact finished_of_opened hjob (.inl rfl) hopened (fun _ => rfl) nofun (hown.mono (by decide))

/-! ## The steps of the abort -/

/-- The states an unpierced abort runs through: `a` with the plate released and the parts scrapped, `w` with the window
emptied, `v` with the verdicts shifted, `c` with the fetch cancelled, `d` with the job finished. -/
structure AbortSteps (h : Handle) (j : Job) (tbl bd : Nat) (hook back : Bool) (n : Nat) (s a w v c d t : State) :
    Prop where
  scrapped : ScrappedAll j.parts s a
  resume : a.job? h = some { j with resume := n }
  plates : a.plates = (s.releasePlate j.plate h).plates
  scrappedOwn : OnlyChanges [.plates, .parts, .jobs] s a
  emptied : Emptied (j.role == some .active) tbl a w
  shifted : v = w.shiftVerdict tbl .aborted j.nest
  cancelled : c = v.cancelFetch (s.batchLegs j.fetchBatch)
  finished : Finished h j { j with resume := n } tbl hook back c d
  promoted : PromotedFrom (j.role == some .active) tbl bd d t

/-- What the steps before the fetch batch is cancelled touch. -/
abbrev earlyFields : List Field := [.plates, .parts, .jobs, .flags, .windows, .tables]

theorem releasePlate_plate? (p : Handle) : (s.releasePlate p h).plate? g =
    if p = g then (s.plate? g).map fun r => if r.job = some h then { r with job := none } else r else s.plate? g :=
  modifyPlate_plate? _

theorem batchLegs_some (hfb : j.fetchBatch = some fb) (hx : s.batch? fb = some x) :
    s.batchLegs j.fetchBatch = x.legs := by
  unfold State.batchLegs
  rw [hfb]
  dsimp only
  rw [hx]

theorem releasePlate_keeps {r : PlateRec} (p : Handle) (hr : s.plate? g = some r) :
    ∃ q, (s.releasePlate p h).plate? g = some q ∧ q = { r with job := q.job } := by
  rw [releasePlate_plate?, hr]
  split
  · refine ⟨_, rfl, ?_⟩
    by_cases hjob : r.job = some h <;> simp [hjob]
  · exact ⟨r, rfl, rfl⟩

/-- A plate released keeps its state. -/
theorem released_st (p : Handle) : Evolves (fun r q => q.st = r.st) s.plates (s.releasePlate p h).plates :=
  .modify (fun _ => rfl) fun r _ => by split <;> rfl

theorem returnable_congr (hplates : Evolves (fun r q => q.st = r.st) s.plates t.plates) (j : Job) :
    t.returnable j tbl bd = s.returnable j tbl bd := by
  unfold State.returnable
  rcases hr : s.plate? j.plate with _ | r
  · rcases hq : t.plate? j.plate with _ | q
    · rfl
    · obtain ⟨r, hr', -⟩ := hplates.origin hq
      exact absurd (hr.symm.trans hr') nofun
  · obtain ⟨q, hq, hst⟩ := hplates.find hr
    have hq' : t.plate? j.plate = some q := hq
    rw [hq']
    dsimp only
    rw [hst]

theorem abortUnpierced_steps (htbl : tbl = jobTable h) (hbd : bd = jobBed h) (hle : tbl ≤ 7) (hj : s.job? h = some j)
    (hhook : s.carryingOnHook j = hook) (hback : s.returnable j tbl bd = back)
    (hroom : hook = true ∨ back = true → 1 ≤ s.freeLegs ∧ s.hasFreeBatch = true) :
    ∃ n a w v c d, AbortSteps h j tbl bd hook back n s a w v c d (s.abortUnpierced h j) := by
  have hscrapped := scrapUncut_scrapped j.parts (s.releasePlate j.plate h)
  have hrelease := releasePlate_frame (s := s) j.plate h
  have hscrappedOwn := scrapUncut_frame (s := s.releasePlate j.plate h) j.parts
  unfold State.abortUnpierced
  dsimp only
  rw [← htbl, ← hbd]
  generalize (s.releasePlate j.plate h).scrapUncut j.parts = a at *
  have hown : OnlyChanges [.plates, .parts, .jobs] s a :=
    (hrelease.mono (by decide)).trans (hscrappedOwn.mono (by decide))
  have hscrap : ScrappedAll j.parts s a := ⟨hscrapped.part, hscrapped.job, hscrapped.others, hscrapped.resume⟩
  have hplates : a.plates = (s.releasePlate j.plate h).plates := hscrappedOwn .plates (by decide)
  have hemptied := emptied (s := a) (j.role == some .active) hle
  generalize (if (j.role == some .active) = true then a.emptyWindow tbl else a) = w at *
  have hshift := shiftVerdict_frame (s := w) tbl .aborted j.nest
  have hearly : OnlyChanges earlyFields s (w.shiftVerdict tbl .aborted j.nest) :=
    ((hown.mono (by decide)).trans (hemptied.own.mono (by decide))).trans (hshift.mono (by decide))
  have hlegsOf : w.batchLegs j.fetchBatch = s.batchLegs j.fetchBatch := by
    unfold State.batchLegs State.batch?
    rw [(hown.mono (m := earlyFields) (by decide)).trans (hemptied.own.mono (by decide)) .batches (by decide)]
  rw [hlegsOf]
  have hcalms := cancelFetch_calms (s.batchLegs j.fetchBatch) (w.shiftVerdict tbl .aborted j.nest)
  have huncarries := cancelFetch_uncarries (s.batchLegs j.fetchBatch) (w.shiftVerdict tbl .aborted j.nest)
  have hcancelOwn := cancelFetch_own (s.batchLegs j.fetchBatch) (w.shiftVerdict tbl .aborted j.nest)
  obtain ⟨n, hn⟩ := hscrap.job h
  rw [hj] at hn
  generalize hc : (w.shiftVerdict tbl .aborted j.nest).cancelFetch (s.batchLegs j.fetchBatch) = c at *
  have hcalm : Calms s c :=
    ⟨by rw [← hearly .legs (by decide)]; exact hcalms.legs, by rw [← hearly .batches (by decide)]; exact hcalms.batches⟩
  have hst : Evolves (fun r q => q.st = r.st) s.plates c.plates := by
    have hlate : (w.shiftVerdict tbl .aborted j.nest).plates = (s.releasePlate j.plate h).plates :=
      (hshift .plates (by decide)).trans ((hemptied.own .plates (by decide)).trans hplates)
    rw [hlate] at huncarries
    exact (released_st (h := h) j.plate).trans (fun _ _ _ h k => k.trans h)
      (huncarries.mono fun r q (hq : q = _) => by rw [hq])
  have hjob : c.job? h = some { j with resume := n } := by
    refine (job?_of_kept ?_).trans hn
    exact (hcancelOwn .jobs (by decide)).trans ((hshift .jobs (by decide)).trans (hemptied.own .jobs (by decide)))
  have hfinished := finishAbort_finished htbl hbd hjob ((hcalm.carryingOnHook j).trans hhook)
    ((returnable_congr hst j).trans hback) fun hany => by
      obtain ⟨hfree, hbatch⟩ := hroom hany
      exact ⟨hcalm.freeLegs hfree, hcalm.hasFreeBatch hbatch⟩
  exact ⟨n, a, w, _, c, _, hscrap, hn, hplates, hown, hemptied, rfl, hc.symm, hfinished, promotedFrom _ hle⟩

theorem otherBed_ne (hidx : h.idx = bedIndex tbl bd) (hbd : bd ≤ 1) (hg : g.idx = bedIndex tbl (1 - bd)) : g ≠ h := by
  rintro rfl
  rw [hidx] at hg
  unfold bedIndex at hg
  omega

section Reads

variable {n : Nat} (e : AbortSteps h j tbl bd hook back n s a w v c d t)

include e

theorem AbortSteps.early : OnlyChanges earlyFields s v := by
  have hshift := shiftVerdict_frame (s := w) tbl .aborted j.nest
  rw [← e.shifted] at hshift
  exact ((e.scrappedOwn.mono (by decide)).trans (e.emptied.own.mono (by decide))).trans (hshift.mono (by decide))

theorem AbortSteps.leg? (g : Handle) : v.leg? g = s.leg? g := leg?_of_kept (e.early .legs (by decide))

theorem AbortSteps.batch? (g : Handle) : v.batch? g = s.batch? g := batch?_of_kept (e.early .batches (by decide))

theorem AbortSteps.cancelOwn : OnlyChanges [.slots, .cart, .plates, .cranes, .legs, .batches] v c := by
  rw [e.cancelled]
  exact cancelFetch_own _ _

theorem AbortSteps.late : OnlyChanges [.legs, .batches, .commitCounter, .jobs, .parts, .tables] c t :=
  (e.finished.own.mono (by decide)).trans (e.promoted.own.mono (by decide))

theorem AbortSteps.calms : Calms s c := by
  have hcalm := cancelFetch_calms (s.batchLegs j.fetchBatch) v
  rw [← e.cancelled] at hcalm
  exact ⟨by rw [← e.early .legs (by decide)]; exact hcalm.legs,
    by rw [← e.early .batches (by decide)]; exact hcalm.batches⟩

/-- A leg that is not QUEUED is the same after the fetch batch is dealt with. -/
theorem AbortSteps.leg_after (hl : c.leg? g = some l) (hq : l.state ≠ .queued) :
    (∀ m, t.leg? g = some m → m = l) ∧ (l.state.unfinished = true → t.leg? g = some l) := by
  have hsame : ∀ m, d.leg? g = some m → m = l → t.leg? g = some m := by
    rintro m hm rfl
    by_cases hst : ∃ oh oj, Staged (j.role == some .active) tbl bd d oh oj
    · obtain ⟨oh, oj, hst⟩ := hst
      rw [e.promoted.legs oh oj hst, hm]
      split
      · simp [Leg.promoted, hq]
      · rfl
    · rw [e.promoted.stays fun oh oj h => hst ⟨oh, oj, h⟩, hm]
  refine ⟨fun m hm => ?_, fun hun => hsame l (e.finished.unfinished g l hl hun) rfl⟩
  rcases hd : d.leg? g with _ | k
  · have hnone : t.leg? g = none := by
      by_cases hst : ∃ oh oj, Staged (j.role == some .active) tbl bd d oh oj
      · obtain ⟨oh, oj, hst⟩ := hst
        rw [e.promoted.legs oh oj hst, hd]
        exact ite_self _
      · rw [e.promoted.stays fun oh oj h => hst ⟨oh, oj, h⟩, hd]
    rw [hnone] at hm
    cases hm
  · have hk := e.finished.legs g l k hl hd
    rw [hsame k hd hk] at hm
    cases hm
    exact hk

theorem AbortSteps.batch_after (g : Handle) : t.batch? g = d.batch? g :=
  batch?_of_kept (e.promoted.own .batches (by decide))

/-- A leg of the fetch list that was QUEUED or ASSIGNED is CANCELLED. -/
theorem AbortSteps.stopped (hg : g ∈ s.batchLegs j.fetchBatch) (hl : s.leg? g = some l) (hst : Stoppable l)
    (hm : t.leg? g = some m) : m = { l with state := .cancelled, crane := m.crane }
      ∧ (l.state = .assigned ∨ l.crane = none → m.crane = none) := by
  obtain ⟨k, hk, hstops⟩ := e.calms.leg? hl
  have hno : ¬Stoppable k := cancelFetch_stopped _ v g hg k (by rw [← e.cancelled]; exact hk)
  obtain rfl := (e.leg_after hk fun hq => hno (.inl hq)).1 m hm
  rcases hstops with rfl | ⟨hon, -⟩ | ⟨-, hstopped⟩
  · exact (hno hst).elim
  · exact (not_stoppable_onHook hon hst).elim
  · exact hstopped

theorem AbortSteps.plates_early : v.plates = (s.releasePlate j.plate h).plates := by
  rw [e.shifted, shiftVerdict_frame (s := w) tbl .aborted j.nest .plates (by decide), e.emptied.own .plates (by decide),
    e.plates]

/-- The plates: the job's own released, a carrying leg gone at most. -/
theorem AbortSteps.plate {r : PlateRec} (hr : s.plate? j.plate = some r) : ∃ q, t.plate? j.plate = some q
    ∧ q.st = r.st ∧ q.job = if r.job = some h then none else r.job := by
  have hv : v.plate? j.plate = some (if r.job = some h then { r with job := none } else r) := by
    refine (congrArg (·.find j.plate) e.plates_early).trans ((releasePlate_plate? j.plate).trans ?_)
    rw [if_pos rfl, hr, Option.map_some]
  have huncarries := cancelFetch_uncarries (s.batchLegs j.fetchBatch) v
  rw [← e.cancelled] at huncarries
  obtain ⟨q, hq, hkeeps⟩ := huncarries.find hv
  refine ⟨q, (congrArg (·.find j.plate) (e.late .plates (by decide))).trans hq, ?_⟩
  rw [hkeeps]
  split <;> exact ⟨rfl, rfl⟩

/-! ## The fetch batch -/

/-- Where one leg is ASSIGNED, it is let go from its crane and its place, and its plate from it. -/
theorem AbortSteps.assigned (hlist : s.batchLegs j.fetchBatch = x.legs) (hg : g ∈ x.legs) (hl : s.leg? g = some l)
    (hassigned : l.state = .assigned)
    (hothers : ∀ e ∈ x.legs, e ≠ g → ∀ y, s.leg? e = some y → y.state.inHand = false) :
    (∀ k ≤ 5, l.crane = some k → Freed s t k) ∧ Lands s t none .nowhere g l.target
      ∧ ∀ p r, l.plate = some p → s.plate? p = some r → ∃ q, t.plate? p = some q
        ∧ q = { r with leg := none, job := q.job } := by
  have hhand : l.state.inHand = true := by rw [hassigned]; rfl
  obtain ⟨z, hz, hgo⟩ := cancelFetch_assigned (s := v) hg ((e.leg? g).trans hl) hassigned fun y hy hne k hk hst => by
    have hno := hothers y hy hne k ((e.leg? y).symm.trans hk)
    rw [hst] at hno
    cases hno
  rw [← hlist, ← e.cancelled] at hgo
  have hbefore : OnlyChanges (.legs :: .batches :: earlyFields) s z :=
    (e.early.mono (by decide)).trans (hz.mono (by decide))
  have hafter : OnlyChanges [.legs, .batches, .commitCounter, .jobs, .parts, .tables] (z.letGo g l) t :=
    (hgo.mono (by decide)).trans e.late
  obtain ⟨⟨hslots, hbeds, hcart⟩, hplates⟩ := letGo_places (s := z) (h := g) hhand
  refine ⟨fun k _ hk => ?_, lands_of_drops lands_nothing ⟨fun k => ?_, ?_, ?_⟩, fun p r hp hr => ?_⟩
  · obtain ⟨-, hfreed, -⟩ := letGo_letsGo (s := z) (h := g) hhand hk
    exact freed_congr (hbefore .stations (by decide)) (hbefore .hall (by decide)) (hbefore .cranes (by decide))
      (hafter .cranes (by decide)) hfreed
  · have hkept : z.slot k = s.slot k := by rw [State.slot, hbefore .slots (by decide), State.slot]
    rw [State.slot, hafter .slots (by decide), ← hkept]
    exact hslots k
  · exact (hafter .beds (by decide)).trans (hbeds.trans (hbefore .beds (by decide)))
  · rw [hafter .cart (by decide), ← hbefore .cart (by decide)]
    exact hcart
  · obtain ⟨q, hq, hkept⟩ := releasePlate_keeps (h := h) j.plate hr
    have hzp : z.plate? p = some q := (congrArg (·.find p) ((hz .plates (by decide)).trans e.plates_early)).trans hq
    refine ⟨{ q with leg := none }, (congrArg (·.find p) (hafter .plates (by decide))).trans ((hplates p).trans ?_), ?_⟩
    · rw [if_pos hp, hzp] <;> rfl
    · rw [hkept]

theorem AbortSteps.fetch (hfb : j.fetchBatch = some fb) (hx : s.batch? fb = some x) (hcom : x.state = .committed)
    (hown : ∀ g ∈ x.legs, ∀ l, s.leg? g = some l → l.batch = fb) : FetchCancelled s s t fb x := by
  have hlist := batchLegs_some hfb hx
  have hc : c = v.cancelFetch x.legs := by rw [← hlist]; exact e.cancelled
  have hvx : v.batch? fb = some x := (e.batch? fb).trans hx
  have hvown : OfBatch v x.legs fb := fun g hg l hl => hown g hg l ((e.leg? g).symm.trans hl)
  have hlegs := e.leg?
  have hkeeps (hcb : c.batch? fb = some x) : t.batch? fb = some x :=
    (e.batch_after fb).trans (e.finished.live fb x hcb hcom)
  refine ⟨fun g l m ⟨hg, k, hk, hst⟩ hl hm => ?_, fun g l ⟨hg, k, hk, hon⟩ hl => ?_,
    fun ⟨y, hy, k, hk, hst⟩ hoff z hz => ?_,
    fun hstay => hkeeps ?_, fun hno => ?_, fun g l hg hl hassigned hothers => e.assigned hlist hg hl hassigned hothers⟩
  · obtain rfl : l = k := Option.some.inj (hl.symm.trans hk)
    exact e.stopped (by rw [hlist]; exact hg) hl hst hm
  · obtain rfl : l = k := Option.some.inj (hl.symm.trans hk)
    have hq : l.state ≠ .queued := fun h => not_stoppable_onHook hon (.inl h)
    have hun := unfinished_of_onHook hon
    refine ⟨fun ⟨y, hy, k, hk, hst⟩ => ?_, fun hno => ?_⟩
    · have hmarked := cancelFetch_ending hvx hvown ⟨y, hy, k, (hlegs y).trans hk, hst⟩ hg ((hlegs g).trans hl) hon
      rw [← hc] at hmarked
      exact (e.leg_after hmarked hq).2 hun
    · have hidle : c = v := hc.trans (cancelFetch_idle fun y hy k hk hst => hno y ⟨hy, k, (hlegs y).symm.trans hk, hst⟩)
      exact (e.leg_after (by rw [hidle]; exact (hlegs g).trans hl) hq).2 hun
  · have hsettled := cancelFetch_batch_settled hvx hcom hvown ⟨y, hy, k, (hlegs y).trans hk, hst⟩ (fun _ h => h)
      (fun g hg _ _ _ => hg) fun g hg l hl => by
        rw [Bool.eq_false_iff]
        exact fun hon => hoff g ⟨hg, l, (hlegs g).symm.trans hl, hon⟩
    rw [← hc] at hsettled
    exact e.finished.batches fb _ z hsettled ((e.batch_after fb).symm.trans hz)
  · rw [hc]
    rcases hstay with ⟨y, hy, k, hk, hon⟩ | hno
    · exact cancelFetch_batch_hooked hvx hvown hy ((hlegs y).trans hk) hon
    · rw [cancelFetch_idle fun y hy k hk hst => hno y ⟨hy, k, (hlegs y).symm.trans hk, hst⟩]
      exact hvx
  · have hkept : OnlyChanges [.legs, .batches] v c := by
      rw [hc]
      exact cancelFetch_queued fun y hy k hk => hno y hy k ((hlegs y).symm.trans hk)
    exact ⟨(e.late .cranes (by decide)).trans ((hkept .cranes (by decide)).trans (e.early .cranes (by decide))),
      (e.late .slots (by decide)).trans ((hkept .slots (by decide)).trans (e.early .slots (by decide))),
      (e.late .cart (by decide)).trans ((hkept .cart (by decide)).trans (e.early .cart (by decide)))⟩

/-! ## The promotion of the STAGED job -/

theorem AbortSteps.job? (hne : g ≠ h) : d.job? g = a.job? g := by
  have hshift := shiftVerdict_frame (s := w) tbl .aborted j.nest
  rw [← e.shifted] at hshift
  exact (e.finished.jobs g hne).trans (job?_of_kept ((e.cancelOwn .jobs (by decide)).trans
    ((hshift .jobs (by decide)).trans (e.emptied.own .jobs (by decide)))))

/-- The STAGED job of the other bed, before the abort and as the job is finished. -/
theorem AbortSteps.staged_from (hidx : h.idx = bedIndex tbl bd) (hbd : bd ≤ 1) {oh : Handle} {oj : Job}
    (hst : Staged active tbl bd s oh oj) : ∃ k, Staged active tbl bd d oh { oj with resume := k }
      ∧ ((∀ g ∈ j.parts, ∀ p, s.part? g = some p → p.job ≠ oh) → k = oj.resume) := by
  obtain ⟨hactive, hbed, hrole⟩ := hst
  obtain ⟨hoh, hoj, hlive⟩ := bedJob_iff.1 hbed
  have hne : oh ≠ h := otherBed_ne hidx hbd hoh
  obtain ⟨k, hk⟩ := e.scrapped.job oh
  rw [hoj] at hk
  refine ⟨k, ⟨hactive, bedJob_iff.2 ⟨hoh, (e.job? hne).trans hk, hlive⟩, hrole⟩, fun hparts => ?_⟩
  have hsame := e.scrapped.others oh hparts
  rw [hk, hoj] at hsame
  exact congrArg Job.resume (Option.some.inj hsame)

theorem AbortSteps.staged_to (hidx : h.idx = bedIndex tbl bd) (hbd : bd ≤ 1) {oh : Handle} {oj : Job}
    (hst : Staged active tbl bd d oh oj) : ∃ o k, Staged active tbl bd s oh o ∧ oj = { o with resume := k } := by
  obtain ⟨hactive, hbed, hrole⟩ := hst
  obtain ⟨hoh, hoj, hlive⟩ := bedJob_iff.1 hbed
  rw [e.job? (otherBed_ne hidx hbd hoh)] at hoj
  obtain ⟨k, hk⟩ := e.scrapped.job oh
  rw [hoj] at hk
  obtain ⟨o, ho, heq⟩ := Option.map_eq_some_iff.1 hk.symm
  exact ⟨o, k, ⟨hactive, bedJob_iff.2 ⟨hoh, ho, by rw [← heq] at hlive; exact hlive⟩,
    by rw [← heq] at hrole; exact hrole⟩,
    heq.symm⟩

/-- With no STAGED job on the other bed before, none is promoted. -/
theorem AbortSteps.unstaged (hidx : h.idx = bedIndex tbl bd) (hbd : bd ≤ 1)
    (hnone : ∀ oh oj, j.role = some .active → s.bedJob tbl (1 - bd) = some (oh, oj) → oj.role ≠ some .staged) :
      t = d := by
  refine e.promoted.stays fun oh oj hst => ?_
  obtain ⟨o, k, ⟨hactive, hbed, hrole⟩, -⟩ := e.staged_to hidx hbd hst
  exact hnone oh o (active_iff.1 hactive) hbed hrole

/-- What the abort leaves of the table's verdicts, window and gantry. -/
abbrev TableAborts (j : Job) (tbl bd : Nat) (s t : State) : Prop :=
  (t.tableSeq tbl).verdictN = some ⟨.aborted, j.nest⟩ ∧ (t.tableSeq tbl).verdictN1 = (s.tableSeq tbl).verdictN
    ∧ (j.role = some .active → t.window tbl = ⟨[], none⟩)
    ∧ ((∀ oh oj, j.role = some .active → s.bedJob tbl (1 - bd) = some (oh, oj) → oj.role ≠ some .staged) →
        (t.tableSeq tbl).gantry = (s.tableSeq tbl).gantry)

theorem AbortSteps.table (hidx : h.idx = bedIndex tbl bd) (hbd : bd ≤ 1) (hle : tbl ≤ 7) :
    TableAborts j tbl bd s t := by
  have hbefore : w.tables = s.tables := (e.emptied.own .tables (by decide)).trans (e.scrappedOwn .tables (by decide))
  have hafter : d.tables = v.tables := (e.finished.own .tables (by decide)).trans (e.cancelOwn .tables (by decide))
  have htable : d.tableSeq tbl =
      { s.tableSeq tbl with verdictN := some ⟨.aborted, j.nest⟩, verdictN1 := (s.tableSeq tbl).verdictN } := by
    refine (congrArg (·.getD tbl ⟨0, none, none⟩) hafter).trans ?_
    rw [e.shifted]
    refine (shiftVerdict_tableSeq hle .aborted j.nest).trans ?_
    unfold State.tableSeq
    rw [hbefore]
  have hwindows : t.windows = w.windows := by
    rw [e.late .windows (by decide), e.cancelOwn .windows (by decide), e.shifted]
    exact shiftVerdict_frame (s := w) tbl .aborted j.nest .windows (by decide)
  obtain ⟨hnew, hold⟩ := e.promoted.verdicts
  refine ⟨by rw [hnew, htable], by rw [hold, htable], fun hrole => ?_, fun hnone => ?_⟩
  · exact (congrArg (·.getD tbl ⟨[], none⟩) hwindows).trans (e.emptied.window (active_iff.2 hrole))
  · rw [e.unstaged hidx hbd hnone, htable]

/-- A part of the job's list that an abort scrapped, and one that its window held. -/
abbrev abortedPart (s : State) (j : Job) (tbl : Nat) (g : Handle) (p : Part) : Part :=
  { p with
    cut := if g ∈ j.parts ∧ p.cut = .uncut then .scrapped else p.cut
    mark := if j.role = some .active ∧ g ∈ (s.window tbl).parts then .failed else p.mark }

/-- What the abort leaves of the parts and the flags. -/
abbrev PartsAbort (j : Job) (tbl : Nat) (hook back : Bool) (s t : State) : Prop :=
  (∀ g p, s.part? g = some p → t.part? g =
      if (hook = false ∧ back = false) ∧ g ∈ j.parts ∧ p.cut ≠ .cut then none else some (abortedPart s j tbl g p))
    ∧ t.flags = s.flags |||
        (if j.role = some .active ∧ (s.window tbl).parts.any (fun g => (s.part? g).any fun p => p.cut == .cut) then
          Alarm.unmarkedCut.bit else 0#12)

theorem AbortSteps.parts : PartsAbort j tbl hook back s t := by
  have hshift := shiftVerdict_frame (s := w) tbl .aborted j.nest
  rw [← e.shifted] at hshift
  have hwindow : a.window tbl = s.window tbl := congrArg (·.getD tbl ⟨[], none⟩) (e.scrappedOwn .windows (by decide))
  have hcut (g : Handle) : ((a.part? g).any fun p => p.cut == .cut) = (s.part? g).any fun p => p.cut == .cut := by
    rw [e.scrapped.part]
    rcases s.part? g with _ | p
    · rfl
    · rcases hp : p.cut <;> by_cases hg : g ∈ j.parts <;> simp [hp, hg]
  have hcpart (g : Handle) : c.part? g = w.part? g :=
    congrArg (·.find g) ((e.cancelOwn .parts (by decide)).trans (hshift .parts (by decide)))
  refine ⟨fun g p hp => ?_, ?_⟩
  · have haborted : c.part? g = some (abortedPart s j tbl g p) := by
      rw [hcpart, e.emptied.part, e.scrapped.part, hp, hwindow, Option.map_some, Option.map_some]
      simp only [active_iff]
    have htpart : t.part? g = d.part? g := congrArg (·.find g) (e.promoted.own .parts (by decide))
    rw [htpart, e.finished.parts g _ haborted]
    refine if_congr (and_congr_right fun _ => and_congr_right fun hg => ?_) rfl rfl
    show (if g ∈ j.parts ∧ p.cut = .uncut then CutState.scrapped else p.cut) = .scrapped ↔ p.cut ≠ .cut
    rcases hp : p.cut <;> simp [show g ∈ j.parts from hg]
  · rw [e.late .flags (by decide), e.cancelOwn .flags (by decide), hshift .flags (by decide), e.emptied.flags,
      e.scrappedOwn .flags (by decide), hwindow]
    simp only [hcut, active_iff]

/-- What the abort leaves of the job. -/
abbrev JobAborts (h : Handle) (j : Job) (tbl bd : Nat) (hook back : Bool) (s t : State) : Prop :=
  (hook = false → back = false →
      ∃ n, t.job? h = some { j with state := .cleared, role := none, verdict := some .aborted, resume := n })
    ∧ (hook = true ∨ back = true →
      ∃ n hb b g priority, t.job? h = some { j with
          state := .ended, role := none, verdict := some .aborted, clearBatch := some hb, resume := n }
        ∧ t.batch? hb = some b ∧ b.origin = .job h ∧ b.legs = [g]
        ∧ (hook = true → b.state = .opened)
        ∧ (hook = false → b.state = .committed ∧ b.seq = some s.commitCounter)
        ∧ shapeOf t g = some (.ret, tableBay tbl, some j.plate, .choose, priority, .queued, hb, 0)
        ∧ ((∀ oh oj, j.role = some .active → s.bedJob tbl (1 - bd) = some (oh, oj) →
            oj.role = some .staged → g ∉ t.batchLegs oj.fetchBatch) → priority = 1))

theorem AbortSteps.job (hidx : h.idx = bedIndex tbl bd) (hbd : bd ≤ 1) : JobAborts h j tbl bd hook back s t := by
  have hself : t.job? h = d.job? h := e.promoted.jobs h fun oh oj hst heq => by
    obtain ⟨hoh, -⟩ := bedJob_iff.1 hst.2.1
    exact otherBed_ne hidx hbd hoh heq.symm
  have hlists (o : Option Handle) : t.batchLegs o = d.batchLegs o := by
    unfold State.batchLegs State.batch?
    rw [e.promoted.own .batches (by decide)]
  have hcounter : c.commitCounter = s.commitCounter :=
    (e.cancelOwn .commitCounter (by decide)).trans (e.early .commitCounter (by decide))
  refine ⟨fun hh hb => ⟨_, hself.trans (e.finished.cleared hh hb)⟩, fun hany => ?_⟩
  obtain ⟨hb, b, g, hjob, hbatch, horigin, hlegs, hopen, hcom, hleg⟩ := e.finished.returns hany
  rw [hcounter] at hcom
  by_cases hst : ∃ oh oj, Staged (j.role == some .active) tbl bd d oh oj ∧ g ∈ d.batchLegs oj.fetchBatch
  · obtain ⟨oh, oj, hst, hmem⟩ := hst
    refine ⟨_, hb, b, g, 2, hself.trans hjob, (e.batch_after hb).trans hbatch, horigin, hlegs, hopen, hcom, ?_,
      fun hout => ?_⟩
    · rw [shapeOf, e.promoted.legs oh oj hst, if_pos hmem, hleg]
      rfl
    · obtain ⟨o, k, ⟨hactive, hbed, hrole⟩, rfl⟩ := e.staged_to hidx hbd hst
      exact (hout oh o (active_iff.1 hactive) hbed hrole (by rw [hlists]; exact hmem)).elim
  · refine ⟨_, hb, b, g, 1, hself.trans hjob, (e.batch_after hb).trans hbatch, horigin, hlegs, hopen, hcom, ?_,
      fun _ => rfl⟩
    have hkept : t.leg? g = d.leg? g := by
      by_cases hex : ∃ oh oj, Staged (j.role == some .active) tbl bd d oh oj
      · obtain ⟨oh, oj, hex⟩ := hex
        rw [e.promoted.legs oh oj hex, if_neg fun hmem => hst ⟨oh, oj, hex, hmem⟩]
      · rw [e.promoted.stays fun oh oj h => hex ⟨oh, oj, h⟩]
    rw [shapeOf, hkept, hleg]
    rfl

/-- Legs and batches that are not the fetch batch's stay while it is cancelled. -/
theorem AbortSteps.spared (hown : ∀ g ∈ s.batchLegs j.fetchBatch, ∀ l, s.leg? g = some l →
    j.fetchBatch = some l.batch) :
    (∀ g, g ∉ s.batchLegs j.fetchBatch → c.leg? g = s.leg? g)
      ∧ ∀ fb, j.fetchBatch ≠ some fb → c.batch? fb = s.batch? fb := by
  have hc := e.cancelled
  rcases hfb : j.fetchBatch with _ | fb
  · rw [hfb] at hc
    have hnone : c = v := hc
    exact ⟨fun g _ => by rw [hnone, e.leg?], fun fb _ => by rw [hnone, e.batch?]⟩
  · rw [hfb] at hown hc
    have hvown : OfBatch v (s.batchLegs (some fb)) fb := fun g hg l hl =>
      (Option.some.inj (hown g hg l ((e.leg? g).symm.trans hl))).symm
    refine ⟨fun g hg => ?_, fun g hg => ?_⟩
    · rw [hc, cancelFetch_leg_other hvown (fun x hx hmem => hg ?_) hg, e.leg?]
      exact mem_batchLegs.2 ⟨fb, x, rfl, (e.batch? fb).symm.trans hx, hmem⟩
    · rw [hc, cancelFetch_batch_other hvown fun h => hg (by rw [h]), e.batch?]

/-- What the abort leaves of the legs, the state `u` as its fetch batch is seen. -/
abbrev LegsAbort (u : State) (j : Job) (tbl bd : Nat) (s t : State) : Prop :=
  (∀ g ∈ s.batchLegs j.fetchBatch, ∀ l m, s.leg? g = some l → l.state = .queued ∨ l.state = .assigned →
      t.leg? g = some m → m.state = .cancelled)
    ∧ (∀ fb x, j.fetchBatch = some fb → s.batch? fb = some x → x.state = .committed →
        (∀ g ∈ x.legs, ∀ l, s.leg? g = some l → l.batch = fb) → FetchCancelled s u t fb x)
    ∧ ((∀ g ∈ s.batchLegs j.fetchBatch, ∀ l, s.leg? g = some l → j.fetchBatch = some l.batch) →
        ∀ g l, s.leg? g = some l → l.state.unfinished = true → g ∉ s.batchLegs j.fetchBatch →
        (∀ oh oj, j.role = some .active → s.bedJob tbl (1 - bd) = some (oh, oj) →
          oj.role = some .staged → g ∉ s.batchLegs oj.fetchBatch) → t.leg? g = some l)

theorem AbortSteps.legs (hidx : h.idx = bedIndex tbl bd) (hbd : bd ≤ 1) : LegsAbort s j tbl bd s t := by
  refine ⟨fun g hg l m hl hst hm => ?_, fun fb x hfb hx hcom hown => e.fetch hfb hx hcom hown,
    fun hown g l hl hun hg hout => ?_⟩
  · rw [(e.stopped hg hl hst hm).1]
  · obtain ⟨hspared, -⟩ := e.spared hown
    have hcl : c.leg? g = some l := (hspared g hg).trans hl
    have hdl := e.finished.unfinished g l hcl hun
    by_cases hst : ∃ oh oj, Staged (j.role == some .active) tbl bd d oh oj
    · obtain ⟨oh, oj, hst⟩ := hst
      obtain ⟨o, k, ⟨hactive, hbed, hrole⟩, rfl⟩ := e.staged_to hidx hbd hst
      rw [e.promoted.legs oh _ hst, if_neg fun hmem => hout oh o (active_iff.1 hactive) hbed hrole ?_, hdl]
      rw [← e.calms.batchLegs]
      exact e.finished.outside _ g l hcl hun hmem
    · rw [e.promoted.stays fun oh oj h => hst ⟨oh, oj, h⟩, hdl]

/-- What the abort does to a STAGED job of the other bed. -/
abbrev Promoted (j : Job) (tbl bd : Nat) (s t : State) : Prop :=
  ∀ oh oj, j.role = some .active → s.bedJob tbl (1 - bd) = some (oh, oj) → oj.role = some .staged →
    (t.tableSeq tbl).gantry = 1 - bd
      ∧ (∃ n, t.job? oh = some { oj with role := some .active, resume := n }
        ∧ ((∀ g ∈ j.parts, ∀ p, s.part? g = some p → p.job ≠ oh) → n = oj.resume))
      ∧ ((∀ g ∈ s.batchLegs j.fetchBatch, ∀ l, s.leg? g = some l → j.fetchBatch = some l.batch) →
        oj.fetchBatch ≠ j.fetchBatch →
        ∀ fb x g l, oj.fetchBatch = some fb → s.batch? fb = some x → x.state = .committed → g ∈ x.legs →
          g ∉ s.batchLegs j.fetchBatch → s.leg? g = some l → l.state.unfinished = true →
          t.leg? g = some (if l.state = .queued then { l with priority := 2 } else l))

theorem AbortSteps.promotes (hidx : h.idx = bedIndex tbl bd) (hbd : bd ≤ 1) : Promoted j tbl bd s t := by
  intro oh oj hrole hbed hstaged
  obtain ⟨k, hst, hresume⟩ := e.staged_from (active := j.role == some .active) hidx hbd
    ⟨active_iff.2 hrole, hbed, hstaged⟩
  refine ⟨e.promoted.gantry oh _ hst, ⟨k, e.promoted.job oh _ hst, hresume⟩,
    fun hown hne fb x g l hfb hx hcom hmem hg hl hun => ?_⟩
  obtain ⟨hlegs, hbatches⟩ := e.spared hown
  have hcx : c.batch? fb = some x := (hbatches fb fun h => hne (hfb.trans h.symm)).trans hx
  have hdl := e.finished.unfinished g l ((hlegs g hg).trans hl) hun
  rw [e.promoted.legs oh _ hst, if_pos (mem_batchLegs.2 ⟨fb, x, hfb, e.finished.live fb x hcx hcom, hmem⟩), hdl]
  rfl

end Reads

/-! ## Abort Job before the pierce, taken -/

section Taken

variable {k : Asker}

theorem abortJob_unpierced (hj : s.job? h = some j) (hstate : j.state = .admitted ∨ j.state = .loaded)
    (hroom : s.carryingOnHook j = true ∨ s.returnable j (jobTable h) (jobBed h) = true →
      1 ≤ s.freeLegs ∧ s.hasFreeBatch = true) :
    abortJob k h s = .complete (s.abortUnpierced h j) .done [] := by
  have hlive : ¬(!j.state.live) = true := by
    rw [(live_iff _).2 (by rw [← or_assoc]; exact .inl hstate)]
    exact Bool.false_ne_true
  have hflat : ¬j.state.torch = true := fun h => by
    rcases hstate with hs | hs <;> rcases (torch_iff _).1 h with h | h <;> rw [hs] at h <;> cases h
  unfold abortJob
  simp only [hj]
  rw [if_neg hlive, if_neg hflat, if_neg fun h => ?_]
  obtain ⟨hany, hfull⟩ := Bool.and_eq_true_iff.1 h
  exact (noRoom_iff 1).1 hfull (hroom (Bool.or_eq_true_iff.1 hany))

/-- Everything that an abort before the pierce leaves, `u` as `LegsAbort` has it. -/
abbrev AbortLeaves (u : State) (h : Handle) (j : Job) (tbl bd : Nat) (hook back : Bool) (s t : State) : Prop :=
  (∀ r, s.plate? j.plate = some r → ∃ q, t.plate? j.plate = some q
      ∧ q.st = r.st ∧ q.job = (if r.job = some h then none else r.job))
    ∧ TableAborts j tbl bd s t ∧ LegsAbort u j tbl bd s t ∧ JobAborts h j tbl bd hook back s t
    ∧ PartsAbort j tbl hook back s t ∧ Promoted j tbl bd s t

theorem carryingOnHook_eq : s.carryingOnHook j = (s.batchLegs j.fetchBatch).any (fun g => (s.leg? g).any fun l =>
    (l.kind == .fetch || l.kind == .transferOut) && (l.state == .lifted || l.state == .check)) := by
  rw [Bool.eq_iff_iff, carryingOnHook_iff]
  simp [List.any_eq_true, Option.any_eq_true]

theorem returnable_eq : s.returnable j tbl bd = (s.plate? j.plate).any (fun r =>
    (r.st.location == .bed tbl bd || r.st.location == .cart) && !r.st.doubtful) := by
  unfold State.returnable
  rcases s.plate? j.plate with _ | r <;> rfl

/-- Settles O25: by the steps of the abort, each by what it leaves. -/
theorem abortBeforeThePierce : Obligations.AbortBeforeThePierce := by
  unfold Obligations.AbortBeforeThePierce
  intro s u a st tag h j tbl hook back hasks hu hj hstate htbl hhook hback hroom
  rw [← carryingOnHook_eq] at hhook
  rw [← returnable_eq] at hback
  have hlt : h.idx < 16 := lt_of_get? (Pool.find_eq_some.1 hj)
  have hle : tbl ≤ 7 := by omega
  have hidx : h.idx = bedIndex tbl (h.idx % 2) := by unfold bedIndex; omega
  have hbd : h.idx % 2 ≤ 1 := by omega
  have hj' : (s.heard a).job? h = some j := (read_of_line (·.job? h) heard_line).trans hj
  have hhook' : (s.heard a).carryingOnHook j = hook := (read_of_line (·.carryingOnHook j) heard_line).trans hhook.symm
  have hback' : (s.heard a).returnable j tbl (h.idx % 2) = back :=
    (read_of_line (·.returnable j tbl (h.idx % 2)) heard_line).trans hback.symm
  have hroom' : hook = true ∨ back = true → 1 ≤ (s.heard a).freeLegs ∧ (s.heard a).hasFreeBatch = true := by
    rw [read_of_line (·.freeLegs) heard_line, read_of_line (·.hasFreeBatch) heard_line]
    exact hroom
  obtain ⟨n, b, w, v, c, d, e⟩ := abortUnpierced_steps htbl rfl hle hj' hhook' hback' hroom'
  have hleaves : AbortLeaves u h j tbl (h.idx % 2) hook back (s.heard a) ((s.heard a).abortUnpierced h j) := by
    rw [hu]
    exact ⟨fun r hr => e.plate hr, e.table hidx hbd hle, e.legs hidx hbd, e.job hidx hbd, e.parts, e.promotes hidx hbd⟩
  obtain ⟨t, hexec, hat, hown, hline⟩ := request_completes (tag := tag) hasks
    (abortJob_unpierced (k := askerOf a st tag) hj' hstate (by
      rw [hhook', show jobTable h = tbl from htbl.symm, show jobBed h = h.idx % 2 from rfl, hback']
      exact hroom'))
    (abortUnpierced_frame h j) (by decide)
  obtain ⟨hplate, ⟨hnew, hold, hwindow, hgantry⟩, ⟨hcancelled, hfetch, hothers⟩, ⟨hcleared, hended⟩, ⟨hparts, hflags⟩,
    hpromoted⟩ := taken_of_line (AbortLeaves u h j tbl (h.idx % 2) hook back) hleaves hline
  exact ⟨t, hexec, hplate, hnew, hold, hwindow, hcancelled, hfetch, hothers, hcleared, hparts, hflags, hended,
    hpromoted,
    hgantry, hat, hown.mono (by decide)⟩

end Taken

end Sys2Proof.Proofs.Aborts
end

section
/-! PROOFS. Next Leg (R133 to R137): the leg that a crane is given, and what it is answered where none passes. -/

namespace Sys2Proof.Proofs.NextLegs

open Sys2Proof Sys2Proof.Machine
open Sys2Proof.Proofs.Pallets (askerOf)
open Sys2Proof.Proofs.Requests Sys2Proof.Proofs.Rooms Sys2Proof.Proofs.Walk

variable {s m t : State} {h g : Handle} {l x : Leg} {c p k : Nat} {src dst : Place} {mass a : Nat} {st : Station}
  {tag : Byte} {bay : Bay}

/-! ## What a leg lifts, and what lies above it (R38, R133) -/

theorem liftMass_plate (hp : l.plate = some g) : s.liftMass l = ((s.plate? g).bind fun r => r.mass).getD 0 := by
  rw [State.liftMass, hp]
  exact massOfPlate_eq g

theorem liftMass_skeleton (hp : l.plate = none) : s.liftMass l = l.skeletonMass.getD 0 := by rw [State.liftMass, hp]

theorem liftThickness_eq : s.liftThickness l = (match l.plate.bind s.plate? with
    | some r => r.ident.thickness
    | none => l.skeletonThickness.getD 0) := by
  rw [State.liftThickness, legPlate_eq] <;> rfl

theorem above_slot {low high : List Handle} (hp : l.plate = some g) (hs : s.legSource l = .slot k)
    (hstack : (s.slot k).stack = low ++ g :: high) (hlow : g ∉ low) : s.above l = high := by
  rw [State.above, hp, hs]
  dsimp only
  rw [State.platesAbove, hstack, List.idxOf_append_of_notMem hlow, List.idxOf_cons_self, Nat.add_zero,
    ← List.drop_drop, List.drop_left, List.drop_one, List.tail_cons]

theorem above_nothing (hno : l.plate = none ∨ ∀ k, s.legSource l ≠ .slot k) : s.above l = [] := by
  unfold State.above
  split
  next g k hp hs =>
    rcases hno with h | h
    · rw [hp] at h
      cases h
    · exact (h k hs).elim
  · rfl

/-! ## The order that hands a leg to a crane (R135) -/

/-- The fields of an order. -/
abbrev handing (s : State) (h : Handle) (l : Leg) (src dst : Place) (mass : Nat) : List Token :=
  [.handle h, .choice l.kind.num]
    ++ (match l.plate, l.sourceBed with
        | some p, _ => [.handle p]
        | none, some (t, d) => [.place (.bed t d), .num 4 (l.skeletonMass.getD 0)]
        | none, none => [])
    ++ [.place src, .num 2 (s.placePos l.bay src), .place dst, .num 2 (s.placePos l.bay dst), .num 4 mass]

theorem handOver_eq (hleg : (s.crane c).leg = some h) (hl : s.leg? h = some l) (hsrc : l.source = some src)
    (hdst : l.target = some dst) (hmass : l.expected = some mass) :
    s.handOver c = .now s .done (handing s h l src dst mass) := by
  unfold State.handOver
  simp only [hleg, hl, State.orderTokens, hsrc, hdst, hmass, Option.getD_some] <;> rfl

/-! ## Where no walk is made -/

/-- Every crane of a crane's runway is placed. -/
abbrev Placed (s : State) (c : Nat) : Prop :=
  ∀ d ≤ 5, s.inService d = true → (s.craneCfg d).runway = (s.craneCfg c).runway → (s.crane d).position ≠ none

theorem mem_runwayCranes {d : Nat} : d ∈ s.runwayCranes (s.craneBay c) ↔
    d ≤ 5 ∧ s.inService d = true ∧ (s.craneCfg d).runway = (s.craneCfg c).runway := by
  unfold State.runwayCranes State.craneBay
  rw [List.mem_filter, List.mem_range, Bool.and_eq_true, beq_iff_eq, Nat.lt_succ_iff]

theorem allPlaced_iff : s.allPlaced (s.craneBay c) = true ↔ Placed s c := by
  unfold State.allPlaced
  rw [List.all_eq_true]
  simp only [mem_runwayCranes, and_imp, Option.isSome_iff_ne_none]

theorem nextFor_waits (hno : (s.crane c).stopped = true ∨ (s.crane c).position = none ∨ ¬Placed s c) :
    s.nextFor c = .now s .noWork [] := by
  unfold State.nextFor
  rcases hp : (s.crane c).position with _ | p
  · rfl
  · refine if_pos ?_
    rw [Bool.or_eq_true, Bool.not_eq_true', Bool.eq_false_iff, Ne, allPlaced_iff]
    rcases hno with h | h | h
    · exact .inl h
    · rw [hp] at h
      cases h
    · exact .inr h

/-- A crane that may be given a leg. -/
structure Ready (s : State) (c p : Nat) : Prop where
  stopped : (s.crane c).stopped = false
  position : (s.crane c).position = some p
  placed : Placed s c

theorem nextFor_walks (hready : Ready s c p) : s.nextFor c =
    if (State.walkOver c p ((s.walk (s.craneBay c)).map (·.1)) s).2 = true
      then (State.walkOver c p ((s.walk (s.craneBay c)).map (·.1)) s).1.handOver c
      else (State.walkOver c p ((s.walk (s.craneBay c)).map (·.1)) s).1.parkOrWait c := by
  unfold State.nextFor
  rw [hready.position]
  dsimp only
  rw [if_neg (by rw [hready.stopped, allPlaced_iff.2 hready.placed]; exact Bool.false_ne_true)]
  generalize State.walkOver c p ((s.walk (s.craneBay c)).map (·.1)) s = w
  rcases w with ⟨m, _ | _⟩ <;> rfl

/-! ## The answer where no leg passes (R137, R160) -/

/-- A crane stands in a span. -/
abbrev StandsIn (s : State) (c : Nat) (e : Handle × (Nat × Nat)) : Prop :=
  ∃ q, (s.crane c).claim = some q ∧ Touches q e.2

theorem standsIn_iff (e : Handle × (Nat × Nat)) : s.standsIn c e.2 = true ↔ StandsIn s c e := by
  unfold State.standsIn StandsIn
  rcases (s.crane c).claim with _ | q <;> simp [meetsSpan_iff]

theorem parkOrWait_clear (hno : ∀ e ∈ s.spans (s.craneBay c), ¬StandsIn s c e) :
    s.parkOrWait c = .now s .noWork [] := by
  have hnone : ((s.spans (s.craneBay c)).find? fun e => s.standsIn c e.2) = none := by
    rw [List.find?_eq_none]
    exact fun e he h => hno e he ((standsIn_iff e).1 h)
  rw [State.parkOrWait, hnone]

theorem parkOrWait_stands {front rest : List (Handle × (Nat × Nat))} {e : Handle × (Nat × Nat)}
    (hspans : s.spans (s.craneBay c) = front ++ e :: rest) (hfront : ∀ x ∈ front, ¬StandsIn s c x)
      (he : StandsIn s c e) :
    s.parkOrWait c = match s.parkPosition c e.2.1 e.2.2 with
      | some q => .now s .park [.num 2 q]
      | none => .now s .noWork [] := by
  have hfirst : ((s.spans (s.craneBay c)).find? fun e => s.standsIn c e.2) = some e := by
    rw [hspans, List.find?_append, List.find?_eq_none.2 fun x hx h => hfront x hx ((standsIn_iff x).1 h),
      List.find?_cons_of_pos (p := fun x : Handle × (Nat × Nat) => s.standsIn c x.2) ((standsIn_iff e).2 he)]
    rfl
  rw [State.parkOrWait, hfirst] <;> rfl

theorem parkOrWait_now (s : State) (c : Nat) : ∃ code fields, s.parkOrWait c = .now s code fields := by
  unfold State.parkOrWait
  split
  · exact ⟨_, _, rfl⟩
  · split <;> exact ⟨_, _, rfl⟩

theorem foldl_max_spec (ws : List Nat) : ∀ n : Nat, n ≤ ws.foldl max n ∧ (∀ w ∈ ws, w ≤ ws.foldl max n)
    ∧ (ws.foldl max n = n ∨ ws.foldl max n ∈ ws) := by
  induction ws with
  | nil => exact fun n => ⟨Nat.le_refl n, nofun, .inl rfl⟩
  | cons w ws ih =>
    intro n
    obtain ⟨hle, hall, hin⟩ := ih (max n w)
    rw [List.foldl_cons]
    refine ⟨by omega, fun x hx => ?_, ?_⟩
    · rcases List.mem_cons.1 hx with rfl | hx
      · omega
      · exact hall x hx
    · rcases hin with h | h
      · rcases Nat.le_total n w with hnw | hnw
        · exact .inr (List.mem_cons.2 (.inl (h.trans (Nat.max_eq_right hnw))))
        · exact .inl (h.trans (Nat.max_eq_left hnw))
      · exact .inr (List.mem_cons_of_mem _ h)

/-- The widest half-width of a crane's runway. -/
abbrev Widest (s : State) (c widest : Nat) : Prop :=
  (∀ d ≤ 5, s.inService d = true → (s.craneCfg d).runway = (s.craneCfg c).runway → (s.craneCfg d).hw ≤ widest)
    ∧ ∃ d ≤ 5, s.inService d = true ∧ (s.craneCfg d).runway = (s.craneCfg c).runway ∧ (s.craneCfg d).hw = widest

theorem maxHalfWidth_eq {widest : Nat} (hw : Widest s c widest) : s.maxHalfWidth (s.craneBay c) = widest := by
  obtain ⟨hall, d, hd, hin, hrun, hhw⟩ := hw
  obtain ⟨-, hle, hat⟩ := foldl_max_spec ((s.runwayCranes (s.craneBay c)).map s.halfWidth) 0
  have hge : widest ≤ s.maxHalfWidth (s.craneBay c) :=
    hhw ▸ hle _ (List.mem_map.2 ⟨d, mem_runwayCranes.2 ⟨hd, hin, hrun⟩, rfl⟩)
  refine Nat.le_antisymm ?_ hge
  rcases hat with h | h
  · exact (Nat.le_of_eq h).trans (Nat.zero_le _)
  · obtain ⟨f, hf, heq⟩ := List.mem_map.1 h
    obtain ⟨hf5, hfin, hfrun⟩ := mem_runwayCranes.1 hf
    exact (Nat.le_of_eq heq.symm).trans (hall f hf5 hfin hfrun)

/-- The park position against a span. -/
abbrev parkAgainst (s : State) (c p widest : Nat) (a : Nat × Nat) : Int :=
  if 2 * p ≤ a.1 + a.2 then (a.1 : Int) - widest - (s.craneCfg c).hw - 1
    else (a.2 : Int) + widest + (s.craneCfg c).hw + 1

/-- A park position can be given. -/
abbrev Parks (s : State) (c p : Nat) (park : Int) : Prop :=
  0 ≤ park ∧ park ≤ (match (s.craneCfg c).runway with
      | .a => s.hall.runways.onA
      | .b => s.hall.runways.onB)
    ∧ Apart s c ⟨min (p : Int) park - (s.craneCfg c).hw, max (p : Int) park + (s.craneCfg c).hw⟩

theorem parkPosition_eq {widest : Nat} {e : Nat × Nat} {park : Int} (hp : (s.crane c).position = some p)
    (hw : Widest s c widest) (hpark : park = parkAgainst s c p widest e) :
    (Parks s c p park → ∃ q : Nat, s.parkPosition c e.1 e.2 = some q ∧ (q : Int) = park)
      ∧ (¬Parks s c p park → s.parkPosition c e.1 e.2 = none) := by
  have hat : s.parkAt c p e.1 e.2 = park := by
    rw [hpark, State.parkAt, maxHalfWidth_eq hw] <;> rfl
  have hrunway : (s.hall.runways.get (s.craneBay c) : Int) = (match (s.craneCfg c).runway with
      | .a => (s.hall.runways.onA : Int)
      | .b => (s.hall.runways.onB : Int)) := by
    unfold State.craneBay
    rcases (s.craneCfg c).runway <;> rfl
  have hcond : (0 ≤ park ∧ park ≤ s.hall.runways.get (s.craneBay c)
      ∧ s.grantable c (claimOf (s.halfWidth c) (min p park.toNat) (max p park.toNat)) = true) ↔ Parks s c p park := by
    rw [hrunway, grantable_iff]
    refine and_congr_right fun hpos => and_congr_right' ?_
    have hmin : ((min p park.toNat : Nat) : Int) = min (p : Int) park := by omega
    have hmax : ((max p park.toNat : Nat) : Int) = max (p : Int) park := by omega
    unfold claimOf State.halfWidth
    rw [hmin, hmax]
  unfold State.parkPosition
  rw [hp]
  dsimp only
  rw [hat]
  refine ⟨fun hparks => ⟨park.toNat, if_pos (hcond.2 hparks), ?_⟩, fun hno => if_neg fun h => hno (hcond.1 h)⟩
  obtain ⟨hpos, -⟩ := hparks
  omega

/-! ## The walk (R134) -/

/-- The leg that a walk gave the crane. -/
abbrev Holds (m : State) (c : Nat) : Prop := ∃ h l src dst mass, (m.crane c).leg = some h ∧ m.leg? h = some l
  ∧ l.source = some src ∧ l.target = some dst ∧ l.expected = some mass

theorem testedFor_holds (ht : TestedFor s m c p h true) : Holds m c := by
  obtain ⟨l, -, ⟨hfalse, -⟩ | ⟨-, -, dst, -, hleg, -, hcrane, -⟩⟩ := ht
  · cases hfalse
  · exact ⟨h, _, _, dst, _, by rw [hcrane], hleg, rfl, rfl, rfl⟩

theorem considered_holds (hcons : Considered s m c p h true) : Holds m c := by
  rcases hcons with ⟨-, hfalse, -⟩ | ⟨l, above, -, -, -, hcase⟩
  · cases hfalse
  · dsimp only at hcase
    split at hcase
    · exact testedFor_holds hcase
    · split at hcase
      · cases hcase.2
      · obtain ⟨hblocked, hfull, hdug⟩ := hcase
        by_contra hno
        refine hno ?_
        obtain ⟨w, made, top, -, -, ht⟩ := hdug (fun h => (by cases (hblocked h).2)) fun h => (by
          by_cases hb : ∃ g ∈ above, ∀ r, s.plate? g = some r →
              r.st.held = true ∨ r.st.doubtful = true ∨ s.namedByLeg g = true
          · cases (hblocked hb).2
          · cases (hfull hb h).2)
        exact testedFor_holds ht

theorem walked_holds {hs : List Handle} : ∀ {s : State}, Walked c p hs s m true → Holds m c := by
  induction hs with
  | nil => exact fun hw => nomatch hw.2
  | cons h hs ih =>
    rintro s (⟨hcons, -⟩ | ⟨w, -, hrest⟩)
    · exact considered_holds hcons
    · exact ih hrest

/-- What a walk that gives no leg can change. -/
abbrev quietFields : List Field := [.legs, .batches, .jobs, .parts, .flags]

theorem testedFor_quiet (ht : TestedFor s m c p h false) : OnlyChanges quietFields s m := by
  obtain ⟨l, -, ⟨-, why, skip, -, hpassed⟩ | ⟨hfalse, -⟩⟩ := ht
  · obtain ⟨-, -, hown⟩ := hpassed
    exact hown.mono (by decide)
  · cases hfalse

theorem considered_quiet (hcons : Considered s m c p h false) : OnlyChanges quietFields s m := by
  rcases hcons with ⟨-, -, rfl⟩ | ⟨l, above, -, -, -, hcase⟩
  · exact .refl
  · dsimp only at hcase
    split at hcase
    · exact testedFor_quiet hcase
    · split at hcase
      · obtain ⟨⟨-, -, hown, -⟩, -⟩ := hcase
        exact hown.mono (by decide)
      · obtain ⟨hblocked, hfull, hdug⟩ := hcase
        by_cases hb : ∃ g ∈ above, ∀ r, s.plate? g = some r →
            r.st.held = true ∨ r.st.doubtful = true ∨ s.namedByLeg g = true
        · obtain ⟨⟨-, -, hown⟩, -⟩ := hblocked hb
          exact hown.mono (by decide)
        · by_cases hc : 14 < (s.batchLegs (some l.batch)).length + above.length ∨ s.freeLegs < above.length
          · obtain ⟨⟨-, -, hown⟩, -⟩ := hfull hb hc
            exact hown.mono (by decide)
          · obtain ⟨w, made, top, ⟨-, -, -, -, hown⟩, -, ht⟩ := hdug hb hc
            exact (hown.mono (by decide)).trans (testedFor_quiet ht)

theorem walked_quiet {hs : List Handle} : ∀ {s : State}, Walked c p hs s m false → OnlyChanges quietFields s m := by
  induction hs with
  | nil =>
    rintro s ⟨rfl, -⟩
    exact .refl
  | cons h hs ih =>
    rintro s (⟨-, hfalse⟩ | ⟨w, hcons, hrest⟩)
    · cases hfalse
    · exact (considered_quiet hcons).trans (ih hrest)

/-! ## The first leg of the walk, put to the tests -/

theorem consider_plain (hl : s.leg? h = some l) (hel : s.eligible l = true) (habove : s.above l = []) :
    s.consider c p h = s.tryLeg c p h := by
  unfold State.consider
  rw [hl]
  dsimp only
  rw [if_neg (by rw [hel]; exact Bool.false_ne_true), if_pos (by rw [habove]; rfl)]

theorem tryLeg_passes (hl : s.leg? h = some l) (hdst : s.destinationFor l = some dst)
    (hpass : ∀ why skip, ¬Fails s c p h l why skip) :
    s.tryLeg c p h = (s.assign c h l dst (claimFor s c p l dst), true) := by
  obtain ⟨hfails, hpasses⟩ := testLeg_reads (s := s) (c := c) (p := p) (h := h) (l := l)
  unfold State.tryLeg
  rw [hl]
  dsimp only
  rcases ht : s.testLeg c p h l with ⟨why, skip⟩ | ⟨target, q⟩
  · exact (hpass why skip ((hfails why skip).1 ht)).elim
  · obtain ⟨hdst', rfl⟩ := hpasses target q ht
    rw [hdst] at hdst'
    cases hdst'
    rfl

theorem tryLeg_fails {why : HoldUp} {skip : Bool} (hl : s.leg? h = some l) (hfail : Fails s c p h l why skip) :
    s.tryLeg c p h = (s.passOver h l why skip, false) := by
  obtain ⟨hfails, -⟩ := testLeg_reads (s := s) (c := c) (p := p) (h := h) (l := l)
  unfold State.tryLeg
  rw [hl]
  dsimp only
  rw [(hfails why skip).2 hfail]

/-- A leg that passes the five tests fails none. -/
theorem passes_of_tests (hdst : s.destinationFor l = some dst)
    (hload : (s.craneCfg c).tare + s.liftMass l ≤ (s.craneCfg c).swl)
    (hthick : (s.craneCfg c).minThickness ≤ s.liftThickness l) (hapart : Apart s c (claimFor s c p l dst))
    (hclear : ∀ e ∈ s.spans l.bay, e.1 ≠ h → ¬Touches (claimFor s c p l dst) e.2) (why : HoldUp) (skip : Bool) :
    ¬Fails s c p h l why skip := by
  unfold Fails
  rw [hdst]
  dsimp only
  rw [if_neg (Nat.not_lt.2 hload), if_neg (Nat.not_lt.2 hthick)]
  rintro ⟨hno | ⟨e, he, hne, htouch⟩, -⟩
  · exact hno hapart
  · exact hclear e he hne htouch

/-- The first of the walk's legs is given to the crane. -/
theorem nextFor_assigns {rest : List (Handle × Leg)} (hc : c ≤ 5) (hready : Ready s c p)
    (hwalk : s.walk (s.craneBay c) = (h, l) :: rest) (hl : s.leg? h = some l) (habove : s.above l = [])
    (hdst : s.destinationFor l = some dst) (hpass : ∀ why skip, ¬Fails s c p h l why skip) :
    ∃ m, s.nextFor c = .now m .done
        (handing s h l (s.legSource l) dst ((s.craneCfg c).tare + s.liftMass l))
      ∧ GivenTo s m c h l dst (claimFor s c p l dst) := by
  obtain ⟨-, -, hel⟩ := mem_walk.1 (by rw [hwalk]; exact List.mem_cons_self : (h, l) ∈ s.walk (s.craneBay c))
  have hwalked : State.walkOver c p ((s.walk (s.craneBay c)).map (·.1)) s =
      (s.assign c h l dst (claimFor s c p l dst), true) := by
    rw [hwalk, List.map_cons, State.walkOver, consider_plain hl (eligible_iff.2 hel) habove,
      tryLeg_passes hl hdst hpass]
  have hgiven := assign_givenTo hl hc dst (claimFor s c p l dst)
  have ⟨hleg, _, hcrane, _, _, _, _, hown⟩ := hgiven
  have hhall : (s.assign c h l dst (claimFor s c p l dst)).hall = s.hall := hown .hall (by decide)
  refine ⟨s.assign c h l dst (claimFor s c p l dst), ?_, hgiven⟩
  rw [nextFor_walks hready, hwalked, if_pos rfl,
    handOver_eq (h := h) (by rw [hcrane]) hleg rfl rfl rfl]
  have hpos (bay : Bay) (q : Place) : (s.assign c h l dst (claimFor s c p l dst)).placePos bay q =
    s.placePos bay q := by
    cases q <;> simp only [State.placePos, State.slotCfg, hhall]
  unfold handing
  rw [hpos, hpos]

/-- A leg as it is passed over where the skip count stays. -/
abbrev heldUp (why : HoldUp) (l : Leg) : Leg := { l with holdUp := some why }

theorem passOver_plain (hl : s.leg? h = some l) (why : HoldUp) :
    s.passOver h l why false = s.modifyLeg h (heldUp why) := by
  have hno : (l.starving && !l.starving) = false := by rcases l.starving <;> rfl
  have hfound : s.legs.find h = some l := hl
  unfold State.passOver State.raiseIf State.modifyLeg Pool.modify
  simp only [Bool.false_and, Bool.or_false, hno, Bool.false_eq_true, if_false, hfound]

/-- A leg of the walk that shows a hold-up is a leg of the walk without it. -/
theorem walk_of_heldUp {why : HoldUp} (hin : (g, x) ∈ (s.modifyLeg h (heldUp why)).walk bay) :
    ∃ y, (g, y) ∈ s.walk bay ∧ x.starving = y.starving := by
  have hlegs (e : Handle) : (s.modifyLeg h (heldUp why)).leg? e = if h = e then (s.leg? e).map (heldUp why)
    else s.leg? e :=
    modifyLeg_leg? _
  obtain ⟨⟨hb, b, front, rest, hbatch, hcom, hsplit, hfront, hleg, hun⟩, hbay, hel⟩ := mem_walk.1 hin
  obtain ⟨y, hy, hxy⟩ : ∃ y, s.leg? g = some y ∧ (x = y ∨ x = heldUp why y) := by
    rw [hlegs] at hleg
    split at hleg
    · obtain ⟨y, hy, rfl⟩ := Option.map_eq_some_iff.1 hleg
      exact ⟨y, hy, .inr rfl⟩
    · exact ⟨x, hleg, .inl rfl⟩
  have hfront' : ∀ e ∈ front, ∀ z, s.leg? e = some z → z.state.unfinished = false := by
    intro e he z hz
    have hsettled := hfront e he
    rw [hlegs, hz] at hsettled
    split at hsettled
    · exact hsettled (heldUp why z) rfl
    · exact hsettled z rfl
  refine ⟨y, mem_walk.2 ⟨⟨hb, b, front, rest, hbatch, hcom, hsplit, hfront', hy, ?_⟩, ?_, ?_⟩, ?_⟩
  · rcases hxy with rfl | rfl <;> exact hun
  · rcases hxy with rfl | rfl <;> exact hbay
  · rcases hxy with rfl | rfl <;> exact hel
  · rcases hxy with rfl | rfl <;> rfl

/-- The only leg of the walk, not STARVING, fails one of the first three tests. -/
theorem nextFor_fails {why : HoldUp} (hready : Ready s c p) (hwalk : s.walk (s.craneBay c) = [(h, l)])
    (hl : s.leg? h = some l) (habove : s.above l = []) (hstarving : l.starving = false)
    (hfail : Fails s c p h l why false) :
    ∃ m, s.nextFor c = .now m .noWork [] ∧ m.leg? h = some { l with holdUp := some why }
      ∧ (∀ g, g ≠ h → m.leg? g = s.leg? g) ∧ OnlyChanges [.legs] s m := by
  obtain ⟨-, -, hel⟩ := mem_walk.1 (by rw [hwalk]; exact List.mem_cons_self : (h, l) ∈ s.walk (s.craneBay c))
  have hwalked : State.walkOver c p ((s.walk (s.craneBay c)).map (·.1)) s = (s.passOver h l why false, false) := by
    rw [hwalk, List.map_cons, List.map_nil, State.walkOver, consider_plain hl (eligible_iff.2 hel) habove,
      tryLeg_fails hl hfail] <;> rfl
  rw [passOver_plain hl] at hwalked
  have hown : OnlyChanges [.legs] s (s.modifyLeg h (heldUp why)) := modifyLeg_frame h _
  refine ⟨s.modifyLeg h (heldUp why), ?_, ?_, fun g hg => (modifyLeg_leg? _).trans (if_neg hg.symm), hown⟩
  · rw [nextFor_walks hready, hwalked, if_neg Bool.false_ne_true]
    refine parkOrWait_clear fun e he _ => ?_
    obtain ⟨⟨g, x⟩, hmem, -⟩ := List.mem_map.1 he
    obtain ⟨hin, hx⟩ := List.mem_filter.1 hmem
    obtain ⟨y, hy, hsame⟩ := walk_of_heldUp (bay := s.craneBay c) hin
    rw [hwalk, List.mem_singleton] at hy
    cases hy
    have hstarves : x.starving = true := hx
    rw [hsame, hstarving] at hstarves
    cases hstarves
  · rw [modifyLeg_leg?, if_pos rfl, hl]
    rfl

/-- A walk with no leg gives none, and no span to park from. -/
theorem nextFor_idles (hwalk : s.walk (s.craneBay c) = []) : s.nextFor c = .now s .noWork [] := by
  have hspans : s.spans (s.craneBay c) = [] := by rw [State.spans, hwalk] <;> rfl
  have hwait : s.parkOrWait c = .now s .noWork [] := parkOrWait_clear (by rw [hspans]; exact fun _ h => nomatch h)
  unfold State.nextFor
  rw [hwalk]
  rcases (s.crane c).position with _ | p
  · rfl
  · exact (ite_congr rfl (fun _ => rfl) fun _ => hwait).trans (ite_self _)

/-! ## The request -/

section Heard

variable {asker : Asker}

theorem nextLeg_idle (hunit : asker.unitNum = c) (hidle : (s.crane c).state = .idle) :
    nextLeg asker () s = s.nextFor c := by
  unfold nextLeg
  rw [hunit, hidle]

theorem nextLeg_offline (hunit : asker.unitNum = c) (hoff : (s.crane c).state = .offline) :
    nextLeg asker () s = .now s .noWork [] := by
  unfold nextLeg
  rw [hunit, hoff]

theorem nextLeg_assigned (hunit : asker.unitNum = c) (hassigned : (s.crane c).state = .assigned) :
    nextLeg asker () s = s.handOver c := by
  unfold nextLeg
  rw [hunit, hassigned]

theorem nextLeg_busy (hunit : asker.unitNum = c) (hbusy : (s.crane c).state = .loaded ∨ (s.crane c).state = .check)
    (hleg : (s.crane c).leg = some h) : nextLeg asker () s = .now s .wrongState [.handle h] := by
  have htokens : s.craneLegTokens c = [.handle h] := by rw [State.craneLegTokens, hleg]
  unfold nextLeg
  rw [hunit]
  rcases hbusy with hbusy | hbusy <;> rw [hbusy] <;> dsimp only <;> rw [htokens]

theorem crane_heard (d : Nat) : (s.heard a).crane d = s.crane d := read_of_line (·.crane d) heard_line

theorem craneCfg_heard (d : Nat) : (s.heard a).craneCfg d = s.craneCfg d := read_of_line (·.craneCfg d) heard_line

theorem leg_heard (g : Handle) : (s.heard a).leg? g = s.leg? g := read_of_line (·.leg? g) heard_line

theorem placePos_heard (q : Place) : (s.heard a).placePos bay q = s.placePos bay q :=
  read_of_line (·.placePos bay q) heard_line

theorem handing_heard : handing (s.heard a) h l src dst mass = handing s h l src dst mass :=
  read_of_line (handing · h l src dst mass) heard_line

theorem nextLeg_considers (hunit : c = st.unit.getD 0) (hidle : (s.crane c).state = .idle) :
    nextLeg (askerOf a st tag) () (s.heard a) = (s.heard a).nextFor c :=
  nextLeg_idle hunit.symm (by rw [crane_heard]; exact hidle)

theorem ready_heard (hstop : (s.crane c).stopped = false) (hpos : (s.crane c).position = some p)
    (hplaced : ∀ d ≤ 5, (s.heard a).inService d = true → (s.craneCfg d).runway = (s.craneCfg c).runway →
      (s.crane d).position ≠ none) : Ready (s.heard a) c p := by
  refine ⟨by rw [crane_heard]; exact hstop, by rw [crane_heard]; exact hpos, fun d hd hin hrun => ?_⟩
  rw [craneCfg_heard, craneCfg_heard] at hrun
  rw [crane_heard]
  exact hplaced d hd hin hrun

/-- An answer that changes nothing but the line. -/
theorem nextLeg_answers {code : AnsCode} {fields : List Token} (hasks : Asks reqNextLeg s a st)
    (hbody : nextLeg (askerOf a st tag) () (s.heard a) = .now (s.heard a) code fields) :
    ∃ t, exec (.nextLeg tag (.fields ())) s = .next t ∧ Immediate s t a st tag code fields
      ∧ OnlyChanges lineFields s t := by
  obtain ⟨t, hexec, himm, hown, -⟩ := request_answers (own := []) (tag := tag) hasks hbody .refl (by decide)
  exact ⟨t, hexec, himm, hown⟩

/-- What is given to a crane, on the line as before it. -/
abbrev Gives (s t : State) (c : Nat) (h : Handle) (l : Leg) (dst : Place) (q : Claim) : Prop :=
  t.leg? h = some { l with
      state := .assigned, holdUp := none, crane := some c, source := some (s.legSource l), target := some dst
      expected := some ((s.craneCfg c).tare + s.liftMass l), checkLoad := none }
    ∧ (∀ g, g ≠ h → t.leg? g = s.leg? g)
    ∧ t.crane c = { s.crane c with state := .assigned, leg := some h, claim := some q }
    ∧ (∀ d, d ≠ c → t.crane d = s.crane d)
    ∧ (∀ k, k ≤ 95 → t.slot k = { s.slot k with
        incoming := (s.slot k).incoming ++ if dst = .slot k then [h] else [] })
    ∧ t.cart = { s.cart with incoming := s.cart.incoming ++ if dst = .cart then [h] else [] }
    ∧ (∀ g r, s.plate? g = some r → t.plate? g = some (if l.plate = some g then { r with leg := some h } else r))

theorem nextLeg_assigns {rest : List (Handle × Leg)} (hasks : Asks reqNextLeg s a st) (hunit : c = st.unit.getD 0)
    (hc : c ≤ 5) (hidle : (s.crane c).state = .idle) (hready : Ready (s.heard a) c p)
    (hwalk : (s.heard a).walk (s.craneCfg c).runway = (h, l) :: rest) (hl : s.leg? h = some l)
    (habove : (s.heard a).above l = []) (hdst : (s.heard a).destinationFor l = some dst)
    (hpass : ∀ why skip, ¬Fails (s.heard a) c p h l why skip) :
    ∃ t, exec (.nextLeg tag (.fields ())) s = .next t ∧ Gives s t c h l dst (claimFor (s.heard a) c p l dst)
      ∧ Immediate s t a st tag .done
        (handing s h l (s.legSource l) dst ((s.craneCfg c).tare + s.liftMass l))
      ∧ OnlyChanges (lineFields ++ [.legs, .slots, .cart, .plates, .cranes]) s t := by
  have hbay : (s.heard a).craneBay c = (s.craneCfg c).runway := congrArg CraneCfg.runway (craneCfg_heard c)
  rw [← hbay] at hwalk
  obtain ⟨m, hreply, hgiven⟩ := nextFor_assigns hc hready hwalk ((leg_heard h).trans hl) habove hdst hpass
  obtain ⟨g1, g2, g3, g4, g5, g6, g7, hown⟩ := hgiven
  obtain ⟨t, hexec, himm, hframe, hline⟩ :=
    request_answers (tag := tag) hasks ((nextLeg_considers hunit hidle).trans hreply) hown (by decide)
  have hgives := taken_of_line (Gives · · c h l dst (claimFor (s.heard a) c p l dst)) ⟨g1, g2, g3, g4, g5, g6, g7⟩ hline
  have hsource : (s.heard a).legSource l = s.legSource l := read_of_line (·.legSource l) heard_line
  have hmass : (s.heard a).liftMass l = s.liftMass l := read_of_line (·.liftMass l) heard_line
  rw [handing_heard, hsource, hmass, craneCfg_heard] at himm
  exact ⟨t, hexec, hgives, himm, hframe⟩

theorem nextLeg_fails {why : HoldUp} (hasks : Asks reqNextLeg s a st) (hunit : c = st.unit.getD 0)
    (hidle : (s.crane c).state = .idle) (hready : Ready (s.heard a) c p)
    (hwalk : (s.heard a).walk (s.craneCfg c).runway = [(h, l)]) (hl : s.leg? h = some l)
    (habove : (s.heard a).above l = []) (hstarving : l.starving = false) (hfail : Fails (s.heard a) c p h l why false) :
    ∃ t, exec (.nextLeg tag (.fields ())) s = .next t ∧ t.leg? h = some { l with holdUp := some why }
      ∧ (∀ g, g ≠ h → t.leg? g = s.leg? g) ∧ Immediate s t a st tag .noWork []
      ∧ OnlyChanges (lineFields ++ [.legs]) s t := by
  have hbay : (s.heard a).craneBay c = (s.craneCfg c).runway := congrArg CraneCfg.runway (craneCfg_heard c)
  rw [← hbay] at hwalk
  obtain ⟨m, hreply, hself, hothers, hown⟩ :=
    nextFor_fails hready hwalk ((leg_heard h).trans hl) habove hstarving hfail
  obtain ⟨t, hexec, himm, hframe, hline⟩ :=
    request_answers (tag := tag) hasks ((nextLeg_considers hunit hidle).trans hreply) hown (by decide)
  have hlegs (g : Handle) : t.leg? g = m.leg? g := leg?_of_kept (hline .legs (by decide))
  exact ⟨t, hexec, (hlegs h).trans hself, fun g hg => ((hlegs g).trans (hothers g hg)).trans (leg_heard g), himm,
    hframe⟩

/-- The answer where a walk gave no leg. -/
abbrev Parked (s m t : State) (a : Nat) (st : Station) (tag : Byte) (c p : Nat) : Prop :=
  let starving := m.spans (s.craneCfg c).runway
  ((∀ e ∈ starving, ¬StandsIn m c e) → Immediate s t a st tag .noWork [])
  ∧ ∀ front e rest, starving = front ++ e :: rest → (∀ x ∈ front, ¬StandsIn m c x) → StandsIn m c e →
    ∀ (widest : Nat) (park : Int),
      (∀ d ≤ 5, (s.heard a).inService d = true → (s.craneCfg d).runway = (s.craneCfg c).runway →
        (s.craneCfg d).hw ≤ widest) →
      (∃ d ≤ 5, (s.heard a).inService d = true ∧ (s.craneCfg d).runway = (s.craneCfg c).runway
        ∧ (s.craneCfg d).hw = widest) →
      park = (if 2 * p ≤ e.2.1 + e.2.2 then (e.2.1 : Int) - widest - (s.craneCfg c).hw - 1
        else (e.2.2 : Int) + widest + (s.craneCfg c).hw + 1) →
      (0 ≤ park ∧ park ≤ (match (s.craneCfg c).runway with
          | .a => s.hall.runways.onA
          | .b => s.hall.runways.onB)
        ∧ Apart m c ⟨min (p : Int) park - (s.craneCfg c).hw, max (p : Int) park + (s.craneCfg c).hw⟩ →
          Immediate s t a st tag .park [.num 2 park])
      ∧ (¬(0 ≤ park ∧ park ≤ (match (s.craneCfg c).runway with
          | .a => s.hall.runways.onA
          | .b => s.hall.runways.onB)
        ∧ Apart m c ⟨min (p : Int) park - (s.craneCfg c).hw, max (p : Int) park + (s.craneCfg c).hw⟩) →
          Immediate s t a st tag .noWork [])

theorem parked_of (hquiet : OnlyChanges quietFields (s.heard a) m) (hpos : (s.crane c).position = some p)
    (hanswer : ∀ code fields, m.parkOrWait c = .now m code fields → Immediate s t a st tag code fields) :
    Parked s m t a st tag c p := by
  have hhall : m.hall = s.hall := (hquiet .hall (by decide)).trans (heard_line .hall (by decide))
  have hcfg (d : Nat) : m.craneCfg d = s.craneCfg d := by rw [State.craneCfg, hhall, State.craneCfg]
  have hbay : m.craneBay c = (s.craneCfg c).runway := congrArg CraneCfg.runway (hcfg c)
  have hservice (d : Nat) : m.inService d = (s.heard a).inService d := by
    unfold State.inService State.craneStation State.addressesOf State.station?
    rw [hquiet .stations (by decide)]
  have hcrane : m.crane c = s.crane c := by
    rw [State.crane, hquiet .cranes (by decide), ← State.crane, crane_heard]
  unfold Parked
  intro starving
  have hspans : m.spans (m.craneBay c) = starving := by rw [hbay]
  refine ⟨fun hno => hanswer _ _ (parkOrWait_clear (by rw [hspans]; exact hno)),
    fun front e rest hsplit hfront he widest park hall hat hpark => ?_⟩
  have hstands := parkOrWait_stands (hspans.trans hsplit) hfront he
  have hwidest : Widest m c widest := by
    unfold Widest
    simp only [hcfg, hservice]
    exact ⟨hall, hat⟩
  obtain ⟨hyes, hno⟩ := parkPosition_eq (e := e.2) (park := park) ((congrArg Crane.position hcrane).trans hpos) hwidest
    (by rw [hpark, parkAgainst, hcfg])
  unfold Parks at hyes hno
  rw [hcfg, hhall] at hyes hno
  refine ⟨fun hparks => ?_, fun hparks => ?_⟩
  · obtain ⟨q, hq, rfl⟩ := hyes hparks
    rw [hq] at hstands
    exact hanswer _ _ hstands
  · rw [hno hparks] at hstands
    exact hanswer _ _ hstands

/-- The walk of an IDLE crane that may be given a leg, and its answer. -/
theorem nextLeg_walked (hasks : Asks reqNextLeg s a st) (hunit : c = st.unit.getD 0) (hc : c ≤ 5)
    (hidle : (s.crane c).state = .idle) (hpos : (s.crane c).position = some p) (hready : Ready (s.heard a) c p) :
    ∃ (m : State) (passed : Bool) (t : State),
      Walked c p (((s.heard a).walk (s.craneCfg c).runway).map (·.1)) (s.heard a) m passed
        ∧ exec (.nextLeg tag (.fields ())) s = .next t ∧ OnlyChanges lineFields m t
        ∧ (passed = true → ∃ h l src dst mass, (m.crane c).leg = some h ∧ m.leg? h = some l
            ∧ l.source = some src ∧ l.target = some dst ∧ l.expected = some mass
            ∧ Immediate s t a st tag .done (handing s h l src dst mass))
        ∧ (passed = false → Parked s m t a st tag c p) := by
  have hbay : (s.heard a).craneBay c = (s.craneCfg c).runway := congrArg CraneCfg.runway (craneCfg_heard c)
  have hwalked := walkOver_walked (p := p) hc (((s.heard a).walk (s.craneCfg c).runway).map (·.1)) (s.heard a)
  have hown := walkOver_frame c p (((s.heard a).walk (s.craneCfg c).runway).map (·.1)) (s.heard a)
  have hreply := nextFor_walks hready
  rw [hbay] at hreply
  generalize State.walkOver c p (((s.heard a).walk (s.craneCfg c).runway).map (·.1)) (s.heard a) = w at *
  obtain ⟨m, passed⟩ := w
  have hbody := (nextLeg_considers (tag := tag) (st := st) hunit hidle).trans hreply
  rcases passed with _ | _
  · have hquiet := walked_quiet hwalked
    obtain ⟨code, fields, hwait⟩ := parkOrWait_now m c
    obtain ⟨t, hexec, himm, -, hline⟩ := request_answers (tag := tag) hasks (hbody.trans hwait) hown (by decide)
    refine ⟨m, false, t, hwalked, hexec, hline, nofun, fun _ => parked_of hquiet hpos fun code' fields' hwait' => ?_⟩
    rw [hwait'] at hwait
    cases hwait
    exact himm
  · obtain ⟨h, l, src, dst, mass, hleg, hl, hsrc, hdst, hmass⟩ := walked_holds hwalked
    obtain ⟨t, hexec, himm, -, hline⟩ := request_answers (tag := tag) hasks
      (hbody.trans (handOver_eq hleg hl hsrc hdst hmass)) hown (by decide)
    have hhall : m.hall = s.hall := (hown .hall (by decide)).trans (heard_line .hall (by decide))
    have hplace (q : Place) : m.placePos l.bay q = s.placePos l.bay q := by
      cases q <;> simp only [State.placePos, State.slotCfg, hhall]
    unfold handing at himm
    rw [hplace, hplace] at himm
    exact ⟨m, true, t, hwalked, hexec, hline, fun _ => ⟨h, l, src, dst, mass, hleg, hl, hsrc, hdst, hmass, himm⟩, nofun⟩

/-- A claim is kept apart from those of the others on the line as before it. -/
theorem apart_heard {q : Claim} (hapart : ∀ d ≤ 5, d ≠ c → (s.heard a).inService d = true →
    (s.craneCfg d).runway = (s.craneCfg c).runway → ∀ o, (s.crane d).claim = some o →
      if (s.craneCfg d).order < (s.craneCfg c).order then o.hi < q.lo else q.hi < o.lo) : Apart (s.heard a) c q := by
  intro d hd hne hin hrun o ho
  rw [craneCfg_heard, craneCfg_heard] at hrun ⊢
  rw [crane_heard] at ho
  exact hapart d hd hne hin hrun o ho

end Heard

/-- Settles O37: by the state of the crane, then by the first leg of the walk, and by the walk as a whole. -/
theorem nextLegAssigns : Obligations.NextLegAssigns := by
  unfold Obligations.NextLegAssigns
  refine ⟨fun v l => ⟨legSource_eq, fun p hp => liftMass_plate hp, liftMass_skeleton, liftThickness_eq,
    fun k p low high hp hs hstack hlow => above_slot hp hs hstack hlow, above_nothing⟩, ?_⟩
  rintro s u a st tag c hasks hunit hc rfl
  refine ⟨fun hoff => ?_, fun h l src dst mass hassigned hleg hl hsrc hdst hmass => ?_, fun h hbusy hleg => ?_,
    fun hidle hno => ?_, fun hidle hempty => ?_, ?_, ?_, fun p hidle hstop hpos hplaced => ?_⟩
  · exact nextLeg_answers hasks (nextLeg_offline hunit.symm (by rw [crane_heard]; exact hoff))
  · have horder : nextLeg (askerOf a st tag) () (s.heard a) = .now (s.heard a) .done (handing s h l src dst mass) := by
      rw [nextLeg_assigned (asker := askerOf a st tag) hunit.symm (by rw [crane_heard]; exact hassigned),
        handOver_eq (by rw [crane_heard]; exact hleg) ((leg_heard h).trans hl) hsrc hdst hmass, handing_heard]
    exact nextLeg_answers hasks horder
  · exact nextLeg_answers hasks (nextLeg_busy hunit.symm (by rw [crane_heard]; exact hbusy)
      (by rw [crane_heard]; exact hleg))
  · refine nextLeg_answers hasks ((nextLeg_considers hunit hidle).trans (nextFor_waits ?_))
    rw [crane_heard]
    refine hno.imp_right (Or.imp_right ?_)
    rintro ⟨d, hd, hin, hrun, hpos⟩ hplaced
    exact hplaced d hd hin (by rw [craneCfg_heard, craneCfg_heard]; exact hrun) (by rw [crane_heard]; exact hpos)
  · refine nextLeg_answers hasks ((nextLeg_considers hunit hidle).trans (nextFor_idles ?_))
    rw [State.craneBay, craneCfg_heard]
    exact hempty
  · intro h l rest p q src dst mass r hidle hstop hpos hplaced hwalk hl habove hsrc hdst hmass hload hthick hq hapart
      hclear
    have hq' : claimFor (s.heard a) c p l dst = q := by
      rw [hq, hsrc, claimFor, placePos_heard, placePos_heard, craneCfg_heard]
    have hpass := passes_of_tests (p := p) (h := h) hdst (by rw [craneCfg_heard, ← hmass]; exact hload)
      (by rw [craneCfg_heard]; exact hthick) (apart_heard (by rw [hq']; exact hapart)) fun e he hne htouch => by
        rw [hq'] at htouch
        obtain ⟨hlo, hhi⟩ := htouch
        rcases hclear e he hne with h | h <;> omega
    obtain ⟨t, hexec, ⟨g1, g2, g3, g4, g5, g6, g7⟩, himm, hframe⟩ := nextLeg_assigns (tag := tag) hasks hunit hc hidle
      (ready_heard hstop hpos hplaced) hwalk hl habove hdst hpass
    have hsrc' : s.legSource l = src := (read_of_line (·.legSource l) heard_line).symm.trans hsrc.symm
    have hmass' : (s.craneCfg c).tare + s.liftMass l = mass := by
      rw [hmass, read_of_line (·.liftMass l) heard_line]
    rw [hsrc', hmass'] at himm g1
    rw [hq'] at g3
    refine ⟨t, hexec, g1, g2, g3, g4, fun k hk hle => ?_, fun hcart => ?_, fun g hp hr => ?_, himm, hframe⟩
    · rw [g5 k hle, if_pos hk]
    · rw [g6, if_pos hcart]
    · rw [g7 g r hr, if_pos hp]
  · intro h l p why hidle hstop hpos hplaced hwalk hl habove hstarving hwhy
    refine nextLeg_fails hasks hunit hidle (ready_heard hstop hpos hplaced) hwalk hl habove hstarving ?_
    unfold Fails
    rw [craneCfg_heard]
    rcases hwhy with ⟨hnone, rfl⟩ | ⟨dst, hdst, hover, rfl⟩ | ⟨dst, hdst, hload, hthin, rfl⟩
    · rw [hnone]
      exact ⟨rfl, rfl⟩
    · rw [hdst]
      dsimp only
      rw [if_pos hover]
      exact ⟨rfl, rfl⟩
    · rw [hdst]
      dsimp only
      rw [if_neg (Nat.not_lt.2 hload), if_pos hthin]
      exact ⟨rfl, rfl⟩
  · exact nextLeg_walked hasks hunit hc hidle hpos (ready_heard hstop hpos hplaced)

end Sys2Proof.Proofs.NextLegs
end
